-- ==== Sys2Proof/Word.lean ====
section
/-! DEFINITION. The word types of R4: a byte is 8 bits, a halfword 16, a word 32 and a doubleword 64. -/

namespace Sys2Proof

/-- 8 bits (R4). -/
abbrev Byte := BitVec 8
/-- 16 bits (R4). -/
abbrev Half := BitVec 16
/-- 32 bits (R4). -/
abbrev Word := BitVec 32
/-- 64 bits (R4). -/
abbrev DWord := BitVec 64

end Sys2Proof
end

