-- ==== Sys2Proof/Syntax.lean ====
section
/-! DEFINITION. The commands: one constructor of `Instr` per row of spec/opcode_table.json, with the operands
that say which unit acts and what arrives from outside (frames, levels, times, measured values). The types the
operands are made of stand first. -/

namespace Sys2Proof

/-- The three replica planes (R13). -/
inductive Vat | a | b | c
  deriving DecidableEq, Repr

/-- One value for each Vat. -/
structure Tri (α : Type) where
  a : α
  b : α
  c : α
  deriving DecidableEq, Repr

/-- A task: periodic Tn, event task Vv, or the setup program (R74, special register TASK). -/
inductive TaskId
  | periodic (n : Fin 64)
  | event (v : Fin 256)
  | setup
  deriving DecidableEq, Repr

/-- Privilege of a TSP session (R213). -/
inductive Priv | read | operate | maintain
  deriving DecidableEq, Repr

/-- Who writes a configuration word: the culture through the press (R24), or a TSP session (R213). -/
inductive Writer
  | culture
  | session (n : Fin 4)
  deriving DecidableEq, Repr

/-- The fields of a base instruction word below its major opcode (R69): D, A, B and MINOR. -/
structure Enc where
  d : BitVec 4
  a : BitVec 4
  b : BitVec 4
  minor : BitVec 14
  deriving DecidableEq, Repr

/-- The engine that issues an instruction: its Vat and its number, 0 to 63. -/
structure Eng where
  vat : Vat
  num : Fin 64
  deriving DecidableEq, Repr


/-- A lane's copy of a Ladle frame: the four header words and the payload (R250). -/
structure LFrame where
  h0 : BitVec 32
  h1 : BitVec 32
  h2 : BitVec 32
  h3 : BitVec 32
  payload : List (BitVec 8)
  deriving DecidableEq, Repr

/-- The copies of one Ladle frame that arrive on lanes A, B and C within 2 µs of the first (R251). -/
abbrev Lanes := Tri (Option LFrame)

/-- A TRDP PD telegram as it arrives at a port (R277, R291): port, receive timestamp, sender, its ETBN from TTDP, header
fields, whether it uses supported options only, whether its frame check passes, and the dataset with its tag. -/
structure PdFrame where
  port : Fin 4
  ts : Nat
  srcIp : BitVec 32
  etbn : BitVec 6
  comId : BitVec 32
  seqc : BitVec 32
  topo : BitVec 32
  supported : Bool
  fcsOk : Bool
  dataset : List (BitVec 8)
  deriving DecidableEq, Repr

/-- A TRDP MD request (R298): Mr or Mn, port, receive timestamp, sender, ComId, etbTopoCnt, whether it carries a tag,
and whether it uses only what Table: Supported parts and options names. -/
structure MdMsg where
  isMr : Bool
  port : Fin 4
  ts : Nat
  srcIp : BitVec 32
  etbn : BitVec 6
  comId : BitVec 32
  topo : BitVec 32
  tagged : Bool
  supported : Bool
  dataset : List (BitVec 8)
  deriving DecidableEq, Repr

/-- An ETBN of the train network directory (R278, R279): its number and the train-wide subnet behind it. -/
structure EtbNode where
  number : BitVec 6
  subnet : BitVec 32
  bits : BitVec 6
  deriving DecidableEq, Repr

/-- What an Announce says of its grandmaster and sender (R308, R309): the data set of the default best master algorithm,
the announce interval as a power of two in s, and the UTC fields. -/
structure Announce where
  prio1 : BitVec 8
  clockClass : BitVec 8
  accuracy : BitVec 8
  variance : BitVec 16
  prio2 : BitVec 8
  gm : BitVec 64
  steps : BitVec 16
  sender : BitVec 80
  logInt : Int
  utcValid : Bool
  li61 : Bool
  li59 : Bool
  utc : BitVec 16
  deriving DecidableEq, Repr

/-- A PTP message as the time unit evaluates it: an Announce; a Sync, complete with its follow-up, with the
offsetFromMaster that it gives in ns; a delay response with the mean path delay that it gives. -/
inductive PtpBody
  | announce (a : Announce)
  | sync (offset : Int) (logInt : Int)
  | delay (mean : Nat)
  deriving DecidableEq, Repr

/-- A PTP message at a port (R308). -/
structure PtpMsg where
  port : Fin 4
  domain : BitVec 8
  udp : Bool
  p2p : Bool
  supported : Bool
  body : PtpBody
  deriving DecidableEq, Repr

/-- A slave frame on MVB (R327, R339, R344): whether its copy on each line is valid, how long after the end of the master
frame it begins in ns, its receive timestamp, its data. -/
structure MvbSlave where
  validA : Bool
  validB : Bool
  begins : Nat
  ts : Nat
  data : List (BitVec 8)
  deriving DecidableEq, Repr

/-- A frame on a CAN bus as the controller receives it (R357, R359): whether it is valid, format bits, identifier, data,
its receive timestamp and SOF time, and what an invalid one adds to REC under the standard. -/
structure CanRx where
  valid : Bool
  ide : Bool
  fdf : Bool
  brs : Bool
  rtr : Bool
  esi : Bool
  id : BitVec 29
  data : List (BitVec 8)
  ts : Nat
  sof : Nat
  recAdd : Nat
  deriving DecidableEq, Repr
/-- The header of a TSP request with the session it belongs to (Table: TSP message header); CMD is the command's. -/
structure TspHead where
  session : Fin 4
  ver : BitVec 8
  status : BitVec 8
  flags : BitVec 8
  seq : BitVec 32
  len : BitVec 32
  hcrc : BitVec 32
  deriving DecidableEq, Repr

/-- What the Affineur measures at a management tick (R154, R155, R217, R536, R538): live words whose check fails, input
voltage and current, bus and store in units of 10 mV and mA, Vat cores in mV, field-side dissipation in units of 0.1 W, temperatures
in units of 0.1 °C, and the supply domains whose monitors report them within their fault limits. -/
structure Mgmt where
  scrub : List (BitVec 24)
  vin : Nat
  cur : Nat
  bus : Nat
  store : Nat
  core : Tri Nat
  fdiss : Nat
  temp : Tri Int
  tempAff : Int
  tempField : Int
  tempBase : Int
  domains : BitVec 8
  deriving DecidableEq, Repr

/-- A supply as its monitor has seen it (R19): its voltage in mV, for how many ns it has stood there, and for the logic I/O whether
it is the 1.8 V supply rather than the 3.3 V one. -/
structure SupplySeen where
  mv : Nat
  ns : Nat
  low : Bool
  deriving DecidableEq, Repr

/-- What a detector has seen, and for how long it has stood without a break, in the unit of the rule that judges it. -/
structure Lasting (α : Type) where
  sign : α
  run : Nat
  deriving DecidableEq, Repr

/-- A digital input as a comparator path finds it: its voltage in units of 100 mV, and what the path reads where that lies between the
levels of its class (R393). -/
structure RawInput where
  volt : Int
  reads : Bool
  deriving DecidableEq, Repr

/-- A sample of a LOOP test of digital I/O, speed or analog paths (R521): the input or channel, the stimulus, and what each path read
of it; analog values are in the unit of the channel's kind. -/
structure LoopSample where
  channel : Fin 64
  stimulus : Int
  read : Tri Int
  deriving DecidableEq, Repr

/-- A field lane's frame as it arrives (R390): whether its symbols, its delimiters and its length are right, and its sequence
number. -/
structure LaneFrame where
  ok : Bool
  seq : BitVec 8
  deriving DecidableEq, Repr

/-- A source's signal: its number, and the INFO that its block gives with it. -/
structure Signal where
  source : Fin 4096
  info : Word
  deriving DecidableEq, Repr

/-- What an inauguration ends with: the new etbTopoCnt, the own train-wide address and the train network directory. -/
structure Inauguration where
  topo : Word
  own : BitVec 32
  dir : List EtbNode
  deriving DecidableEq, Repr

/-- RDY held high on the Rack bus: for how many clocks, and the time of the end that this makes. -/
structure RdyWait where
  clocks : Nat
  ts : Nat
  deriving DecidableEq, Repr

/-- An output at its current limit for `run`, or, with `hot`, above its temperature limit. -/
structure Overload where
  output : Fin 36
  run : Nat
  hot : Bool
  deriving DecidableEq, Repr

/-- The commands of the module, in the order of the opcode table. -/
inductive Instr where
  /-- ALU (R78): 32-bit register operation selected by FUNC, with optional flag setting. -/
  | alu (e : Eng) (w : Enc)
  /-- ALU64 (R78): 64-bit register-pair operation selected by FUNC; ILLEGAL for functions not allowed in ALU64. -/
  | alu64 (e : Eng) (w : Enc)
  /-- ADDI (R80): Adds the sign-extended MINOR immediate to ga without changing flags. -/
  | addi (e : Eng) (w : Enc)
  /-- ANDI (R80): ANDs ga with the zero-extended MINOR immediate. -/
  | andi (e : Eng) (w : Enc)
  /-- ORI (R80): ORs ga with the zero-extended MINOR immediate. -/
  | ori (e : Eng) (w : Enc)
  /-- XORI (R80): XORs ga with the zero-extended MINOR immediate. -/
  | xori (e : Eng) (w : Enc)
  /-- SHI (R80): Shifts or rotates ga by an immediate amount of the kind in MINOR [13:12]. -/
  | shi (e : Eng) (w : Enc)
  /-- MOVI (R80): Loads the extension word into gd. -/
  | movi (e : Eng) (w : Enc) (x : Word)
  /-- SETQ (R80): Loads the queue handle register q from extension word [14:0]. -/
  | setq (e : Eng) (w : Enc) (x : Word)
  /-- MFS (R74): SPR operation 0: copies a special register into gd. -/
  | mfs (e : Eng) (w : Enc)
  /-- MTS (R74): SPR operation 1: writes ga to a writable special register (q or the flags of s). -/
  | mts (e : Eng) (w : Enc)
  /-- FOP32 (R83): binary32 floating-point operation selected by FUNC with canonical NaNs. -/
  | fop32 (e : Eng) (w : Enc)
  /-- FOP64 (R83): binary64 floating-point operation on register pairs. -/
  | fop64 (e : Eng) (w : Enc)
  /-- FCVT (R84): Converts between integer and floating formats, saturating and setting V. -/
  | fcvt (e : Eng) (w : Enc)
  /-- FCMP (R85): Floating-point compare that sets Z from the predicate and V on NaN. -/
  | fcmp (e : Eng) (w : Enc)
  /-- CMP (R81): Compares registers or pairs and sets the flags as SUB would. -/
  | cmp (e : Eng) (w : Enc)
  /-- CMPI (R81): Compares ga with a sign-extended immediate and sets the flags. -/
  | cmpi (e : Eng) (w : Enc)
  /-- BR (R86): Branches by a signed word offset when the condition in D holds. -/
  | br (e : Eng) (w : Enc)
  /-- SEL (R86): Selects ga or gb into gd according to a condition code. -/
  | sel (e : Eng) (w : Enc)
  /-- DBNZ (R86): Decrements gd and branches if the result is not zero. -/
  | dbnz (e : Eng) (w : Enc)
  /-- CALL (R88): Calls a block whose instance base is in the extension word, after PROTECT, CALLDEPTH and OWNER checks. -/
  | call (e : Eng) (w : Enc) (x : Word)
  /-- CALLR (R88): Calls a block whose instance base is in ga. -/
  | callr (e : Eng) (w : Enc)
  /-- RET (R88): Returns from the current frame, restoring i, k and p; from frame 1 the dispatcher calls the next top-level block or the chain ends. -/
  | ret (e : Eng) (w : Enc)
  /-- HND (R89): Sets or clears the handler address of the current frame. -/
  | hnd (e : Eng) (w : Enc)
  /-- NOP (R89): Does nothing. -/
  | nop (e : Eng) (w : Enc)
  /-- HALT (R89): Ends the chain's current activation, or the setup program, without exception. -/
  | halt (e : Eng) (w : Enc)
  /-- LD (R91): Loads from a space at a short scaled offset. -/
  | ld (e : Eng) (w : Enc)
  /-- ST (R91): Stores to a space at a short scaled offset, via the store buffer for instance space. -/
  | st (e : Eng) (w : Enc)
  /-- LDX (R91): Loads from a space at a long byte offset in the extension word. -/
  | ldx (e : Eng) (w : Enc) (x : Word)
  /-- STX (R91): Stores to a space at a long byte offset in the extension word. -/
  | stx (e : Eng) (w : Enc) (x : Word)
  /-- COPY (R93): Copies up to 4096 bytes between address spaces. -/
  | copy (e : Eng) (w : Enc)
  /-- PUSH (R95): Appends an entry to the queue in q, spending a credit or waiting for one. -/
  | push (e : Eng) (w : Enc)
  /-- POP (R95): Takes the head entry of the queue in q, returning or deferring its credit, or waits for an entry. -/
  | pop (e : Eng) (w : Enc)
  /-- PEEK (R95): Reads entry gb of the queue in q without taking it, waiting if it is not yet there. -/
  | peek (e : Eng) (w : Enc)
  /-- CREDIT (R95): Returns ga deferred credits of the queue in q. -/
  | credit (e : Eng) (w : Enc)
  /-- QUEUE_WAIT_END (R52): A waiting PUSH, POP or PEEK completes when the credit or entry it waits for arrives. -/
  | queueWaitEnd (e : Eng)
  /-- FENCE (R97): Waits until earlier pushes and credit returns of the context have landed. -/
  | fence (e : Eng) (w : Enc)
  /-- FENCE_COMPLETE (R97): A waiting FENCE completes once all earlier queue traffic of the context has landed. -/
  | fenceComplete (e : Eng)
  /-- IN (R100): Reads a word, doubleword, byte range or status word of a curd point. -/
  | inPoint (e : Eng) (w : Enc) (x : Word)
  /-- OUT (R100): Writes a word, doubleword or byte range of a press point in the current cycle. -/
  | outPoint (e : Eng) (w : Enc) (x : Word)
  /-- EVR (R102): Copies the agreed 16-byte event record of the activation to a space. -/
  | evr (e : Eng) (w : Enc)
  /-- TIME (R103): Writes an agreed instant of the cycle to a register pair. -/
  | time (e : Eng) (w : Enc)
  /-- WAITT (R104): Judges a time target against the agreed instants and waits for the Vat's own counter to reach it. -/
  | waitt (e : Eng) (w : Enc)
  /-- WAITT_COMPLETE (R104): A waiting WAITT completes when the Vat's time counter reaches the target. -/
  | waittComplete (e : Eng)
  /-- RAISE (R105): Requests one arrival on a software event source through the press image. -/
  | raise (e : Eng) (w : Enc)
  /-- CFG_SET (R106): Posts a configuration word write to the press and waits for the port's status. -/
  | cfgSet (e : Eng) (w : Enc) (x : Word)
  /-- CFG_GET (R106): Posts a configuration word read, live or staging, and waits for the value and status. -/
  | cfgGet (e : Eng) (w : Enc) (x : Word)
  /-- COMMIT (R109): Asks the port to check and apply the culture's staging. -/
  | commit (e : Eng) (w : Enc)
  /-- ABORT (R109): Asks the port to discard the culture's staging and clear a broken mark. -/
  | abort (e : Eng) (w : Enc)
  /-- CFG_PORT_REQUEST (R24): The configuration port acts once on a configuration request when the second matching Vat request arrives. -/
  | cfgPortRequest (n : Fin 64) (prio : Fin 16)
  /-- CFG_REPLY (R109): The port's reply reaches the Vats and completes the waiting configuration instruction. -/
  | cfgReply
  /-- LOG (R110): Requests a culture record in the Cellar through the press image, or directly in the setup program. -/
  | log (e : Eng) (w : Enc)
  /-- HSET (R111): Enters the culture health word into the press image. -/
  | hset (e : Eng) (w : Enc)
  /-- HGET (R111): Reads a health item carried in the curd. -/
  | hget (e : Eng) (w : Enc)
  /-- NOISE (R112): Requests 32 agreed random bits through the press. -/
  | noise (e : Eng) (w : Enc)
  /-- NOISE_REPLY (R112): The random value and status reach all Vats and complete the waiting NOISE. -/
  | noiseReply
  /-- CRC (R114): Advances a CRC-32C state over register bytes or a memory range. -/
  | crc (e : Eng) (w : Enc)
  /-- EXCEPTION_RERAISE (R116): When the context next runs after a frame removal, the exception is raised again at the caller's CALL. -/
  | exceptionReraise (e : Eng)
  /-- STORE_BUFFER_DRAIN (R559): An entry of the engine's store buffer is written to its bank once the bank arbiter grants. -/
  | storeBufferDrain (e : Eng)
  /-- FAST_PLANE_TICK (R38): The 1 µs tick advances HXK_TICK and paces the Vats, press, exchange and lanes. -/
  | fastPlaneTick (drift : Tri Int)
  /-- CURD_INSTANT (R39): At a periodic task's curd instant each SERVING Vat latches its inputs and posts its sample set. -/
  | curdInstant (n : Fin 64)
  /-- SAMPLE_SET_ARRIVAL (R124): A sample set posted by another Vat crosses in whole and its header is checked. -/
  | sampleSetArrival (src dst : Vat) (t : TaskId) (ok : Bool)
  /-- POST_DEADLINE (R125): At 2.0 µs a Vat that has not finished posting stops and receivers discard the partial set. -/
  | postDeadline (v : Vat) (t : TaskId)
  /-- CURD_CLOSE (R128): At 3 µs each Vat forms the curd by the agreement rules and records PRES. -/
  | curdClose (t : TaskId)
  /-- BOUNDARY_REACHED (R48): A running context reaches its next call boundary after an urgent dispatch and posts its boundary count. -/
  | boundaryReached (e : Eng)
  /-- BOUNDARY_REPORT_ARRIVAL (R48): A boundary count from the same engine of another Vat arrives; with all three, the engine takes the largest and switches. -/
  | boundaryReportArrival (src dst : Vat) (n : Fin 64) (count : Word)
  /-- BNDWAIT_TIMEOUT (R49): A missing boundary count after BNDWAIT makes the engine proceed and the silent Vat sour. -/
  | bndwaitTimeout (e : Eng) (missing : Vat)
  /-- WAIT_REPORT_ARRIVAL (R96): A queue wait report arrives; at the WLIM-th press close agreeing reports end the wait with s.Q set. -/
  | waitReportArrival (src dst : Vat) (n : Fin 64) (count : Word) (at_ : BitVec 15)
  /-- PRESS_IMAGE_ARRIVAL (R131): A Vat's complete press image reaches the press and is compared with earlier images or the result. -/
  | pressImageArrival (v : Vat) (t : TaskId) (halves : Bool)
  /-- PRESS_CLOSE (R40): At P − G the press takes the complete images and decides the cycle or an overrun. -/
  | pressClose (t : TaskId)
  /-- TASK_COMMIT (R40): At the commit instant the agreed press result is released to outputs, ports and the Cellar. -/
  | taskCommit (t : TaskId) (readback : Bool)
  /-- PRESS_HOLD_LIMIT (R133): The press's hold of a result expires and a Vat whose image never arrived is sour with cause MISSING. -/
  | pressHoldLimit (t : TaskId)
  /-- QUIET_MISS (R61): 10 ms pass without a quiet window of 20 µs and a miss is counted. -/
  | quietMiss
  /-- QUIET_POINT (R143): The first quiet point after a pending need starts a final copy, a descriptor or point-table change, or a step. -/
  | quietPoint
  /-- SETUP_TIME_LIMIT (R195): The setup program's 3.0 s limit expires and Rennet stops it at its next call boundary. -/
  | setupTimeLimit
  /-- VAT_CLOCK_FAULT (R137): A Vat's PLL loses lock or its crystal stops and the Vat is declared sour. -/
  | vatClockFault (v : Vat)
  /-- SUPPLY_DOMAIN_FAULT (R19): A supply domain leaves its fault limit and the module acts as the domain table states. -/
  | supplyDomainFault (d : Fin 8) (x : SupplySeen)
  /-- RECURDLE_PLL_LOCK (R142): A re-curdling Vat's PLL locks and its self-proof begins. -/
  | recurdlePllLock
  /-- SELF_PROOF_DONE (R142): A re-curdling Vat's self-proof ends: pass starts COPYING, failure sends it to OUT. -/
  | selfProofDone (ok : Bool)
  /-- COPY_PASS_DONE (R142): A copy pass ends; further passes follow or the Vat enters WAITQ. -/
  | copyPassDone
  /-- FINAL_COPY_DONE (R142): The final copy completes and the Vat becomes SERVING. -/
  | finalCopyDone
  /-- VAT_CMD_TAKE_OUT (R159): VAT_CMD OP 1 declares a Vat sour with cause HOST and sends it OUT. -/
  | vatCmdTakeOut (w : Writer) (v : Vat)
  /-- VAT_CMD_RECURDLE (R159): VAT_CMD OP 2 starts re-curdling of a SOUR or OUT Vat. -/
  | vatCmdRecurdle (w : Writer) (v : Vat)
  /-- TRANSFER_MESSAGE (R171): A Whey transfer message carrying an entry reaches the consumer and is checked. -/
  | transferMessage (v : Option Vat) (q : Nat) (ok : Bool)
  /-- CREDIT_MESSAGE (R171): A Whey credit message returns 1 to 16 credits to the producer. -/
  | creditMessage (v : Option Vat) (q n : Nat) (ok : Bool)
  /-- ARBITER_DECISION (R181): A slot arbiter decides the next grant and advances its slot pointer. -/
  | arbiterDecision (a : Fin 36) (v : Vat) (raised : List (Fin 64 × BitVec 16)) (clk : BitVec 16)
  /-- EVENT_ARRIVAL (R219): A source arrival is counted and an IDLE group emits its records. x: the signal; a, b, c: the copies of the controller that see it. -/
  | eventArrival (x : Signal) (a b c : Bool)
  /-- HOLDOFF_EXPIRY (R221): A group's hold-off expires; it emits pending records or returns to IDLE. -/
  | holdoffExpiry (g : Fin 64) (x : Fin 2)
  /-- EVENT_EMIT_DELAYED (R222): A record held for lack of credit is emitted at the first tick with a credit. -/
  | eventEmitDelayed (n : Fin 4096) (x : Fin 2)
  /-- DISPATCHER_RECORD (R225): The Vat dispatcher takes an event record and appends it to its task's pending list or discards it. -/
  | dispatcherRecord (v : Vat)
  /-- EVENT_CURD_INSTANT (R227): At e the head record is removed and the event task's activation starts its curd exchange. -/
  | eventCurdInstant (v : Fin 256)
  /-- AFFINEUR_EVENT_RECORD (R229): The Affineur takes a record from Q32512 and writes it as a Cellar device record. -/
  | affineurEventRecord
  /-- POWER_ON (R194): The intermediate bus comes within tolerance and the power-up sequence begins with Rind's own start. -/
  | powerOn
  /-- RENNET_START (R194): Supplies in tolerance release the Affineur; Rennet checks its ROM and the module enters PROVE. -/
  | rennetStart (romOk : Bool)
  /-- RNG_READY (R113): 2048 consecutive passing samples make NOISE ready and set RNGRDY. -/
  | rngReady
  /-- RNG_TEST_FAIL (R113): A random sample fails a health test; NOISE returns FAILED and a device record is written. -/
  | rngTestFail (test : Fin 2)
  /-- CULTURE_LOAD (R32): A culture is selected, checked, loaded into the Vats and its setup program started. -/
  | cultureLoad
  /-- LOOP_PROOF_ATTEMPT (R430): A loop proof attempt settles, averages and judges every enabled loop channel. -/
  | loopProofAttempt (res : List (Fin 32 × BitVec 32 × Int))
  /-- PARTNER_WATCH_END (R246): The 10 ms partner watch ends and the module enters SERVICE or STANDBY, or stays in PROVE. -/
  | partnerWatchEnd
  /-- SYS_CMD_HOLD (R210): SYS_CMD OP 1 takes the module to HOLD. -/
  | sysCmdHold (w : Writer) (key : BitVec 16)
  /-- SYS_CMD_RESTART (R210): SYS_CMD OP 2 restarts from HOLD to PROVE at step 10. -/
  | sysCmdRestart (w : Writer) (key : BitVec 16)
  /-- SYS_CMD_MAINT (R210): SYS_CMD OP 3 takes the module to MAINTENANCE. -/
  | sysCmdMaint (w : Writer) (key : BitVec 16)
  /-- SYS_CMD_EXIT (R210): SYS_CMD OP 4 leaves MAINTENANCE for PROVE at step 10. -/
  | sysCmdExit (w : Writer) (key : BitVec 16)
  /-- SYS_CMD_REJOIN (R210): SYS_CMD OP 5 moves HOLD to STANDBY with the partner in charge. -/
  | sysCmdRejoin (w : Writer) (key : BitVec 16)
  /-- SYS_CMD_HANDOVER (R265): SYS_CMD OP 6 starts a handover to a READY partner by choosing H. -/
  | sysCmdHandover (w : Writer) (key : BitVec 16) (h : Nat)
  /-- SYS_CMD_RESET (R210): SYS_CMD OP 7 resets the module and runs the power-up sequence from the reference. -/
  | sysCmdReset (w : Writer) (key : BitVec 16)
  /-- COMMIT_APPLY (R205): A block applies the touched words of an OK commit at its own boundary and PEND falls after the last. -/
  | commitApply (block : Fin 28) (n : Fin 512)
  /-- AFFINEUR_RESTART (R16): A lockstep mismatch restarts the Affineur from Rennet; sessions drop and time runs in holdover. -/
  | affineurRestart
  /-- AFFINEUR_RESTART_DONE (R208): The restarted Affineur runs again and a COMMIT under check returns BUSY. -/
  | affineurRestartDone
  /-- MANAGEMENT_TICK (R217): The 1 s tick runs the scrub, health reports, supply checks and time servo. -/
  | managementTick (m : Mgmt)
  /-- DTLS_HANDSHAKE (R213): A DTLS 1.3 handshake on the service port opens a session once RNGRDY is 1. -/
  | dtlsHandshake (priv : Priv) (fingerprint : BitVec 64)
  /-- TSP_OPEN (R214): OPEN returns the session number, SYS_IDENT and SYS_MODE. -/
  | tspOpen (h : TspHead) (p : List (BitVec 8))
  /-- TSP_CLOSE (R214): CLOSE ends the session with ABORT of its staging. -/
  | tspClose (h : TspHead) (p : List (BitVec 8))
  /-- TSP_PING (R214): PING returns SYS_MODE. -/
  | tspPing (h : TspHead) (p : List (BitVec 8))
  /-- CFG_READ (R201): CFG.READ returns live or staged words from an address upward. -/
  | cfgRead (h : TspHead) (p : List (BitVec 8))
  /-- CFG_WRITE (R215): CFG.WRITE applies masked entries in order until the first not OK. -/
  | cfgWrite (h : TspHead) (p : List (BitVec 8))
  /-- TSP_COMMIT (R203): A session's COMMIT checks all rules of touched blocks and applies or names the failing field. -/
  | tspCommit (h : TspHead) (p : List (BitVec 8))
  /-- TSP_ABORT (R199): A session's ABORT discards its staging and ends its ownership. -/
  | tspAbort (h : TspHead) (p : List (BitVec 8))
  /-- STG_BREAK (R216): STG.BREAK discards staging of another owner and marks a culture's staging broken. -/
  | stgBreak (h : TspHead) (p : List (BitVec 8))
  /-- TSP_UNKNOWN (R214): A request with an unassigned command code is answered UNKNOWN. -/
  | tspUnknown (h : TspHead) (cmd : BitVec 8) (p : List (BitVec 8))
  /-- TSP_SESSION_TIMEOUT (R213): 30 s without a valid host message ends a session. -/
  | tspSessionTimeout (n : Fin 4)
  /-- CHG_IN_EDGE (R238): An edge on CHG_IN counts a toggle and may make the partner TOGGLING. -/
  | chgInEdge (us : Nat)
  /-- TOGGLING_LOST (R238): No toggle for 300 µs makes the partner NOT TOGGLING. -/
  | togglingLost
  /-- PARTNER_SILENT (R238): No toggle for 3 ms makes the partner SILENT. -/
  | partnerSilent
  /-- TAKEOVER (R263): After 3 ms of silence on the charge line and Ladle the standby takes charge with a new epoch. -/
  | takeover
  /-- HANDOVER_TICK (R265): At handover tick H the primary stops curds, makes a last edge and sends its buffer and FINAL, or moves H. -/
  | handoverTick (next : Nat)
  /-- RELINQUISH_END (R266): 270 µs after the cause instant the relinquishing module's outputs go inert and it enters the new mode. -/
  | relinquishEnd
  /-- LADLE_LANE_UP (R248): 1024 valid sync headers bring a Ladle lane up. -/
  | ladleLaneUp (lane : Vat) (tx : Bool)
  /-- LADLE_LANE_DOWN (R248): Invalid sync headers or a non-SERVING sending Vat take a lane down. -/
  | ladleLaneDown (lane : Vat) (tx : Bool)
  /-- LADLE_SLOT (R249): At each 450 ns slot boundary each sending Vat sends the granted frame or idle blocks. -/
  | ladleSlot
  /-- STATE_FRAME (R254): A voted STATE frame is buffered for its task until END. -/
  | stateFrame (f : Lanes)
  /-- QSTATE_FRAME (R254): A voted QSTATE frame is buffered or applied as queue state. -/
  | qstateFrame (f : Lanes)
  /-- PRESS_FRAME (R254): A voted PRESS frame is buffered for its task until END. -/
  | pressFrame (f : Lanes)
  /-- END_FRAME (R254): END makes the standby apply the task's cycle or go STALE. -/
  | endFrame (f : Lanes) (bad : Option Vat)
  /-- FULL_FRAME (R259): A FULL frame of culture memory is applied at once during a full copy. -/
  | fullFrame (f : Lanes)
  /-- SYNC_FRAME (R259): SYNC ends a full copy and makes the standby SYNCED. -/
  | syncFrame (f : Lanes)
  /-- HEALTH_FRAME (R267): A partner HEALTH report is stored in LDL_PHn and updates the partner epoch. -/
  | healthFrame (f : Lanes)
  /-- HANDOVER_FRAME (R265): HANDOVER tells the standby the handover tick H. -/
  | handoverFrame (f : Lanes)
  /-- FINAL_FRAME (R243): FINAL is applied and the standby takes charge, or becomes STALE for ARG 0. -/
  | finalFrame (f : Lanes)
  /-- TIME_FRAME (R315): A TIME frame steers the standby's counter towards the primary's. trip: the round trip in ns that lane training measures with it, if it does. -/
  | timeFrame (f : Lanes) (trip : Option Nat)
  /-- UPDATE_FRAME (R511): An UPDATE frame carries a piece, begin, end or acknowledgement of a peer image transfer. -/
  | updateFrame (f : Lanes)
  /-- AFF_FRAME (R250): An AFF frame carries an Affineur message between the modules. -/
  | affFrame (f : Lanes)
  /-- SYNCREQ_FRAME (R259): SYNCREQ from the standby makes the primary start a full copy. -/
  | syncreqFrame (f : Lanes)
  /-- IDENT_FRAME (R234): IDENT runs the pairing checks and sets SYNC. -/
  | identFrame (f : Lanes)
  /-- LADLE_RESERVED_TYPE (R250): A frame of TYPE 0x0 or 0xF is discarded and counted. -/
  | ladleReservedType (f : Lanes)
  /-- LDL_CMD_RESYNC (R272): LDL_CMD OP 1 makes a standby send SYNCREQ with reason 3. -/
  | ldlCmdResync (w : Writer)
  /-- LDL_CMD_LINKRESET (R272): LDL_CMD OP 2 retrains all Ladle lanes. -/
  | ldlCmdLinkreset (w : Writer)
  /-- STANDBY_SELF_TEST (R261): A periodic standby self-test runs and may declare a Vat sour or warn. -/
  | standbySelfTest (kind : Fin 3) (bad : Tri Bool)
  /-- PD_FRAME_RECEIVE (R291): A received PD frame is judged against subscriptions, topology and tag and appended to channel queues. -/
  | pdFrameReceive (f : PdFrame)
  /-- ANNOUNCEMENT_RECEIVE (R286): An announcement or tagged source-role frame updates the role table. -/
  | announcementReceive (f : PdFrame)
  /-- ANNOUNCEMENT_SEND (R285): Every ANNP × 10 ms or on a role change the module sends its announcement. -/
  | announcementSend
  /-- MD_REQUEST_RECEIVE (R298): The Affineur handles an Mr or Mn by holding, replying role-moved, or Me. -/
  | mdRequestReceive (m : MdMsg)
  /-- MD_REPLY_SEND (R300): The Affineur takes a reply slot from Q32515 and sends an Mp or discards it. -/
  | mdReplySend
  /-- MD_SESSION_TIMEOUT (R300): An Mr session without reply within its timeout is closed. -/
  | mdSessionTimeout (handle : Nat)
  /-- TTDP_TOPOLOGY_CHANGE (R279): TTDP detects a topology change and INAUG becomes 1. -/
  | ttdpTopologyChange
  /-- INAUGURATION_COMPLETE (R281): A new etbTopoCnt comes into force, marking partners STALE and raising source 640. -/
  | inaugurationComplete (x : Inauguration)
  /-- PARTNER_AGEING (R282): A partner table entry silent for AGE seconds is removed. -/
  | partnerAgeing (i : Fin 4096)
  /-- ROLE_AGEING (R283): A role whose holder is silent for AGE seconds becomes unknown. -/
  | roleAgeing (r : Fin 1024)
  /-- LINK_CHANGE (R303): An Ethernet port's link changes state. -/
  | linkChange (p : Fin 4) (up giga : Bool)
  /-- BYPASS_RELAY (R276): The bypass relay closes or opens on INERT, power loss, switch failure or step 9. -/
  | bypassRelay (switchBad : Bool)
  /-- PTP_MESSAGE_RECEIVE (R309): A PTP message updates a domain's state and offset samples. -/
  | ptpMessageReceive (m : PtpMsg)
  /-- DOMAIN_LOSS (R309): Missing Announce, Sync or delay response makes a domain LOST. -/
  | domainLoss (d : Fin 2)
  /-- TIME_STEP_APPLY (R314): A decided step is applied to all copies and held timestamps at a quiet point or tick. -/
  | timeStepApply
  /-- SLEW_EXPIRY (R305): A written SLEW returns to 0 after 1.2 s unless rewritten. -/
  | slewExpiry
  /-- HOLDOVER_TIMEOUT (R316): HOLDOVER lasting HOLDMAX minutes becomes FREERUN. -/
  | holdoverTimeout
  /-- LADLE_TIME_LOSS (R315): No TIME frame for 1 ms makes the standby choose its source again. -/
  | ladleTimeLoss
  /-- COMPARE_FIRE (R319): An armed compare unit reaches its target and raises its source. -/
  | compareFire (n : Fin 16)
  /-- PPS_OUTPUT_EDGE (R317): A second boundary drives a PPS rising edge with a state-coded width. -/
  | ppsOutputEdge
  /-- PPS_INPUT_EDGE (R318): A PPS input edge is timestamped and raises source 1029. -/
  | ppsInputEdge (t : Nat)
  /-- CAPTURE_EDGE (R320): A capture unit timestamps a selected edge of its signal. -/
  | captureEdge (n : Fin 8) (rising : Bool) (t : Tri (Option Nat))
  /-- PTP_FREQH_WRITE (R305): A write of PTP_FREQH applies FREQ together with the held PTP_FREQL, clamped. -/
  | ptpFreqhWrite (w : Writer) (x : Word)
  /-- PTP_SLEW_WRITE (R305): A write of PTP_SLEW sets SLEW, clamped, for 1.2 s. -/
  | ptpSlewWrite (w : Writer) (x : Word)
  /-- MASTER_FRAME_RECEIVE (R339): A master frame for an own source port or device status starts a reply within RWIN or is withheld. -/
  | masterFrameReceive (fc : BitVec 4) (addr : BitVec 12) (start : Nat) (va vb : Bool)
  /-- SLAVE_FRAME_RECEIVE (R334): A valid slave frame is appended to its channel queue and may make the device JOINED. -/
  | slaveFrameReceive (f : MvbSlave)
  /-- MVB_SILENCE (R331): 4 ms without a valid frame returns the device to JOINING. -/
  | mvbSilence
  /-- BASIC_PERIOD (R343): At a basic period boundary the administrator starts polling in order. -/
  | basicPeriod
  /-- MVB_SLOT_END (R343): A poll slot ends after the slave frame or RTO and the next master frame follows. -/
  | mvbSlotEnd
  /-- MACRO_CYCLE_BOUNDARY (R345): At a macro-cycle boundary CDN counts down and an agreed switch applies or is abandoned. -/
  | macroCycleBoundary
  /-- MVB_ASEL_WRITE (R345): MVB_ASEL OP 1 requests a switch of schedule set. -/
  | mvbAselWrite (w : Writer) (x : Word)
  /-- MVB_SOURCE_ENTRY (R337): The MVB block takes a Q32516 entry into its port's source buffer. -/
  | mvbSourceEntry
  /-- CAN_FRAME_RECEIVE (R357): A valid CAN frame is timestamped and routed by the filters to a receive queue. -/
  | canFrameReceive (p : Fin 4) (f : CanRx)
  /-- CAN_STORE_FILL (R363): The controller moves a Q32517+p entry into its transmit store or discards it. -/
  | canStoreFill (p : Fin 4)
  /-- CAN_BUS_IDLE (R364): At bus idle the controller offers its most urgent stored frame. -/
  | canBusIdle (p : Fin 4)
  /-- CAN_TX_SUCCESS (R364): A frame is transmitted successfully and leaves the store. -/
  | canTxSuccess (p : Fin 4) (sof : Nat)
  /-- CAN_ARB_LOST (R364): A frame loses arbitration and stays in the store. -/
  | canArbLost (p : Fin 4)
  /-- CAN_TX_ERROR (R364): A transmission ends in an error and the frame stays in the store. -/
  | canTxError (p : Fin 4) (counts : Bool)
  /-- CAN_RECOVERY_DONE (R365): Bus-off recovery completes and the controller is error active. -/
  | canRecoveryDone (p : Fin 4)
  /-- REFERENCE_INSTANT (R369): A time-master instant queues a reference message. -/
  | referenceInstant (p : Fin 4)
  /-- CAN_CMD_RECOVER (R365): CAN_CMD OP 1 starts bus-off recovery when AUTOREC is 0. -/
  | canCmdRecover (w : Writer) (p : Fin 4)
  /-- CAN_CMD_FLUSH (R364): CAN_CMD OP 2 discards the store and frozen head. -/
  | canCmdFlush (w : Writer) (p : Fin 4)
  /-- CAN_MON_READ (R370): A read of the monitor window locks it at word 0 and releases it at LASTW. -/
  | canMonRead (w : Writer) (p : Fin 4) (k : Fin 20)
  /-- MONITOR_LOCK_TIMEOUT (R370): A monitor lock without reads for 10 ms is released. -/
  | monitorLockTimeout (p : Fin 4)
  /-- OUTPUT_WINDOW_WRITE (R385): The bridge takes a Q32521 entry and writes the OUTPUT window to the rack. -/
  | outputWindowWrite
  /-- INPUT_WINDOW_READ (R381): RDLEAD before a curd instant the bridge reads an INPUT window. -/
  | inputWindowRead (n : Fin 64)
  /-- RACK_MASTER_WRITE (R382): A rack master transaction writes words of an INBOUND window. -/
  | rackMasterWrite (slot : Fin 16) (addr : Word) (ts : Nat) (ad : List Word)
  /-- RACK_BREQ (R379): A rack master's bus request is granted in round robin when no outbound request is ready. -/
  | rackBreq (lines : BitVec 16)
  /-- RACK_WAIT_LIMIT (R378): RDY high for TMO clocks ends a transaction with TIMEOUT. -/
  | rackWaitLimit (n : Fin 64) (x : RdyWait)
  /-- RACK_BACKOFF (R378): BOFF low ends the bridge's transaction and schedules a repeat. -/
  | rackBackoff (n : Fin 64) (words : List Word) (ts : Nat)
  /-- BACKOFF_REPEAT (R378): 1 µs after a back-off the bridge repeats from the first untransferred word. -/
  | backoffRepeat (n : Fin 64)
  /-- RACK_TRANSFER_END (R383): A window transfer completes and its queue entry is appended. -/
  | rackTransferEnd (n : Fin 64) (res : Fin 8) (ts : Nat) (ad : List Word)
  /-- SIDEBAND_CHANGE (R387): A change of IRQ, PRES or SYSFAIL raises its source behind completed data. -/
  | sidebandChange (irq pres : BitVec 16) (sysfail : Bool)
  /-- INPUT_FRAME (R391): A field lane input frame arrives with the path states of t − 1 µs. -/
  | inputFrame (v : Vat) (x : LaneFrame)
  /-- COMMAND_FRAME (R392): A command frame delivers a lane's gate commands for a commit instant. -/
  | commandFrame (v : Vat) (x : LaneFrame)
  /-- REFRESH_FRAME (R20): Every 50 µs a refresh frame is sent on each field lane. -/
  | refreshFrame (v : Vat) (x : LaneFrame)
  /-- REFRESH_LOSS (R20): Fewer than two valid refreshes for 500 µs make the field side inert. -/
  | refreshLoss
  /-- OUTPUT_APPLY (R402): At the commit instant the field side applies gate commands and switches vote 2oo3. -/
  | outputApply
  /-- DEBOUNCE_ACCEPT (R394): A raw level held for DEB becomes the accepted level of a path. x: the raw level and its time. -/
  | debounceAccept (v : Vat) (n : Fin 64) (x : Lasting RawInput)
  /-- TEST_PULSE (R396): A test-pulse supply switches off for PW µs. -/
  | testPulse (t : Fin 8)
  /-- TEST_PULSE_SAMPLE (R397): PW − 20 µs into a pulse each path samples checked inputs and the supply readback. -/
  | testPulseSample (t : Fin 8) (raw : Tri (BitVec 64)) (rbOk : Bool)
  /-- OUTPUT_OVERLOAD (R404): An output at its current limit for the limit time opens and latches FAULT. -/
  | outputOverload (x : Overload)
  /-- FAULT_CLEAR (R404): A FAULT latch clears after the voted command has been off for 1 ms. -/
  | faultClear (n : Fin 36)
  /-- READBACK_CHECK (R405): After the readback delay RBERR is judged against the voted command. -/
  | readbackCheck (n : Fin 32) (rb : Tri Bool)
  /-- OPEN_DETECT (R405): A conducting output below 10 mA for 10 ms sets OPEN. x: whether the current is below 10 mA, and its time. -/
  | openDetect (n : Fin 32) (x : Lasting Bool)
  /-- OUTPUT_STAGE_TEST (R408): In STANDBY the voters of every switch are tested each second. -/
  | outputStageTest (bad : BitVec 36)
  /-- FIELD_SUPPLY_CHANGE (R399): A field supply enters or leaves its range. -/
  | fieldSupplyChange (f : Fin 4) (volt curr : Nat)
  /-- SPEED_EDGE (R411): A speed edge updates count, period and speed state on a path. x: the three copies' stamps, and how long the input held its level before. -/
  | speedEdge (n : Fin 8) (rising both : Bool) (x : Lasting (Tri (Option Nat)))
  /-- STILL_TIMEOUT (R411): No speed edge for STILLT makes a path STILL. -/
  | stillTimeout (n : Fin 8)
  /-- SPEED_SENSOR_FAULT (R409): BREAK or SHORT held for 1 ms is flagged. x: SHORT of the three paths, and the time for which BREAK and SHORT have stood. -/
  | speedSensorFault (n : Fin 8) (brk : Tri Bool) (x : Lasting (Tri Bool))
  /-- CONVERSION_END (R424): An analog conversion ends and its damped value and flags are formed. -/
  | conversionEnd (n : Fin 32) (x : BitVec 32) (opened : Bool)
  /-- OUTERR_TIMER (R432): An output readback outside its threshold for OETM sets OUTERR. -/
  | outerrTimer (n : Fin 32)
  /-- RIND_CYCLE (R447): Rind runs its 1 ms state machine cycle, including the deceleration check. -/
  | rindCycle (t : Nat) (bad : BitVec 2) (fsLow : Bool)
  /-- SAFETY_INPUT_EVAL (R441): Every 250 µs Rind evaluates its safety inputs and acts at once on STOP0 or a fault. -/
  | safetyInputEval (t : Nat) (si low : BitVec 8)
  /-- RIND_TP_SAMPLE (R441): 50 µs after a TP line falls Rind samples the safety input for the test-pulse check. -/
  | rindTpSample (k : Fin 8) (si : BitVec 8)
  /-- RESET_PULSE (R451): An accepted fall of RST after a valid high time acts as a reset pulse. -/
  | resetPulse (high : Option Nat)
  /-- RST_HIGH_10S (R451): RST held high for 10 s raises source 523. -/
  | rstHigh10s
  /-- TE_TEST (R444): Rind switches a TE output off for 1.2 ms and checks its readback. -/
  | teTest (diff : BitVec 2)
  /-- OSCILLATOR_WINDOW (R458): At each 1 kHz reference edge Rind checks its own clock count. -/
  | oscillatorWindow (count : Nat)
  /-- CLOCKREF_TIMEOUT (R458): The 1 kHz reference absent for 100 ms gives cause CLOCKREF. -/
  | clockrefTimeout
  /-- RIND_DIAGNOSTIC (R459): A periodic Rind diagnostic runs and may give INTERNAL. -/
  | rindDiagnostic (d : Fin 10) (ok : Bool)
  /-- RIND_START_END (R454): Rind's START ends and it goes to RUN, STOPPED or FAILED. -/
  | rindStartEnd (ok : Bool)
  /-- RIND_STATUS_SEND (R470): Rind sends its status over its one-way link every 1 ms. -/
  | rindStatusSend
  /-- RIND_STATUS_TIMEOUT (R470): No Rind status for 5 ms makes the status point invalid. -/
  | rindStatusTimeout
  /-- RIND_UNLOCK (R464): RIND_CMD OP 1 compares the password and sets UNLOCK or counts a wrong password. -/
  | rindUnlock (n : Fin 4)
  /-- RIND_ACCEPT (R465): RIND_CMD OP 2 accepts the proposal, or waits for a reset pulse under CHECKVAL. -/
  | rindAccept (n : Fin 4)
  /-- RIND_SETPW (R464): RIND_CMD OP 3 stores a new password digest. -/
  | rindSetpw (n : Fin 4)
  /-- RIND_LOCK (R464): RIND_CMD OP 4 sets UNLOCK to 0. -/
  | rindLock (n : Fin 4)
  /-- ACCEPT_TIMEOUT (R465): No reset pulse within 60 s ends a CHECKVAL ACCEPT with TIMEOUT. -/
  | acceptTimeout
  /-- UNLOCK_TIMEOUT (R464): UNLOCK or a password block ends after 15 min. -/
  | unlockTimeout
  /-- RECORD_OFFER (R478): A device or culture record is offered to the Cellar buffers, or counted as a repeat or loss. -/
  | recordOffer (culture : Bool) (block : Fin 64) (code : Fin 256) (task : Fin 1024) (data : List (BitVec 8))
  /-- RECORD_WRITE (R481): A granted record takes its SEQ and is written word by word to its slot. -/
  | recordWrite (culture : Bool)
  /-- CLEAR_SLOT_WRITE (R488): The scrubber marks one cleared circulating slot KIND 0; the last raises source 2177. -/
  | clearSlotWrite
  /-- CEL_INFO (R485): CEL.INFO returns newest, oldest, status and counts. -/
  | celInfo (h : TspHead) (p : List (BitVec 8))
  /-- CEL_SNAP (R486): CEL.SNAP latches SHI, REPLAT and OLDEST for the session. -/
  | celSnap (h : TspHead) (p : List (BitVec 8))
  /-- CEL_READ (R487): CEL.READ returns snapshot records from FROM, counting lost ones. -/
  | celRead (h : TspHead) (p : List (BitVec 8))
  /-- CEL_CLOSE (R485): CEL.CLOSE ends the session's snapshot. -/
  | celClose (h : TspHead) (p : List (BitVec 8))
  /-- CEL_CLEAR (R488): CEL.CLEAR offers the clear record and starts clearing the circulating area. -/
  | celClear (h : TspHead) (p : List (BitVec 8))
  /-- UPD_INFO (R501): UPD.INFO returns UPD_STAT and the slot states and versions. -/
  | updInfo (h : TspHead) (p : List (BitVec 8))
  /-- UPD_BEGIN (R502): UPD.BEGIN starts a load into the slot not ACTIVE. -/
  | updBegin (h : TspHead) (p : List (BitVec 8))
  /-- UPD_DATA (R502): UPD.DATA appends bytes at the expected offset. -/
  | updData (h : TspHead) (p : List (BitVec 8))
  /-- UPD_END (R503): UPD.END applies a delta if needed and checks the image. -/
  | updEnd (h : TspHead) (p : List (BitVec 8))
  /-- UPD_ARM (R505): UPD.ARM makes a LOADED slot ARMED. -/
  | updArm (h : TspHead) (p : List (BitVec 8))
  /-- UPD_CONFIRM (R508): UPD.CONFIRM confirms a TRIAL slot at once. -/
  | updConfirm (h : TspHead) (p : List (BitVec 8))
  /-- UPD_REJECT (R509): UPD.REJECT rejects a TRIAL slot. -/
  | updReject (h : TspHead) (p : List (BitVec 8))
  /-- UPD_REVERT (R505): UPD.REVERT arms an OLD slot. -/
  | updRevert (h : TspHead) (p : List (BitVec 8))
  /-- UPD_KEY (R497): UPD.KEY installs or revokes a key from a signed key record. -/
  | updKey (h : TspHead) (p : List (BitVec 8))
  /-- UPD_PEER (R511): UPD.PEER sends an image to the partner over the Ladle. -/
  | updPeer (h : TspHead) (p : List (BitVec 8))
  /-- UPD_SVCADDR (R504): UPD.SVCADDR stores the service port address. -/
  | updSvcaddr (h : TspHead) (p : List (BitVec 8))
  /-- UPD_CANCEL (R502): UPD.CANCEL ends the load and leaves the slot EMPTY. -/
  | updCancel (h : TspHead) (p : List (BitVec 8))
  /-- PIECE_ACK_TIMEOUT (R511): An unacknowledged piece of a peer transfer is sent again after 10 ms. -/
  | pieceAckTimeout
  /-- SELF_CONFIRM (R508): Conditions held for CONFTIME confirm the trial slot. -/
  | selfConfirm
  /-- INTERRUPTION_DETECT (R532): The input below 5.5 V for INTRF begins an interruption. x: the input in 10 mV, and its time. -/
  | interruptionDetect (x : Lasting Nat)
  /-- INTERRUPTION_END (R532): The input back above 6.0 V for 1 ms ends an interruption. -/
  | interruptionEnd (lowest : Nat)
  /-- INTERRUPTION_TIMEOUT (R532): An interruption lasting 20 ms starts the orderly power-down. -/
  | interruptionTimeout
  /-- POWER_DOWN_END (R533): The power-down ends with the module in INERT. -/
  | powerDownEnd
  /-- INPUT_OVERVOLTAGE (R530): An overvoltage opens the input switch and begins an interruption. x: the input in 10 mV, and its time. -/
  | inputOvervoltage (x : Lasting Nat)
  /-- INPUT_SWITCH_CLOSE (R530): The input at or below 48 V for 10 ms closes the switch. -/
  | inputSwitchClose (highest : Nat)
  /-- STORE_MEASURE (R535): The hourly hold-up store measurement updates CAP, HUP and HUPLOW. -/
  | storeMeasure (cap hup : Nat)
  /-- BASEPLATE_WARNING (R547): The baseplate crossing BPWARN sets or clears TWARN. -/
  | baseplateWarning (t : Int)
  /-- REGION_TEMP_DIFF (R154): Region temperatures over 15 K apart give a warning and record. -/
  | regionTempDiff (t : Tri Int)
  /-- TST_START (R520): TST.START starts a test in MAINTENANCE. -/
  | tstStart (h : TspHead) (p : List (BitVec 8))
  /-- TST_STATUS (R527): TST.STATUS returns the test state and counts. -/
  | tstStatus (h : TspHead) (p : List (BitVec 8))
  /-- TST_STOP (R527): TST.STOP ends the test ABORTED. -/
  | tstStop (h : TspHead) (p : List (BitVec 8))
  /-- TEST_END (R526): A test's duration ends and its result is recorded. -/
  | testEnd (bits : Tri Nat) (errs : Nat) (samples : List LoopSample)
  /-- TST_CTL_WRITE (R518): A write of CRUN starts or stops the test culture. -/
  | tstCtlWrite (w : Writer) (x : Word)
  /-- TST_LBK_WRITE (R519): A TST_LBKn write sets an interface's loopback depth. -/
  | tstLbkWrite (w : Writer) (i : Fin 15) (x : Word)
  /-- REGISTER_WRITE (R6): A write to a register without a row of its own acts by its access codes. -/
  | registerWrite (w : Writer) (addr : BitVec 24) (x : Word)
  /-- RC_READ (R7): A read of an RC field returns and clears it. -/
  | rcRead (w : Writer) (addr : BitVec 24)
  /-- HXK_TICKL_READ (R62): A read of HXK_TICKL latches HXK_TICKH and HXK_TICKOFS. -/
  | hxkTicklRead (w : Writer)
  /-- ARB_WQST0_READ (R178): A read of ARB_WQST0 latches ARB_WQST1 and ARB_WQST2 of the selected queue. -/
  | arbWqst0Read (w : Writer)
  /-- ARB_WQST2_READ (R178): A read of ARB_WQST2 clears the queue's DROP count in all three instances. -/
  | arbWqst2Read (w : Writer)
  /-- ETH_PT0_READ (R301): A read of ETH_PT0 latches ETH_PT1 to ETH_PT3 of the selected entry. -/
  | ethPt0Read (w : Writer)
  /-- PTP_NOWL_READ (R323): A read of PTP_NOWL latches PTP_NOWH. -/
  | ptpNowlRead (w : Writer)
  /-- PTP_LSTEPL_READ (R323): A read of PTP_LSTEPL latches PTP_LSTEPH. -/
  | ptpLsteplRead (w : Writer)
  /-- CEL_NEWL_READ (R489): A read of CEL_NEWL latches CEL_NEWH, CEL_OLDL and CEL_OLDH. -/
  | celNewlRead (w : Writer)
  /-- RIND_LOG0_READ (R468): A read of RIND_LOG0 latches RIND_LOG1 to RIND_LOG3 of the selected entry. -/
  | rindLog0Read (w : Writer)
  /-- TST_BITSL_READ (R528): A read of TST_BITSL latches TST_BITSH. -/
  | tstBitslRead (w : Writer)
  /-- WAIT_REPORT_TIMEOUT (R96): A queue-wait report not received within BNDWAIT after the engine posted its own is missing, and the silent Vat is declared sour with cause QWAIT. -/
  | waitReportTimeout (e : Eng) (missing : Vat)
  /-- AFFINEUR_SELF_PROOF_DONE (R194): The Affineur self-proof of power-up step 5 ends; on a pass PWRCYC increases and the Cellar is scanned, and on a failure the module stays in PROVE with REASON SELFPROOF. -/
  | affineurSelfProofDone (fail : Option (BitVec 12))
  /-- VAT_START_PROOF_DONE (R194): The power-up self-proof of the three Vats and the press ends; on a pass the Vats become IDLE, the time unit starts and HXK_TICK is set, and on a failure the module stops in PROVE with REASON SELFPROOF. -/
  | vatStartProofDone (fail : Option (Fin 4 × BitVec 12))
  /-- FIELD_UNIT_SELF_TEST_DONE (R194): The field I/O unit, powered through the isolation transformer, ends its own self-test; refresh frames and test pulses start, or the module stops in PROVE with REASON SELFPROOF. -/
  | fieldUnitSelfTestDone (fail : Option (BitVec 12))
  /-- FIELD_LANE_REFRESH_TIMEOUT (R392): One field lane without a valid refresh frame for 500 µs has its gate inputs held off until a valid frame arrives. -/
  | fieldLaneRefreshTimeout (v : Vat)
  /-- TEST_PULSE_CURRENT_LIMIT (R398): A test-pulse supply in current limiting for more than 1 ms sets its TPFLT bit and raises source 96 + t. x: the supply, and its time in current limiting. -/
  | testPulseCurrentLimit (x : Lasting (Fin 8))
  /-- COLD_JUNCTION_CHANGE (R436): A cold-junction sensor becomes faulty or sound, changing CJOK and CJFAULT and raising source 480 + c. -/
  | coldJunctionChange (j : Fin 4) (sound : Bool) (temp : Int)
  /-- RIND_SPEED_EDGE (R443): A rising edge on RS0 or RS1 gives Rind a new period P and last-edge time for its monitored speed. -/
  | rindSpeedEdge (n : Fin 2) (t : Nat)
  /-- PD_TELEGRAM_SEND (R296): The ETH block takes the entries of a released publication from Q32514 and sends the TRDP PD telegram, returning their credits. -/
  | pdTelegramSend
  deriving DecidableEq, Repr

end Sys2Proof
end

