-- ==== Sys2Proof/Decode.lean ====
section
/-! DEFINITION. The command that a word spells. The opcode table of this block gives none of its rows bits: a command is
an event at the module's boundary, so no word spells one. -/

namespace Sys2Proof

/-- None of the 295 rows has bits in the table, so no word is a command. -/
def decodeTableWord (_nbits _w : Nat) : Option Instr := none

end Sys2Proof
end

