-- ==== Sys2Proof/Config.lean ====
section
/-! DEFINITION. What one made module fixes, and the free values: constants without a body, so that nothing can be
proved of their values. A free value is drawn under a stamp, a count that State holds and advances. -/

namespace Sys2Proof.Config

/-- SYS_IDENT.VARIANT, fixed at manufacture (R2): true for AKV-3192-E. Log entry 2. -/
opaque variantE : Bool

/-- SYS_IDENT.HWREV, fixed at manufacture. Log entry 2. -/
opaque hwRev : BitVec 8

/-- MAJOR of SYS_BLKIDn, an installed firmware value (R27). Log entry 2. -/
opaque blkMajor : Nat → BitVec 8

/-- MINOR of SYS_BLKIDn, an installed firmware value (R27). Log entry 2. -/
opaque blkMinor : Nat → BitVec 8

/-- The Ladle protocol revision, [15:8] major and [7:0] minor (R234). Log entry 2. -/
opaque ladleRev : BitVec 16

/-- The coding pin of X1 (R233): true where it is joined to supply return, position B. Log entry 2. -/
opaque positionB : Bool

/-- Places of the two device-specific bits in the MVB device status word, which IEC 61375-3-1 fixes and the spec does not give
(R341): of the lower one, and how far above it the higher one stands. Log entry 59. -/
opaque mvbServiceBit : Fin 15
opaque mvbJoinedBit : Fin 15

/-- A byte of scratch that the activation has not written (R37): undefined, drawn under the stamp of the chain
entry and the byte's address. Log entry 3. -/
opaque scratchByte : Nat → Nat → Byte

/-- The 32 random bits of one NOISE draw (R112), under the stamp of the draw. Log entry 4. -/
opaque noise : Nat → Word

/-- Any other value that the spec leaves open, under the stamp of its draw. Log entry 5. -/
opaque freeWord : Nat → Word

/-- A byte that the spec leaves open in a longer content, under the stamp of the draw and its place. Log entry 5. -/
opaque openByte : Nat → Nat → Byte

/-- The firmware image installed at manufacture. Log entry 20. -/
opaque factoryImage : List Byte
/-- The public key of KEYID 0 (R496), X and Y. Log entry 20. -/
opaque firmwareKeyX : BitVec 384
/-- Y of the same. -/
opaque firmwareKeyY : BitVec 384
/-- The buyer's key-administration key, installed as ordered (R496): its KEYID. Log entry 20. -/
opaque buyerKeyId : BitVec 32
/-- X of the same. -/
opaque buyerKeyX : BitVec 384
/-- Y of the same. -/
opaque buyerKeyY : BitVec 384

end Sys2Proof.Config
end

