-- ==== Sys2Proof/Machine/Bits.lean ====
section
/-! DEFINITION. Bit fields, byte order and the small vote arithmetic that the whole model uses: a field
[msb:lsb] of a word, little-endian bytes (R4), saturating counters, and the median and majority of R128. -/

namespace Sys2Proof.Machine

/-- The value of field [msb:lsb] of a word. -/
def bits (w : Word) (msb lsb : Nat) : Nat := (w.toNat / 2 ^ lsb) % 2 ^ (msb + 1 - lsb)

/-- The word with field [msb:lsb] set to `v`, taken modulo the field's range. -/
def setBits (w : Word) (msb lsb v : Nat) : Word :=
  BitVec.ofNat 32 (w.toNat - bits w msb lsb * 2 ^ lsb + (v % 2 ^ (msb + 1 - lsb)) * 2 ^ lsb)

/-- Bit `n` of a word. -/
def bit (w : Word) (n : Nat) : Bool := w.getLsbD n

/-- The mask of field [msb:lsb]. -/
def fieldMask (msb lsb : Nat) : Word := BitVec.ofNat 32 ((2 ^ (msb + 1 - lsb) - 1) * 2 ^ lsb)

/-- `n` bytes of `v`, least significant first (R4). -/
def bytesLE : Nat → Nat → List Byte
  | 0, _ => []
  | n + 1, v => BitVec.ofNat 8 v :: bytesLE n (v / 256)

/-- The number whose little-endian bytes these are (R4). -/
def natLE : List Byte → Nat
  | [] => 0
  | b :: bs => b.toNat + 256 * natLE bs

/-- The number whose big-endian bytes these are (network fields). -/
def natBE (bs : List Byte) : Nat := bs.foldl (fun a b => 256 * a + b.toNat) 0

/-- `n` bytes of `v`, most significant first. -/
def bytesBE (n v : Nat) : List Byte := (bytesLE n v).reverse

/-- A little-endian field of `len` bytes at offset `ofs` of a byte string. -/
def leAt (bs : List Byte) (ofs len : Nat) : Nat := natLE ((bs.drop ofs).take len)

/-- A big-endian field of `len` bytes at offset `ofs` of a byte string. -/
def beAt (bs : List Byte) (ofs len : Nat) : Nat := natBE ((bs.drop ofs).take len)

/-- A word as a number of the given width read as two's complement. -/
def signed (width v : Nat) : Int := if v % 2 ^ width < 2 ^ (width - 1) then (v % 2 ^ width : Nat) else (v % 2 ^ width : Nat) - (2 ^ width : Nat)

/-- The two's complement code of an integer in the given width. -/
def unsigned (width : Nat) (i : Int) : Nat := (i % (2 ^ width : Nat)).toNat

/-- Addition that stops at `lim` (a saturating counter). -/
def satAdd (lim a b : Nat) : Nat := min lim (a + b)

/-- The median of three integers (R128). -/
def median3 (a b c : Int) : Int := max (min a b) (min (max a b) c)

/-- Bitwise majority of three words (R128). -/
def maj3 {n : Nat} (a b c : BitVec n) : BitVec n := (a &&& b) ||| (a &&& c) ||| (b &&& c)

/-- The bit of a Boolean. -/
def b2n (b : Bool) : Nat := if b then 1 else 0

/-- The word of a number, modulo 2^32. -/
def word (n : Nat) : Word := BitVec.ofNat 32 n

/-- Padding or cutting a byte string to `n` bytes, with zeros. -/
def padTo (n : Nat) (bs : List Byte) : List Byte := bs.take n ++ List.replicate (n - bs.length) 0

/-- Bytes of a list replaced from offset `ofs` by `new`; bytes past the end of the list are dropped. -/
def overlay (old : List Byte) (ofs : Nat) (new : List Byte) : List Byte :=
  old.take ofs ++ new.take (old.length - ofs) ++ old.drop (ofs + new.length)

/-- The first element of a list that satisfies `p`, with its index. -/
def findIdx? {α : Type} (p : α → Bool) (l : List α) : Option (Nat × α) := (l.zipIdx.find? (fun x => p x.1)).map (fun x => (x.2, x.1))

end Sys2Proof.Machine
end

