-- ==== Sys2Proof/Machine/Map.lean ====
section
/-! DEFINITION. Sparse tables: lists of (key, value) pairs in one canonical form, keys strictly rising and no
entry equal to the default that an unlisted key reads as. Memory, the live and staged configuration words,
contexts, queues and every large array of the module are held this way, so that equal tables are equal data. -/

namespace Sys2Proof.Machine

/-- A sparse table. -/
abbrev SMap (α : Type) := List (Nat × α)

/-- The value at key `k`, `d` where it is not listed. -/
def mapGet {α : Type} (d : α) : SMap α → Nat → α
  | [], _ => d
  | (k', v) :: m, k => if k' = k then v else mapGet d m k

/-- The table without key `k`. -/
def mapErase {α : Type} : SMap α → Nat → SMap α
  | [], _ => []
  | (k', v) :: m, k => if k' = k then m else (k', v) :: mapErase m k

/-- The table with `v` listed at `k`, in key order. -/
def mapInsert {α : Type} : SMap α → Nat → α → SMap α
  | [], k, v => [(k, v)]
  | (k', v') :: m, k, v =>
    if k < k' then (k, v) :: (k', v') :: m
    else if k = k' then (k, v) :: m
    else (k', v') :: mapInsert m k v

/-- The table with the value `v` at `k`; the default is never listed. -/
def mapPut {α : Type} [DecidableEq α] (d : α) (m : SMap α) (k : Nat) (v : α) : SMap α :=
  if v = d then mapErase m k else mapInsert m k v

/-- The table with the value at `k` changed by `f`. -/
def mapMod {α : Type} [DecidableEq α] (d : α) (m : SMap α) (k : Nat) (f : α → α) : SMap α :=
  mapPut d m k (f (mapGet d m k))

/-- All keys of the list are greater than `k` and strictly rising. -/
def mapSorted {α : Type} : SMap α → Bool
  | [] => true
  | [_] => true
  | a :: b :: m => decide (a.1 < b.1) && mapSorted (b :: m)

/-- The canonical form: keys strictly rising, no entry equal to the default. -/
def mapWf {α : Type} [DecidableEq α] (d : α) (m : SMap α) : Bool :=
  mapSorted m && m.all (fun e => decide (e.2 ≠ d))

/-- The table with every listed value changed by `f`, and entries that become the default removed. -/
def mapMapVals {α : Type} [DecidableEq α] (d : α) (m : SMap α) (f : Nat → α → α) : SMap α :=
  (m.map (fun e => (e.1, f e.1 e.2))).filter (fun e => decide (e.2 ≠ d))

/-- The byte memory of one Vat: (address, byte) cells in canonical form; an unlisted byte reads 0. -/
abbrev Memory := List (Nat × Byte)

/-- The canonical form of a memory. -/
abbrev Memory.wf (m : Memory) : Bool := mapWf (0 : Byte) m

/-- One byte of a memory. -/
def memByte (m : Memory) (a : Nat) : Byte := mapGet 0 m a

/-- `n` bytes from address `a` upward. -/
def memRead (m : Memory) (a : Nat) : Nat → List Byte
  | 0 => []
  | n + 1 => memByte m a :: memRead m (a + 1) n

/-- Bytes written from address `a` upward. -/
def memWrite (m : Memory) (a : Nat) : List Byte → Memory
  | [] => m
  | b :: bs => memWrite (mapPut 0 m a b) (a + 1) bs

end Sys2Proof.Machine
end

