-- ==== Sys2Proof/Machine/State.lean ====
section
/-! DEFINITION. The state of the module as plain data: every register, memory, queue, counter, mode and line the
spec gives it, block by block, and the first-in first-out queue of the commands that wait. -/

namespace Sys2Proof

/-- The entry of a Vat. -/
def Tri.get {α : Type} (t : Tri α) : Vat → α
  | .a => t.a
  | .b => t.b
  | .c => t.c

/-- The entry of a Vat replaced. -/
def Tri.set {α : Type} (t : Tri α) (v : Vat) (x : α) : Tri α :=
  match v with
  | .a => { t with a := x }
  | .b => { t with b := x }
  | .c => { t with c := x }

/-- The entry of a Vat changed by `f`. -/
def Tri.upd {α : Type} (t : Tri α) (v : Vat) (f : α → α) : Tri α := t.set v (f (t.get v))

/-- Every entry changed by `f`. -/
def Tri.map {α β : Type} (t : Tri α) (f : α → β) : Tri β := ⟨f t.a, f t.b, f t.c⟩

/-- The same value for all three Vats. -/
def Tri.all {α : Type} (x : α) : Tri α := ⟨x, x, x⟩

/-- The letter of a Vat as a number: 0 Vat A, 1 Vat B, 2 Vat C. -/
def Vat.num : Vat → Nat
  | .a => 0
  | .b => 1
  | .c => 2

/-- The three Vats in letter order. -/
def allVats : List Vat := [.a, .b, .c]

/-- A task as special register TASK shows it (R74): [9] SU, [8] EV, [7:0] number. -/
def TaskId.code : TaskId → Nat
  | .periodic n => n.val
  | .event v => 256 + v.val
  | .setup => 512

/-- Whether the task is an event task. -/
def TaskId.ev : TaskId → Bool
  | .event _ => true
  | _ => false

/-- The task number, [7:0] of special register TASK. -/
def TaskId.num : TaskId → Nat
  | .periodic n => n.val
  | .event v => v.val
  | .setup => 0

/-- The task whose code this is, for codes below 512; the setup program otherwise. -/
def TaskId.ofCode (c : Nat) : TaskId :=
  if c < 256 then .periodic ⟨c % 64, Nat.mod_lt _ (by decide)⟩
  else if c < 512 then .event ⟨c % 256, Nat.mod_lt _ (by decide)⟩
  else .setup

namespace Machine

/-! ### Engines and contexts -/

/-- A frame of a return store (R88): return address (none for the dispatcher's call), the caller's i and k, and
the handler address; `site` is the address of the CALL or CALLR, at which an exception of the callee is raised
again (R116). -/
structure Frame where
  ret : Option Nat
  site : Nat
  i : Nat
  k : Nat
  handler : Option Nat
  deriving DecidableEq, Repr

/-- The flags and exception fields of special register s (Table: s register map). -/
structure SReg where
  xcode : Nat
  xpc : Nat
  t : Bool
  q : Bool
  v : Bool
  c : Bool
  n : Bool
  z : Bool
  deriving DecidableEq, Repr

/-- The queue instructions that can wait (R52). -/
inductive QOp | push | pop | peek
  deriving DecidableEq, Repr

/-- What a context waits for (R98). -/
inductive Wait
  /-- It does not wait. -/
  | none
  /-- A queue instruction waits for a credit or an entry; `passed` press closes have gone by (R96). -/
  | queue (op : QOp) (w : Enc) (passed : Nat)
  /-- FENCE (R97). -/
  | fence
  /-- WAITT until the Vat's own time counter reaches the target (R104). -/
  | time (target : Nat)
  /-- A configuration instruction waits for the port's reply; CFG.SET and ABORT write one register, CFG.GET and
  COMMIT the pair (R106). -/
  | cfg (d : BitVec 4) (pair : Bool) (len : Nat)
  /-- NOISE waits for its value (R112). -/
  | noise (d : BitVec 4)
  deriving DecidableEq, Repr

/-- A raised exception on its way up through the frames (R116): its code, the instruction that first raised it,
the TYPE of the block that holds that instruction (R117), and the call at which it is raised next. -/
structure Exc where
  code : Nat
  pc : Nat
  type : Nat
  site : Nat
  deriving DecidableEq, Repr

/-- A register context of an engine (R46, R73). -/
structure Ctx where
  /-- A chain, or the setup program, is in this context. -/
  on : Bool
  task : TaskId
  /-- The chain belongs to the cycle before the task's present one, which this Vat still computes. -/
  old : Bool
  /-- Top-level instances still to be called after the present one (R88). -/
  calls : List Nat
  g : Vector Word 16
  i : Nat
  k : Nat
  q : BitVec 15
  p : Nat
  s : SReg
  /-- The boundary counter (R46). -/
  bnd : Word
  /-- Instructions completed since the last call boundary or handler entry (R50). -/
  seg : Nat
  /-- The return store, innermost frame first; its length is the depth (R88). -/
  frames : List Frame
  wait : Wait
  /-- An exception to be raised again at the caller's CALL (R116). -/
  exc : Option Exc
  /-- The context stands exactly at a call boundary (R46). -/
  atBnd : Bool
  /-- Scratch bytes written in this activation; every other byte is undefined (R37). -/
  scratch : SMap (Option Byte)
  /-- The stamp that its undefined scratch bytes are drawn under: the same in every Vat (R75). -/
  stamp : Nat
  /-- The cycle has been ended (R191): the chain goes no further than its next call boundary. -/
  stop : Bool
  deriving DecidableEq, Repr

/-- A context that holds no chain. -/
def Ctx.empty : Ctx :=
  { on := false, task := .setup, old := false, calls := [], g := Vector.replicate 16 0, i := 0, k := 0, q := 0, p := 0,
    s := ⟨0, 0, false, false, false, false, false, false⟩, bnd := 0, seg := 0, frames := [], wait := .none,
    exc := none, atBnd := false, scratch := [], stamp := 0, stop := false }

/-- A chain dispatched to an engine and not yet started (R47). -/
structure Dispatch where
  task : TaskId
  /-- It belongs to the cycle before the task's present one. -/
  old : Bool
  prio : Nat
  calls : List Nat
  t : Bool
  /-- The stamp of its undefined scratch bytes, one for all Vats. -/
  stamp : Nat
  deriving DecidableEq, Repr

/-- One engine: the context that runs, boundary agreement in progress, chains that wait, the store buffer. -/
structure Engine where
  /-- The priority of the context the engine runs; none when it idles. -/
  cur : Option Nat
  /-- The boundary counter of the chain that ended last; an idle engine posts it in boundary agreement. -/
  last : Word
  /-- The priority of an urgent chain for which boundary agreement runs (R48). -/
  urgent : Option Nat
  /-- Boundary counts held for the agreement, the engine's own among them (R48). -/
  reports : Tri (Option Word)
  /-- The largest of the counts, once agreed. -/
  goal : Option Word
  /-- Chains dispatched to the engine that have not started. -/
  waiting : List Dispatch
  /-- Wait reports held (R96): boundary counter and p, the engine's own among them. -/
  qreports : Tri (Option (Word × Nat))
  /-- The store buffer, oldest entry first, at most 8 (R559). -/
  stbuf : List (Nat × List Byte)
  /-- The ticks at which the engine posted its own boundary count (R49) and its own wait report (R96). -/
  postAt : Option Nat
  qpostAt : Option Nat
  deriving DecidableEq, Repr

/-- An engine that does nothing. -/
def Engine.idle : Engine :=
  { cur := none, last := 0, urgent := none, reports := Tri.all none, goal := none, waiting := [],
    qreports := Tri.all none, stbuf := [], postAt := none, qpostAt := none }

/-! ### Whey -/

/-- An entry of a queue: its bytes, its place in the producer's order, the tick at which it was appended, and where its producer
splits a telegram, a request or a reply into entries, which of these it belongs to and its number in it, from 0. -/
structure Entry where
  bytes : List Byte
  seq : Nat
  tick : Nat
  whole : Nat
  part : Nat
  deriving DecidableEq, Repr

/-- Dynamic state of a queue in one Whey instance (R161, R170). -/
structure Queue where
  /-- The index of the head entry. -/
  head : Nat
  /-- Entries in storage, head first. -/
  entries : List Entry
  /-- Entries in transit to the consumer, oldest first (R171). -/
  transit : List Entry
  /-- Credits taken from the depth and not held by the producer: the producer holds depth less this. -/
  spent : Nat
  /-- Credits in transit back to the producer. -/
  back : Nat
  deferred : Nat
  drop : Nat
  waitP : Bool
  waitC : Bool
  /-- Released entries that the press holds for want of a credit, at most 16 (R175). -/
  held : List Entry
  deriving DecidableEq, Repr

/-- A queue that starts from empty (R169). -/
def Queue.empty : Queue :=
  { head := 0, entries := [], transit := [], spent := 0, back := 0, deferred := 0, drop := 0, waitP := false,
    waitC := false, held := [] }

/-- The four words of a queue descriptor as one Whey instance stores them (R161, R166). -/
structure Desc where
  ctl : Word
  prod : Word
  cons : Word
  chk : Word
  deriving DecidableEq, Repr

/-- The descriptor of a queue that has never been written: CHK is the CRC-32C of twelve zero bytes. -/
def Desc.zero : Desc := { ctl := 0, prod := 0, cons := 0, chk := 0x2B60B55D }

/-! ### Curd and press -/

/-- How the curd agrees a point (Table: Agreement rules). A value point is a list of value widths in bytes (4 or 8,
compared as signed integers); a stream point is its first 8 bytes as values, then slots of `slot` bytes as frames. -/
inductive Agree | bits | values (widths : List Nat) | frame | stream (slot : Nat)
  deriving DecidableEq, Repr

/-- One Vat's latched view of a point (R122): its agreement kind, status bits and content, and the receive
timestamp of a frame. -/
structure Sample where
  kind : Agree
  status : Word
  bytes : List Byte
  stamp : Option Nat
  deriving DecidableEq, Repr

/-- A sample set (R124): the header fields, the time value of the curd instant, the event record of an event task
and the latched points. -/
structure SampleSet where
  tick : Nat
  time : Nat
  record : List Byte
  points : SMap (Option Sample)
  deriving DecidableEq, Repr

/-- An agreed point: its status word and its bytes. -/
structure PointVal where
  status : Word
  bytes : List Byte
  deriving DecidableEq, Repr

/-- A LOG request (R110): the code and the 16 bytes. -/
structure LogReq where
  code : Nat
  bytes : List Byte
  deriving DecidableEq, Repr

/-- A Vat's press image of one cycle (Table: Press items). -/
structure Image where
  points : SMap (Option (List Byte))
  /-- LOG requests with the engine of each: ascending engine, then program order (log entry 10). -/
  logs : List (Nat × LogReq)
  logsLost : Nat
  raises : BitVec 64
  /-- The last HSET of each engine. -/
  hset : SMap (Option Word)
  pres : Nat
  deriving DecidableEq, Repr

/-- An image in which nothing has been written. -/
def Image.empty : Image := { points := [], logs := [], logsLost := 0, raises := 0, hset := [], pres := 0 }

/-- One Vat's part in a cycle or activation of a task. -/
structure Act where
  /-- The Vat's own set, latched at the curd instant. -/
  own : Option SampleSet
  /-- Posting has been stopped at the deadline (R125). -/
  posted : Bool
  /-- Sets received from each Vat (R125). -/
  sets : Tri (Option SampleSet)
  /-- The agreed curd. -/
  curd : SMap (Option PointVal)
  /-- For each bit point, the curds in a row with a differing bit under the two-set rule (R128). -/
  differ : SMap Nat
  /-- The agreed event record (R228). -/
  record : List Byte
  curdTime : Nat
  commitTime : Nat
  pressTime : Nat
  tick : Nat
  /-- The HGET items as the curd carries them, and those sampled at the latest curd instant (R111). -/
  hget : List Word
  hgetNext : List Word
  /-- Engines whose chain of the task has not ended. -/
  running : List Nat
  /-- The Vat is in its compute phase for this task. -/
  computing : Bool
  image : Image
  deriving DecidableEq, Repr

/-- A task with no cycle. -/
def Act.empty : Act :=
  { own := none, posted := false, sets := Tri.all none, curd := [], differ := [], record := [], curdTime := 0,
    commitTime := 0, pressTime := 0, tick := 0, hget := [], hgetNext := [], running := [], computing := false,
    image := Image.empty }

/-- A request that passes the press during the cycle (R24, Table: Press items): the configuration
instructions, NOISE, and in the setup program LOG and HSET. -/
inductive Req
  | set (addr : Nat) (val : Word)
  | get (addr : Nat) (stg : Bool)
  | commit
  | abort
  | noise
  | log (r : LogReq)
  | hset (w : Word)
  deriving DecidableEq, Repr

/-! ### A Vat -/

/-- The state of a Vat (Table: Vat states). -/
inductive VatState | idle | serving | sour | proving | copying | waitq | out
  deriving DecidableEq, Repr

/-- The sour causes of R137, by code. -/
abbrev SourCause := Nat

/-- One replica plane (R120). -/
structure VatPlane where
  state : VatState
  mem : Memory
  /-- Header marks: the base of every placed instance (R87). -/
  marks : List Nat
  /-- Instruction buffers: key engine × 8192 + word index. -/
  ibuf : SMap Word
  /-- Contexts: key engine × 16 + priority. -/
  ctxs : SMap Ctx
  engines : SMap Engine
  queues : SMap Queue
  /-- The descriptor store of the Vat's Whey instance, where it differs from an unwritten descriptor. -/
  descs : SMap Desc
  /-- Whey's count of appends, which numbers entries. -/
  seq : Nat
  /-- The Vat's copy of the time counter: an unsigned 64-bit count of ns (R5), and its fraction in units of 2^−32 ns
  (R304). -/
  time : Nat
  frac : Nat
  /-- Realignments of the copy with the tick of each, newest first (R152). -/
  realigned : List Nat
  /-- Pending lists of the event dispatcher (R225): key event task, records oldest first. -/
  pending : SMap (List (List Byte))
  /-- The Vat's part in each task's cycle: key task code. -/
  acts : SMap Act
  /-- The cycle before it, of a task that the Vat still computes or whose image it has not delivered. -/
  oldActs : SMap Act
  /-- Pages of 4 KiB written since the last copy, for re-curdling and the Ladle (R145). -/
  dirty : List Nat
  /-- The same since their last send over the Ladle (R253). -/
  ldirty : List Nat
  /-- Ticks of the Vat's sour declarations, newest first (cause 12 REPEAT, R137). -/
  soured : List Nat
  /-- Consecutive late cycles: key task code (R137 cause 4). -/
  late : SMap Nat
  /-- Requests that the port has acted on and this Vat has not issued yet, each with the curd tick of its cycle: key
  engine × 16 + priority. -/
  owed : SMap (List (Nat × Req))
  /-- Replies that have reached the Vat before its own request was issued (R25). -/
  early : SMap (List (List Word))
  /-- Configuration requests issued and not yet acted on, in program order: key engine × 16 + priority (R108). -/
  reqs : SMap (List Req)
  /-- How the Vat's run of the setup program ended (R195). -/
  setupEnd : Nat
  /-- The exception record of the Vat's setup program: XCODE and XPC. -/
  setupExc : Nat × Nat
  deriving DecidableEq, Repr

/-- A Vat after reset (R121). -/
def VatPlane.reset : VatPlane :=
  { state := .idle, mem := [], marks := [], ibuf := [], ctxs := [], engines := [], queues := [], descs := [],
    seq := 0, time := 0, frac := 0, realigned := [], pending := [], acts := [], oldActs := [], dirty := [], ldirty := [], soured := [], late := [],
    owed := [], early := [], reqs := [], setupEnd := 0, setupExc := (0, 0) }

/-! ### Tasks and the press, module side -/

/-- The press's part in a task's cycle (R131, R133). -/
structure PressTask where
  /-- Images complete so far. -/
  images : Tri (Option Image)
  /-- The result, once two images agree. -/
  result : Option Image
  /-- The press close at which the cycle's result counts has passed. -/
  closed : Bool
  /-- The result of the previous cycle and the Vats whose image for it is still owed (R133). -/
  held : Option Image
  owing : Tri Bool
  /-- LATELIM of the cycle that `held` belongs to (R158), and the tick of its own press close (R133). -/
  heldLim : Nat
  heldClose : Nat
  deriving DecidableEq, Repr

/-- A cycle with no image. -/
def PressTask.empty : PressTask :=
  { images := Tri.all none, result := none, closed := false, held := none,
    owing := Tri.all false, heldLim := 0, heldClose := 0 }

/-- A task as the module agrees it. -/
structure TaskSt where
  /-- A cycle or activation is in progress, from its curd instant to its commit. -/
  active : Bool
  /-- The curd of the cycle has been formed. -/
  formed : Bool
  curdTick : Nat
  /-- The commit instant of the cycle, as a tick. -/
  commitTick : Nat
  /-- The commit instant that the cycle or activation began with, which an overrun does not move (R133). -/
  ownCommit : Nat
  /-- PRGUARD and BNDWAIT of the cycle (R67), and its LATELIM (R158). -/
  guard : Nat
  bndwait : Nat
  lateLim : Nat
  /-- The time counter at curd close (HXK_TMAXn). -/
  closeAt : Nat
  /-- The press close of the present commit instant has passed with an overrun (R56). -/
  overrun : Bool
  /-- A commit instant of the activation has passed with an overrun. -/
  passed : Bool
  /-- One image alone was complete at the cycle's last press close (R149). -/
  lone : Bool
  /-- s.T of the next chain entry (R57). -/
  tflag : Bool
  /-- No curd instant before this tick (R67). -/
  start : Nat
  /-- The commit tick of the previous activation, 0 before the first (R227). -/
  lastCommit : Nat
  cycles : Nat
  ovrSeq : Nat
  ovrLast : Bool
  /-- Engines of whose exception in this cycle a record has been made (R117), and in the cycle before it. -/
  excRec : List Nat
  excOld : List Nat
  press : PressTask
  deriving DecidableEq, Repr

/-- A task that has not run. -/
def TaskSt.empty : TaskSt :=
  { active := false, formed := false, curdTick := 0, commitTick := 0, ownCommit := 0, guard := 0, bndwait := 0, lateLim := 0,
    closeAt := 0, overrun := false, passed := false, lone := false, tflag := false, start := 0,
    lastCommit := 0, cycles := 0, ovrSeq := 0, ovrLast := false, excRec := [], excOld := [], press := PressTask.empty }

/-! ### The loaded culture -/

/-- A chain of the TASK section with its engine from PLACE (R555, R556). -/
structure Chain where
  task : Nat
  engine : Nat
  calls : List Nat
  deriving DecidableEq, Repr

/-- An instance of PLACE table 4 (R556); `task` is laid out as special register TASK. -/
structure Inst where
  num : Nat
  base : Nat
  size : Nat
  type : Nat
  engine : Nat
  task : Nat
  deriving DecidableEq, Repr

/-- The code of a type: its number, its buffer offset on an engine, its length in bytes. -/
structure CodePlace where
  type : Nat
  engine : Nat
  ofs : Nat
  len : Nat
  deriving DecidableEq, Repr

/-- A scratch partition (R556). -/
structure ScratchPart where
  engine : Nat
  prio : Nat
  start : Nat
  size : Nat
  deriving DecidableEq, Repr

/-- A culture queue of PLACE table 6. -/
structure QueuePlace where
  handle : Nat
  size : Nat
  base : Nat
  depth : Nat
  deriving DecidableEq, Repr

/-- What Rennet keeps of the loaded culture (R30, R31, R552 to R558). -/
structure Culture where
  loaded : Bool
  cultid : Nat
  build : Nat
  /-- DIGEST of the header and the layout digest of R235, as 256-bit numbers. -/
  digest : Nat
  layout : Nat
  chains : List Chain
  code : List CodePlace
  scratch : List ScratchPart
  insts : List Inst
  /-- Constant areas: type, base, length. -/
  consts : List (Nat × Nat × Nat)
  queues : List QueuePlace
  /-- Page records of PLACE table 7. -/
  pages : List Nat
  cbase : Nat
  csize : Nat
  root : Nat
  deriving DecidableEq, Repr

/-- No culture. -/
def Culture.none : Culture :=
  { loaded := false, cultid := 0, build := 0, digest := 0, layout := 0, chains := [], code := [], scratch := [], insts := [], consts := [],
    queues := [], pages := [], cbase := 0, csize := 0, root := 0 }

/-! ### Modes, start-up, staging and sessions -/

/-- The six major modes (Table: Modes). -/
inductive Mode | inert | prove | standby | service | maintenance | hold
  deriving DecidableEq, Repr

/-- A reply of the Thenicor Service Protocol (R214). -/
structure Reply where
  cmd : Nat
  status : Nat
  seq : Nat
  payload : List Byte
  deriving DecidableEq, Repr

/-- A snapshot of the Cellar (R486). -/
structure Snapshot where
  shi : Nat
  replat : Nat
  oldest : Nat
  deriving DecidableEq, Repr

/-- A TSP session (R213). -/
structure Session where
  priv : Priv
  /-- The first 8 bytes of the client certificate's fingerprint, and whether it is the commissioning one. -/
  fingerprint : Nat
  /-- SEQ of the last request acted on. -/
  lastSeq : Option Nat
  /-- The reply to it, which a repeat of the request receives again. -/
  reply : Option Reply
  /-- What the module sent in answer to the session's last message. -/
  sent : Option Reply
  /-- The tick of the last valid message. -/
  heard : Nat
  snap : Option Snapshot
  deriving DecidableEq, Repr

/-- The owner of staging (R199). -/
inductive Owner | none | culture | session (n : Fin 4)
  deriving DecidableEq, Repr

/-- DROP of every instance of a queue, as a read of ARB_WQST0 finds them, and the one shown (R7, R178). -/
structure DropLatch where
  queue : Nat
  vats : Tri Nat
  dev : Nat
  shown : Nat
  deriving DecidableEq, Repr

/-- The configuration port and SYS block. -/
structure Sys where
  mode : Mode
  prev : Mode
  cause : Nat
  /-- The last step of Table: Power-up sequence that has been reached. -/
  step : Nat
  /-- The random source: ready, failed (R113). -/
  rngReady : Bool
  rngFailed : Bool
  /-- The Affineur runs; it does not during a restart (R16). -/
  affUp : Bool
  owner : Owner
  /-- Touched words of staging (R200). -/
  staged : SMap (Option Word)
  /-- The culture's staging has been broken and not yet aborted (R216). -/
  broken : Bool
  /-- Words of an OK COMMIT that have not become live (R206). -/
  pend : SMap (Option Word)
  commits : Nat
  /-- COMMITs of the culture that wait for their check or are being checked: the contexts that issued them, oldest first
  (R109, R208). -/
  checking : List Nat
  /-- Replies of the port on their way to the Vats: key engine × 16 + priority, words per reply. -/
  replies : SMap (List (List Word))
  /-- Contexts whose agreed NOISE request waits for its value, oldest first. -/
  noise : List Nat
  sessions : SMap (Option Session)
  /-- Handshakes that wait for RNGRDY (R213): privilege and certificate fingerprint, oldest first. -/
  waiting : List (Priv × BitVec 64)
  /-- The setup program runs, how it ended (0 not, 1 by HALT or RET, 2 by an exception, 3 by the time limit), the
  time value of its start. -/
  setupRun : Bool
  setupEnd : Nat
  setupStart : Nat
  /-- At least one COMMIT returned OK during the setup program (R196). -/
  setupCommitted : Bool
  /-- The module stays in PROVE under R32 or R196 and waits for the host (R197). -/
  stopped : Bool
  /-- Sour declarations in this PROVE (R148). -/
  proveSour : Nat
  /-- HOLD was entered directly from SERVICE with no partner in charge (R192). -/
  holdSub : Bool
  /-- The culture health word last committed (R111). -/
  health : Word
  /-- The HGET items at the setup program's start (R111). -/
  setupHget : List Word
  /-- The latch of HXK_TICKL, PTP_NOWL, PTP_LSTEPL, CEL_NEWL, RIND_LOG0, TST_BITSL, ARB_WQST0 and ETH_PT0: key
  the address of the register latched. -/
  latches : SMap Word
  /-- What the last read of ARB_WQST0 latched for ARB_WQST2, until that is read: the queue, the DROP of its instance in each Vat
  and of its one copy (R178). -/
  dropLatch : Option DropLatch
  /-- The message that the service port sent last: its session and its bytes (R214). -/
  tspOut : Option (Nat × List Byte)
  /-- What the port answered to the last access made by a register command: status, then the value read. -/
  answer : List Word
  deriving DecidableEq, Repr

/-- SYS after reset: INERT, staging without an owner, no session. -/
def Sys.reset : Sys :=
  { mode := .inert, prev := .inert, cause := 0, step := 0, rngReady := false, rngFailed := false, affUp := false,
    owner := .none, staged := [], broken := false, pend := [], commits := 0, checking := [], replies := [], noise := [],
    sessions := [], waiting := [], setupRun := false, setupEnd := 0, setupStart := 0, setupCommitted := false, stopped := false, proveSour := 0,
    holdSub := false, health := 0, setupHget := [], latches := [], dropLatch := none, tspOut := none, answer := [] }

/-- A consequence that a command brings about outside the unit it acts on; `settle` carries it out within the same
step. -/
inductive Todo
  /-- A Vat is to be declared sour: cause, KIND, task, ITEM (R137, VAT_CAUSEn). -/
  | sour (v : Vat) (code kind : Nat) (task : Option TaskId) (item : Nat)
  /-- The module is to enter HOLD: CAUSE, code of VAT_HOLD (0 none), task (R189, R149). -/
  | hold (cause code : Nat) (task : Option TaskId)
  /-- A transition to another mode asked for by a block (R189): the mode and its CAUSE. -/
  | mode (m : Mode) (cause : Nat)
  deriving DecidableEq, Repr

/-- Tick, quiet window and re-curdling state of the module. -/
structure Core where
  /-- HXK_TICK (R38). -/
  tick : Nat
  /-- What the time counter has advanced through its increment since the present tick was due, in units of 2^−32 ns, below
  one increment (R38, R304). -/
  carry : Nat
  /-- The tick at which the present quiet window began; none while some task computes (R59). -/
  quietSince : Option Nat
  /-- The tick at which the last quiet window of at least 20 µs ended (R61). -/
  quietEnd : Nat
  /-- The tick from which the next 10 ms of R61 are counted. -/
  missFrom : Nat
  /-- The source of the re-curdling in progress and the Vat repaired (R142). -/
  recurdle : Option (Vat × Vat)
  /-- The tick at which the re-curdling Vat entered PROVING. -/
  rcStart : Nat
  /-- Its PLL has locked and the self-proof runs. -/
  rcLocked : Bool
  /-- Quiet-point attempts of the re-curdling. -/
  rcTries : Nat
  /-- The final copy runs (R142 step 7). -/
  rcFinal : Bool
  /-- Committed press image fields, by point: what the last commits released (R42). -/
  committed : SMap (Option (List Byte))
  /-- Appends to queues of one copy, which numbers their entries (R174). -/
  devSeq : Nat
  /-- The tick, plus 1, on whose arrivals the event controller has acted last; 0 for none (R224). -/
  evcDone : Nat
  /-- The press comparator has found a fault that blocks release (R136). -/
  pressFault : Bool
  /-- Consequences still to be carried out in the present step; empty between commands. -/
  todo : List Todo
  /-- Triggers of a change of mode that reached the Affineur while the module leaves SERVICE: they are applied after it, in
  order (R190). -/
  later : List Todo
  /-- Vats in PROVING that wait for the end of another's re-curdling or for a source, with the tick at which each entered
  PROVING, oldest first (R140). -/
  rcNext : List (Vat × Nat)
  /-- QTRY of the quiet-point attempt in progress (R158). -/
  rcQtry : Nat
  deriving DecidableEq, Repr

/-- The core after reset. -/
def Core.reset : Core :=
  { tick := 0, carry := 0, quietSince := none, quietEnd := 0, missFrom := 0, recurdle := none, rcStart := 0, rcLocked := false, rcTries := 0, rcFinal := false,
    committed := [], devSeq := 0, evcDone := 0, pressFault := false, todo := [], later := [], rcNext := [], rcQtry := 0 }

/-! ### Slot arbiters -/

/-- One arbiter (R181): slot pointer, the grant held, last grant of each rank, the table in force
and which requesters ask. -/
structure Arbiter where
  ptr : Nat
  holder : Option Nat
  /-- last(r), by rank; 63 after reset. -/
  last : SMap Nat
  /-- Requests raised: index and the clock at which it was raised. -/
  reqs : SMap (Option Nat)
  /-- The slot words in force, where they differ from four FREE slots: key word index (R183). -/
  table : SMap Word
  /-- The committed table that waits for the wrap. -/
  staged : Option (SMap Word)
  /-- The module holds the arbiter frozen (R184). -/
  ifrz : Bool
  /-- Clocks of the resource gone by at the decisions taken, as the clock of the waits. -/
  clock : Nat
  /-- The longest wait from request to grant since the last read of ARB_WMAXa, in clocks. -/
  wmax : Nat
  deriving DecidableEq, Repr

/-- An arbiter after reset. -/
def Arbiter.reset : Arbiter :=
  { ptr := 0, holder := none, last := [], reqs := [], table := [], staged := none, ifrz := false, clock := 0, wmax := 0 }

/-! ### The event controller -/

/-- One source's counter for one target (R220, R223). -/
structure EvCount where
  count : Nat
  sat : Bool
  lvl : Bool
  first : Nat
  info : Word
  /-- Tick of the last arrival, plus 1; 0 for none (R219). -/
  seen : Nat
  /-- That arrival was lost to saturation (R220). -/
  lost : Bool
  deriving DecidableEq, Repr

/-- A counter with no arrival. -/
def EvCount.zero : EvCount := { count := 0, sat := false, lvl := false, first := 0, info := 0, seen := 0, lost := false }

/-- One copy of the controller's state (R224): counters by source × 2 + target (0 Vat, 1 Affineur), groups by
group × 2 + target with the expiry tick plus 1 of a HOLDING group, and records held for want of a credit. -/
structure EvCopy where
  counts : SMap EvCount
  groups : SMap Nat
  /-- Sources × 2 + target whose record waits for a credit (R222). -/
  waiting : List Nat
  /-- The voted level of each level source at its last sample (R219): bit s for source s. -/
  levels : BitVec 64
  deriving DecidableEq, Repr

/-- A controller copy after reset. -/
def EvCopy.zero : EvCopy := { counts := [], groups := [], waiting := [], levels := 0 }

/-! ### The Cellar -/

/-- A record (R475): SEQ, KIND (1 device, 2 culture), BLOCK, REPEAT, OPSEC, PWRCYC, CODE, task and the 16 bytes of
DATA. -/
structure Rec where
  seq : Nat
  kind : Nat
  block : Nat
  rep : Nat
  opsec : Nat
  pwrcyc : Nat
  code : Nat
  task : Nat
  data : List Byte
  deriving DecidableEq, Repr

/-- The Cellar (R472 to R491). -/
structure Cel where
  /-- The MRAM: founding slots 0 to 16,383, then circulating slot c at 16,384 + c; none is KIND 0. -/
  slots : SMap (Option Rec)
  /-- SEQ of the newest record and the slot it lies in. -/
  newest : Nat
  oldest : Nat
  /-- A record has been made since the last power-on (R480). -/
  since : Bool
  devBuf : List Rec
  culBuf : List Rec
  /-- Records lost to a full device buffer and to a full culture buffer, and not yet stated in a record (R479). -/
  lostPend : Nat
  lostCul : Nat
  /-- Culture records made and dropped in the present management tick (R479). -/
  made : Nat
  dropped : Nat
  /-- SC of a clear in progress (R488). -/
  clearing : Option Nat
  /-- Whether a clear record waits in the device buffer. -/
  clearAsked : Bool
  ready : Bool
  cwrap : Bool
  seqEnd : Bool
  opsec : Nat
  pwrcyc : Nat
  /-- Culture records are accepted; the orderly power-down ends this (R483). -/
  accept : Bool
  deriving DecidableEq, Repr

/-- The production record that the founding area starts with (R472); its content is the model's choice. -/
def Rec.production : Rec :=
  { seq := 0, kind := 1, block := 0x1A, rep := 0, opsec := 0, pwrcyc := 0, code := 1, task := 0,
    data := List.replicate 16 0 }

/-- The Cellar at delivery. -/
def Cel.reset : Cel :=
  { slots := [(0, some Rec.production)], newest := 0, oldest := 16384, since := false, devBuf := [], culBuf := [],
    lostPend := 0, lostCul := 0, made := 0, dropped := 0, clearing := none, clearAsked := false, ready := false, cwrap := false,
    seqEnd := false, opsec := 0, pwrcyc := 0, accept := true }
/-! ### The Ladle and the charge pair (R233 to R273) -/

/-- What the module sees of its partner's CHG_OUT (R238). -/
inductive ChgIn | notToggling | toggling | silent
  deriving DecidableEq, Repr

/-- A frame queued for the Ladle: the requester of arbiter 32, and the header fields other than LEN, SEQ and HCRC. -/
structure TxFrame where
  req : Nat
  type : Nat
  ev : Bool
  task : Nat
  arg : Nat
  payload : List Byte
  deriving DecidableEq, Repr

/-- A full copy in progress at the primary (R259): chunks of 256 bytes still to send in the present pass (from `next`
to `stop`, then those listed), and half-blocks of queue state. -/
structure FullCopy where
  next : Nat
  stop : Nat
  list : List Nat
  half : List Nat
  deriving DecidableEq, Repr

/-- A handover or a relinquish in progress at the module in charge (R265, R266). -/
structure Leaving where
  /-- H or the cause instant C, as a tick. -/
  tick : Nat
  /-- Moves of H so far. -/
  moves : Nat
  /-- Curds have stopped, the last edge of CHG_OUT has been made. -/
  begun : Bool
  /-- FINAL has been sent. -/
  final : Bool
  /-- The mode to enter and its CAUSE. -/
  mode : Mode
  cause : Nat
  deriving DecidableEq, Repr

/-- The LDL block. -/
structure Ldl where
  /-- Own position, read at power-on: true for position B (R233). -/
  posb : Bool
  /-- Lanes received as up, and own lanes as the partner receives them. -/
  rxUp : Tri Bool
  txUp : Tri Bool
  /-- LDL_STAT.SYNC, REFUSE and POSCONF. -/
  sync : Nat
  refuse : Nat
  posconf : Bool
  chgIn : ChgIn
  /-- Ticks of the last toggles of CHG_IN, newest first. -/
  toggles : List Nat
  /-- Tick of the last toggle; none since power-on. -/
  lastEdge : Option Nat
  /-- The tick from which silence is counted: power-on or the last toggle. -/
  quietFrom : Nat
  /-- The copies of the charge controller that toggle CHG_OUT, one in each Vat region (R237). -/
  chgOut : Tri Bool
  chgline : Bool
  /-- Tick of the last valid frame (R251). -/
  lastRx : Option Nat
  /-- Tick at which the partner's epoch was last taken from a Ladle frame (R241). -/
  pepochAt : Option Nat
  /-- The epoch that a message of the partner on the train network gave last, with its tick (R241). -/
  pepochNet : Option (Nat × Nat)
  seqTx : Nat
  seqRx : Option Nat
  txq : List TxFrame
  /-- What the three lanes carried in the last slot. -/
  slot : Lanes
  /-- Frames of each task buffered until its END, oldest first (R254): key task code. -/
  rxbuf : SMap (List TxFrame)
  full : Option FullCopy
  /-- Slots since the last one that no FULL frame may take (R259). -/
  fullSlots : Nat
  handover : Option Leaving
  /-- H as told by the partner. -/
  partnerH : Option Nat
  /-- A SYNCREQ to send once the Ladle is up: its reason (R244). -/
  wantSync : Option Nat
  /-- Tick of the partner's last HEALTH frame, and of the last TIME frame sent and received. -/
  healthAt : Option Nat
  timeAt : Option Nat
  timeRx : Option Nat
  /-- The Ladle path delay in ns, measured since the link last came up (R315). -/
  pathDelay : Option Nat
  report : Nat
  /-- Words 0 to 3 of the last HEALTH frame sent, without the report number. -/
  healthSent : List Word
  /-- The GAP of the last entry to SERVICE is still to be measured (LDL_TKLAST). -/
  gapPend : Bool
  /-- Source 1926 has been raised in the present silence. -/
  warned : Bool
  /-- Source 1927 has been raised in this silence of the partner. -/
  topWarned : Bool
  /-- Curd tick plus 1 of the last applied cycle of each task: key task code (R254, R264). -/
  applied : SMap Nat
  /-- Self-tests of R261 passed and failed, and the tick of the last failure. -/
  testsOk : Nat
  testsBad : Nat
  testBadAt : Option Nat
  /-- Words outvoted in the present management tick and in the last, by lane. -/
  outvoted : Tri Nat
  outvotedLast : Tri Nat
  /-- Dirty volume queued, by tick, newest first (R255). -/
  volume : List (Nat × Nat)
  /-- The last message of the partner's Affineur: its code and bytes. -/
  aff : Option (Nat × List Byte)
  /-- The partner's last IDENT since the link came up: ARG and payload (R234). -/
  ident : Option (Nat × List Byte)
  /-- The tick at which the partner watch of step 13 began, and whether the partner has been TOGGLING in it (R246). -/
  watchAt : Option Nat
  watchTog : Bool
  /-- READY of the partner as last judged (source 1924). -/
  readySeen : Bool
  /-- Payload words voted from three copies in the present management tick (R261). -/
  voted : Nat
  deriving DecidableEq, Repr

/-- LDL after reset. -/
def Ldl.reset : Ldl :=
  { posb := false, rxUp := Tri.all false, txUp := Tri.all false, sync := 0, refuse := 0, posconf := false,
    chgIn := .notToggling, toggles := [], lastEdge := none, quietFrom := 0, chgOut := Tri.all false, chgline := false,
    lastRx := none, pepochAt := none, pepochNet := none, seqTx := 0, seqRx := none, txq := [],
    slot := Tri.all none, rxbuf := [], full := none, fullSlots := 0, handover := none, partnerH := none,
    wantSync := none, healthAt := none, timeAt := none, timeRx := none, report := 0, healthSent := [], gapPend := false, warned := false, topWarned := false, pathDelay := none, applied := [], testsOk := 0, testsBad := 0,
    testBadAt := none, outvoted := Tri.all 0, outvotedLast := Tri.all 0, volume := [], aff := none, ident := none, watchAt := none, watchTog := false, readySeen := false, voted := 0 }

/-! ### Train Ethernet (R274 to R303) -/

/-- An entry of the partner table (R282). -/
structure Station where
  ip : Nat
  pairid : Nat
  posb : Bool
  chg : Bool
  cepoch : Nat
  etbn : Nat
  /-- Tick of its last frame. -/
  heard : Nat
  stale : Bool
  deriving DecidableEq, Repr

/-- An entry of the role table (R283). -/
structure Role where
  known : Bool
  holder : Nat
  epoch : Nat
  held : Bool
  /-- Tick at which its holder last named it. -/
  heard : Nat
  deriving DecidableEq, Repr

/-- A role of which nothing is known. -/
def Role.none : Role := { known := false, holder := 0, epoch := 0, held := false, heard := 0 }

/-- The frame that a subscription holds in one Vat, as the latch took it (R293, R294): the frame, whether it was taken
at this curd instant, and the station and role epoch held in the previous curd. -/
structure PdHeld where
  stamp : Nat
  seqc : Nat
  station : Nat
  repoch : Nat
  data : List Byte
  fresh : Bool
  prev : Option (Nat × Nat)
  deriving DecidableEq, Repr

/-- What the port knows of a frame beside its queue entries: subscription, timestamp, sequenceCounter and role epoch. -/
structure PdMeta where
  sub : Nat
  stamp : Nat
  seqc : Nat
  repoch : Nat
  deriving DecidableEq, Repr

/-- A message that the module sends on the train network: 0 PD telegram, 1 announcement, 2 Mp, 3 Me; where it goes: 0 the
consist subnet, 1 the backbone, 2 both; and what an Me says: 1 unknown ComId, 2 too long, 3 busy (log entry 82). -/
structure EthMsg where
  kind : Nat
  net : Nat
  status : Nat
  dest : Nat
  comId : Nat
  pcp : Nat
  seqc : Nat
  topo : Nat
  bytes : List Byte
  /-- The ports by which it leaves (R518). -/
  ports : List Nat
  deriving DecidableEq, Repr

/-- An open MD session (R298, R300). -/
structure MdSession where
  handle : Nat
  inbox : Nat
  isMr : Bool
  ip : Nat
  comId : Nat
  deriving DecidableEq, Repr

/-- The ETH block. -/
structure Eth where
  stations : SMap (Option Station)
  /-- Frames of new stations are being dropped for want of an entry. -/
  ptDropping : Bool
  roles : SMap Role
  /-- Epochs of declared roles in MRAM. -/
  storedEpochs : SMap Nat
  /-- Per station: parts received of the announcement in progress and the roles they name. -/
  annParts : SMap (Nat × List Nat)
  inaug : Bool
  topok : Bool
  /-- The etbTopoCnt before the present one, and the time value from which the present one is in force (R280). -/
  topoPrev : Word
  topoAt : Nat
  /-- The train network directory that TTDP has produced and the module's own train-wide address in it (R278, R279); the
  ETBN count is its length. -/
  directory : List EtbNode
  trainIp : BitVec 32
  /-- Codes of tasks whose next curd sets KSTAT TOPO (R281). -/
  topoPend : List Nat
  /-- Per Vat: the frame held for each subscription, and the fragments of one that is incomplete. -/
  held : Tri (SMap (Option PdHeld))
  frags : Tri (SMap (Nat × Nat × List Byte))
  metas : List PdMeta
  /-- Subscriptions whose last curd had TIMEOUT 1. -/
  timedOut : List Nat
  /-- Commit instants of each task since its first, by task code, and each publication's next sequenceCounter. -/
  pubCount : SMap Nat
  pubSeq : SMap Nat
  /-- Telegrams released into Q32514 and not sent: the number of each, etbTopoCnt and tag at release. -/
  released : List (Nat × Nat × List Byte)
  /-- Telegrams, requests and replies that have been split into entries (R292, R299, R300). -/
  splits : Nat
  switchBad : Bool
  nextHandle : Nat
  sessions : List MdSession
  /-- Requests held by the Affineur: inbox and slot content, in order of arrival. -/
  mdHeld : List (Nat × List Byte)
  /-- Requests appended for each inbox since the last curd instant of its task. -/
  mdSent : SMap Nat
  annSeq : Nat
  /-- Tick of the last periodic announcement. -/
  annAt : Option Nat
  /-- What the last command that sent anything on the train network sent. -/
  sent : List EthMsg
  deriving DecidableEq, Repr

/-- ETH after reset. -/
def Eth.reset : Eth :=
  { stations := [], ptDropping := false, roles := [], storedEpochs := [], annParts := [], inaug := false,
    topok := false, topoPrev := 0, topoAt := 0, directory := [], trainIp := 0, topoPend := [], held := Tri.all [], frags := Tri.all [], metas := [], timedOut := [], pubCount := [],
    pubSeq := [], released := [], splits := 0, switchBad := false, nextHandle := 1, sessions := [], mdHeld := [], mdSent := [],
    annSeq := 0, annAt := none, sent := [] }

/-! ### Network time (R304 to R325) -/

/-- A master heard in a domain: its port, its last Announce and the tick of that. -/
structure Master where
  port : Nat
  ann : Announce
  at_ : Nat
  deriving DecidableEq, Repr

/-- A time domain (R309). -/
structure Dom where
  /-- Table: Domain states. -/
  state : Nat
  masters : List Master
  best : Option Master
  /-- offsetFromMaster samples since the last management tick, and the management ticks in a row that had some. -/
  samples : List Int
  streak : Nat
  delay : Nat
  /-- Ticks of the last delay response and Sync, and the interval of that as a power of two in s. -/
  delayAt : Option Nat
  syncAt : Option Nat
  syncLog : Int
  /-- Tick at which it became VALID. -/
  validAt : Nat
  /-- The last median o, as PTP_DOFS shows it, and the same with later steps of the counter added. -/
  ofs : Int
  cur : Int
  deriving DecidableEq, Repr

/-- A domain that is off. -/
def Dom.off : Dom :=
  { state := 0, masters := [], best := none, samples := [], streak := 0, delay := 0, delayAt := none, syncAt := none,
    syncLog := 0, validAt := 0, ofs := 0, cur := 0 }

/-- A capture unit in one Vat (R320): the latest edge, the count of edges, and edges since the task's last curd. -/
structure Capture where
  time : Nat
  count : Nat
  since : Nat
  deriving DecidableEq, Repr

/-- A capture unit that has seen no edge. -/
def Capture.zero : Capture := { time := 0, count := 0, since := 0 }

/-- A PTP message that the switch passed on: the ports it left by, and the transparent clock that corrected it: 0 none,
1 end-to-end, 2 peer-to-peer (Table: Supported PTP options). -/
structure PtpFwd where
  msg : PtpMsg
  ports : List Nat
  clock : Nat
  deriving DecidableEq, Repr

/-- The PTP block. -/
structure Ptp where
  /-- SOURCE of PTP_STAT. -/
  src : Nat
  /-- STATE of PTP_STAT: 0 FREERUN, 1 SYNC, 2 HOLDOVER. -/
  state : Nat
  /-- Tick at which the present HOLDOVER began. -/
  holdFrom : Option Nat
  d0 : Dom
  d1 : Dom
  /-- PTP_FREQL as written and not yet applied (R305). -/
  freqlHeld : Option Word
  /-- Tick at which SLEW was last written, until it has returned to 0. -/
  slewAt : Option Nat
  /-- A step that waits (R314). -/
  step : Option Int
  lastStep : Int
  /-- o of the last servo update; what it leaves for the next one: o(m − 1), the numerator of s(m − 1) over 256,000 ppm,
  and whether s was clamped. -/
  servoO : Int
  prev : Option (Int × Int × Bool)
  /-- Management ticks in a row with an offset above 1 ms (R312). -/
  overs : Nat
  utc : Word
  /-- A step has been applied since the last curd of the time status point's task. -/
  stepped : Bool
  ppsOfs : Int
  /-- The last PPS pulse: tick of its rising edge and its width in ms. -/
  pps : Option (Nat × Nat)
  /-- The time value from which the counter advanced to the present tick, a step applied in the tick added (R314, R317): a
  second boundary since then is one of this tick. -/
  from_ : Nat
  /-- What the counter advanced in reaching the present tick, in units of 2^−32 ns, and the tick, plus 1, at which the time unit
  has gone past the step of R322: the copies have been compared. -/
  adv : Nat
  acted : Nat
  /-- Units written at a tick: they are judged from the next one (R319). -/
  cmpAt : SMap Nat
  caps : Tri (SMap Capture)
  /-- The last PTP message that the switch passed on (R308). -/
  fwd : Option PtpFwd
  /-- The time value stored in MRAM at the last management tick (R307). -/
  stored : Nat
  deriving DecidableEq, Repr

/-- PTP after reset. -/
def Ptp.reset : Ptp :=
  { src := 0, state := 0, holdFrom := none, d0 := Dom.off, d1 := Dom.off, freqlHeld := none, slewAt := none, step := none,
    lastStep := 0, servoO := 0, prev := none, overs := 0, utc := 0, stepped := false, ppsOfs := 0, pps := none, from_ := 0, adv := 0, acted := 0, cmpAt := [],
    caps := Tri.all [], fwd := none, stored := 0 }

/-! ### MVB (R326 to R353) -/

/-- The MVB block. -/
structure Mvb where
  /-- CUR, NEXT, CDN and MCNT of MVB_STAT. -/
  cur : Nat
  next : Nat
  cdn : Nat
  mcnt : Nat
  /-- The set that the administrator polls from. -/
  poll : Nat
  /-- The announcement of this macro-cycle carried CDN. -/
  announced : Bool
  /-- NEXT was changed by a commit while a switch was pending (R348). -/
  setChanged : Bool
  joined : Bool
  /-- MCNT and receive timestamp of the last frame of JPORT, none after a silence. -/
  lastJoin : Option (Nat × Nat)
  /-- Tick of the last valid frame. -/
  lastValid : Nat
  /-- Tick at which a committed word of the port table was last applied (R340). -/
  tableAt : Option Nat
  /-- Lines sound; frames in a row valid on the other line only; valid frames in a row (R327). -/
  lineA : Bool
  lineB : Bool
  badA : Nat
  badB : Nat
  goodA : Nat
  goodB : Nat
  /-- F-code and address of the last master frame that no valid slave frame has answered in time, and the sink port whose slave
  frame is awaited. -/
  last : Option (Nat × Nat)
  await : Option Nat
  /-- Source buffers, where a release or a load has filled them. -/
  buffers : SMap (Option (List Byte))
  /-- Per Vat: the queue entry held for each sink port, and the ports with a frame taken at the last curd. -/
  held : Tri (SMap (Option (List Byte)))
  fresh : Tri (List Nat)
  timedOut : List Nat
  /-- The administrator: whether the module is it, polls left in the basic period, the tick of its boundary. -/
  admin : Bool
  polls : List (Nat × Nat)
  period : Nat
  /-- Acknowledgement words received in this macro-cycle, by port. -/
  acks : SMap (Option Word)
  /-- The last valid announcement: CUR, NEXT, CDN. -/
  ann : Option (Nat × Nat × Nat)
  /-- CUR has changed since the last curd of the status point's task. -/
  switched : Bool
  /-- The last frame sent: a master frame (F-code, address) or a reply (F-code, address, data). -/
  sentMaster : Option (Nat × Nat)
  sentReply : Option (Nat × Nat × List Byte)
  deriving DecidableEq, Repr

/-- MVB after reset. -/
def Mvb.reset : Mvb :=
  { cur := 0, next := 0, cdn := 0, mcnt := 0, poll := 0, announced := false, setChanged := false, joined := false,
    lastJoin := none, lastValid := 0, tableAt := none, lineA := false, lineB := false, badA := 0, badB := 0, goodA := 0, goodB := 0,
    last := none, await := none, buffers := [], held := Tri.all [], fresh := Tri.all [], timedOut := [], admin := false,
    polls := [], period := 0, acks := [], ann := none, switched := false, sentMaster := none, sentReply := none }

/-! ### CAN (R354 to R374) -/

/-- A frame to send: identifier word, length, flags byte, data, and whether it is a reference message. -/
structure CanFrame where
  idw : Word
  len : Nat
  flags : Nat
  data : List Byte
  isRef : Bool
  deriving DecidableEq, Repr

/-- A frame in the monitor window, with its filter index (R370). -/
structure MonFrame where
  rx : CanRx
  index : Nat
  deriving DecidableEq, Repr

/-- One CAN controller. -/
structure CanCtl where
  tec : Nat
  rcv : Nat
  /-- 0 error active, 1 error passive, 2 bus-off. -/
  state : Nat
  recov : Bool
  /-- The transmit store in order of entry, without the frozen head. -/
  store : List CanFrame
  frozen : Option CanFrame
  /-- The identifier word that the frozen head of the latest bus-off had (R365). -/
  offIdw : Word
  refMsg : Option CanFrame
  /-- SOF of the last reference message sent, none after EN or an entry to SERVICE. -/
  refLast : Option Nat
  /-- The frame offered for arbitration. -/
  offered : Option CanFrame
  sentCount : Nat
  /-- Transmission is open (R366), as last judged. -/
  opened : Bool
  /-- SEQ of the last release (R362). -/
  lastSeq : Nat
  /-- For receive queues 0 and 1: a frame has been dropped since the task's previous curd. -/
  lost0 : Bool
  lost1 : Bool
  /-- The task's last curd carried such a drop (QLOST), of receive queues 0 and 1 (R359). -/
  shown0 : Bool
  shown1 : Bool
  /-- A frame of either queue has been dropped since the previous curd of the status point's task (R371). -/
  lostSt : Bool
  /-- The tick at which the last reference message was queued (R369). -/
  refTick : Option Nat
  window : Option MonFrame
  pendWin : Option MonFrame
  /-- The owner of the lock and the tick of its last read. -/
  lock : Option (Writer × Nat)
  /-- The bus termination, held at the value last committed in every mode and without power (R355). -/
  term : Bool
  deriving DecidableEq, Repr

/-- A controller after reset. -/
def CanCtl.reset : CanCtl :=
  { tec := 0, rcv := 0, state := 0, recov := false, store := [], frozen := none, offIdw := 0, refMsg := none, refLast := none,
    offered := none, sentCount := 0, opened := false, lastSeq := 0, lost0 := false, lost1 := false, shown0 := false, shown1 := false,
    lostSt := false, refTick := none, window := none,
    pendWin := none, lock := none, term := false }

/-! ### The legacy rack port (R375 to R389) -/

/-- A window transfer that the bridge makes: the entry's data for a write, the first word not transferred, the words read so far as
they stood on AD, repeats of the present transaction, and the tick of a back-off that waits for its repeat. -/
structure BrgXfer where
  write : Bool
  data : List Byte
  next : Nat
  got : List Word
  retries : Nat
  backed : Option Nat
  deriving DecidableEq, Repr

/-- A transaction of the bridge on the rack bus: its window, its direction, its address-phase word and the words that it drives on AD
in its data phases (R376, R380). -/
structure BrgTrans where
  win : Nat
  write : Bool
  addr : Word
  ad : List Word
  deriving DecidableEq, Repr

/-- The BRG block. -/
structure Brg where
  /-- Transfers in progress, by window. -/
  xfers : SMap (Option BrgXfer)
  /-- The transaction on the bus that arbiter 33 has granted. -/
  trans : Option BrgTrans
  /-- Reads of a window that fell due while an earlier read of it ran. -/
  again : SMap Nat
  results : SMap Nat
  /-- BRG_WCTL and BRG_WADR under which the transfer of a window runs, while it lasts (R389). -/
  under : SMap (Option (Word × Word))
  /-- Words gathered for an INBOUND window. -/
  gathered : SMap (List Word)
  /-- Side-band lines as sampled: IRQ asserted, board present, SYSFAIL asserted. -/
  irq : BitVec 16
  pres : BitVec 16
  sysfail : Bool
  /-- The slot that owns the bus as a rack master, and the slot last granted. -/
  grant : Option Nat
  lastGrant : Nat
  /-- Per Vat: the latest OK entry taken for each window. -/
  held : Tri (SMap (Option (List Byte)))
  /-- The bridge drives the bus (R386), as last judged. -/
  driving : Bool
  deriving DecidableEq, Repr

/-- BRG after reset. -/
def Brg.reset : Brg :=
  { xfers := [], trans := none, again := [], results := [], under := [], gathered := [], irq := 0, pres := 0, sysfail := false, grant := none, lastGrant := 15,
    held := Tri.all [], driving := false }

/-! ### The field I/O unit: DIO, SPD and ALP (R390 to R436) -/

/-- A speed input or pair on one comparator path (R411): 0 STILL, 1 STARTING, 2 RUN, 3 REVERSED. -/
structure SpdPath where
  state : Nat
  /-- Modulo 2^32. -/
  count : Nat
  p : Nat
  tl : Nat
  dir : Bool
  /-- Simultaneous changes so far. -/
  qerr : Nat
  deriving DecidableEq, Repr

/-- A path that is still, with a count of 0. -/
def SpdPath.zero : SpdPath := { state := 0, count := 0, p := 0, tl := 0, dir := false, qerr := 0 }

/-- One comparator path of every input and readback. -/
structure FPath where
  levels : BitVec 64
  tpfail : BitVec 64
  rb : BitVec 32
  rberr : BitVec 32
  spdLev : BitVec 8
  /-- BREAK and SHORT of each speed input. -/
  spdBrk : BitVec 8
  spdShort : BitVec 8
  spd : SMap SpdPath
  deriving DecidableEq, Repr

/-- A path after power-on. -/
def FPath.zero : FPath := { levels := 0, tpfail := 0, rb := 0, rberr := 0, spdLev := 0, spdBrk := 0, spdShort := 0, spd := [] }

/-- A conversion result as it is delivered (R424, R426). -/
structure AlpRes where
  y : Int
  x : Int
  time : Nat
  kstat : Nat
  valid : Bool
  deriving DecidableEq, Repr

/-- What a lane's last valid input frame carried (R391), with the time value of its sampling. -/
structure InFrame where
  path : FPath
  fault : BitVec 32
  openD : BitVec 32
  tpflt : BitVec 8
  fsok : BitVec 4
  time : Nat
  alp : SMap (Option AlpRes)
  deriving DecidableEq, Repr

/-- A lane on which no frame has come. -/
def InFrame.zero : InFrame := { path := FPath.zero, fault := 0, openD := 0, tpflt := 0, fsok := 0, time := 0, alp := [] }

/-- A lane's gate commands and analog setpoints. -/
structure FCmd where
  gates : BitVec 32
  aout : SMap Word
  deriving DecidableEq, Repr

/-- No command. -/
def FCmd.zero : FCmd := { gates := 0, aout := [] }

/-- What one commit changes in a lane's commands (R392): the commit tick, the outputs of the task with their gate commands, and the
setpoints of its channels. -/
structure FPatch where
  commit : Nat
  mask : BitVec 32
  gates : BitVec 32
  aout : List (Nat × Word)
  deriving DecidableEq, Repr

/-- The field side of a lane: the commands in force, those that wait for their commit instants in the order in which they came,
whether the gate inputs are held off, and the tick of the last valid refresh. -/
structure FLane where
  cmd : FCmd
  pend : List FPatch
  off : Bool
  fresh : Option Nat
  deriving DecidableEq, Repr

/-- A lane after power-on. -/
def FLane.zero : FLane := { cmd := FCmd.zero, pend := [], off := true, fresh := none }

/-- One analog channel. -/
structure AlpCh where
  /-- The row of Table: Analog channels by mode in force. -/
  row : Nat
  /-- The damped value as a binary64 code; none before the first conversion after a restart. -/
  y : Option Nat
  res : Option AlpRes
  /-- y, x and time of the last result with VALID 1. -/
  last : Option (Int × Int × Nat)
  /-- Settling counts still running: conversions left and N. -/
  settle : List (Nat × Nat)
  /-- The tick of the last change that began settling (R433). -/
  settleAt : Option Nat
  /-- The tick in which the conversion of `res` ended, and the result before it (R424). -/
  resAt : Nat
  prev : Option AlpRes
  /-- Conversions in a row that contradict ALARMLO, ALARMHI and BREAK, and the flags. -/
  loRun : Nat
  hiRun : Nat
  brkRun : Nat
  lo : Bool
  hi : Bool
  brk : Bool
  outerr : Bool
  /-- Ticks since which the readback has been outside or inside its threshold without a break. -/
  errFrom : Option Nat
  okFrom : Option Nat
  /-- The setpoint driven and the tick of its last change. -/
  setpoint : Option Int
  setAt : Nat
  /-- The channel powers its loop (IN_SRC, R427), from the field supply of its connector (R419). -/
  powers : Bool
  deriving DecidableEq, Repr

/-- A channel that is off. -/
def AlpCh.zero : AlpCh :=
  { row := 0, y := none, res := none, last := none, settle := [], settleAt := none, resAt := 0, prev := none, loRun := 0, hiRun := 0, brkRun := 0, lo := false,
    hi := false, brk := false, outerr := false, errFrom := none, okFrom := none, setpoint := none, setAt := 0, powers := false }

/-- The field I/O unit and the Vats' ends of its lanes. -/
structure Fio where
  paths : Tri FPath
  frames : Tri InFrame
  lanes : Tri FLane
  /-- Commands that the press has for each lane: those last sent, and the frames still on their way. -/
  outs : Tri FCmd
  tx : Tri (List FPatch)
  /-- Sequence numbers of each lane's last frame, up and down (R390). -/
  seqUp : Tri (Option (BitVec 8))
  seqDown : Tri (Option (BitVec 8))
  fault : BitVec 32
  /-- FAULT of the group switches (R404). -/
  gfault : BitVec 4
  openD : BitVec 32
  tpflt : BitVec 8
  /-- The last pulse of each test-pulse supply: the tick at which it began and its width in µs. -/
  pulses : SMap (Option (Nat × Nat))
  /-- The tick, plus 1, at which DEB of an input last changed (R394). -/
  debAt : SMap Nat
  /-- Per Vat: the simultaneous changes of each speed input that a curd has shown (R412). -/
  qshown : Tri (SMap Nat)
  fsok : BitVec 4
  fsVolt : SMap Nat
  fsCurr : SMap Nat
  /-- The field side holds every output inert after a loss of refresh (R20). -/
  inert : Bool
  /-- The tick of the last loss of refresh. -/
  lossAt : Option Nat
  /-- Effective commands of the outputs as last voted, and the tick of each one's last change. -/
  eff : BitVec 32
  changed : SMap Nat
  /-- Voters that failed their last test (R408): 32 + c for group switch c. -/
  stageBad : BitVec 36
  alp : SMap AlpCh
  cjok : BitVec 4
  cjTemp : SMap Int
  /-- Attempts of the loop proof made, and channels that failed the last. -/
  lpTries : Nat
  /-- The tick of the last attempt (R430). -/
  lpAt : Nat
  /-- A management tick has passed since the last measurement that HOLD and MAINTENANCE repeat (R430). -/
  lpDue : Bool
  lpFail : BitVec 32
  deriving DecidableEq, Repr

/-- The unit after reset. -/
def Fio.reset : Fio :=
  { paths := Tri.all FPath.zero, frames := Tri.all InFrame.zero, lanes := Tri.all FLane.zero, outs := Tri.all FCmd.zero,
    tx := Tri.all [], seqUp := Tri.all none, seqDown := Tri.all none, fault := 0, gfault := 0, openD := 0, tpflt := 0, pulses := [], debAt := [], qshown := Tri.all [], fsok := 0, fsVolt := [], fsCurr := [],
    inert := true, lossAt := none, eff := 0, changed := [], stageBad := 0, alp := [], cjok := 0, cjTemp := [], lpTries := 0, lpAt := 0, lpDue := false, lpFail := 0 }


/-! ### Rind (R437 to R471) -/

/-- A safety input as Rind filters it: it demands; the start, on Rind's clock, of the samples in a row that read the other
way; pulses in a row whose sample read 1; the test-pulse check has failed; the pair's discrepancy: since when, and found. -/
structure RindIn where
  dem : Bool
  since : Option Nat
  badTp : Nat
  tpFail : Bool
  discAt : Option Nat
  disc : Bool
  /-- The level of the last sample that counted. -/
  level : Bool
  deriving DecidableEq, Repr

/-- An input of which nothing has been sampled. -/
def RindIn.zero : RindIn := { dem := false, since := none, badTp := 0, tpFail := false, discAt := none, disc := false, level := false }

/-- A speed channel: P and the time of the last edge in ns of Rind's clock, and BREAK or SHORT as last seen. -/
structure RindSpd where
  p : Nat
  tl : Option Nat
  bad : Bool
  deriving DecidableEq, Repr

/-- A channel without an edge. -/
def RindSpd.zero : RindSpd := { p := 0, tl := none, bad := false }

/-- Rind and the part of the module that speaks with it. -/
structure Rind where
  /-- Rind is powered. -/
  on : Bool
  state : Nat
  cause : Nat
  input : Nat
  cmdres : Nat
  /-- A START diagnostic has failed (status SELFTEST). -/
  selfFail : Bool
  /-- The least cause that a failure in START has had (R459). -/
  startCause : Option Nat
  /-- The TE outputs whose readback differed from the command when they were last tested (R444). -/
  teDiff : BitVec 2
  /-- Rind's own clock in ns, as of its last cycle or evaluation. -/
  clk : Nat
  /-- The accepted set of 14 words, the salt and digest of the password, the first entry of the change log and the latest
  ones, newest first; wrong passwords in a row; operating seconds at which UNLOCK was blocked. These outlast power. -/
  accepted : Option (List Word)
  digest : Option (Nat × Nat)
  logFirst : Option (List Word)
  log : List (List Word)
  logSeq : Nat
  wrong : Nat
  blockAt : Option Nat
  /-- The session that unlocked and the tick of its last RIND_CMD write. -/
  unlock : Option (Fin 4 × Nat)
  /-- The tick of the write of an ACCEPT that waits for a reset pulse, and the certificate fingerprint of its session
  (R465, R466). -/
  acceptAt : Option (Nat × Nat)
  inputs : SMap RindIn
  /-- Rind's clock at the last pulse seen on each TP line. -/
  tpSeen : SMap Nat
  spd0 : RindSpd
  spd1 : RindSpd
  /-- Since when the speeds differ too much, and cause SPEEDDIFF present. -/
  diffAt : Option Nat
  diff : Bool
  fsLow : Bool
  /-- DECEL: td, vd, the cause of its entry, cycles at standstill. -/
  td : Nat
  vd : Nat
  still : Nat
  /-- Rind's clock when a LOCKED cause was last present. -/
  faultAt : Nat
  /-- Windows in a row in and outside the band; the check has passed 3 windows; cause CLOCKREF present. -/
  oscGood : Nat
  oscBad : Nat
  oscPassed : Bool
  clockref : Bool
  /-- READY as last reported. -/
  ready : Bool
  /-- The last status sent to the module, with its tick: the 16 bytes of the status point; none after 5 ms without one. -/
  sent : Option (List Byte)
  sentAt : Nat
  deriving DecidableEq, Repr

/-- Rind after reset. -/
def Rind.reset : Rind :=
  { on := false, state := 0, cause := 0, input := 0xFF, cmdres := 0, selfFail := false, startCause := none, teDiff := 0, clk := 0, accepted := none,
    digest := none, logFirst := none, log := [], logSeq := 0, wrong := 0, blockAt := none, unlock := none,
    acceptAt := none, inputs := [], tpSeen := [], spd0 := RindSpd.zero, spd1 := RindSpd.zero,
    diffAt := none, diff := false, fsLow := false, td := 0, vd := 0, still := 0, faultAt := 0, oscGood := 0, oscBad := 0,
    oscPassed := false, clockref := false, ready := false, sent := none, sentAt := 0 }

/-! ### Field update (R492 to R514) -/

/-- What a slot of the image store holds: nothing, the firmware installed at manufacture, or bytes that were loaded. -/
inductive Stored
  | none
  | factory
  | bytes (l : List Byte)
  deriving DecidableEq, Repr

/-- A slot with its entry of the slot directory (R493, R494). -/
structure Slot where
  state : Nat
  tries : Nat
  chkfail : Nat
  reason : Nat
  held : Stored
  deriving DecidableEq, Repr

/-- An empty slot. -/
def Slot.empty : Slot := { state := 0, tries := 0, chkfail := 0, reason := 0, held := .none }

/-- A key (R496). -/
structure Key where
  id : Nat
  x : Nat
  y : Nat
  use : Nat
  deriving DecidableEq, Repr

/-- A settings area (R510). -/
structure Settings where
  sfmt : Nat
  seq : Nat
  keys : List Key
  serial : Nat
  rollmin : Nat
  /-- The service port's address and prefix length (R504). -/
  svc : Option (Nat × Nat)
  /-- Whether the CRC-32C of its header passes (R510). -/
  whole : Bool
  deriving DecidableEq, Repr

/-- The owner of a load: a session, or the partner (R502, R511). -/
inductive Loader | session (n : Fin 4) | partner
  deriving DecidableEq, Repr

/-- A load in progress. -/
structure Load where
  owner : Loader
  kind : Nat
  delta : Bool
  length : Nat
  slot : Fin 4
  got : List Byte
  deriving DecidableEq, Repr

/-- An image on its way to the partner: slot, first piece not acknowledged, pieces sent, tick of the last sending. -/
structure PeerTx where
  slot : Fin 4
  owner : Fin 4
  acked : Nat
  sent : Nat
  sentAt : Nat
  /-- END has been sent. -/
  ended : Bool
  deriving DecidableEq, Repr

/-- A copy of the slot directory (R493): its sequence number, state, TRIES and REASON of each slot, and whether its CRC-32C
passes, which it does not after a write cut short. Log entry 110. -/
structure DirCopy where
  seq : BitVec 32
  slots : List (Nat × Nat × Nat)
  whole : Bool
  deriving DecidableEq, Repr

/-- The UPD block. -/
structure Upd where
  /-- The two copies of the slot directory in the flash. -/
  dir0 : DirCopy
  dir1 : DirCopy
  slot0 : Slot
  slot1 : Slot
  slot2 : Slot
  slot3 : Slot
  /-- Settings areas A and B, and the SFMT of the firmware in use, which picks between them (R510). -/
  areaA : Option Settings
  areaB : Option Settings
  sfmt : Nat
  /-- The service port's address and prefix length in force since the last start from the reference (R504). -/
  svcPort : Nat × Nat
  load : Option Load
  peer : Option PeerTx
  /-- The status that the partner's last acknowledgement gave for END (R511). -/
  peerStatus : Nat
  /-- The last acknowledgement of END given to the partner: its piece number and status (R511). -/
  endAck : Option (Nat × Nat)
  /-- The slot of the firmware that runs, none before step 2 of the power-up sequence, and the version word of its header as
  it was started (R512). -/
  running : Option (Fin 4)
  fwver : Nat
  /-- The slot of the loaded culture. -/
  culture : Option (Fin 4)
  /-- Management ticks for which the conditions of R508 have held. -/
  held : Nat
  /-- Whether they held at the last one. -/
  confok : Bool
  /-- A Vat has been declared sour since the last management tick. -/
  soured : Bool
  deriving DecidableEq, Repr

/-- The settings as delivered: Thenicor's firmware key, and the buyer's key-administration key, ordered here as trust anchor too,
without which no session could install one (R496). Log entry 20. -/
def Settings.factory : Settings :=
  { sfmt := leAt Config.factoryImage 12 2, seq := 0, whole := true,
    keys := [⟨0, Config.firmwareKeyX.toNat, Config.firmwareKeyY.toNat, 1⟩,
             ⟨Config.buyerKeyId.toNat, Config.buyerKeyX.toNat, Config.buyerKeyY.toNat, 12⟩],
    serial := 0, rollmin := 0, svc := none }

/-- The directory as delivered: the firmware installed at manufacture is ACTIVE. Log entry 20. -/
def DirCopy.factory (seq : BitVec 32) : DirCopy := ⟨seq, [(7, 0, 0), (0, 0, 0), (0, 0, 0), (0, 0, 0)], true⟩

/-- The service port's address where the settings hold none: 192.168.254.1/24 (R504). -/
def defaultSvc : Nat × Nat := (0xC0A8FE01, 24)

/-- UPD as delivered. Log entry 20. -/
def Upd.reset : Upd :=
  { dir0 := DirCopy.factory 1, dir1 := DirCopy.factory 0, svcPort := defaultSvc,
    slot0 := { Slot.empty with state := 7, held := .factory }, slot1 := Slot.empty, slot2 := Slot.empty, slot3 := Slot.empty,
    areaA := some Settings.factory, areaB := none, sfmt := Settings.factory.sfmt, load := none, peer := none, peerStatus := 0,
    endAck := none, running := none, fwver := 0, culture := none, held := 0, confok := false, soured := false }

/-! ### Loopbacks and tests (R515 to R528) -/

/-- What RINDPROOF has observed (R520, R523): inputs seen demanding in the steps of their proof, whether a response was late, and the
demands that await their response with the tick of each. `unit` is the input, pair or channel (8 and 9) whose steps are under way,
`step` the last one confirmed (1 the state entered with the input recorded and torque off, 2 the reset refused), and `done` the
units confirmed to the end. -/
structure Proof where
  seen : BitVec 10
  late : Bool
  waits : List (Nat × Nat)
  lastState : Nat
  unit : Option Nat
  step : Nat
  done : BitVec 10
  deriving DecidableEq, Repr

/-- Nothing observed. -/
def Proof.zero : Proof := { seen := 0, late := false, waits := [], lastState := 0, unit := none, step := 0, done := 0 }

/-- The TST block beside its stored words: the running or last test. -/
structure Tst where
  /-- 0 idle, 1 running, 2 done. -/
  state : Nat
  session : Nat
  testid : Nat
  target : Nat
  depth : Nat
  dur : Nat
  result : Nat
  /-- Tick of the start. -/
  from_ : Nat
  bits : Nat
  errs : Nat
  /-- VATOUT: a second Vat has been declared sour; tick of OP 2. -/
  vatBad : Bool
  vatBack : Option Nat
  /-- VATOUT: the Vat was SERVING again within 100 ms of OP 2. LPROOF: the loop proof has been run. -/
  vatOk : Bool
  loopDone : Bool
  /-- VOTER: the voter test has been run, and whether every vote was right. -/
  votes : Option Bool
  proof : Proof
  /-- The loopback depths in force, by interface: those of TST_LBKn as of the last fast-plane tick (R528). -/
  depths : SMap Nat
  deriving DecidableEq, Repr

/-- TST after reset. -/
def Tst.reset : Tst :=
  { state := 0, session := 0, testid := 0, target := 0, depth := 0, dur := 0, result := 0, from_ := 0, bits := 0, errs := 0,
    vatBad := false, vatBack := none, vatOk := false, loopDone := false, votes := none, proof := Proof.zero, depths := [] }

/-! ### Power (R529 to R551) -/

/-- The PWR block beside its stored words. -/
structure Pwr where
  /-- Tick at which the interruption in progress was detected. -/
  intrAt : Option Nat
  /-- Lowest input voltage during it, and highest and tick while the input switch is open, in units of 10 mV. -/
  lowest : Nat
  highest : Nat
  openAt : Option Nat
  /-- The orderly power-down has begun: its tick. -/
  downAt : Option Nat
  /-- Domains in fault: 0 intermediate bus, 1 to 3 Vat cores, 4 Affineur, 5 logic I/O, 6 field logic, 7 Rind. -/
  fault : BitVec 8
  deriving DecidableEq, Repr

/-- PWR after reset. -/
def Pwr.reset : Pwr := { intrAt := none, lowest := 0, highest := 0, openAt := none, downAt := none, fault := 0 }


/-! ### The whole machine -/

/-- The module but for the queue of waiting commands. -/
structure Chip where
  sys : Sys
  core : Core
  /-- Live values of the configuration words that are not computed from other state: key address, where a word
  differs from its reset value 0 after the reset word has been taken off by exclusive or (see `Machine/Regs.lean`). -/
  regs : SMap Word
  vats : Tri VatPlane
  tasks : SMap TaskSt
  culture : Culture
  /-- Queues of one copy: outbound, device and management queues (Table: Queue kinds). -/
  devq : SMap Queue
  /-- Arbiters: banks at 3 × a + Vat, the others at 96 + (a − 32). -/
  arbs : SMap Arbiter
  evc : Tri EvCopy
  cel : Cel
  ldl : Ldl
  eth : Eth
  ptp : Ptp
  mvb : Mvb
  can : SMap CanCtl
  brg : Brg
  fio : Fio
  rind : Rind
  upd : Upd
  tst : Tst
  pwr : Pwr
  /-- Stamps drawn so far; each names one free value of Config. -/
  free : Nat
  deriving DecidableEq, Repr

/-- Reasons the machine stops with a fault. No command of this block does: the spec gives every one an effect, and
an access to an address that does not exist answers UNMAPPED (R23). Safe. -/
inductive Fault
  /-- Raised by nothing: it stands so that the type is inhabited. Safe. -/
  | unreachable
  deriving DecidableEq, Repr

/-- Reasons a command is not carried out. -/
inductive Refusal
  /-- Raised by exec's arm for a command that has no meaning yet. Safe. -/
  | notModelled (mnemonic : String)
  deriving DecidableEq, Repr

/-- The whole machine: the module and the commands that wait, the front first. -/
structure State where
  chip : Chip
  pending : List Instr
  deriving DecidableEq, Repr

/-- The module after reset, as it is delivered: everything at its reset value (R10), memories of values that last
as the log names them. -/
def Chip.reset : Chip :=
  { sys := Sys.reset, core := Core.reset, regs := [], vats := Tri.all VatPlane.reset, tasks := [],
    culture := Culture.none, devq := [], arbs := [], evc := Tri.all EvCopy.zero, cel := Cel.reset,
    ldl := Ldl.reset,
    eth := Eth.reset,
    ptp := Ptp.reset,
    mvb := Mvb.reset,
    can := [],
    brg := Brg.reset,
    fio := Fio.reset,
    rind := Rind.reset,
    upd := Upd.reset,
    tst := Tst.reset,
    pwr := Pwr.reset,
    free := 0 }

/-- The machine right after reset: nothing waits. -/
def State.reset : State := { chip := Chip.reset, pending := [] }

/-- A command that carries on with the module changed by `f`. -/
def State.run (s : State) (f : Chip → Chip) : Host.Outcome State Fault Refusal :=
  .next { s with chip := f s.chip }

end Machine

end Sys2Proof
end

