-- ==== Sys2Proof/Machine/Flags.lean ====
section
/-! DEFINITION. The flag results of the integer and compare instructions (Table: Integer flag results, R77) and
the condition codes (Table: Condition codes, R76), for any operand width. -/

namespace Sys2Proof.Machine

/-- The result of an integer function with its C and V. -/
structure AluOut (n : Nat) where
  r : BitVec n
  c : Bool
  v : Bool

/-- A result that clears C and V. -/
def plainOut {n : Nat} (r : BitVec n) : AluOut n := ⟨r, false, false⟩

/-- a + b + carry: C is the carry out of the top bit, V signed overflow. -/
def addOut {n : Nat} (a b : BitVec n) (cin : Bool) : AluOut n :=
  let s := a.toNat + b.toNat + b2n cin
  let i := a.toInt + b.toInt + b2n cin
  let r := BitVec.ofNat n s
  ⟨r, decide (2 ^ n ≤ s), decide (r.toInt ≠ i)⟩

/-- a − b − borrow: C is 1 if a is less than b unsigned with the borrow included, V signed overflow. -/
def subOut {n : Nat} (a b : BitVec n) (bin : Bool) : AluOut n :=
  let r := a - b - BitVec.ofNat n (b2n bin)
  ⟨r, decide (a.toNat < b.toNat + b2n bin), decide (r.toInt ≠ a.toInt - b.toInt - b2n bin)⟩

/-- An exact integer saturated to the signed range; V is 1 if it saturated. -/
def satOut {n : Nat} (i : Int) : AluOut n :=
  if i < -(2 ^ (n - 1) : Int) then ⟨BitVec.ofInt n (-(2 ^ (n - 1) : Int)), false, true⟩
  else if (2 ^ (n - 1) : Int) - 1 < i then ⟨BitVec.ofInt n ((2 ^ (n - 1) : Int) - 1), false, true⟩
  else plainOut (BitVec.ofInt n i)

/-- s with Z and N from a result and C and V as given. -/
def setZncv {n : Nat} (s : SReg) (o : AluOut n) : SReg :=
  { s with z := decide (o.r = 0), n := o.r.msb, c := o.c, v := o.v }

/-- The condition codes of Table: Condition codes. -/
def cond (code : Nat) (s : SReg) : Bool :=
  match code with
  | 0 => s.z
  | 1 => !s.z
  | 2 => s.n != s.v
  | 3 => s.n == s.v
  | 4 => s.z || (s.n != s.v)
  | 5 => !s.z && (s.n == s.v)
  | 6 => s.c
  | 7 => !s.c
  | 8 => s.c || s.z
  | 9 => !s.c && !s.z
  | 10 => s.n
  | 11 => !s.n
  | 12 => s.v
  | 13 => !s.v
  | 14 => s.q
  | _ => true

/-- s as a word (Table: s register map). -/
def SReg.word (s : SReg) : Word :=
  BitVec.ofNat 32 ((s.xcode % 256) * 2 ^ 24 + (s.xpc % 32768) * 2 ^ 8 + b2n s.t * 32 + b2n s.q * 16 + b2n s.v * 8 + b2n s.c * 4
    + b2n s.n * 2 + b2n s.z)

/-- s after an MTS of `w`: Z, N, C, V and Q only (R74). -/
def SReg.write (s : SReg) (w : Word) : SReg :=
  { s with q := bit w 4, v := bit w 3, c := bit w 2, n := bit w 1, z := bit w 0 }

end Sys2Proof.Machine
end

