-- ==== Sys2Proof/Machine/Crc.lean ====
section
/-! DEFINITION. CRC-32C with the parameters of the scope chapter: polynomial 0x1EDC_6F41 (reflected 0x82F6_3B78),
initial value 0xFFFF_FFFF, reflected input and output, final inversion. -/

namespace Sys2Proof.Machine

/-- One bit step of the reflected CRC-32C register. -/
def crcBit (s : Nat) : Nat := if s % 2 = 1 then Nat.xor (s / 2) 0x82F63B78 else s / 2

/-- One byte taken into the running state. -/
def crcByte (s : Nat) (b : Byte) : Nat :=
  crcBit (crcBit (crcBit (crcBit (crcBit (crcBit (crcBit (crcBit (Nat.xor s b.toNat))))))))

/-- A byte string taken into the running state. -/
def crcBytes (s : Nat) (bs : List Byte) : Nat := bs.foldl crcByte s

/-- The CRC-32C of a byte string. -/
def crc32c (bs : List Byte) : Nat := Nat.xor (crcBytes 0xFFFFFFFF bs) 0xFFFFFFFF

/-- One bit step of the register of the CCITT CRC-16 (polynomial 0x1021), most significant bit first. -/
def crc16Bit (s : Nat) : Nat := if 0x8000 ≤ s then Nat.xor ((s * 2) % 0x10000) 0x1021 else s * 2

/-- One byte taken into the CRC-16 register. -/
def crc16Byte (s : Nat) (b : Byte) : Nat :=
  crc16Bit (crc16Bit (crc16Bit (crc16Bit (crc16Bit (crc16Bit (crc16Bit (crc16Bit (Nat.xor s (b.toNat * 256)))))))))

end Sys2Proof.Machine
end

