-- ==== Sys2Proof/Machine/RegMap.lean ====
section
/-! DEFINITION. The register maps of the configuration space: one entry per register (or array of registers)
of the spec's register address tables, with its fields from the highest bit down as R6 asks, each with its
access code, reset value, and whether the spec marks it reserved or expert. A reset value that the spec gives
as fixed at manufacture, found in memory, or computed from other words stands here as 0 and is supplied by
`regView` (Machine/Regs.lean) or by State.reset. -/

namespace Sys2Proof.Machine

/-- The access codes of R6. -/
inductive Access | rw | ro | wo | w1c | rc | st
  deriving DecidableEq, Repr

/-- One field of a register map (R6): bits [msb:lsb], access, reset value, and its RSVD and expert marks. -/
structure Field where
  msb : Nat
  lsb : Nat
  acc : Access
  reset : Nat
  rsvd : Bool
  expert : Bool
  deriving DecidableEq, Repr

/-- A register, or an array of `count` by `count2` registers `stride` and `stride2` words apart. -/
structure RegDef where
  base : Nat
  count : Nat
  stride : Nat
  count2 : Nat
  stride2 : Nat
  fields : List Field
  deriving DecidableEq, Repr

/-- The address of register `n` (and `m`, in an array of two indices). -/
def RegDef.addr (r : RegDef) (n : Nat := 0) (m : Nat := 0) : Nat := r.base + r.stride * n + r.stride2 * m

/-- Whether address `a` is register `n`, `m` of `r` for some indices in range. -/
def RegDef.covers (r : RegDef) (a : Nat) : Bool :=
  r.base ≤ a &&
  (let o := a - r.base
   let n := if r.stride = 0 then 0 else o / r.stride
   let m := if r.stride2 = 0 then 0 else (o - r.stride * n) / r.stride2
   n < r.count && m < r.count2 && r.addr n m = a)

namespace Reg

/-- SYS_BLKIDn: CODE [31:24], MAJOR [23:16], MINOR [15:8], EXPERT [0]. -/
def sysBlkid : RegDef := ⟨0x000100, 28, 1, 1, 0,
  [⟨31, 24, .ro, 0, false, false⟩, ⟨23, 16, .ro, 0, false, false⟩, ⟨15, 8, .ro, 0, false, false⟩,
   ⟨7, 1, .ro, 0, true, false⟩, ⟨0, 0, .ro, 0, false, false⟩]⟩

/-- SYS_IDENT: PART [31:16], HWREV [15:8], VARIANT [0]. -/
def sysIdent : RegDef := ⟨0x000000, 1, 0, 1, 0,
  [⟨31, 16, .ro, 3192, false, false⟩, ⟨15, 8, .ro, 0, false, false⟩, ⟨7, 1, .ro, 0, true, false⟩,
   ⟨0, 0, .ro, 0, false, false⟩]⟩

/-- SYS_MODE: RNGRDY [31], PREV [26:24], CAUSE [23:16], MODE [2:0]. -/
def sysMode : RegDef := ⟨0x000010, 1, 0, 1, 0,
  [⟨31, 31, .ro, 0, false, false⟩, ⟨30, 27, .ro, 0, true, false⟩, ⟨26, 24, .ro, 0, false, false⟩,
   ⟨23, 16, .ro, 0, false, false⟩, ⟨15, 3, .ro, 0, true, false⟩, ⟨2, 0, .ro, 0, false, false⟩]⟩

/-- SYS_CMD: OP [31:28], KEY [15:0]. -/
def sysCmd : RegDef := ⟨0x000011, 1, 0, 1, 0,
  [⟨31, 28, .wo, 0, false, false⟩, ⟨27, 16, .wo, 0, true, false⟩, ⟨15, 0, .wo, 0, false, false⟩]⟩

/-- SYS_CTL: HOSTCFG [1], HOLDOUT [0]. -/
def sysCtl : RegDef := ⟨0x000012, 1, 0, 1, 0,
  [⟨31, 2, .st, 0, true, false⟩, ⟨1, 1, .st, 0, false, false⟩, ⟨0, 0, .st, 0, false, false⟩]⟩

/-- SYS_EXPERT: EXP [27:0]. -/
def sysExpert : RegDef := ⟨0x000013, 1, 0, 1, 0,
  [⟨31, 28, .st, 0, true, false⟩, ⟨27, 0, .st, 0, false, false⟩]⟩

/-- SYS_CMTST: PEND [31], OWNER [30:29], SESSION [26:24], COUNT [15:0]. -/
def sysCmtst : RegDef := ⟨0x000014, 1, 0, 1, 0,
  [⟨31, 31, .ro, 0, false, false⟩, ⟨30, 29, .ro, 0, false, false⟩, ⟨28, 27, .ro, 0, true, false⟩,
   ⟨26, 24, .ro, 0, false, false⟩, ⟨23, 16, .ro, 0, true, false⟩, ⟨15, 0, .ro, 0, false, false⟩]⟩

/-- SYS_CMTERR: CODE [31:24], ADDR [23:0]. -/
def sysCmterr : RegDef := ⟨0x000015, 1, 0, 1, 0,
  [⟨31, 24, .ro, 0, false, false⟩, ⟨23, 0, .ro, 0, false, false⟩]⟩

/-- SYS_CMTBIT: MSB [15:8], LSB [7:0]. -/
def sysCmtbit : RegDef := ⟨0x000016, 1, 0, 1, 0,
  [⟨31, 16, .ro, 0, true, false⟩, ⟨15, 8, .ro, 0, false, false⟩, ⟨7, 0, .ro, 0, false, false⟩]⟩

/-- SYS_CFGERR: UNMAPPED [31:16], ROWRITE [15:0]. -/
def sysCfgerr : RegDef := ⟨0x000017, 1, 0, 1, 0,
  [⟨31, 16, .rc, 0, false, false⟩, ⟨15, 0, .rc, 0, false, false⟩]⟩

/-- SYS_PROVE: REASON [31:24], DETAIL [15:0]. -/
def sysProve : RegDef := ⟨0x000018, 1, 0, 1, 0,
  [⟨31, 24, .ro, 0, false, false⟩, ⟨23, 16, .ro, 0, true, false⟩, ⟨15, 0, .ro, 0, false, false⟩]⟩

/-- SYS_PROVEPC: XPC [14:0]. -/
def sysProvepc : RegDef := ⟨0x000019, 1, 0, 1, 0,
  [⟨31, 15, .ro, 0, true, false⟩, ⟨14, 0, .ro, 0, false, false⟩]⟩

/-- VAT_STAT: SRC [27:26], SERVN [25:24], STATEC [10:8], STATEB [6:4], STATEA [2:0]. -/
def vatStat : RegDef := ⟨0x010000, 1, 0, 1, 0,
  [⟨31, 28, .ro, 0, true, false⟩, ⟨27, 26, .ro, 3, false, false⟩, ⟨25, 24, .ro, 0, false, false⟩,
   ⟨23, 11, .ro, 0, true, false⟩, ⟨10, 8, .ro, 0, false, false⟩, ⟨7, 7, .ro, 0, true, false⟩,
   ⟨6, 4, .ro, 0, false, false⟩, ⟨3, 3, .ro, 0, true, false⟩, ⟨2, 0, .ro, 0, false, false⟩]⟩

/-- VAT_CTL: LATELIM [23:16], QTRY [11:8], NOAUTO [0]. -/
def vatCtl : RegDef := ⟨0x010001, 1, 0, 1, 0,
  [⟨31, 24, .st, 0, true, false⟩, ⟨23, 16, .st, 16, false, true⟩, ⟨15, 12, .st, 0, true, false⟩,
   ⟨11, 8, .st, 7, false, true⟩, ⟨7, 1, .st, 0, true, false⟩, ⟨0, 0, .st, 0, false, false⟩]⟩

/-- VAT_CMD: OP [31:28], VAT [1:0]. -/
def vatCmd : RegDef := ⟨0x010002, 1, 0, 1, 0,
  [⟨31, 28, .wo, 0, false, false⟩, ⟨27, 2, .wo, 0, true, false⟩, ⟨1, 0, .wo, 0, false, false⟩]⟩

/-- VAT_SOURn: VALUE [31:0]. -/
def vatSour : RegDef := ⟨0x010010, 3, 1, 1, 0,
  [⟨31, 0, .rc, 0, false, false⟩]⟩

/-- VAT_LATEn: VALUE [31:0]. -/
def vatLate : RegDef := ⟨0x010014, 3, 1, 1, 0,
  [⟨31, 0, .rc, 0, false, false⟩]⟩

/-- VAT_CAUSEn: CODE [31:28], KIND [27:25], EV [24], TASK [23:16], ITEM [15:0]. -/
def vatCause : RegDef := ⟨0x010018, 3, 1, 1, 0,
  [⟨31, 28, .ro, 0, false, false⟩, ⟨27, 25, .ro, 0, false, false⟩, ⟨24, 24, .ro, 0, false, false⟩,
   ⟨23, 16, .ro, 0, false, false⟩, ⟨15, 0, .ro, 0, false, false⟩]⟩

/-- VAT_RCLAST: TRIES [27:24], TIME [23:0]. -/
def vatRclast : RegDef := ⟨0x010020, 1, 0, 1, 0,
  [⟨31, 28, .ro, 0, true, false⟩, ⟨27, 24, .ro, 0, false, false⟩, ⟨23, 0, .ro, 0, false, false⟩]⟩

/-- VAT_RCMAX: TIME [23:0]. -/
def vatRcmax : RegDef := ⟨0x010021, 1, 0, 1, 0,
  [⟨31, 24, .ro, 0, true, false⟩, ⟨23, 0, .rc, 0, false, false⟩]⟩

/-- VAT_RCCNT: DONE [31:16], FAIL [15:0]. -/
def vatRccnt : RegDef := ⟨0x010022, 1, 0, 1, 0,
  [⟨31, 16, .rc, 0, false, false⟩, ⟨15, 0, .rc, 0, false, false⟩]⟩

/-- VAT_TREAL: COPYC [23:16], COPYB [15:8], COPYA [7:0]. -/
def vatTreal : RegDef := ⟨0x010024, 1, 0, 1, 0,
  [⟨31, 24, .ro, 0, true, false⟩, ⟨23, 16, .rc, 0, false, false⟩, ⟨15, 8, .rc, 0, false, false⟩,
   ⟨7, 0, .rc, 0, false, false⟩]⟩

/-- VAT_XDIS: BIT [31:16], FRAME [15:0]. -/
def vatXdis : RegDef := ⟨0x010028, 1, 0, 1, 0,
  [⟨31, 16, .rc, 0, false, false⟩, ⟨15, 0, .rc, 0, false, false⟩]⟩

/-- VAT_XSIZE: BYTES [13:0]. -/
def vatXsize : RegDef := ⟨0x010030, 1, 0, 1, 0,
  [⟨31, 14, .ro, 0, true, false⟩, ⟨13, 0, .ro, 0, false, false⟩]⟩

/-- VAT_HOLD: CODE [31:28], TASK [23:16], EV [15]. -/
def vatHold : RegDef := ⟨0x010031, 1, 0, 1, 0,
  [⟨31, 28, .ro, 0, false, false⟩, ⟨27, 24, .ro, 0, true, false⟩, ⟨23, 16, .ro, 0, false, false⟩,
   ⟨15, 15, .ro, 0, false, false⟩, ⟨14, 0, .ro, 0, true, false⟩]⟩

/-- HXK_TICKL: VALUE [31:0]. -/
def hxkTickl : RegDef := ⟨0x020000, 1, 0, 1, 0,
  [⟨31, 0, .ro, 0, false, false⟩]⟩

/-- HXK_TICKH: VALUE [31:0]. -/
def hxkTickh : RegDef := ⟨0x020001, 1, 0, 1, 0,
  [⟨31, 0, .ro, 0, false, false⟩]⟩

/-- HXK_TICKOFS: VALUE [31:0]. -/
def hxkTickofs : RegDef := ⟨0x020002, 1, 0, 1, 0,
  [⟨31, 0, .ro, 0, false, false⟩]⟩

/-- HXK_QSTAT: QNOW [31], GAPMAX [23:0]. -/
def hxkQstat : RegDef := ⟨0x020010, 1, 0, 1, 0,
  [⟨31, 31, .ro, 0, false, false⟩, ⟨30, 24, .ro, 0, true, false⟩, ⟨23, 0, .rc, 0, false, false⟩]⟩

/-- HXK_QMISS: VALUE [31:0]. -/
def hxkQmiss : RegDef := ⟨0x020011, 1, 0, 1, 0,
  [⟨31, 0, .rc, 0, false, false⟩]⟩

/-- HXK_XCTL: BNDWAIT [15:8], PRGUARD [3:0]. -/
def hxkXctl : RegDef := ⟨0x020020, 1, 0, 1, 0,
  [⟨31, 16, .st, 0, true, false⟩, ⟨15, 8, .st, 2, false, true⟩, ⟨7, 4, .st, 0, true, false⟩,
   ⟨3, 0, .st, 2, false, true⟩]⟩

/-- HXK_TCFGn: EN [31], OVRACT [30:29], PRIO [28:25], OVRLIM [24:21], PERIOD [17:0]. -/
def hxkTcfg : RegDef := ⟨0x021000, 64, 8, 1, 0,
  [⟨31, 31, .st, 0, false, false⟩, ⟨30, 29, .st, 0, false, false⟩, ⟨28, 25, .st, 15, false, false⟩,
   ⟨24, 21, .st, 0, false, false⟩, ⟨20, 18, .st, 0, true, false⟩, ⟨17, 0, .st, 0, false, false⟩]⟩

/-- HXK_TPHASEn: PHASE [23:0]. -/
def hxkTphase : RegDef := ⟨0x021001, 64, 8, 1, 0,
  [⟨31, 24, .st, 0, true, false⟩, ⟨23, 0, .st, 0, false, false⟩]⟩

/-- HXK_TSTATn: RUN [31], OVRLAST [30], OVRSEQ [23:16], CYCLE [15:0]. -/
def hxkTstat : RegDef := ⟨0x021002, 64, 8, 1, 0,
  [⟨31, 31, .ro, 0, false, false⟩, ⟨30, 30, .ro, 0, false, false⟩, ⟨29, 24, .ro, 0, true, false⟩,
   ⟨23, 16, .ro, 0, false, false⟩, ⟨15, 0, .ro, 0, false, false⟩]⟩

/-- HXK_TOVRn: VALUE [31:0]. -/
def hxkTovr : RegDef := ⟨0x021003, 64, 8, 1, 0,
  [⟨31, 0, .rc, 0, false, false⟩]⟩

/-- HXK_TMAXn: VALUE [31:0]. -/
def hxkTmax : RegDef := ⟨0x021004, 64, 8, 1, 0,
  [⟨31, 0, .rc, 0, false, false⟩]⟩

/-- HXK_VCFGv: EN [31], OVRACT [30:29], PRIO [28:25], OVRLIM [24:21], SRC [11:0]. -/
def hxkVcfg : RegDef := ⟨0x022000, 256, 4, 1, 0,
  [⟨31, 31, .st, 0, false, false⟩, ⟨30, 29, .st, 0, false, false⟩, ⟨28, 25, .st, 15, false, false⟩,
   ⟨24, 21, .st, 0, false, false⟩, ⟨20, 12, .st, 0, true, false⟩, ⟨11, 0, .st, 0, false, false⟩]⟩

/-- HXK_VDLv: DL [13:0]. -/
def hxkVdl : RegDef := ⟨0x022001, 256, 4, 1, 0,
  [⟨31, 14, .st, 0, true, false⟩, ⟨13, 0, .st, 0, false, false⟩]⟩

/-- HXK_VSTATv: RUN [31], OVRLAST [30], OVRSEQ [23:16], CYCLE [15:0]. -/
def hxkVstat : RegDef := ⟨0x022002, 256, 4, 1, 0,
  [⟨31, 31, .ro, 0, false, false⟩, ⟨30, 30, .ro, 0, false, false⟩, ⟨29, 24, .ro, 0, true, false⟩,
   ⟨23, 16, .ro, 0, false, false⟩, ⟨15, 0, .ro, 0, false, false⟩]⟩

/-- HXK_VOVRv: VALUE [31:0]. -/
def hxkVovr : RegDef := ⟨0x022003, 256, 4, 1, 0,
  [⟨31, 0, .rc, 0, false, false⟩]⟩

/-- HXK_PTp: EN [31], DIR [30], EV [29], TASK [28:21], SIZE [10:0]. -/
def hxkPt : RegDef := ⟨0x030000, 65536, 1, 1, 0,
  [⟨31, 31, .st, 0, false, false⟩, ⟨30, 30, .st, 0, false, false⟩, ⟨29, 29, .st, 0, false, false⟩,
   ⟨28, 21, .st, 0, false, false⟩, ⟨20, 11, .st, 0, true, false⟩, ⟨10, 0, .st, 0, false, false⟩]⟩

/-- ARB_CTLa: FREEZE [31]. -/
def arbCtl : RegDef := ⟨0x040000, 36, 256, 1, 0,
  [⟨31, 31, .rw, 0, false, false⟩, ⟨30, 0, .rw, 0, true, false⟩]⟩

/-- ARB_STATa: DRAINED [31], PEND [30], IFRZ [29], PTR [23:16], GRANT [7], HOLDER [5:0]. -/
def arbStat : RegDef := ⟨0x040001, 36, 256, 1, 0,
  [⟨31, 31, .ro, 0, false, false⟩, ⟨30, 30, .ro, 0, false, false⟩, ⟨29, 29, .ro, 0, false, false⟩,
   ⟨28, 24, .ro, 0, true, false⟩, ⟨23, 16, .ro, 0, false, false⟩, ⟨15, 8, .ro, 0, true, false⟩,
   ⟨7, 7, .ro, 0, false, false⟩, ⟨6, 6, .ro, 0, true, false⟩, ⟨5, 0, .ro, 0, false, false⟩]⟩

/-- ARB_WMAXa: WAIT [15:0]. -/
def arbWmax : RegDef := ⟨0x040002, 36, 256, 1, 0,
  [⟨31, 16, .ro, 0, true, false⟩, ⟨15, 0, .rc, 0, false, false⟩]⟩

/-- ARB_RANKa_w: RANK7 [31:28], RANK6 [27:24], RANK5 [23:20], RANK4 [19:16], RANK3 [15:12], RANK2 [11:8], RANK1 [7:4], RANK0 [3:0]. -/
def arbRankBank0 : RegDef := ⟨0x040008, 32, 256, 1, 0,
  [⟨31, 28, .rw, 4, false, true⟩, ⟨27, 24, .rw, 4, false, true⟩, ⟨23, 20, .rw, 4, false, true⟩,
   ⟨19, 16, .rw, 4, false, true⟩, ⟨15, 12, .rw, 4, false, true⟩, ⟨11, 8, .rw, 4, false, true⟩,
   ⟨7, 4, .rw, 4, false, true⟩, ⟨3, 0, .rw, 4, false, true⟩]⟩

/-- ARB_RANKa_w: RANK7 [31:28], RANK6 [27:24], RANK5 [23:20], RANK4 [19:16], RANK3 [15:12], RANK2 [11:8], RANK1 [7:4], RANK0 [3:0]. -/
def arbRankBank1 : RegDef := ⟨0x040009, 32, 256, 1, 0,
  [⟨31, 28, .rw, 4, false, true⟩, ⟨27, 24, .rw, 4, false, true⟩, ⟨23, 20, .rw, 4, false, true⟩,
   ⟨19, 16, .rw, 4, false, true⟩, ⟨15, 12, .rw, 4, false, true⟩, ⟨11, 8, .rw, 4, false, true⟩,
   ⟨7, 4, .rw, 4, false, true⟩, ⟨3, 0, .rw, 4, false, true⟩]⟩

/-- ARB_RANKa_w: RANK7 [31:28], RANK6 [27:24], RANK5 [23:20], RANK4 [19:16], RANK3 [15:12], RANK2 [11:8], RANK1 [7:4], RANK0 [3:0]. -/
def arbRankBank2 : RegDef := ⟨0x04000A, 32, 256, 1, 0,
  [⟨31, 28, .rw, 1, false, true⟩, ⟨27, 24, .rw, 5, false, true⟩, ⟨23, 20, .rw, 3, false, true⟩,
   ⟨19, 16, .rw, 3, false, true⟩, ⟨15, 12, .rw, 0, false, true⟩, ⟨11, 8, .rw, 1, false, true⟩,
   ⟨7, 4, .rw, 0, false, true⟩, ⟨3, 0, .rw, 2, false, true⟩]⟩

/-- ARB_RANKa_w: RANK7 [31:28], RANK6 [27:24], RANK5 [23:20], RANK4 [19:16], RANK3 [15:12], RANK2 [11:8], RANK1 [7:4], RANK0 [3:0]. -/
def arbRankBank3 : RegDef := ⟨0x04000B, 32, 256, 1, 0,
  [⟨31, 28, .rw, 15, false, true⟩, ⟨27, 24, .rw, 15, false, true⟩, ⟨23, 20, .rw, 15, false, true⟩,
   ⟨19, 16, .rw, 15, false, true⟩, ⟨15, 12, .rw, 15, false, true⟩, ⟨11, 8, .rw, 15, false, true⟩,
   ⟨7, 4, .rw, 15, false, true⟩, ⟨3, 0, .rw, 15, false, true⟩]⟩

/-- ARB_RANKa_w: RANK7 [31:28], RANK6 [27:24], RANK5 [23:20], RANK4 [19:16], RANK3 [15:12], RANK2 [11:8], RANK1 [7:4], RANK0 [3:0]. -/
def arbRankBank4 : RegDef := ⟨0x04000C, 32, 256, 1, 0,
  [⟨31, 28, .rw, 15, false, true⟩, ⟨27, 24, .rw, 15, false, true⟩, ⟨23, 20, .rw, 15, false, true⟩,
   ⟨19, 16, .rw, 15, false, true⟩, ⟨15, 12, .rw, 15, false, true⟩, ⟨11, 8, .rw, 15, false, true⟩,
   ⟨7, 4, .rw, 15, false, true⟩, ⟨3, 0, .rw, 15, false, true⟩]⟩

/-- ARB_RANKa_w: RANK7 [31:28], RANK6 [27:24], RANK5 [23:20], RANK4 [19:16], RANK3 [15:12], RANK2 [11:8], RANK1 [7:4], RANK0 [3:0]. -/
def arbRankBank5 : RegDef := ⟨0x04000D, 32, 256, 1, 0,
  [⟨31, 28, .rw, 15, false, true⟩, ⟨27, 24, .rw, 15, false, true⟩, ⟨23, 20, .rw, 15, false, true⟩,
   ⟨19, 16, .rw, 15, false, true⟩, ⟨15, 12, .rw, 15, false, true⟩, ⟨11, 8, .rw, 15, false, true⟩,
   ⟨7, 4, .rw, 15, false, true⟩, ⟨3, 0, .rw, 15, false, true⟩]⟩

/-- ARB_RANKa_w: RANK7 [31:28], RANK6 [27:24], RANK5 [23:20], RANK4 [19:16], RANK3 [15:12], RANK2 [11:8], RANK1 [7:4], RANK0 [3:0]. -/
def arbRankBank6 : RegDef := ⟨0x04000E, 32, 256, 1, 0,
  [⟨31, 28, .rw, 15, false, true⟩, ⟨27, 24, .rw, 15, false, true⟩, ⟨23, 20, .rw, 15, false, true⟩,
   ⟨19, 16, .rw, 15, false, true⟩, ⟨15, 12, .rw, 15, false, true⟩, ⟨11, 8, .rw, 15, false, true⟩,
   ⟨7, 4, .rw, 15, false, true⟩, ⟨3, 0, .rw, 15, false, true⟩]⟩

/-- ARB_RANKa_w: RANK7 [31:28], RANK6 [27:24], RANK5 [23:20], RANK4 [19:16], RANK3 [15:12], RANK2 [11:8], RANK1 [7:4], RANK0 [3:0]. -/
def arbRankBank7 : RegDef := ⟨0x04000F, 32, 256, 1, 0,
  [⟨31, 28, .ro, 15, false, true⟩, ⟨27, 24, .rw, 15, false, true⟩, ⟨23, 20, .rw, 15, false, true⟩,
   ⟨19, 16, .rw, 15, false, true⟩, ⟨15, 12, .rw, 15, false, true⟩, ⟨11, 8, .rw, 15, false, true⟩,
   ⟨7, 4, .rw, 15, false, true⟩, ⟨3, 0, .rw, 15, false, true⟩]⟩

/-- ARB_RANKa_w: RANK7 [31:28], RANK6 [27:24], RANK5 [23:20], RANK4 [19:16], RANK3 [15:12], RANK2 [11:8], RANK1 [7:4], RANK0 [3:0]. -/
def arbRank32 : RegDef := ⟨0x042008, 1, 0, 1, 0,
  [⟨31, 28, .rw, 15, false, true⟩, ⟨27, 24, .rw, 15, false, true⟩, ⟨23, 20, .rw, 15, false, true⟩,
   ⟨19, 16, .rw, 3, false, true⟩, ⟨15, 12, .rw, 4, false, true⟩, ⟨11, 8, .rw, 2, false, true⟩,
   ⟨7, 4, .rw, 0, false, true⟩, ⟨3, 0, .rw, 1, false, true⟩]⟩

/-- ARB_RANKa_w: RANK7 [31:28], RANK6 [27:24], RANK5 [23:20], RANK4 [19:16], RANK3 [15:12], RANK2 [11:8], RANK1 [7:4], RANK0 [3:0]. -/
def arbRank32x : RegDef := ⟨0x042009, 7, 1, 1, 0,
  [⟨31, 28, .rw, 15, false, true⟩, ⟨27, 24, .rw, 15, false, true⟩, ⟨23, 20, .rw, 15, false, true⟩,
   ⟨19, 16, .rw, 15, false, true⟩, ⟨15, 12, .rw, 15, false, true⟩, ⟨11, 8, .rw, 15, false, true⟩,
   ⟨7, 4, .rw, 15, false, true⟩, ⟨3, 0, .rw, 15, false, true⟩]⟩

/-- ARB_RANKa_w: RANK7 [31:28], RANK6 [27:24], RANK5 [23:20], RANK4 [19:16], RANK3 [15:12], RANK2 [11:8], RANK1 [7:4], RANK0 [3:0]. -/
def arbRank33 : RegDef := ⟨0x042108, 8, 1, 1, 0,
  [⟨31, 28, .rw, 8, false, true⟩, ⟨27, 24, .rw, 8, false, true⟩, ⟨23, 20, .rw, 8, false, true⟩,
   ⟨19, 16, .rw, 8, false, true⟩, ⟨15, 12, .rw, 8, false, true⟩, ⟨11, 8, .rw, 8, false, true⟩,
   ⟨7, 4, .rw, 8, false, true⟩, ⟨3, 0, .rw, 8, false, true⟩]⟩

/-- ARB_RANKa_w: RANK7 [31:28], RANK6 [27:24], RANK5 [23:20], RANK4 [19:16], RANK3 [15:12], RANK2 [11:8], RANK1 [7:4], RANK0 [3:0]. -/
def arbRank34 : RegDef := ⟨0x042208, 1, 0, 1, 0,
  [⟨31, 28, .rw, 15, false, true⟩, ⟨27, 24, .rw, 15, false, true⟩, ⟨23, 20, .rw, 15, false, true⟩,
   ⟨19, 16, .rw, 15, false, true⟩, ⟨15, 12, .rw, 15, false, true⟩, ⟨11, 8, .rw, 2, false, true⟩,
   ⟨7, 4, .rw, 1, false, true⟩, ⟨3, 0, .rw, 0, false, true⟩]⟩

/-- ARB_RANKa_w: RANK7 [31:28], RANK6 [27:24], RANK5 [23:20], RANK4 [19:16], RANK3 [15:12], RANK2 [11:8], RANK1 [7:4], RANK0 [3:0]. -/
def arbRank34x : RegDef := ⟨0x042209, 7, 1, 1, 0,
  [⟨31, 28, .rw, 15, false, true⟩, ⟨27, 24, .rw, 15, false, true⟩, ⟨23, 20, .rw, 15, false, true⟩,
   ⟨19, 16, .rw, 15, false, true⟩, ⟨15, 12, .rw, 15, false, true⟩, ⟨11, 8, .rw, 15, false, true⟩,
   ⟨7, 4, .rw, 15, false, true⟩, ⟨3, 0, .rw, 15, false, true⟩]⟩

/-- ARB_RANKa_w: RANK7 [31:28], RANK6 [27:24], RANK5 [23:20], RANK4 [19:16], RANK3 [15:12], RANK2 [11:8], RANK1 [7:4], RANK0 [3:0]. -/
def arbRank35 : RegDef := ⟨0x042308, 1, 0, 1, 0,
  [⟨31, 28, .rw, 15, false, true⟩, ⟨27, 24, .rw, 15, false, true⟩, ⟨23, 20, .rw, 15, false, true⟩,
   ⟨19, 16, .rw, 15, false, true⟩, ⟨15, 12, .rw, 1, false, true⟩, ⟨11, 8, .rw, 3, false, true⟩,
   ⟨7, 4, .rw, 2, false, true⟩, ⟨3, 0, .rw, 0, false, true⟩]⟩

/-- ARB_RANKa_w: RANK7 [31:28], RANK6 [27:24], RANK5 [23:20], RANK4 [19:16], RANK3 [15:12], RANK2 [11:8], RANK1 [7:4], RANK0 [3:0]. -/
def arbRank35x : RegDef := ⟨0x042309, 7, 1, 1, 0,
  [⟨31, 28, .rw, 15, false, true⟩, ⟨27, 24, .rw, 15, false, true⟩, ⟨23, 20, .rw, 15, false, true⟩,
   ⟨19, 16, .rw, 15, false, true⟩, ⟨15, 12, .rw, 15, false, true⟩, ⟨11, 8, .rw, 15, false, true⟩,
   ⟨7, 4, .rw, 15, false, true⟩, ⟨3, 0, .rw, 15, false, true⟩]⟩

/-- ARB_SLOTa_w: SLOT3 [31:24], SLOT2 [23:16], SLOT1 [15:8], SLOT0 [7:0]. -/
def arbSlot : RegDef := ⟨0x040040, 36, 256, 64, 1,
  [⟨31, 24, .st, 128, false, true⟩, ⟨23, 16, .st, 128, false, true⟩, ⟨15, 8, .st, 128, false, true⟩,
   ⟨7, 0, .st, 128, false, true⟩]⟩

/-- ARB_WQSEL: QUEUE [14:0]. -/
def arbWqsel : RegDef := ⟨0x043000, 1, 0, 1, 0,
  [⟨31, 15, .rw, 0, true, false⟩, ⟨14, 0, .rw, 0, false, false⟩]⟩

/-- ARB_WQST0: COUNT [31:19], CREDIT [18:6]. -/
def arbWqst0 : RegDef := ⟨0x043001, 1, 0, 1, 0,
  [⟨31, 19, .ro, 0, false, false⟩, ⟨18, 6, .ro, 0, false, false⟩, ⟨5, 0, .ro, 0, true, false⟩]⟩

/-- ARB_WQST1: DEFER [31:19], HEAD [18:7], WAITP [6], WAITC [5]. -/
def arbWqst1 : RegDef := ⟨0x043002, 1, 0, 1, 0,
  [⟨31, 19, .ro, 0, false, false⟩, ⟨18, 7, .ro, 0, false, false⟩, ⟨6, 6, .ro, 0, false, false⟩,
   ⟨5, 5, .ro, 0, false, false⟩, ⟨4, 0, .ro, 0, true, false⟩]⟩

/-- ARB_WQST2: DROP [7:0]. -/
def arbWqst2 : RegDef := ⟨0x043003, 1, 0, 1, 0,
  [⟨31, 8, .ro, 0, true, false⟩, ⟨7, 0, .rc, 0, false, false⟩]⟩

/-- ARB_WERR: HDR [31:16], CREDIT [15:0]. -/
def arbWerr : RegDef := ⟨0x043004, 1, 0, 1, 0,
  [⟨31, 16, .rc, 0, false, false⟩, ⟨15, 0, .rc, 0, false, false⟩]⟩

/-- ARB_WDROP: VALUE [31:0]. -/
def arbWdrop : RegDef := ⟨0x043005, 1, 0, 1, 0,
  [⟨31, 0, .rc, 0, false, false⟩]⟩

/-- EVC_GRPg: HOLDOFF [15:0]. -/
def evcGrp : RegDef := ⟨0x050000, 64, 1, 1, 0,
  [⟨31, 16, .st, 0, true, false⟩, ⟨15, 0, .st, 1000, false, false⟩]⟩

/-- EVC_SATC: VALUE [31:0]. -/
def evcSatc : RegDef := ⟨0x050040, 1, 0, 1, 0,
  [⟨31, 0, .rc, 0, false, false⟩]⟩

/-- EVC_HELD: VALUE [31:0]. -/
def evcHeld : RegDef := ⟨0x050041, 1, 0, 1, 0,
  [⟨31, 0, .rc, 0, false, false⟩]⟩

/-- EVC_NOTASK: VALUE [31:0]. -/
def evcNotask : RegDef := ⟨0x050042, 1, 0, 1, 0,
  [⟨31, 0, .rc, 0, false, false⟩]⟩

/-- EVC_MERGE: VALUE [31:0]. -/
def evcMerge : RegDef := ⟨0x050043, 1, 0, 1, 0,
  [⟨31, 0, .rc, 0, false, false⟩]⟩

/-- EVC_REAL: COPYC [23:16], COPYB [15:8], COPYA [7:0]. -/
def evcReal : RegDef := ⟨0x050044, 1, 0, 1, 0,
  [⟨31, 24, .ro, 0, true, false⟩, ⟨23, 16, .rc, 0, false, false⟩, ⟨15, 8, .rc, 0, false, false⟩,
   ⟨7, 0, .rc, 0, false, false⟩]⟩

/-- EVC_XCTL: PDEPTH [6:0]. -/
def evcXctl : RegDef := ⟨0x050050, 1, 0, 1, 0,
  [⟨31, 7, .st, 0, true, false⟩, ⟨6, 0, .st, 16, false, true⟩]⟩

/-- EVC_SRCs: EN [31], EDGE [3:2], TGT [1:0]. -/
def evcSrc : RegDef := ⟨0x051000, 4096, 1, 1, 0,
  [⟨31, 31, .st, 0, false, false⟩, ⟨30, 4, .st, 0, true, false⟩, ⟨3, 2, .st, 0, false, false⟩,
   ⟨1, 0, .st, 0, false, false⟩]⟩

/-- LDL_STAT: SYNC [31:29], CHARGE [28], PTOG [27], PSIL [26], POSB [25], POSCONF [24], GATE [23], LANES [22:20], CHGLINE [19], PEKNOWN [18], REFUSE [15:8]. -/
def ldlStat : RegDef := ⟨0x060000, 1, 0, 1, 0,
  [⟨31, 29, .ro, 0, false, false⟩, ⟨28, 28, .ro, 0, false, false⟩, ⟨27, 27, .ro, 0, false, false⟩,
   ⟨26, 26, .ro, 0, false, false⟩, ⟨25, 25, .ro, 0, false, false⟩, ⟨24, 24, .ro, 0, false, false⟩,
   ⟨23, 23, .ro, 0, false, false⟩, ⟨22, 20, .ro, 0, false, false⟩, ⟨19, 19, .ro, 0, false, false⟩,
   ⟨18, 18, .ro, 0, false, false⟩, ⟨17, 16, .ro, 0, true, false⟩, ⟨15, 8, .ro, 0, false, false⟩,
   ⟨7, 0, .ro, 0, true, false⟩]⟩

/-- LDL_CTL: PAIR [31], TAKEANY [30], HOMARGIN [23:16], SYNCLIM [7:0]. -/
def ldlCtl : RegDef := ⟨0x060001, 1, 0, 1, 0,
  [⟨31, 31, .st, 0, false, false⟩, ⟨30, 30, .st, 0, false, false⟩, ⟨29, 24, .st, 0, true, false⟩,
   ⟨23, 16, .st, 2, false, true⟩, ⟨15, 8, .st, 0, true, false⟩, ⟨7, 0, .st, 16, false, true⟩]⟩

/-- LDL_CMD: OP [31:28]. -/
def ldlCmd : RegDef := ⟨0x060002, 1, 0, 1, 0,
  [⟨31, 28, .wo, 0, false, false⟩, ⟨27, 0, .wo, 0, true, false⟩]⟩

/-- LDL_EPOCH: VALUE [31:0]. -/
def ldlEpoch : RegDef := ⟨0x060003, 1, 0, 1, 0,
  [⟨31, 0, .ro, 0, false, false⟩]⟩

/-- LDL_PEPOCH: VALUE [31:0]. -/
def ldlPepoch : RegDef := ⟨0x060004, 1, 0, 1, 0,
  [⟨31, 0, .ro, 0, false, false⟩]⟩

/-- LDL_LANEERR: LANEC [23:16], LANEB [15:8], LANEA [7:0]. -/
def ldlLaneerr : RegDef := ⟨0x060005, 1, 0, 1, 0,
  [⟨31, 24, .ro, 0, true, false⟩, ⟨23, 16, .rc, 0, false, false⟩, ⟨15, 8, .rc, 0, false, false⟩,
   ⟨7, 0, .rc, 0, false, false⟩]⟩

/-- LDL_DROP: HDR [31:16], VOTE [15:0]. -/
def ldlDrop : RegDef := ⟨0x060006, 1, 0, 1, 0,
  [⟨31, 16, .rc, 0, false, false⟩, ⟨15, 0, .rc, 0, false, false⟩]⟩

/-- LDL_VOL: VOLMAX [31:16], BACKLOG [15:0]. -/
def ldlVol : RegDef := ⟨0x060007, 1, 0, 1, 0,
  [⟨31, 16, .rc, 0, false, false⟩, ⟨15, 0, .ro, 0, false, false⟩]⟩

/-- LDL_TKLAST: KIND [31:28], LOST [27:16], GAP [15:0]. -/
def ldlTklast : RegDef := ⟨0x060008, 1, 0, 1, 0,
  [⟨31, 28, .ro, 0, false, false⟩, ⟨27, 16, .ro, 0, false, false⟩, ⟨15, 0, .ro, 0, false, false⟩]⟩

/-- LDL_CNT: TAKE [31:16], YIELD [15:0]. -/
def ldlCnt : RegDef := ⟨0x060009, 1, 0, 1, 0,
  [⟨31, 16, .rc, 0, false, false⟩, ⟨15, 0, .rc, 0, false, false⟩]⟩

/-- LDL_PHn: VALUE [31:0]. -/
def ldlPh : RegDef := ⟨0x060010, 16, 1, 1, 0,
  [⟨31, 0, .ro, 0, false, false⟩]⟩

/-- ETH_STAT: INAUG [31], TOPOK [30], STATIONS [28:16], HELD [10:0]. -/
def ethStat : RegDef := ⟨0x070000, 1, 0, 1, 0,
  [⟨31, 31, .ro, 0, false, false⟩, ⟨30, 30, .ro, 0, false, false⟩, ⟨29, 29, .ro, 0, true, false⟩,
   ⟨28, 16, .ro, 0, false, false⟩, ⟨15, 11, .ro, 0, true, false⟩, ⟨10, 0, .ro, 0, false, false⟩]⟩

/-- ETH_CTL: ETBN [31], AGE [30:24], ANNP [23:16], PAIRID [15:0]. -/
def ethCtl : RegDef := ⟨0x070001, 1, 0, 1, 0,
  [⟨31, 31, .st, 0, false, false⟩, ⟨30, 24, .st, 10, false, true⟩, ⟨23, 16, .st, 10, false, true⟩,
   ⟨15, 0, .st, 0, false, false⟩]⟩

/-- ETH_TOPO: VALUE [31:0]. -/
def ethTopo : RegDef := ⟨0x070002, 1, 0, 1, 0,
  [⟨31, 0, .ro, 0, false, false⟩]⟩

/-- ETH_ANNCOM: VALUE [31:0]. -/
def ethAnncom : RegDef := ⟨0x070003, 1, 0, 1, 0,
  [⟨31, 0, .st, 77000, false, true⟩]⟩

/-- ETH_RMCOM: VALUE [31:0]. -/
def ethRmcom : RegDef := ⟨0x070004, 1, 0, 1, 0,
  [⟨31, 0, .st, 77001, false, true⟩]⟩

/-- ETH_IP: VALUE [31:0]. -/
def ethIp : RegDef := ⟨0x070005, 1, 0, 1, 0,
  [⟨31, 0, .st, 0, false, false⟩]⟩

/-- ETH_NET: PREFIX [7:0]. -/
def ethNet : RegDef := ⟨0x070006, 1, 0, 1, 0,
  [⟨31, 8, .st, 0, true, false⟩, ⟨7, 0, .st, 24, false, false⟩]⟩

/-- ETH_CNT0: TAGERR [31:16], STALE [15:0]. -/
def ethCnt0 : RegDef := ⟨0x070008, 1, 0, 1, 0,
  [⟨31, 16, .rc, 0, false, false⟩, ⟨15, 0, .rc, 0, false, false⟩]⟩

/-- ETH_CNT1: RMOVED [31:16], TOPO [15:0]. -/
def ethCnt1 : RegDef := ⟨0x070009, 1, 0, 1, 0,
  [⟨31, 16, .rc, 0, false, false⟩, ⟨15, 0, .rc, 0, false, false⟩]⟩

/-- ETH_CNT2: LENERR [31:16], PUBSKIP [15:0]. -/
def ethCnt2 : RegDef := ⟨0x07000A, 1, 0, 1, 0,
  [⟨31, 16, .rc, 0, false, false⟩, ⟨15, 0, .rc, 0, false, false⟩]⟩

/-- ETH_CNT3: RMREPLY [31:16], MDBUSY [15:0]. -/
def ethCnt3 : RegDef := ⟨0x07000B, 1, 0, 1, 0,
  [⟨31, 16, .rc, 0, false, false⟩, ⟨15, 0, .rc, 0, false, false⟩]⟩

/-- ETH_CNT4: PTFULL [31:16], CONFLICT [15:0]. -/
def ethCnt4 : RegDef := ⟨0x07000C, 1, 0, 1, 0,
  [⟨31, 16, .rc, 0, false, false⟩, ⟨15, 0, .rc, 0, false, false⟩]⟩

/-- ETH_PCFGp: EN [31], SPEED [30:29], FUNC [28:27], RSTP [26], BYPEN [25]. -/
def ethPcfg : RegDef := ⟨0x070010, 2, 1, 1, 0,
  [⟨31, 31, .st, 1, false, false⟩, ⟨30, 29, .st, 0, false, false⟩, ⟨28, 27, .st, 1, false, false⟩,
   ⟨26, 26, .st, 0, false, false⟩, ⟨25, 25, .st, 1, false, false⟩, ⟨24, 0, .st, 0, true, false⟩]⟩

/-- ETH_PCFGp: EN [31], SPEED [30:29], FUNC [28:27], RSTP [26], BYPEN [25]. -/
def ethPcfgCn : RegDef := ⟨0x070012, 2, 1, 1, 0,
  [⟨31, 31, .st, 1, false, false⟩, ⟨30, 29, .st, 0, false, false⟩, ⟨28, 27, .st, 2, false, false⟩,
   ⟨26, 26, .st, 0, false, false⟩, ⟨25, 25, .st, 0, false, false⟩, ⟨24, 0, .st, 0, true, false⟩]⟩

/-- ETH_PSTATp: LINK [31], SPEED [30:29], BYP [28], FWD [27], FCSERR [15:0]. -/
def ethPstat : RegDef := ⟨0x070014, 2, 1, 1, 0,
  [⟨31, 31, .ro, 0, false, false⟩, ⟨30, 29, .ro, 0, false, false⟩, ⟨28, 28, .ro, 1, false, false⟩,
   ⟨27, 27, .ro, 0, false, false⟩, ⟨26, 16, .ro, 0, true, false⟩, ⟨15, 0, .rc, 0, false, false⟩]⟩

/-- ETH_PSTATp: LINK [31], SPEED [30:29], BYP [28], FWD [27], FCSERR [15:0]. -/
def ethPstatCn : RegDef := ⟨0x070016, 2, 1, 1, 0,
  [⟨31, 31, .ro, 0, false, false⟩, ⟨30, 29, .ro, 0, false, false⟩, ⟨28, 28, .ro, 0, false, false⟩,
   ⟨27, 27, .ro, 0, false, false⟩, ⟨26, 16, .ro, 0, true, false⟩, ⟨15, 0, .rc, 0, false, false⟩]⟩

/-- ETH_PTSEL: INDEX [11:0]. -/
def ethPtsel : RegDef := ⟨0x070020, 1, 0, 1, 0,
  [⟨31, 12, .rw, 0, true, false⟩, ⟨11, 0, .rw, 0, false, false⟩]⟩

/-- ETH_PT0: VALUE [31:0]. -/
def ethPt0 : RegDef := ⟨0x070021, 1, 0, 1, 0,
  [⟨31, 0, .ro, 0, false, false⟩]⟩

/-- ETH_PT1: PAIRID [31:16], POSB [15], CHG [14], VALID [13], STALE [12]. -/
def ethPt1 : RegDef := ⟨0x070022, 1, 0, 1, 0,
  [⟨31, 16, .ro, 0, false, false⟩, ⟨15, 15, .ro, 0, false, false⟩, ⟨14, 14, .ro, 0, false, false⟩,
   ⟨13, 13, .ro, 0, false, false⟩, ⟨12, 12, .ro, 0, false, false⟩, ⟨11, 0, .ro, 0, true, false⟩]⟩

/-- ETH_PT2: VALUE [31:0]. -/
def ethPt2 : RegDef := ⟨0x070023, 1, 0, 1, 0,
  [⟨31, 0, .ro, 0, false, false⟩]⟩

/-- ETH_PT3: AGE [31:16], ETBN [5:0]. -/
def ethPt3 : RegDef := ⟨0x070024, 1, 0, 1, 0,
  [⟨31, 16, .ro, 0, false, false⟩, ⟨15, 6, .ro, 0, true, false⟩, ⟨5, 0, .ro, 0, false, false⟩]⟩

/-- ETH_MDCOMi: VALUE [31:0]. -/
def ethMdcom : RegDef := ⟨0x070200, 16, 4, 1, 0,
  [⟨31, 0, .st, 0, false, false⟩]⟩

/-- ETH_MDCTLi: EN [31], SLOTS [30:28], ROLE [25:16], POINT [15:0]. -/
def ethMdctl : RegDef := ⟨0x070201, 16, 4, 1, 0,
  [⟨31, 31, .st, 0, false, false⟩, ⟨30, 28, .st, 0, false, false⟩, ⟨27, 26, .st, 0, true, false⟩,
   ⟨25, 16, .st, 0, false, false⟩, ⟨15, 0, .st, 0, false, false⟩]⟩

/-- ETH_MDRPi: RPOINT [31:16]. -/
def ethMdrp : RegDef := ⟨0x070202, 16, 4, 1, 0,
  [⟨31, 16, .st, 0, false, false⟩, ⟨15, 0, .st, 0, true, false⟩]⟩

/-- ETH_RCFGr: DECL [31]. -/
def ethRcfg : RegDef := ⟨0x071000, 1024, 4, 1, 0,
  [⟨31, 31, .st, 0, false, false⟩, ⟨30, 0, .st, 0, true, false⟩]⟩

/-- ETH_RSTr: HELD [31], KNOWN [30], HOLDER [11:0]. -/
def ethRst : RegDef := ⟨0x071001, 1024, 4, 1, 0,
  [⟨31, 31, .ro, 0, false, false⟩, ⟨30, 30, .ro, 0, false, false⟩, ⟨29, 12, .ro, 0, true, false⟩,
   ⟨11, 0, .ro, 0, false, false⟩]⟩

/-- ETH_REPOr: VALUE [31:0]. -/
def ethRepo : RegDef := ⟨0x071002, 1024, 4, 1, 0,
  [⟨31, 0, .ro, 0, false, false⟩]⟩

/-- ETH_PCOMn: VALUE [31:0]. -/
def ethPcom : RegDef := ⟨0x074000, 4096, 4, 1, 0,
  [⟨31, 0, .st, 0, false, false⟩]⟩

/-- ETH_PDSTn: VALUE [31:0]. -/
def ethPdst : RegDef := ⟨0x074001, 4096, 4, 1, 0,
  [⟨31, 0, .st, 0, false, false⟩]⟩

/-- ETH_PCTLn: EN [31], TAG [30], TDST [29], PCP [28:26], DIV [25:18], ROLE [9:0]. -/
def ethPctl : RegDef := ⟨0x074002, 4096, 4, 1, 0,
  [⟨31, 31, .st, 0, false, false⟩, ⟨30, 30, .st, 0, false, false⟩, ⟨29, 29, .st, 0, false, false⟩,
   ⟨28, 26, .st, 0, false, false⟩, ⟨25, 18, .st, 1, false, false⟩, ⟨17, 10, .st, 0, true, false⟩,
   ⟨9, 0, .st, 0, false, false⟩]⟩

/-- ETH_PPNTn: POINT [31:16], LEN [10:0]. -/
def ethPpnt : RegDef := ⟨0x074003, 4096, 4, 1, 0,
  [⟨31, 16, .st, 0, false, false⟩, ⟨15, 11, .st, 0, true, false⟩, ⟨10, 0, .st, 0, false, false⟩]⟩

/-- ETH_SCOMm: VALUE [31:0]. -/
def ethScom : RegDef := ⟨0x078000, 8192, 4, 1, 0,
  [⟨31, 0, .st, 0, false, false⟩]⟩

/-- ETH_SSRCm: VALUE [31:0]. -/
def ethSsrc : RegDef := ⟨0x078001, 8192, 4, 1, 0,
  [⟨31, 0, .st, 0, false, false⟩]⟩

/-- ETH_SCTLm: EN [31], TAG [30], BYROLE [29], TIMEOUT [25:10], ROLE [9:0]. -/
def ethSctl : RegDef := ⟨0x078002, 8192, 4, 1, 0,
  [⟨31, 31, .st, 0, false, false⟩, ⟨30, 30, .st, 0, false, false⟩, ⟨29, 29, .st, 0, false, false⟩,
   ⟨28, 26, .st, 0, true, false⟩, ⟨25, 10, .st, 0, false, false⟩, ⟨9, 0, .st, 0, false, false⟩]⟩

/-- ETH_SPNTm: POINT [31:16], CHAN [15:11], LEN [10:0]. -/
def ethSpnt : RegDef := ⟨0x078003, 8192, 4, 1, 0,
  [⟨31, 16, .st, 0, false, false⟩, ⟨15, 11, .st, 0, false, false⟩, ⟨10, 0, .st, 0, false, false⟩]⟩

/-- PTP_STAT: STATE [31:30], SOURCE [29:28], STEPPEND [27], SERVOOK [26], CLAMP [25]. -/
def ptpStat : RegDef := ⟨0x080000, 1, 0, 1, 0,
  [⟨31, 30, .ro, 0, false, false⟩, ⟨29, 28, .ro, 0, false, false⟩, ⟨27, 27, .ro, 0, false, false⟩,
   ⟨26, 26, .ro, 0, false, false⟩, ⟨25, 25, .w1c, 0, false, false⟩, ⟨24, 0, .ro, 0, true, false⟩]⟩

/-- PTP_CTL: PREF [31], REVERT [30], STEPEN [29], HOLDMAX [15:0]. -/
def ptpCtl : RegDef := ⟨0x080001, 1, 0, 1, 0,
  [⟨31, 31, .st, 0, false, false⟩, ⟨30, 30, .st, 0, false, false⟩, ⟨29, 29, .st, 1, false, false⟩,
   ⟨28, 16, .st, 0, true, false⟩, ⟨15, 0, .st, 60, false, false⟩]⟩

/-- PTP_SERVO: MAN [31], KP [15:8], KF [7:0]. -/
def ptpServo : RegDef := ⟨0x080002, 1, 0, 1, 0,
  [⟨31, 31, .st, 0, false, true⟩, ⟨30, 16, .st, 0, true, false⟩, ⟨15, 8, .st, 128, false, true⟩,
   ⟨7, 0, .st, 64, false, true⟩]⟩

/-- PTP_PPS: EN [31], DIR [30], TERM [29]. -/
def ptpPps : RegDef := ⟨0x080003, 1, 0, 1, 0,
  [⟨31, 31, .st, 0, false, false⟩, ⟨30, 30, .st, 0, false, false⟩, ⟨29, 29, .st, 0, false, false⟩,
   ⟨28, 0, .st, 0, true, false⟩]⟩

/-- PTP_NOWL: VALUE [31:0]. -/
def ptpNowl : RegDef := ⟨0x080004, 1, 0, 1, 0,
  [⟨31, 0, .ro, 0, false, false⟩]⟩

/-- PTP_NOWH: VALUE [31:0]. -/
def ptpNowh : RegDef := ⟨0x080005, 1, 0, 1, 0,
  [⟨31, 0, .ro, 0, false, false⟩]⟩

/-- PTP_FREQL: VALUE [31:0]. -/
def ptpFreql : RegDef := ⟨0x080006, 1, 0, 1, 0,
  [⟨31, 0, .rw, 0, false, false⟩]⟩

/-- PTP_FREQH: FREQ [7:0]. -/
def ptpFreqh : RegDef := ⟨0x080007, 1, 0, 1, 0,
  [⟨31, 8, .ro, 0, true, false⟩, ⟨7, 0, .rw, 4, false, false⟩]⟩

/-- PTP_SLEW: VALUE [31:0]. -/
def ptpSlew : RegDef := ⟨0x080008, 1, 0, 1, 0,
  [⟨31, 0, .rw, 0, false, false⟩]⟩

/-- PTP_UTC: VALID [18], LI61 [17], LI59 [16], OFFSET [15:0]. -/
def ptpUtc : RegDef := ⟨0x080009, 1, 0, 1, 0,
  [⟨31, 19, .ro, 0, true, false⟩, ⟨18, 18, .ro, 0, false, false⟩, ⟨17, 17, .ro, 0, false, false⟩,
   ⟨16, 16, .ro, 0, false, false⟩, ⟨15, 0, .ro, 0, false, false⟩]⟩

/-- PTP_HOLD: VALUE [31:0]. -/
def ptpHold : RegDef := ⟨0x08000A, 1, 0, 1, 0,
  [⟨31, 0, .ro, 0, false, false⟩]⟩

/-- PTP_CNT: STEP [31:20], SWITCH [19:8], IGN [7:0]. -/
def ptpCnt : RegDef := ⟨0x08000B, 1, 0, 1, 0,
  [⟨31, 20, .rc, 0, false, false⟩, ⟨19, 8, .rc, 0, false, false⟩, ⟨7, 0, .rc, 0, false, false⟩]⟩

/-- PTP_PPSOFS: VALUE [31:0]. -/
def ptpPpsofs : RegDef := ⟨0x08000C, 1, 0, 1, 0,
  [⟨31, 0, .ro, 0, false, false⟩]⟩

/-- PTP_TSPNT: POINT [31:16]. -/
def ptpTspnt : RegDef := ⟨0x08000D, 1, 0, 1, 0,
  [⟨31, 16, .st, 0, false, false⟩, ⟨15, 0, .st, 0, true, false⟩]⟩

/-- PTP_LSTEPL: VALUE [31:0]. -/
def ptpLstepl : RegDef := ⟨0x08000E, 1, 0, 1, 0,
  [⟨31, 0, .ro, 0, false, false⟩]⟩

/-- PTP_LSTEPH: VALUE [31:0]. -/
def ptpLsteph : RegDef := ⟨0x08000F, 1, 0, 1, 0,
  [⟨31, 0, .ro, 0, false, false⟩]⟩

/-- PTP_DCFGd: EN [31], UDP [30], P2P [29], PORTS [23:20], ARTO [19:16], DOMAIN [7:0]. -/
def ptpDcfg0 : RegDef := ⟨0x080010, 1, 0, 1, 0,
  [⟨31, 31, .st, 0, false, false⟩, ⟨30, 30, .st, 0, false, false⟩, ⟨29, 29, .st, 0, false, false⟩,
   ⟨28, 24, .st, 0, true, false⟩, ⟨23, 20, .st, 0, false, false⟩, ⟨19, 16, .st, 3, false, false⟩,
   ⟨15, 8, .st, 0, true, false⟩, ⟨7, 0, .st, 0, false, false⟩]⟩

/-- PTP_DCFGd: EN [31], UDP [30], P2P [29], PORTS [23:20], ARTO [19:16], DOMAIN [7:0]. -/
def ptpDcfg1 : RegDef := ⟨0x080018, 1, 0, 1, 0,
  [⟨31, 31, .st, 0, false, false⟩, ⟨30, 30, .st, 0, false, false⟩, ⟨29, 29, .st, 0, false, false⟩,
   ⟨28, 24, .st, 0, true, false⟩, ⟨23, 20, .st, 0, false, false⟩, ⟨19, 16, .st, 3, false, false⟩,
   ⟨15, 8, .st, 0, true, false⟩, ⟨7, 0, .st, 1, false, false⟩]⟩

/-- PTP_DSTATd: STATE [31:29], FAR [28], ACTIVE [27], PORT [21:20], STEPSRM [7:0]. -/
def ptpDstat : RegDef := ⟨0x080011, 2, 8, 1, 0,
  [⟨31, 29, .ro, 0, false, false⟩, ⟨28, 28, .ro, 0, false, false⟩, ⟨27, 27, .ro, 0, false, false⟩,
   ⟨26, 22, .ro, 0, true, false⟩, ⟨21, 20, .ro, 0, false, false⟩, ⟨19, 8, .ro, 0, true, false⟩,
   ⟨7, 0, .ro, 0, false, false⟩]⟩

/-- PTP_DOFSd: VALUE [31:0]. -/
def ptpDofs : RegDef := ⟨0x080012, 2, 8, 1, 0,
  [⟨31, 0, .ro, 0, false, false⟩]⟩

/-- PTP_DGMLd: VALUE [31:0]. -/
def ptpDgml : RegDef := ⟨0x080013, 2, 8, 1, 0,
  [⟨31, 0, .ro, 0, false, false⟩]⟩

/-- PTP_DGMHd: VALUE [31:0]. -/
def ptpDgmh : RegDef := ⟨0x080014, 2, 8, 1, 0,
  [⟨31, 0, .ro, 0, false, false⟩]⟩

/-- PTP_DDLYd: VALUE [31:0]. -/
def ptpDdly : RegDef := ⟨0x080015, 2, 8, 1, 0,
  [⟨31, 0, .ro, 0, false, false⟩]⟩

/-- PTP_CMPCTLn: ARM [31], PER [30], MISS [29]. -/
def ptpCmpctl : RegDef := ⟨0x080100, 16, 4, 1, 0,
  [⟨31, 31, .rw, 0, false, false⟩, ⟨30, 30, .rw, 0, false, false⟩, ⟨29, 29, .w1c, 0, false, false⟩,
   ⟨28, 0, .rw, 0, true, false⟩]⟩

/-- PTP_CMPTLn: VALUE [31:0]. -/
def ptpCmptl : RegDef := ⟨0x080101, 16, 4, 1, 0,
  [⟨31, 0, .rw, 0, false, false⟩]⟩

/-- PTP_CMPTHn: TARGETH [7:0]. -/
def ptpCmpth : RegDef := ⟨0x080102, 16, 4, 1, 0,
  [⟨31, 8, .rw, 0, true, false⟩, ⟨7, 0, .rw, 0, false, false⟩]⟩

/-- PTP_CMPPERn: VALUE [31:0]. -/
def ptpCmpper : RegDef := ⟨0x080103, 16, 4, 1, 0,
  [⟨31, 0, .rw, 0, false, false⟩]⟩

/-- PTP_CAPCTLc: EN [31], EDGE [30:29], SRC [6:0]. -/
def ptpCapctl : RegDef := ⟨0x080200, 8, 2, 1, 0,
  [⟨31, 31, .st, 0, false, false⟩, ⟨30, 29, .st, 0, false, false⟩, ⟨28, 7, .st, 0, true, false⟩,
   ⟨6, 0, .st, 0, false, false⟩]⟩

/-- PTP_CAPPNTc: POINT [31:16]. -/
def ptpCappnt : RegDef := ⟨0x080201, 8, 2, 1, 0,
  [⟨31, 16, .st, 0, false, false⟩, ⟨15, 0, .st, 0, true, false⟩]⟩

/-- MVB_STAT: CUR [31:30], NEXT [29:28], CDN [27:20], ADMINACT [19], JOINED [18], LINEA [17], LINEB [16], MCNT [15:0]. -/
def mvbStat : RegDef := ⟨0x090000, 1, 0, 1, 0,
  [⟨31, 30, .ro, 0, false, false⟩, ⟨29, 28, .ro, 0, false, false⟩, ⟨27, 20, .ro, 0, false, false⟩,
   ⟨19, 19, .ro, 0, false, false⟩, ⟨18, 18, .ro, 0, false, false⟩, ⟨17, 17, .ro, 0, false, false⟩,
   ⟨16, 16, .ro, 0, false, false⟩, ⟨15, 0, .ro, 0, false, false⟩]⟩

/-- MVB_CTL: EN [31], ADMIN [30], MED [29], RTO [23:18], DEVADDR [11:0]. -/
def mvbCtl : RegDef := ⟨0x090001, 1, 0, 1, 0,
  [⟨31, 31, .st, 0, false, false⟩, ⟨30, 30, .st, 0, false, false⟩, ⟨29, 29, .st, 0, false, false⟩,
   ⟨28, 24, .st, 0, true, false⟩, ⟨23, 18, .st, 12, false, false⟩, ⟨17, 12, .st, 0, true, false⟩,
   ⟨11, 0, .st, 0, false, false⟩]⟩

/-- MVB_DCTL: AGREE [31], SETOK [27:24], RWIN [23:16], JPORT [11:0]. -/
def mvbDctl : RegDef := ⟨0x090002, 1, 0, 1, 0,
  [⟨31, 31, .st, 0, false, false⟩, ⟨30, 28, .st, 0, true, false⟩, ⟨27, 24, .st, 15, false, false⟩,
   ⟨23, 16, .st, 8, false, true⟩, ⟨15, 12, .st, 0, true, false⟩, ⟨11, 0, .st, 4080, false, false⟩]⟩

/-- MVB_ACTL: SET0 [31:30], BP [29], MC [28:25], LEAD [15:8]. -/
def mvbActl : RegDef := ⟨0x090003, 1, 0, 1, 0,
  [⟨31, 30, .st, 0, false, false⟩, ⟨29, 29, .st, 0, false, false⟩, ⟨28, 25, .st, 4, false, false⟩,
   ⟨24, 16, .st, 0, true, false⟩, ⟨15, 8, .st, 4, false, true⟩, ⟨7, 0, .st, 0, true, false⟩]⟩

/-- MVB_ASEL: OP [31:28], SET [1:0]. -/
def mvbAsel : RegDef := ⟨0x090004, 1, 0, 1, 0,
  [⟨31, 28, .wo, 0, false, false⟩, ⟨27, 2, .wo, 0, true, false⟩, ⟨1, 0, .wo, 0, false, false⟩]⟩

/-- MVB_ACKP: PORT [11:0]. -/
def mvbAckp : RegDef := ⟨0x090005, 1, 0, 1, 0,
  [⟨31, 12, .st, 0, true, false⟩, ⟨11, 0, .st, 0, false, false⟩]⟩

/-- MVB_CNT0: WITHHELD [31:16], LATE [15:0]. -/
def mvbCnt0 : RegDef := ⟨0x090008, 1, 0, 1, 0,
  [⟨31, 16, .rc, 0, false, false⟩, ⟨15, 0, .rc, 0, false, false⟩]⟩

/-- MVB_CNT1: LINEA [31:16], LINEB [15:0]. -/
def mvbCnt1 : RegDef := ⟨0x090009, 1, 0, 1, 0,
  [⟨31, 16, .rc, 0, false, false⟩, ⟨15, 0, .rc, 0, false, false⟩]⟩

/-- MVB_CNT2: SWITCH [31:16], ABANDON [15:0]. -/
def mvbCnt2 : RegDef := ⟨0x09000A, 1, 0, 1, 0,
  [⟨31, 16, .rc, 0, false, false⟩, ⟨15, 0, .rc, 0, false, false⟩]⟩

/-- MVB_CNT3: FOREIGN [31:16], SKIP [15:0]. -/
def mvbCnt3 : RegDef := ⟨0x09000B, 1, 0, 1, 0,
  [⟨31, 16, .rc, 0, false, false⟩, ⟨15, 0, .rc, 0, false, false⟩]⟩

/-- MVB_STSPNT: POINT [31:16]. -/
def mvbStspnt : RegDef := ⟨0x090010, 1, 0, 1, 0,
  [⟨31, 16, .st, 0, false, false⟩, ⟨15, 0, .st, 0, true, false⟩]⟩

/-- MVB_AGRk: EN [31], PORT [11:0]. -/
def mvbAgr : RegDef := ⟨0x090020, 32, 1, 1, 0,
  [⟨31, 31, .st, 0, false, false⟩, ⟨30, 12, .st, 0, true, false⟩, ⟨11, 0, .st, 0, false, false⟩]⟩

/-- MVB_PCFGj: EN [31], SRC [30], FC [29:27], SETM [26:23], CHAN [19:16], TIMEOUT [15:0]. -/
def mvbPcfg : RegDef := ⟨0x094000, 4096, 4, 1, 0,
  [⟨31, 31, .st, 0, false, false⟩, ⟨30, 30, .st, 0, false, false⟩, ⟨29, 27, .st, 0, false, false⟩,
   ⟨26, 23, .st, 15, false, false⟩, ⟨22, 20, .st, 0, true, false⟩, ⟨19, 16, .st, 0, false, false⟩,
   ⟨15, 0, .st, 0, false, false⟩]⟩

/-- MVB_PPNTj: POINT [31:16]. -/
def mvbPpnt : RegDef := ⟨0x094001, 4096, 4, 1, 0,
  [⟨31, 16, .st, 0, false, false⟩, ⟨15, 0, .st, 0, true, false⟩]⟩

/-- MVB_PEMPj: EMPTY [31:16], FRAMES [15:0]. -/
def mvbPemp : RegDef := ⟨0x094002, 4096, 4, 1, 0,
  [⟨31, 16, .rc, 0, false, false⟩, ⟨15, 0, .rc, 0, false, false⟩]⟩

/-- MVB_SCHs_e: EN [31], FC [30:27], PEXP [26:23], OFS [22:13], ADDR [11:0]. -/
def mvbSch : RegDef := ⟨0x098000, 4096, 1, 1, 0,
  [⟨31, 31, .st, 0, false, false⟩, ⟨30, 27, .st, 0, false, false⟩, ⟨26, 23, .st, 0, false, false⟩,
   ⟨22, 13, .st, 0, false, false⟩, ⟨12, 12, .st, 0, true, false⟩, ⟨11, 0, .st, 0, false, false⟩]⟩

/-- CAN_CTLp: EN [31], LOM [30], FD [29], AUTOREC [28], ACKINERT [27], TERM [26], NOMATCH [25:24], NRATE [21:20], DRATE [19:17]. -/
def canCtl : RegDef := ⟨0x0A0000, 4, 1024, 1, 0,
  [⟨31, 31, .st, 0, false, false⟩, ⟨30, 30, .st, 0, false, false⟩, ⟨29, 29, .st, 0, false, false⟩,
   ⟨28, 28, .st, 1, false, false⟩, ⟨27, 27, .st, 0, false, false⟩, ⟨26, 26, .st, 0, false, false⟩,
   ⟨25, 24, .st, 0, false, false⟩, ⟨23, 22, .st, 0, true, false⟩, ⟨21, 20, .st, 2, false, false⟩,
   ⟨19, 17, .st, 0, false, false⟩, ⟨16, 0, .st, 0, true, false⟩]⟩

/-- CAN_ARBTIMp: ABEFORE [31:24], AAFTER [23:17], AJUMP [16:10], APRESC [8:0]. -/
def canArbtim : RegDef := ⟨0x0A0001, 4, 1024, 1, 0,
  [⟨31, 24, .st, 63, false, true⟩, ⟨23, 17, .st, 16, false, true⟩, ⟨16, 10, .st, 16, false, true⟩,
   ⟨9, 9, .st, 0, true, false⟩, ⟨8, 0, .st, 2, false, true⟩]⟩

/-- CAN_FDTIMp: FBEFORE [31:26], FAFTER [25:21], FJUMP [20:16], FPRESC [15:11], SSPEN [10], SSPOFS [6:0]. -/
def canFdtim : RegDef := ⟨0x0A0002, 4, 1024, 1, 0,
  [⟨31, 26, .st, 0, false, true⟩, ⟨25, 21, .st, 0, false, true⟩, ⟨20, 16, .st, 0, false, true⟩,
   ⟨15, 11, .st, 0, false, true⟩, ⟨10, 10, .st, 0, false, true⟩, ⟨9, 7, .st, 0, true, false⟩,
   ⟨6, 0, .st, 0, false, true⟩]⟩

/-- CAN_STATp: STATE [31:30], INERT [29], FROZEN [28], RECOV [27], REC [23:16], TEC [15:8], TXPEND [6:0]. -/
def canStat : RegDef := ⟨0x0A0003, 4, 1024, 1, 0,
  [⟨31, 30, .ro, 3, false, false⟩, ⟨29, 29, .ro, 1, false, false⟩, ⟨28, 28, .ro, 0, false, false⟩,
   ⟨27, 27, .ro, 0, false, false⟩, ⟨26, 24, .ro, 0, true, false⟩, ⟨23, 16, .ro, 0, false, false⟩,
   ⟨15, 8, .ro, 0, false, false⟩, ⟨7, 7, .ro, 0, true, false⟩, ⟨6, 0, .ro, 0, false, false⟩]⟩

/-- CAN_CMDp: OP [31:28]. -/
def canCmd : RegDef := ⟨0x0A0004, 4, 1024, 1, 0,
  [⟨31, 28, .wo, 0, false, false⟩, ⟨27, 0, .wo, 0, true, false⟩]⟩

/-- CAN_CNT0p: ARBLOST [31:16], RETRY [15:0]. -/
def canCnt0 : RegDef := ⟨0x0A0005, 4, 1024, 1, 0,
  [⟨31, 16, .rc, 0, false, false⟩, ⟨15, 0, .rc, 0, false, false⟩]⟩

/-- CAN_CNT1p: TXFLUSH [31:16], BUSOFF [15:0]. -/
def canCnt1 : RegDef := ⟨0x0A0006, 4, 1024, 1, 0,
  [⟨31, 16, .rc, 0, false, false⟩, ⟨15, 0, .rc, 0, false, false⟩]⟩

/-- CAN_CNT2p: RXERR [31:16], BADTX [15:0]. -/
def canCnt2 : RegDef := ⟨0x0A0007, 4, 1024, 1, 0,
  [⟨31, 16, .rc, 0, false, false⟩, ⟨15, 0, .rc, 0, false, false⟩]⟩

/-- CAN_CNT3p: REFLATE [31:16], REFSENT [15:0]. -/
def canCnt3 : RegDef := ⟨0x0A0008, 4, 1024, 1, 0,
  [⟨31, 16, .rc, 0, false, false⟩, ⟨15, 0, .rc, 0, false, false⟩]⟩

/-- CAN_RXPNTp_q: POINT [31:16]. -/
def canRxpnt : RegDef := ⟨0x0A0009, 4, 1024, 2, 1,
  [⟨31, 16, .st, 0, false, false⟩, ⟨15, 0, .st, 0, true, false⟩]⟩

/-- CAN_TXPNTp: POINT [31:16], SLOTS [5:0]. -/
def canTxpnt : RegDef := ⟨0x0A000B, 4, 1024, 1, 0,
  [⟨31, 16, .st, 0, false, false⟩, ⟨15, 6, .st, 0, true, false⟩, ⟨5, 0, .st, 0, false, false⟩]⟩

/-- CAN_STSPNTp: POINT [31:16]. -/
def canStspnt : RegDef := ⟨0x0A000C, 4, 1024, 1, 0,
  [⟨31, 16, .st, 0, false, false⟩, ⟨15, 0, .st, 0, true, false⟩]⟩

/-- CAN_REFCTLp: EN [31], IDE [30], ID [28:0]. -/
def canRefctl : RegDef := ⟨0x0A0010, 4, 1024, 1, 0,
  [⟨31, 31, .st, 0, false, false⟩, ⟨30, 30, .st, 0, false, false⟩, ⟨29, 29, .st, 0, true, false⟩,
   ⟨28, 0, .st, 0, false, false⟩]⟩

/-- CAN_REFPERp: VALUE [31:0]. -/
def canRefper : RegDef := ⟨0x0A0011, 4, 1024, 1, 0,
  [⟨31, 0, .st, 1000, false, false⟩]⟩

/-- CAN_REFPHp: VALUE [31:0]. -/
def canRefph : RegDef := ⟨0x0A0012, 4, 1024, 1, 0,
  [⟨31, 0, .st, 0, false, false⟩]⟩

/-- CAN_MONCTLp: EN [31], LOCK [30], OWNER [29:28], SESSION [26:24], MISSED [23:16], ANY [7], FILT [6:0]. -/
def canMonctl : RegDef := ⟨0x0A0020, 4, 1024, 1, 0,
  [⟨31, 31, .rw, 0, false, false⟩, ⟨30, 30, .ro, 0, false, false⟩, ⟨29, 28, .ro, 0, false, false⟩,
   ⟨27, 27, .ro, 0, true, false⟩, ⟨26, 24, .ro, 0, false, false⟩, ⟨23, 16, .rc, 0, false, false⟩,
   ⟨15, 8, .rw, 0, true, false⟩, ⟨7, 7, .rw, 0, false, false⟩, ⟨6, 0, .rw, 0, false, false⟩]⟩

/-- CAN_MONp_w: VALUE [31:0]. -/
def canMon : RegDef := ⟨0x0A0021, 4, 1024, 20, 1,
  [⟨31, 0, .ro, 0, false, false⟩]⟩

/-- CAN_FLTAp_f: EN [31], ACT [30:29], ID [28:0]. -/
def canFlta : RegDef := ⟨0x0A0100, 4, 1024, 64, 2,
  [⟨31, 31, .st, 0, false, false⟩, ⟨30, 29, .st, 0, false, false⟩, ⟨28, 0, .st, 0, false, false⟩]⟩

/-- CAN_FLTBp_f: IDE [31], MASK [28:0]. -/
def canFltb : RegDef := ⟨0x0A0101, 4, 1024, 64, 2,
  [⟨31, 31, .st, 0, false, false⟩, ⟨30, 29, .st, 0, true, false⟩, ⟨28, 0, .st, 0, false, false⟩]⟩

/-- BRG_CTL: EN [31], MON [30], RETRY [23:16], TMO [15:8]. -/
def brgCtl : RegDef := ⟨0x0B0000, 1, 0, 1, 0,
  [⟨31, 31, .st, 0, false, false⟩, ⟨30, 30, .st, 0, false, false⟩, ⟨29, 24, .st, 0, true, false⟩,
   ⟨23, 16, .st, 16, false, true⟩, ⟨15, 8, .st, 64, false, true⟩, ⟨7, 0, .st, 0, true, false⟩]⟩

/-- BRG_STAT: DRIVE [31], SYSFAIL [30], PRES [15:0]. -/
def brgStat : RegDef := ⟨0x0B0001, 1, 0, 1, 0,
  [⟨31, 31, .ro, 0, false, false⟩, ⟨30, 30, .ro, 0, false, false⟩, ⟨29, 16, .ro, 0, true, false⟩,
   ⟨15, 0, .ro, 0, false, false⟩]⟩

/-- BRG_CNT0: BACKOFF [31:16], RETRY [15:0]. -/
def brgCnt0 : RegDef := ⟨0x0B0002, 1, 0, 1, 0,
  [⟨31, 16, .rc, 0, false, false⟩, ⟨15, 0, .rc, 0, false, false⟩]⟩

/-- BRG_CNT1: TIMEOUT [31:16], PARITY [15:0]. -/
def brgCnt1 : RegDef := ⟨0x0B0003, 1, 0, 1, 0,
  [⟨31, 16, .rc, 0, false, false⟩, ⟨15, 0, .rc, 0, false, false⟩]⟩

/-- BRG_CNT2: LATE [31:16], ABSENT [15:0]. -/
def brgCnt2 : RegDef := ⟨0x0B0004, 1, 0, 1, 0,
  [⟨31, 16, .rc, 0, false, false⟩, ⟨15, 0, .rc, 0, false, false⟩]⟩

/-- BRG_WCTLw: EN [31], KIND [30:29], LANE [28:27], RDLEAD [26:16], LEN [5:0]. -/
def brgWctl : RegDef := ⟨0x0B0100, 64, 4, 1, 0,
  [⟨31, 31, .st, 0, false, false⟩, ⟨30, 29, .st, 0, false, false⟩, ⟨28, 27, .st, 0, false, false⟩,
   ⟨26, 16, .st, 0, false, false⟩, ⟨15, 6, .st, 0, true, false⟩, ⟨5, 0, .st, 0, false, false⟩]⟩

/-- BRG_WADRw: SLOT [27:24], OFFSET [23:0]. -/
def brgWadr : RegDef := ⟨0x0B0101, 64, 4, 1, 0,
  [⟨31, 28, .st, 0, true, false⟩, ⟨27, 24, .st, 0, false, false⟩, ⟨23, 0, .st, 0, false, false⟩]⟩

/-- BRG_WPNTw: POINT [31:16]. -/
def brgWpnt : RegDef := ⟨0x0B0102, 64, 4, 1, 0,
  [⟨31, 16, .st, 0, false, false⟩, ⟨15, 0, .st, 0, true, false⟩]⟩

/-- BRG_WSTw: BUSY [31], RESULT [30:28], COUNT [15:0]. -/
def brgWst : RegDef := ⟨0x0B0103, 64, 4, 1, 0,
  [⟨31, 31, .ro, 0, false, false⟩, ⟨30, 28, .ro, 0, false, false⟩, ⟨27, 16, .ro, 0, true, false⟩,
   ⟨15, 0, .rc, 0, false, false⟩]⟩

/-- DIO_STAT: FSOK [31:28], TPFLT [15:8], TPON [7:0]. -/
def dioStat : RegDef := ⟨0x0C0000, 1, 0, 1, 0,
  [⟨31, 28, .ro, 0, false, false⟩, ⟨27, 16, .ro, 0, true, false⟩, ⟨15, 8, .ro, 0, false, false⟩,
   ⟨7, 0, .ro, 0, false, false⟩]⟩

/-- DIO_XCTL: RBON [31:24], RBOFF [23:16], OVLDT [15:8]. -/
def dioXctl : RegDef := ⟨0x0C0001, 1, 0, 1, 0,
  [⟨31, 24, .st, 20, false, true⟩, ⟨23, 16, .st, 2, false, true⟩, ⟨15, 8, .st, 5, false, true⟩,
   ⟨7, 0, .st, 0, true, false⟩]⟩

/-- DIO_CNT: LANE [31:22], RBERR [21:11], OVLD [10:0]. -/
def dioCnt : RegDef := ⟨0x0C0002, 1, 0, 1, 0,
  [⟨31, 22, .rc, 0, false, false⟩, ⟨21, 11, .rc, 0, false, false⟩, ⟨10, 0, .rc, 0, false, false⟩]⟩

/-- DIO_RBPNT: POINT [31:16]. -/
def dioRbpnt : RegDef := ⟨0x0C0003, 1, 0, 1, 0,
  [⟨31, 16, .st, 0, false, false⟩, ⟨15, 0, .st, 0, true, false⟩]⟩

/-- DIO_FSf: VOLT [31:16], CURR [15:0]. -/
def dioFs : RegDef := ⟨0x0C0004, 4, 1, 1, 0,
  [⟨31, 16, .ro, 0, false, false⟩, ⟨15, 0, .ro, 0, false, false⟩]⟩

/-- DIO_GCFGg: POINT [31:16], EN [15], CLASS [14:13]. -/
def dioGcfg : RegDef := ⟨0x0C0010, 8, 1, 1, 0,
  [⟨31, 16, .st, 0, false, false⟩, ⟨15, 15, .st, 0, false, false⟩, ⟨14, 13, .st, 0, false, false⟩,
   ⟨12, 0, .st, 0, true, false⟩]⟩

/-- DIO_DICFGn: DEB [31:16], TPEN [15], TPSEL [14:12]. -/
def dioDicfg : RegDef := ⟨0x0C0100, 64, 1, 1, 0,
  [⟨31, 16, .st, 1000, false, false⟩, ⟨15, 15, .st, 0, false, false⟩, ⟨14, 12, .st, 0, false, false⟩,
   ⟨11, 0, .st, 0, true, false⟩]⟩

/-- DIO_DOCFGn: POINT [31:16], EN [15], SUBON [14], INRUSH [13], BIT [5:0]. -/
def dioDocfg : RegDef := ⟨0x0C0200, 32, 1, 1, 0,
  [⟨31, 16, .st, 0, false, false⟩, ⟨15, 15, .st, 0, false, false⟩, ⟨14, 14, .st, 0, false, false⟩,
   ⟨13, 13, .st, 0, false, false⟩, ⟨12, 6, .st, 0, true, false⟩, ⟨5, 0, .st, 0, false, false⟩]⟩

/-- DIO_TPCFGt: EN [31], PW [30:21], PER [20:11], PHASE [10:1]. -/
def dioTpcfg0 : RegDef := ⟨0x0C0300, 1, 0, 1, 0,
  [⟨31, 31, .st, 1, false, false⟩, ⟨30, 21, .st, 200, false, false⟩, ⟨20, 11, .st, 100, false, false⟩,
   ⟨10, 1, .st, 0, false, false⟩, ⟨0, 0, .st, 0, true, false⟩]⟩

/-- DIO_TPCFGt: EN [31], PW [30:21], PER [20:11], PHASE [10:1]. -/
def dioTpcfg1 : RegDef := ⟨0x0C0301, 1, 0, 1, 0,
  [⟨31, 31, .st, 1, false, false⟩, ⟨30, 21, .st, 200, false, false⟩, ⟨20, 11, .st, 100, false, false⟩,
   ⟨10, 1, .st, 10, false, false⟩, ⟨0, 0, .st, 0, true, false⟩]⟩

/-- DIO_TPCFGt: EN [31], PW [30:21], PER [20:11], PHASE [10:1]. -/
def dioTpcfg2 : RegDef := ⟨0x0C0302, 1, 0, 1, 0,
  [⟨31, 31, .st, 1, false, false⟩, ⟨30, 21, .st, 200, false, false⟩, ⟨20, 11, .st, 100, false, false⟩,
   ⟨10, 1, .st, 20, false, false⟩, ⟨0, 0, .st, 0, true, false⟩]⟩

/-- DIO_TPCFGt: EN [31], PW [30:21], PER [20:11], PHASE [10:1]. -/
def dioTpcfg3 : RegDef := ⟨0x0C0303, 1, 0, 1, 0,
  [⟨31, 31, .st, 1, false, false⟩, ⟨30, 21, .st, 200, false, false⟩, ⟨20, 11, .st, 100, false, false⟩,
   ⟨10, 1, .st, 30, false, false⟩, ⟨0, 0, .st, 0, true, false⟩]⟩

/-- DIO_TPCFGt: EN [31], PW [30:21], PER [20:11], PHASE [10:1]. -/
def dioTpcfg4 : RegDef := ⟨0x0C0304, 1, 0, 1, 0,
  [⟨31, 31, .st, 1, false, false⟩, ⟨30, 21, .st, 200, false, false⟩, ⟨20, 11, .st, 100, false, false⟩,
   ⟨10, 1, .st, 40, false, false⟩, ⟨0, 0, .st, 0, true, false⟩]⟩

/-- DIO_TPCFGt: EN [31], PW [30:21], PER [20:11], PHASE [10:1]. -/
def dioTpcfg5 : RegDef := ⟨0x0C0305, 1, 0, 1, 0,
  [⟨31, 31, .st, 1, false, false⟩, ⟨30, 21, .st, 200, false, false⟩, ⟨20, 11, .st, 100, false, false⟩,
   ⟨10, 1, .st, 50, false, false⟩, ⟨0, 0, .st, 0, true, false⟩]⟩

/-- DIO_TPCFGt: EN [31], PW [30:21], PER [20:11], PHASE [10:1]. -/
def dioTpcfg6 : RegDef := ⟨0x0C0306, 1, 0, 1, 0,
  [⟨31, 31, .st, 1, false, false⟩, ⟨30, 21, .st, 200, false, false⟩, ⟨20, 11, .st, 100, false, false⟩,
   ⟨10, 1, .st, 60, false, false⟩, ⟨0, 0, .st, 0, true, false⟩]⟩

/-- DIO_TPCFGt: EN [31], PW [30:21], PER [20:11], PHASE [10:1]. -/
def dioTpcfg7 : RegDef := ⟨0x0C0307, 1, 0, 1, 0,
  [⟨31, 31, .st, 1, false, false⟩, ⟨30, 21, .st, 200, false, false⟩, ⟨20, 11, .st, 100, false, false⟩,
   ⟨10, 1, .st, 70, false, false⟩, ⟨0, 0, .st, 0, true, false⟩]⟩

/-- SPD_STAT: BREAK [31:24], SHORT [23:16], SUPON [15:8]. -/
def spdStat : RegDef := ⟨0x0D0000, 1, 0, 1, 0,
  [⟨31, 24, .ro, 0, false, false⟩, ⟨23, 16, .ro, 0, false, false⟩, ⟨15, 8, .ro, 0, false, false⟩,
   ⟨7, 0, .ro, 0, true, false⟩]⟩

/-- SPD_CNT: QERR [31:16], OVER [15:0]. -/
def spdCnt : RegDef := ⟨0x0D0001, 1, 0, 1, 0,
  [⟨31, 16, .rc, 0, false, false⟩, ⟨15, 0, .rc, 0, false, false⟩]⟩

/-- SPD_CFGn: EN [31], TYPE [30], QUAD [29], DIRINV [28], STILLT [15:0]. -/
def spdCfg : RegDef := ⟨0x0D0010, 8, 1, 1, 0,
  [⟨31, 31, .st, 0, false, false⟩, ⟨30, 30, .st, 0, false, false⟩, ⟨29, 29, .st, 0, false, false⟩,
   ⟨28, 28, .st, 0, false, false⟩, ⟨27, 16, .st, 0, true, false⟩, ⟨15, 0, .st, 500, false, false⟩]⟩

/-- SPD_PNTn: POINT [31:16]. -/
def spdPnt : RegDef := ⟨0x0D0020, 8, 1, 1, 0,
  [⟨31, 16, .st, 0, false, false⟩, ⟨15, 0, .st, 0, true, false⟩]⟩

/-- SPD_XCFGn: FILT [6:0]. -/
def spdXcfg : RegDef := ⟨0x0D0030, 8, 1, 1, 0,
  [⟨31, 7, .st, 0, true, false⟩, ⟨6, 0, .st, 20, false, true⟩]⟩

/-- ALP_STAT: CJOK [31:28]. -/
def alpStat : RegDef := ⟨0x0E0000, 1, 0, 1, 0,
  [⟨31, 28, .ro, 0, false, false⟩, ⟨27, 0, .ro, 0, true, false⟩]⟩

/-- ALP_XCTL: OETH [23:16], OETM [15:8], NOTCH [0]. -/
def alpXctl : RegDef := ⟨0x0E0001, 1, 0, 1, 0,
  [⟨31, 24, .st, 0, true, false⟩, ⟨23, 16, .st, 20, false, true⟩, ⟨15, 8, .st, 50, false, true⟩,
   ⟨7, 1, .st, 0, true, false⟩, ⟨0, 0, .st, 0, false, true⟩]⟩

/-- ALP_CNT: SETTLE [31:16], OUTERR [15:0]. -/
def alpCnt : RegDef := ⟨0x0E0002, 1, 0, 1, 0,
  [⟨31, 16, .rc, 0, false, false⟩, ⟨15, 0, .rc, 0, false, false⟩]⟩

/-- ALP_LPFAIL: VALUE [31:0]. -/
def alpLpfail : RegDef := ⟨0x0E0003, 1, 0, 1, 0,
  [⟨31, 0, .ro, 0, false, false⟩]⟩

/-- ALP_CJc: VALUE [31:0]. -/
def alpCj : RegDef := ⟨0x0E0004, 4, 1, 1, 0,
  [⟨31, 0, .ro, 0, false, false⟩]⟩

/-- ALP_CFGn: EN [31], LOOP [30], KIND [29:26], RATE [25:24], SUBEN [23], W3 [22], DAMP [11:0]. -/
def alpCfg : RegDef := ⟨0x0E0100, 32, 8, 1, 0,
  [⟨31, 31, .st, 0, false, false⟩, ⟨30, 30, .st, 0, false, false⟩, ⟨29, 26, .st, 0, false, false⟩,
   ⟨25, 24, .st, 1, false, false⟩, ⟨23, 23, .st, 0, false, false⟩, ⟨22, 22, .st, 0, false, false⟩,
   ⟨21, 12, .st, 0, true, false⟩, ⟨11, 0, .st, 0, false, false⟩]⟩

/-- ALP_PNTn: POINT [31:16]. -/
def alpPnt : RegDef := ⟨0x0E0101, 32, 8, 1, 0,
  [⟨31, 16, .st, 0, false, false⟩, ⟨15, 0, .st, 0, true, false⟩]⟩

/-- ALP_OPNTn: POINT [31:16]. -/
def alpOpnt : RegDef := ⟨0x0E0102, 32, 8, 1, 0,
  [⟨31, 16, .st, 0, false, false⟩, ⟨15, 0, .st, 0, true, false⟩]⟩

/-- ALP_SUBn: VALUE [31:0]. -/
def alpSub : RegDef := ⟨0x0E0103, 32, 8, 1, 0,
  [⟨31, 0, .st, 0, false, false⟩]⟩

/-- ALP_LPRESn: VALUE [31:0]. -/
def alpLpres : RegDef := ⟨0x0E0104, 32, 8, 1, 0,
  [⟨31, 0, .ro, 0, false, false⟩]⟩

/-- ALP_STn: KSTAT [15:0]. -/
def alpSt : RegDef := ⟨0x0E0105, 32, 8, 1, 0,
  [⟨31, 16, .ro, 0, true, false⟩, ⟨15, 0, .ro, 0, false, false⟩]⟩

/-- RIND_STAT: STATE [31:29], READY [28], TE0 [27], TE1 [26], PERMIT [25], UNLOCK [24], PWSET [23], PWBLOCK [22], ACCPEND [21], DEMAND [15:8], SIFAULT [7:0]. -/
def rindStat : RegDef := ⟨0x0F0000, 1, 0, 1, 0,
  [⟨31, 29, .ro, 0, false, false⟩, ⟨28, 28, .ro, 0, false, false⟩, ⟨27, 27, .ro, 0, false, false⟩,
   ⟨26, 26, .ro, 0, false, false⟩, ⟨25, 25, .ro, 0, false, false⟩, ⟨24, 24, .ro, 0, false, false⟩,
   ⟨23, 23, .ro, 0, false, false⟩, ⟨22, 22, .ro, 0, false, false⟩, ⟨21, 21, .ro, 0, false, false⟩,
   ⟨20, 16, .ro, 0, true, false⟩, ⟨15, 8, .ro, 0, false, false⟩, ⟨7, 0, .ro, 0, false, false⟩]⟩

/-- RIND_CMD: OP [31:28]. -/
def rindCmd : RegDef := ⟨0x0F0001, 1, 0, 1, 0,
  [⟨31, 28, .wo, 0, false, false⟩, ⟨27, 0, .wo, 0, true, false⟩]⟩

/-- RIND_ARG: VALUE [31:0]. -/
def rindArg : RegDef := ⟨0x0F0002, 1, 0, 1, 0,
  [⟨31, 0, .wo, 0, false, false⟩]⟩

/-- RIND_PCHK: VALUE [31:0]. -/
def rindPchk : RegDef := ⟨0x0F0003, 1, 0, 1, 0,
  [⟨31, 0, .ro, 0, false, false⟩]⟩

/-- RIND_ACHK: VALUE [31:0]. -/
def rindAchk : RegDef := ⟨0x0F0004, 1, 0, 1, 0,
  [⟨31, 0, .ro, 0, false, false⟩]⟩

/-- RIND_AKCHK: AKPROP [31:16], AKACC [15:0]. -/
def rindAkchk : RegDef := ⟨0x0F0005, 1, 0, 1, 0,
  [⟨31, 16, .ro, 0, false, false⟩, ⟨15, 0, .ro, 0, false, false⟩]⟩

/-- RIND_CAUSE: STATUS [31:24], CAUSE [23:16], INPUT [15:8], CMDRES [7:0]. -/
def rindCause : RegDef := ⟨0x0F0006, 1, 0, 1, 0,
  [⟨31, 24, .ro, 1, false, false⟩, ⟨23, 16, .ro, 0, false, false⟩, ⟨15, 8, .ro, 255, false, false⟩,
   ⟨7, 0, .ro, 0, false, false⟩]⟩

/-- RIND_CNT0: STOPS [31:16], RESETS [15:0]. -/
def rindCnt0 : RegDef := ⟨0x0F0007, 1, 0, 1, 0,
  [⟨31, 16, .rc, 0, false, false⟩, ⟨15, 0, .rc, 0, false, false⟩]⟩

/-- RIND_CNT1: REFUSED [31:16], PWFAIL [15:0]. -/
def rindCnt1 : RegDef := ⟨0x0F0008, 1, 0, 1, 0,
  [⟨31, 16, .rc, 0, false, false⟩, ⟨15, 0, .rc, 0, false, false⟩]⟩

/-- RIND_SPDc: VALUE [31:0]. -/
def rindSpd : RegDef := ⟨0x0F0009, 2, 1, 1, 0,
  [⟨31, 0, .ro, 0, false, false⟩]⟩

/-- RIND_PNT: POINT [31:16]. -/
def rindPnt : RegDef := ⟨0x0F000B, 1, 0, 1, 0,
  [⟨31, 16, .st, 0, false, false⟩, ⟨15, 0, .st, 0, true, false⟩]⟩

/-- RIND_PWk: VALUE [31:0]. -/
def rindPw : RegDef := ⟨0x0F0010, 8, 1, 1, 0,
  [⟨31, 0, .wo, 0, false, false⟩]⟩

/-- RIND_LOGSEL: ENTRY [5:0]. -/
def rindLogsel : RegDef := ⟨0x0F0020, 1, 0, 1, 0,
  [⟨31, 6, .rw, 0, true, false⟩, ⟨5, 0, .rw, 0, false, false⟩]⟩

/-- RIND_LOGw: VALUE [31:0]. -/
def rindLog : RegDef := ⟨0x0F0021, 4, 1, 1, 0,
  [⟨31, 0, .ro, 0, false, false⟩]⟩

/-- RIND_PGEN: RSTPWR [31], HOLDACT [30], SECMODE [29:28], TPMAX [23:16], SFILT [15:8], DISC [7:0]. -/
def rindPgen : RegDef := ⟨0x0F0100, 1, 0, 1, 0,
  [⟨31, 31, .st, 0, false, false⟩, ⟨30, 30, .st, 0, false, false⟩, ⟨29, 28, .st, 0, false, false⟩,
   ⟨27, 24, .st, 0, true, false⟩, ⟨23, 16, .st, 0, false, false⟩, ⟨15, 8, .st, 0, false, false⟩,
   ⟨7, 0, .st, 0, false, false⟩]⟩

/-- RIND_PSIi: EN [31], FUNC [30:29], PAIR [28], TPSRC [26:24]. -/
def rindPsi : RegDef := ⟨0x0F0101, 8, 1, 1, 0,
  [⟨31, 31, .st, 0, false, false⟩, ⟨30, 29, .st, 0, false, false⟩, ⟨28, 28, .st, 0, false, false⟩,
   ⟨27, 27, .st, 0, true, false⟩, ⟨26, 24, .st, 0, false, false⟩, ⟨23, 0, .st, 0, true, false⟩]⟩

/-- RIND_PSPD: EN0 [31], EN1 [30], SDT [23:16], SDIFF [15:0]. -/
def rindPspd : RegDef := ⟨0x0F0109, 1, 0, 1, 0,
  [⟨31, 31, .st, 0, false, false⟩, ⟨30, 30, .st, 0, false, false⟩, ⟨29, 24, .st, 0, true, false⟩,
   ⟨23, 16, .st, 0, false, false⟩, ⟨15, 0, .st, 0, false, false⟩]⟩

/-- RIND_PVSTILL: VALUE [31:0]. -/
def rindPvstill : RegDef := ⟨0x0F010A, 1, 0, 1, 0,
  [⟨31, 0, .st, 0, false, false⟩]⟩

/-- RIND_PVTOL: VALUE [31:0]. -/
def rindPvtol : RegDef := ⟨0x0F010B, 1, 0, 1, 0,
  [⟨31, 0, .st, 0, false, false⟩]⟩

/-- RIND_PDEC: VALUE [31:0]. -/
def rindPdec : RegDef := ⟨0x0F010C, 1, 0, 1, 0,
  [⟨31, 0, .st, 0, false, false⟩]⟩

/-- RIND_PTIME: TMAX [31:16], TDLY [15:0]. -/
def rindPtime : RegDef := ⟨0x0F010D, 1, 0, 1, 0,
  [⟨31, 16, .st, 0, false, false⟩, ⟨15, 0, .st, 0, false, false⟩]⟩

/-- WHY_CTLn: EN [31], ORD [30:29], EVT [28:27], SIZE [26:21], BASE [20:0]. -/
def whyCtl : RegDef := ⟨0x100000, 32768, 4, 1, 0,
  [⟨31, 31, .st, 0, false, false⟩, ⟨30, 29, .st, 0, false, false⟩, ⟨28, 27, .st, 0, false, false⟩,
   ⟨26, 21, .st, 0, false, false⟩, ⟨20, 0, .st, 0, false, false⟩]⟩

/-- WHY_PRODn: DEPTH [31:20], PEND [19:0]. -/
def whyProd : RegDef := ⟨0x100001, 32768, 4, 1, 0,
  [⟨31, 20, .st, 0, false, false⟩, ⟨19, 0, .st, 0, false, false⟩]⟩

/-- WHY_CONSn: EVSRC [31:20], CEND [19:0]. -/
def whyCons : RegDef := ⟨0x100002, 32768, 4, 1, 0,
  [⟨31, 20, .st, 0, false, false⟩, ⟨19, 0, .st, 0, false, false⟩]⟩

/-- WHY_CHKn: CHK [31:0]. -/
def whyChk : RegDef := ⟨0x100003, 32768, 4, 1, 0,
  [⟨31, 0, .ro, 0, false, false⟩]⟩

/-- CEL_STAT: FFULL [31], CWRAP [30], CLEARING [29], READY [28], SEQEND [27], SNAP [19:16], CBUF [9:0]. -/
def celStat : RegDef := ⟨0x180000, 1, 0, 1, 0,
  [⟨31, 31, .ro, 0, false, false⟩, ⟨30, 30, .ro, 0, false, false⟩, ⟨29, 29, .ro, 0, false, false⟩,
   ⟨28, 28, .ro, 0, false, false⟩, ⟨27, 27, .ro, 0, false, false⟩, ⟨26, 20, .ro, 0, true, false⟩,
   ⟨19, 16, .ro, 0, false, false⟩, ⟨15, 10, .ro, 0, true, false⟩, ⟨9, 0, .ro, 0, false, false⟩]⟩

/-- CEL_CTL: CULTOFF [31], CRATE [15:0]. -/
def celCtl : RegDef := ⟨0x180001, 1, 0, 1, 0,
  [⟨31, 31, .st, 0, false, false⟩, ⟨30, 16, .st, 0, true, false⟩, ⟨15, 0, .st, 4096, false, true⟩]⟩

/-- CEL_NEWL: VALUE [31:0]. -/
def celNewl : RegDef := ⟨0x180002, 1, 0, 1, 0,
  [⟨31, 0, .ro, 0, false, false⟩]⟩

/-- CEL_NEWH: SEQH [7:0]. -/
def celNewh : RegDef := ⟨0x180003, 1, 0, 1, 0,
  [⟨31, 8, .ro, 0, true, false⟩, ⟨7, 0, .ro, 0, false, false⟩]⟩

/-- CEL_OLDL: VALUE [31:0]. -/
def celOldl : RegDef := ⟨0x180004, 1, 0, 1, 0,
  [⟨31, 0, .ro, 0, false, false⟩]⟩

/-- CEL_OLDH: OLDH [7:0]. -/
def celOldh : RegDef := ⟨0x180005, 1, 0, 1, 0,
  [⟨31, 8, .ro, 0, true, false⟩, ⟨7, 0, .ro, 0, false, false⟩]⟩

/-- CEL_OPSEC: VALUE [31:0]. -/
def celOpsec : RegDef := ⟨0x180006, 1, 0, 1, 0,
  [⟨31, 0, .ro, 0, false, false⟩]⟩

/-- CEL_PWRCYC: COUNT [23:0]. -/
def celPwrcyc : RegDef := ⟨0x180007, 1, 0, 1, 0,
  [⟨31, 24, .ro, 0, true, false⟩, ⟨23, 0, .ro, 0, false, false⟩]⟩

/-- CEL_CNT0: LOST [31:16], CDROP [15:0]. -/
def celCnt0 : RegDef := ⟨0x180008, 1, 0, 1, 0,
  [⟨31, 16, .rc, 0, false, false⟩, ⟨15, 0, .rc, 0, false, false⟩]⟩

/-- CEL_CNT1: VALUE [31:0]. -/
def celCnt1 : RegDef := ⟨0x180009, 1, 0, 1, 0,
  [⟨31, 0, .rc, 0, false, false⟩]⟩

/-- UPD_STAT: LOAD [31:30], LKIND [29:28], LSESSION [27:25], TRIAL [24], TKIND [23], CONFOK [22], CONFLEFT [15:0]. -/
def updStat : RegDef := ⟨0x190000, 1, 0, 1, 0,
  [⟨31, 30, .ro, 0, false, false⟩, ⟨29, 28, .ro, 0, false, false⟩, ⟨27, 25, .ro, 0, false, false⟩,
   ⟨24, 24, .ro, 0, false, false⟩, ⟨23, 23, .ro, 0, false, false⟩, ⟨22, 22, .ro, 0, false, false⟩,
   ⟨21, 16, .ro, 0, true, false⟩, ⟨15, 0, .ro, 0, false, false⟩]⟩

/-- UPD_CTL: NEEDOK [31], STBYCONF [30], AUTOCONF [29], TRIES [23:20], CONFTIME [15:0]. -/
def updCtl : RegDef := ⟨0x190001, 1, 0, 1, 0,
  [⟨31, 31, .st, 1, false, false⟩, ⟨30, 30, .st, 0, false, false⟩, ⟨29, 29, .st, 1, false, false⟩,
   ⟨28, 24, .st, 0, true, false⟩, ⟨23, 20, .st, 3, false, true⟩, ⟨19, 16, .st, 0, true, false⟩,
   ⟨15, 0, .st, 60, false, false⟩]⟩

/-- UPD_CNT: CONFIRMS [31:16], REJECTS [15:0]. -/
def updCnt : RegDef := ⟨0x190002, 1, 0, 1, 0,
  [⟨31, 16, .rc, 0, false, false⟩, ⟨15, 0, .rc, 0, false, false⟩]⟩

/-- UPD_ROLLMIN: VALUE [31:0]. -/
def updRollmin : RegDef := ⟨0x190003, 1, 0, 1, 0,
  [⟨31, 0, .ro, 0, false, false⟩]⟩

/-- UPD_FWVER: VALUE [31:0]. -/
def updFwver : RegDef := ⟨0x190004, 1, 0, 1, 0,
  [⟨31, 0, .ro, 0, false, false⟩]⟩

/-- UPD_SFMT: SFMT [15:0]. -/
def updSfmt : RegDef := ⟨0x190005, 1, 0, 1, 0,
  [⟨31, 16, .ro, 0, true, false⟩, ⟨15, 0, .ro, 0, false, false⟩]⟩

/-- UPD_SLOTk: STATE [31:29], TRIES [28:25], CHKFAIL [23:16], REASON [15:8]. -/
def updSlot : RegDef := ⟨0x190010, 4, 1, 1, 0,
  [⟨31, 29, .ro, 0, false, false⟩, ⟨28, 25, .ro, 0, false, false⟩, ⟨24, 24, .ro, 0, true, false⟩,
   ⟨23, 16, .ro, 0, false, false⟩, ⟨15, 8, .ro, 0, false, false⟩, ⟨7, 0, .ro, 0, true, false⟩]⟩

/-- UPD_SVERk: VALUE [31:0]. -/
def updSver : RegDef := ⟨0x190014, 4, 1, 1, 0,
  [⟨31, 0, .ro, 0, false, false⟩]⟩

/-- TST_STAT: STATE [31:30], CRUN [29], SESSION [28:26], TESTID [23:16], RESULT [15:8]. -/
def tstStat : RegDef := ⟨0x1A0000, 1, 0, 1, 0,
  [⟨31, 30, .ro, 0, false, false⟩, ⟨29, 29, .ro, 0, false, false⟩, ⟨28, 26, .ro, 0, false, false⟩,
   ⟨25, 24, .ro, 0, true, false⟩, ⟨23, 16, .ro, 0, false, false⟩, ⟨15, 8, .ro, 0, false, false⟩,
   ⟨7, 0, .ro, 0, true, false⟩]⟩

/-- TST_CTL: CRUN [31]. -/
def tstCtl : RegDef := ⟨0x1A0001, 1, 0, 1, 0,
  [⟨31, 31, .rw, 0, false, false⟩, ⟨30, 0, .rw, 0, true, false⟩]⟩

/-- TST_OUTEN: VALUE [31:0]. -/
def tstOuten : RegDef := ⟨0x1A0002, 1, 0, 1, 0,
  [⟨31, 0, .rw, 0, false, false⟩]⟩

/-- TST_AOUTEN: VALUE [31:0]. -/
def tstAouten : RegDef := ⟨0x1A0003, 1, 0, 1, 0,
  [⟨31, 0, .rw, 0, false, false⟩]⟩

/-- TST_BITSL: VALUE [31:0]. -/
def tstBitsl : RegDef := ⟨0x1A0004, 1, 0, 1, 0,
  [⟨31, 0, .ro, 0, false, false⟩]⟩

/-- TST_BITSH: VALUE [31:0]. -/
def tstBitsh : RegDef := ⟨0x1A0005, 1, 0, 1, 0,
  [⟨31, 0, .ro, 0, false, false⟩]⟩

/-- TST_ERRS: VALUE [31:0]. -/
def tstErrs : RegDef := ⟨0x1A0006, 1, 0, 1, 0,
  [⟨31, 0, .ro, 0, false, false⟩]⟩

/-- TST_CNT: PASS [31:16], FAIL [15:0]. -/
def tstCnt : RegDef := ⟨0x1A0007, 1, 0, 1, 0,
  [⟨31, 16, .rc, 0, false, false⟩, ⟨15, 0, .rc, 0, false, false⟩]⟩

/-- TST_LBKn: DEPTH [2:0]. -/
def tstLbk : RegDef := ⟨0x1A0010, 15, 1, 1, 0,
  [⟨31, 3, .rw, 0, true, false⟩, ⟨2, 0, .rw, 0, false, false⟩]⟩

/-- PWR_STAT: INOK [31], INTR [30], OVDISC [29], HUPLOW [28], TWARN [27], TDIFF [26], BUSOK [25], LIOOK [24], AFFOK [23], FLDOK [22], RINDOK [21], VATOK [20:18]. -/
def pwrStat : RegDef := ⟨0x1B0000, 1, 0, 1, 0,
  [⟨31, 31, .ro, 0, false, false⟩, ⟨30, 30, .ro, 0, false, false⟩, ⟨29, 29, .ro, 0, false, false⟩,
   ⟨28, 28, .ro, 0, false, false⟩, ⟨27, 27, .ro, 0, false, false⟩, ⟨26, 26, .ro, 0, false, false⟩,
   ⟨25, 25, .ro, 0, false, false⟩, ⟨24, 24, .ro, 0, false, false⟩, ⟨23, 23, .ro, 0, false, false⟩,
   ⟨22, 22, .ro, 0, false, false⟩, ⟨21, 21, .ro, 0, false, false⟩, ⟨20, 18, .ro, 0, false, false⟩,
   ⟨17, 0, .ro, 0, true, false⟩]⟩

/-- PWR_CTL: BPWARN [23:16], INTRF [7:0]. -/
def pwrCtl : RegDef := ⟨0x1B0001, 1, 0, 1, 0,
  [⟨31, 24, .st, 0, true, false⟩, ⟨23, 16, .st, if Config.variantE then 85 else 70, false, false⟩, ⟨15, 8, .st, 0, true, false⟩,
   ⟨7, 0, .st, 50, false, true⟩]⟩

/-- PWR_VIN: VOLT [31:16], CURR [15:0]. -/
def pwrVin : RegDef := ⟨0x1B0002, 1, 0, 1, 0,
  [⟨31, 16, .ro, 0, false, false⟩, ⟨15, 0, .ro, 0, false, false⟩]⟩

/-- PWR_VBUS: BUS [31:16], STORE [15:0]. -/
def pwrVbus : RegDef := ⟨0x1B0003, 1, 0, 1, 0,
  [⟨31, 16, .ro, 0, false, false⟩, ⟨15, 0, .ro, 0, false, false⟩]⟩

/-- PWR_VCORE: VATC [29:20], VATB [19:10], VATA [9:0]. -/
def pwrVcore : RegDef := ⟨0x1B0004, 1, 0, 1, 0,
  [⟨31, 30, .ro, 0, true, false⟩, ⟨29, 20, .ro, 0, false, false⟩, ⟨19, 10, .ro, 0, false, false⟩,
   ⟨9, 0, .ro, 0, false, false⟩]⟩

/-- PWR_HUP: HUP [31:16], CAP [15:0]. -/
def pwrHup : RegDef := ⟨0x1B0005, 1, 0, 1, 0,
  [⟨31, 16, .ro, 0, false, false⟩, ⟨15, 0, .ro, 0, false, false⟩]⟩

/-- PWR_POWER: PMAX [31:16], PNOW [15:0]. -/
def pwrPower : RegDef := ⟨0x1B0006, 1, 0, 1, 0,
  [⟨31, 16, .rc, 0, false, false⟩, ⟨15, 0, .ro, 0, false, false⟩]⟩

/-- PWR_FDISS: FDISS [15:0]. -/
def pwrFdiss : RegDef := ⟨0x1B0007, 1, 0, 1, 0,
  [⟨31, 16, .ro, 0, true, false⟩, ⟨15, 0, .ro, 0, false, false⟩]⟩

/-- PWR_CNT: INTR [31:16], OVDISC [15:0]. -/
def pwrCnt : RegDef := ⟨0x1B0008, 1, 0, 1, 0,
  [⟨31, 16, .rc, 0, false, false⟩, ⟨15, 0, .rc, 0, false, false⟩]⟩

/-- PWR_LASTINT: VALUE [31:0]. -/
def pwrLastint : RegDef := ⟨0x1B0009, 1, 0, 1, 0,
  [⟨31, 0, .ro, 0, false, false⟩]⟩

/-- PWR_TEMPn: TEMP [15:0]. -/
def pwrTemp : RegDef := ⟨0x1B0010, 6, 1, 1, 0,
  [⟨31, 16, .ro, 0, true, false⟩, ⟨15, 0, .ro, 0, false, false⟩]⟩

end Reg

/-- The registers of block SYS (R22). -/
def sysRegs : List RegDef :=
  [Reg.sysBlkid, Reg.sysIdent, Reg.sysMode, Reg.sysCmd, Reg.sysCtl, Reg.sysExpert,
   Reg.sysCmtst, Reg.sysCmterr, Reg.sysCmtbit, Reg.sysCfgerr, Reg.sysProve, Reg.sysProvepc]

/-- The registers of block VAT (R22). -/
def vatRegs : List RegDef :=
  [Reg.vatStat, Reg.vatCtl, Reg.vatCmd, Reg.vatSour, Reg.vatLate, Reg.vatCause,
   Reg.vatRclast, Reg.vatRcmax, Reg.vatRccnt, Reg.vatTreal, Reg.vatXdis, Reg.vatXsize,
   Reg.vatHold]

/-- The registers of block HXK (R22). -/
def hxkRegs : List RegDef :=
  [Reg.hxkTickl, Reg.hxkTickh, Reg.hxkTickofs, Reg.hxkQstat, Reg.hxkQmiss, Reg.hxkXctl,
   Reg.hxkTcfg, Reg.hxkTphase, Reg.hxkTstat, Reg.hxkTovr, Reg.hxkTmax, Reg.hxkVcfg,
   Reg.hxkVdl, Reg.hxkVstat, Reg.hxkVovr, Reg.hxkPt]

/-- The registers of block ARB (R22). -/
def arbRegs : List RegDef :=
  [Reg.arbCtl, Reg.arbStat, Reg.arbWmax, Reg.arbRankBank0, Reg.arbRankBank1, Reg.arbRankBank2,
   Reg.arbRankBank3, Reg.arbRankBank4, Reg.arbRankBank5, Reg.arbRankBank6, Reg.arbRankBank7, Reg.arbRank32,
   Reg.arbRank32x, Reg.arbRank33, Reg.arbRank34, Reg.arbRank34x, Reg.arbRank35, Reg.arbRank35x,
   Reg.arbSlot, Reg.arbWqsel, Reg.arbWqst0, Reg.arbWqst1, Reg.arbWqst2, Reg.arbWerr,
   Reg.arbWdrop]

/-- The registers of block EVC (R22). -/
def evcRegs : List RegDef :=
  [Reg.evcGrp, Reg.evcSatc, Reg.evcHeld, Reg.evcNotask, Reg.evcMerge, Reg.evcReal,
   Reg.evcXctl, Reg.evcSrc]

/-- The registers of block LDL (R22). -/
def ldlRegs : List RegDef :=
  [Reg.ldlStat, Reg.ldlCtl, Reg.ldlCmd, Reg.ldlEpoch, Reg.ldlPepoch, Reg.ldlLaneerr,
   Reg.ldlDrop, Reg.ldlVol, Reg.ldlTklast, Reg.ldlCnt, Reg.ldlPh]

/-- The registers of block ETH (R22). -/
def ethRegs : List RegDef :=
  [Reg.ethStat, Reg.ethCtl, Reg.ethTopo, Reg.ethAnncom, Reg.ethRmcom, Reg.ethIp,
   Reg.ethNet, Reg.ethCnt0, Reg.ethCnt1, Reg.ethCnt2, Reg.ethCnt3, Reg.ethCnt4,
   Reg.ethPcfg, Reg.ethPcfgCn, Reg.ethPstat, Reg.ethPstatCn, Reg.ethPtsel, Reg.ethPt0,
   Reg.ethPt1, Reg.ethPt2, Reg.ethPt3, Reg.ethMdcom, Reg.ethMdctl, Reg.ethMdrp,
   Reg.ethRcfg, Reg.ethRst, Reg.ethRepo, Reg.ethPcom, Reg.ethPdst, Reg.ethPctl,
   Reg.ethPpnt, Reg.ethScom, Reg.ethSsrc, Reg.ethSctl, Reg.ethSpnt]

/-- The registers of block PTP (R22). -/
def ptpRegs : List RegDef :=
  [Reg.ptpStat, Reg.ptpCtl, Reg.ptpServo, Reg.ptpPps, Reg.ptpNowl, Reg.ptpNowh,
   Reg.ptpFreql, Reg.ptpFreqh, Reg.ptpSlew, Reg.ptpUtc, Reg.ptpHold, Reg.ptpCnt,
   Reg.ptpPpsofs, Reg.ptpTspnt, Reg.ptpLstepl, Reg.ptpLsteph, Reg.ptpDcfg0, Reg.ptpDcfg1,
   Reg.ptpDstat, Reg.ptpDofs, Reg.ptpDgml, Reg.ptpDgmh, Reg.ptpDdly, Reg.ptpCmpctl,
   Reg.ptpCmptl, Reg.ptpCmpth, Reg.ptpCmpper, Reg.ptpCapctl, Reg.ptpCappnt]

/-- The registers of block MVB (R22). -/
def mvbRegs : List RegDef :=
  [Reg.mvbStat, Reg.mvbCtl, Reg.mvbDctl, Reg.mvbActl, Reg.mvbAsel, Reg.mvbAckp,
   Reg.mvbCnt0, Reg.mvbCnt1, Reg.mvbCnt2, Reg.mvbCnt3, Reg.mvbStspnt, Reg.mvbAgr,
   Reg.mvbPcfg, Reg.mvbPpnt, Reg.mvbPemp, Reg.mvbSch]

/-- The registers of block CAN (R22). -/
def canRegs : List RegDef :=
  [Reg.canCtl, Reg.canArbtim, Reg.canFdtim, Reg.canStat, Reg.canCmd, Reg.canCnt0,
   Reg.canCnt1, Reg.canCnt2, Reg.canCnt3, Reg.canRxpnt, Reg.canTxpnt, Reg.canStspnt,
   Reg.canRefctl, Reg.canRefper, Reg.canRefph, Reg.canMonctl, Reg.canMon, Reg.canFlta,
   Reg.canFltb]

/-- The registers of block BRG (R22). -/
def brgRegs : List RegDef :=
  [Reg.brgCtl, Reg.brgStat, Reg.brgCnt0, Reg.brgCnt1, Reg.brgCnt2, Reg.brgWctl,
   Reg.brgWadr, Reg.brgWpnt, Reg.brgWst]

/-- The registers of block DIO (R22). -/
def dioRegs : List RegDef :=
  [Reg.dioStat, Reg.dioXctl, Reg.dioCnt, Reg.dioRbpnt, Reg.dioFs, Reg.dioGcfg,
   Reg.dioDicfg, Reg.dioDocfg, Reg.dioTpcfg0, Reg.dioTpcfg1, Reg.dioTpcfg2, Reg.dioTpcfg3,
   Reg.dioTpcfg4, Reg.dioTpcfg5, Reg.dioTpcfg6, Reg.dioTpcfg7]

/-- The registers of block SPD (R22). -/
def spdRegs : List RegDef :=
  [Reg.spdStat, Reg.spdCnt, Reg.spdCfg, Reg.spdPnt, Reg.spdXcfg]

/-- The registers of block ALP (R22). -/
def alpRegs : List RegDef :=
  [Reg.alpStat, Reg.alpXctl, Reg.alpCnt, Reg.alpLpfail, Reg.alpCj, Reg.alpCfg,
   Reg.alpPnt, Reg.alpOpnt, Reg.alpSub, Reg.alpLpres, Reg.alpSt]

/-- The registers of block RIND (R22). -/
def rindRegs : List RegDef :=
  [Reg.rindStat, Reg.rindCmd, Reg.rindArg, Reg.rindPchk, Reg.rindAchk, Reg.rindAkchk,
   Reg.rindCause, Reg.rindCnt0, Reg.rindCnt1, Reg.rindSpd, Reg.rindPnt, Reg.rindPw,
   Reg.rindLogsel, Reg.rindLog, Reg.rindPgen, Reg.rindPsi, Reg.rindPspd, Reg.rindPvstill,
   Reg.rindPvtol, Reg.rindPdec, Reg.rindPtime]

/-- The registers of block WHY (R22). -/
def whyRegs : List RegDef :=
  [Reg.whyCtl, Reg.whyProd, Reg.whyCons, Reg.whyChk]

/-- The registers of block CEL (R22). -/
def celRegs : List RegDef :=
  [Reg.celStat, Reg.celCtl, Reg.celNewl, Reg.celNewh, Reg.celOldl, Reg.celOldh,
   Reg.celOpsec, Reg.celPwrcyc, Reg.celCnt0, Reg.celCnt1]

/-- The registers of block UPD (R22). -/
def updRegs : List RegDef :=
  [Reg.updStat, Reg.updCtl, Reg.updCnt, Reg.updRollmin, Reg.updFwver, Reg.updSfmt,
   Reg.updSlot, Reg.updSver]

/-- The registers of block TST (R22). -/
def tstRegs : List RegDef :=
  [Reg.tstStat, Reg.tstCtl, Reg.tstOuten, Reg.tstAouten, Reg.tstBitsl, Reg.tstBitsh,
   Reg.tstErrs, Reg.tstCnt, Reg.tstLbk]

/-- The registers of block PWR (R22). -/
def pwrRegs : List RegDef :=
  [Reg.pwrStat, Reg.pwrCtl, Reg.pwrVin, Reg.pwrVbus, Reg.pwrVcore, Reg.pwrHup,
   Reg.pwrPower, Reg.pwrFdiss, Reg.pwrCnt, Reg.pwrLastint, Reg.pwrTemp]

/-- The registers of the block whose code is `b` (R22); an address of any other block is unassigned (R23). -/
def blockRegs (b : Nat) : List RegDef :=
  match b with
  | 0 => sysRegs
  | 1 => vatRegs
  | 2 => hxkRegs
  | 3 => hxkRegs
  | 4 => arbRegs
  | 5 => evcRegs
  | 6 => ldlRegs
  | 7 => ethRegs
  | 8 => ptpRegs
  | 9 => mvbRegs
  | 10 => canRegs
  | 11 => brgRegs
  | 12 => dioRegs
  | 13 => spdRegs
  | 14 => alpRegs
  | 15 => rindRegs
  | 16 => whyRegs
  | 17 => whyRegs
  | 18 => whyRegs
  | 19 => whyRegs
  | 20 => whyRegs
  | 21 => whyRegs
  | 22 => whyRegs
  | 23 => whyRegs
  | 24 => celRegs
  | 25 => updRegs
  | 26 => tstRegs
  | 27 => pwrRegs
  | _ => []

/-- The register map of address `a`; none where the address is unassigned (R23). -/
def regDef (a : Nat) : Option RegDef := (blockRegs (a / 65536)).find? (·.covers a)

/-- The word a register holds at reset (R10), from the Reset column of its fields. -/
def RegDef.resetWord (r : RegDef) : Word :=
  BitVec.ofNat 32 (r.fields.foldl (fun acc f => acc + f.reset * 2 ^ f.lsb) 0)

/-- The reset word of address `a`; 0 where it is unassigned. -/
def regReset (a : Nat) : Word :=
  match regDef a with
  | some r => r.resetWord
  | none => 0

end Sys2Proof.Machine
end

