-- ==== Sys2Proof/Machine/Ops.lean ====
section
/-! DEFINITION. The named operations that every family of commands uses: live configuration words, saturating
counters, access to a Vat's planes, tasks and contexts, free values, and the offer of a record to the Cellar. -/

namespace Sys2Proof.Machine

/-! ### Configuration words -/

/-- The stored live word of address `a` (R10, R11). The table holds it xored with its reset word. -/
def rawReg (c : Chip) (a : Nat) : Word := mapGet 0 c.regs a ^^^ regReset a

/-- The live word of address `a` set. -/
def setReg (c : Chip) (a : Nat) (w : Word) : Chip := { c with regs := mapPut 0 c.regs a (w ^^^ regReset a) }

/-- Field [msb:lsb] of the live word at `a`. -/
def fieldOf (c : Chip) (a msb lsb : Nat) : Nat := bits (rawReg c a) msb lsb

/-- Field [msb:lsb] of the live word at `a` set to `v`. -/
def setField (c : Chip) (a msb lsb v : Nat) : Chip := setReg c a (setBits (rawReg c a) msb lsb v)

/-- A saturating counter field increased by `n`. -/
def bumpBy (c : Chip) (a msb lsb n : Nat) : Chip :=
  setField c a msb lsb (satAdd (2 ^ (msb + 1 - lsb) - 1) (fieldOf c a msb lsb) n)

/-- A saturating counter field increased by 1. -/
def bump (c : Chip) (a msb lsb : Nat) : Chip := bumpBy c a msb lsb 1

/-- A field raised to `v` where it holds less (a longest-time or largest-volume field). -/
def raiseMax (c : Chip) (a msb lsb v : Nat) : Chip :=
  if fieldOf c a msb lsb < v then setField c a msb lsb (min v (2 ^ (msb + 1 - lsb) - 1)) else c

/-- The listed words of a table whose address lies in [lo, hi]. -/
def regsIn {α : Type} (m : SMap α) (lo hi : Nat) : List (Nat × α) := m.filter (fun e => lo ≤ e.1 && e.1 ≤ hi)

/-- Whether EXPERT is declared for block code `b` in the live SYS_EXPERT (R202). -/
def expertLive (c : Chip) (b : Nat) : Bool := b < 28 && bit (rawReg c Reg.sysExpert.addr) b

/-! ### Vats, tasks and free values -/

/-- The plane of a Vat. -/
def plane (c : Chip) (v : Vat) : VatPlane := c.vats.get v

/-- The plane of a Vat replaced. -/
def setPlane (c : Chip) (v : Vat) (p : VatPlane) : Chip := { c with vats := c.vats.set v p }

/-- The plane of a Vat changed. -/
def onPlane (c : Chip) (v : Vat) (f : VatPlane → VatPlane) : Chip := setPlane c v (f (plane c v))

/-- Whether a Vat is SERVING. -/
def serving (c : Chip) (v : Vat) : Bool := decide ((plane c v).state = .serving)

/-- The SERVING Vats in letter order. -/
def servingVats (c : Chip) : List Vat := allVats.filter (serving c)

/-- The module's state of a task. -/
def taskSt (c : Chip) (t : TaskId) : TaskSt := mapGet TaskSt.empty c.tasks t.code

/-- The module's state of a task replaced. -/
def setTask (c : Chip) (t : TaskId) (x : TaskSt) : Chip := { c with tasks := mapPut TaskSt.empty c.tasks t.code x }

/-- A Vat's part in a task's cycle. -/
def actOf (p : VatPlane) (t : TaskId) : Act := mapGet Act.empty p.acts t.code

/-- A Vat's part in a task's cycle replaced. -/
def setAct (p : VatPlane) (t : TaskId) (a : Act) : VatPlane := { p with acts := mapPut Act.empty p.acts t.code a }

/-- The cycle that a context belongs to: its task's present one, or the one before it. -/
def ctxAct (p : VatPlane) (x : Ctx) : Act := if x.old then mapGet Act.empty p.oldActs x.task.code else actOf p x.task

/-- The cycle of a context replaced. -/
def setCtxAct (p : VatPlane) (x : Ctx) (a : Act) : VatPlane :=
  if x.old then { p with oldActs := mapPut Act.empty p.oldActs x.task.code a } else setAct p x.task a

/-- A number added to a list where it is not in it. -/
def addNew (l : List Nat) (n : Nat) : List Nat := if l.contains n then l else l ++ [n]

/-- The 4 KiB pages that `n` bytes from `a` touch. -/
def pagesOf (a n : Nat) : List Nat := if n = 0 then [] else (List.range ((a + n - 1) / 4096 - a / 4096 + 1)).map (a / 4096 + ·)

/-- Pages marked as written, for re-curdling and for the Ladle (R145, R253). The 512-byte blocks of queue state, each
of 64 queues, are numbered 4096 and up. -/
def touch (p : VatPlane) (pages : List Nat) : VatPlane :=
  { p with dirty := pages.foldl addNew p.dirty, ldirty := pages.foldl addNew p.ldirty }

/-- The key of a context: engine × 16 + priority. -/
def ctxKey (eng prio : Nat) : Nat := eng * 16 + prio

/-- The context of an engine at a priority. -/
def ctxOf (p : VatPlane) (eng prio : Nat) : Ctx := mapGet Ctx.empty p.ctxs (ctxKey eng prio)

/-- The context of an engine at a priority replaced. -/
def setCtx (p : VatPlane) (eng prio : Nat) (x : Ctx) : VatPlane :=
  { p with ctxs := mapPut Ctx.empty p.ctxs (ctxKey eng prio) x }

/-- An engine of a Vat. -/
def engOf (p : VatPlane) (eng : Nat) : Engine := mapGet Engine.idle p.engines eng

/-- An engine of a Vat replaced. -/
def setEng (p : VatPlane) (eng : Nat) (x : Engine) : VatPlane := { p with engines := mapPut Engine.idle p.engines eng x }

/-- A copy of the time counter with its fraction, in units of 2^−32 ns (R304). -/
def clockOf (p : VatPlane) : Nat := p.time * 2 ^ 32 + p.frac

/-- The copy set to a count in units of 2^−32 ns, of which the ns are an unsigned 64-bit count (R5). -/
def setClock (p : VatPlane) (x : Int) : VatPlane :=
  let n := unsigned 96 x
  { p with time := n / 2 ^ 32, frac := n % 2 ^ 32 }

/-- A time in ns with a signed number of ns added, modulo 2^64 (R5). -/
def stepTime (s : Int) (t : Nat) : Nat := unsigned 64 (t + s)

/-- The agreed time value: the median of the three copies (R306). -/
def now (c : Chip) : Nat := (median3 c.vats.a.time c.vats.b.time c.vats.c.time).toNat

/-- A stamp for a free value, and the chip with the count advanced. -/
def drawStamp (c : Chip) : Nat × Chip := (c.free, { c with free := c.free + 1 })

/-- The configuration of a task: its first word in HXK (Table: HXK_TCFGn, HXK_VCFGv). -/
def taskCfg (c : Chip) : TaskId → Word
  | .periodic n => rawReg c (Reg.hxkTcfg.addr n.val)
  | .event v => rawReg c (Reg.hxkVcfg.addr v.val)
  | .setup => 0

/-- EN of a task. -/
def taskEn (c : Chip) (t : TaskId) : Bool := bit (taskCfg c t) 31

/-- PRIO of a task; the setup program runs at priority 0 (R68). -/
def taskPrio (c : Chip) (t : TaskId) : Nat := bits (taskCfg c t) 28 25

/-- The period of a periodic task in ticks (R39). -/
def taskPeriod (c : Chip) (n : Fin 64) : Nat := fieldOf c (Reg.hxkTcfg.addr n.val) 17 0 * 50

/-- PHASE of a periodic task. -/
def taskPhase (c : Chip) (n : Fin 64) : Nat := fieldOf c (Reg.hxkTphase.addr n.val) 23 0

/-- The deadline D of an event task in µs. -/
def taskDl (c : Chip) (v : Fin 256) : Nat := fieldOf c (Reg.hxkVdl.addr v.val) 13 0

/-- PRGUARD in µs (R40, R63). -/
def prGuard (c : Chip) : Nat := fieldOf c Reg.hxkXctl.addr 3 0

/-- BNDWAIT in µs (R49, R63). -/
def bndWait (c : Chip) : Nat := fieldOf c Reg.hxkXctl.addr 15 8

/-- BNDWAIT of the task's cycle or activation (R67); the setup program has no cycle, and the live value counts. -/
def bndWaitOf (c : Chip) (t : TaskId) : Nat := if t = .setup then bndWait c else (taskSt c t).bndwait

/-- Whether tick `t` is aligned for a periodic task: (t − PHASE) mod (PERIOD × 50) = 0 (R39). -/
def aligned (c : Chip) (n : Fin 64) (t : Nat) : Bool :=
  taskPeriod c n ≠ 0 && taskPhase c n ≤ t && (t - taskPhase c n) % taskPeriod c n = 0

/-- The point table entry of point p (R65). -/
def ptEntry (c : Chip) (p : Nat) : Word := rawReg c (Reg.hxkPt.addr p)

/-- The size of a point in bytes (R65). -/
def ptSize (c : Chip) (p : Nat) : Nat := 8 * (bits (ptEntry c p) 10 0 + 1)

/-- Whether point p is enabled, in direction `dir` (1 press), and belongs to the task (R65). -/
def ptBelongs (c : Chip) (p : Nat) (dir : Bool) (t : TaskId) : Bool :=
  let e := ptEntry c p
  bit e 31 && (bit e 30 == dir) && (bit e 29 == t.ev) && bits e 28 21 = t.num && decide (t ≠ .setup)

/-- The enabled points of a task in one direction, ascending. -/
def taskPoints (c : Chip) (dir : Bool) (t : TaskId) : List Nat :=
  ((regsIn c.regs Reg.hxkPt.base (Reg.hxkPt.base + 65535)).map (fun e => e.1 - Reg.hxkPt.base)).filter
    (fun p => ptBelongs c p dir t)

/-- The tasks that the culture has chains for. -/
def cultureTasks (cu : Culture) : List Nat := (cu.chains.map (·.task)).eraseDups

/-! ### Arbiters that are frozen (R184) -/

/-- The key of arbiter a; banks have one arbiter in each Vat. -/
def arbKey (a : Nat) (v : Vat) : Nat := if a < 32 then 3 * a + v.num else 96 + (a - 32)

/-- The arbiter number of a key. -/
def arbNum (key : Nat) : Nat := if key < 96 then key / 3 else key - 96 + 32

/-- An arbiter. -/
def arbOf (c : Chip) (key : Nat) : Arbiter := mapGet Arbiter.reset c.arbs key

/-- Whether an arbiter is frozen, by FREEZE or by the module. -/
def arbFrozen (c : Chip) (key : Nat) : Bool := (arbOf c key).ifrz || bit (rawReg c (0x040000 + 0x100 * arbNum key)) 31

/-- Whether `n` bytes of a Vat's memory from `a` lie in a bank that is frozen: bank b holds the 512 KiB from b × 2^19. Log entry
83. -/
def bankFrozen (c : Chip) (v : Vat) (a n : Nat) : Bool :=
  decide (0 < n) && ((List.range ((a + n - 1) / 524288 - a / 524288 + 1)).any fun k => arbFrozen c (arbKey ((a / 524288 + k) % 32) v))

/-! ### Offering a record to the Cellar (R478 to R480) -/

/-- The slot of a SEQ (R472). -/
def slotOf (seq : Nat) : Nat := if seq < 16384 then seq else 16384 + (seq - 16384) % 245760

/-- The newest record. -/
def newestRec (x : Cel) : Option Rec := mapGet none x.slots (slotOf x.newest)

/-- Whether an offered record repeats the newest one (R480). -/
def isRepeat (x : Cel) (r : Rec) : Bool :=
  match newestRec x with
  | none => false
  | some o =>
    x.since && o.kind = r.kind && o.rep < 65535 &&
    (if r.kind = 1 then o.block = r.block && o.code = r.code && o.data = r.data && o.pwrcyc = x.pwrcyc
     else o.code = r.code && o.task = r.task && o.data = r.data)

/-- A repeat counted on the newest record and in CEL_CNT1 (R480). -/
def countRepeat (c : Chip) : Chip :=
  match newestRec c.cel with
  | none => c
  | some o =>
    bump { c with cel := { c.cel with slots := mapPut none c.cel.slots (slotOf c.cel.newest) (some { o with rep := o.rep + 1 }) } }
      Reg.celCnt1.addr 31 0

/-- A record lost to a full buffer, counted in CEL_CNT0.LOST and among what the writer of that buffer has to state (R479). -/
def loseRecord (c : Chip) (culture : Bool) : Chip :=
  let x := c.cel
  bump { c with cel := if culture then { x with lostCul := x.lostCul + 1 } else { x with lostPend := x.lostPend + 1 } }
    Reg.celCnt0.addr 31 16

/-- A device or culture record offered to its buffer: of 1024 and 512 records. With CULTOFF, or once the orderly
power-down has begun, a culture record is discarded (R479, R483). -/
def offerRecord (c : Chip) (r : Rec) : Chip :=
  if r.kind = 2 && (bit (rawReg c Reg.celCtl.addr) 31 || !c.cel.accept) then c
  else if c.cel.seqEnd then bump c Reg.celCnt0.addr 31 16
  else if c.cel.ready && c.cel.devBuf.isEmpty && c.cel.culBuf.isEmpty && !arbFrozen c (arbKey 34 .a) && isRepeat c.cel r then countRepeat c
  else if r.kind = 2 then
    if c.cel.culBuf.length < 512 then { c with cel := { c.cel with culBuf := c.cel.culBuf ++ [r] } } else loseRecord c true
  else if c.cel.devBuf.length < 1024 then { c with cel := { c.cel with devBuf := c.cel.devBuf ++ [r] } }
  else loseRecord c false

/-- Four words of DATA as 16 bytes. -/
def dataWords (w4 w5 w6 w7 : Nat) : List Byte := bytesLE 4 w4 ++ bytesLE 4 w5 ++ bytesLE 4 w6 ++ bytesLE 4 w7

/-- A device record of Table: Device record codes. -/
def deviceRecord (c : Chip) (block code : Nat) (w4 : Nat := 0) (w5 : Nat := 0) (w6 : Nat := 0) (w7 : Nat := 0) : Chip :=
  offerRecord c { seq := 0, kind := 1, block := block, rep := 0, opsec := 0, pwrcyc := 0, code := code, task := 0,
                  data := dataWords w4 w5 w6 w7 }

/-- A culture record of LOG (R110, R475). -/
def cultureRecord (c : Chip) (task : Nat) (l : LogReq) : Chip :=
  offerRecord c { seq := 0, kind := 2, block := 0, rep := 0, opsec := 0, pwrcyc := 0, code := l.code, task := task,
                  data := padTo 16 l.bytes }

end Sys2Proof.Machine
end

