-- ==== Sys2Proof/Machine/Operands.lean ====
section
/-! DEFINITION. The operand forms of the Hexelku instructions: general registers and pairs (R72), the three address
spaces with their windows (R90), and reads and writes of bytes through them, the store buffer included (R92, R559). -/

namespace Sys2Proof.Machine

/-- The index of a general register. -/
def gi (r : BitVec 4) : Fin 16 := ⟨r.toNat, r.isLt⟩

/-- A general register read. -/
def rd (x : Ctx) (r : BitVec 4) : Word := x.g.get (gi r)

/-- A general register written. -/
def wr (x : Ctx) (r : BitVec 4) (v : Word) : Ctx := { x with g := x.g.set (gi r).val v (gi r).isLt }

/-- Whether a register number names a pair (R72). -/
def evenReg (r : BitVec 4) : Bool := !r.getLsbD 0

/-- A pair read: low word gn, high word gn+1 (R72). -/
def rdPair (x : Ctx) (r : BitVec 4) : DWord := rd x (r ||| 1) ++ rd x r

/-- A pair written. -/
def wrPair (x : Ctx) (r : BitVec 4) (v : DWord) : Ctx :=
  wr (wr x r (v.extractLsb' 0 32)) (r ||| 1) (v.extractLsb' 32 32)

/-! ### Memory words of a Vat as an engine sees them -/

/-- The newest byte at address `a` that a store buffer holds, if any. -/
def bufByte (buf : List (Nat × List Byte)) (a : Nat) : Option Byte :=
  buf.foldl (fun r e => if e.1 ≤ a ∧ a < e.1 + e.2.length then e.2[a - e.1]? else r) none

/-- A byte of Vat memory as an engine reads it: from its store buffer where that holds it (R559). -/
def seenByte (p : VatPlane) (eng a : Nat) : Byte := (bufByte (engOf p eng).stbuf a).getD (memByte p.mem a)

/-- `n` bytes of Vat memory as an engine reads them. -/
def seenBytes (p : VatPlane) (eng a n : Nat) : List Byte := (List.range n).map (fun j => seenByte p eng (a + j))

/-- A little-endian word of Vat memory; headers are read this way (R87). -/
def memWord (p : VatPlane) (a : Nat) : Word := BitVec.ofNat 32 (natLE (memRead p.mem a 4))

/-- Bytes written to Vat memory, with their pages marked dirty (R145). -/
def pokeMem (p : VatPlane) (a : Nat) (bs : List Byte) : VatPlane := touch { p with mem := memWrite p.mem a bs } (pagesOf a bs.length)

/-- The oldest entry of an engine's store buffer written to its bank (R559). -/
def drainOne (p : VatPlane) (eng : Nat) : VatPlane :=
  match (engOf p eng).stbuf with
  | [] => p
  | (a, bs) :: rest => pokeMem (setEng p eng { engOf p eng with stbuf := rest }) a bs

/-- Every entry of an engine's store buffer written, oldest first. -/
def drainAll (p : VatPlane) (eng : Nat) : VatPlane :=
  (List.range (engOf p eng).stbuf.length).foldl (fun p _ => drainOne p eng) p

/-- A store to instance space enters the store buffer; with 8 entries held it waits until the oldest is written. -/
def bufStore (p : VatPlane) (eng a : Nat) (bs : List Byte) : VatPlane :=
  let p := if (engOf p eng).stbuf.length < 8 then p else drainOne p eng
  setEng p eng { engOf p eng with stbuf := (engOf p eng).stbuf ++ [(a, bs)] }

/-! ### Address spaces -/

/-- A window of an address space for one access: whether it is scratch, the base, the range of addresses that the access may
touch, and where the space is the constant region the areas (base and length) in which every byte must lie. -/
structure Window where
  scratch : Bool
  base : Nat
  lo : Nat
  hi : Nat
  areas : Option (List (Nat × Nat))
  deriving DecidableEq, Repr

/-- SIZE of the header of the instance at base `i`, as bytes of the instance. -/
def instBytes (p : VatPlane) (i : Nat) : Nat := 8 * (bits (memWord p (i + 4)) 12 0 + 1)

/-- The span of the culture's constant areas. The constant region is their union (R36, R90): no gap between two of them can be
read through k. Log entry 7. -/
def constSpan (cu : Culture) : Nat × Nat :=
  match cu.consts with
  | [] => (0, 0)
  | l => ((l.map (fun a => a.2.1)).foldl min (2 ^ 32), (l.map (fun a => a.2.1 + a.2.2)).foldl max 0)

/-- The size of the scratch partition of an engine at a priority (R37, R556). -/
def scratchSize (cu : Culture) (eng prio : Nat) : Nat :=
  match cu.scratch.find? (fun s => s.engine = eng && s.prio = prio) with
  | some s => s.size
  | none => 0

/-- The window of space `sp` (Table: Address spaces); space 3 is none. -/
def window (cu : Culture) (p : VatPlane) (eng prio : Nat) (x : Ctx) (sp : Nat) (store : Bool) : Option Window :=
  match sp with
  | 0 => some ⟨false, x.i, x.i + (if store then 8 else 0), x.i + instBytes p x.i, none⟩
  | 1 => some ⟨false, x.k, (constSpan cu).1, if store then 0 else (constSpan cu).2, some (cu.consts.map (·.2))⟩
  | 2 => some ⟨true, 0, 0, scratchSize cu eng prio, none⟩
  | _ => none

/-- Whether the bytes from `a` up to `b` all lie in areas: from `a` on, each area that holds the next byte takes the place
further, once for each area at most. -/
def inAreas (areas : List (Nat × Nat)) : Nat → Nat → Nat → Bool
  | 0, a, b => decide (b ≤ a)
  | k + 1, a, b =>
    if b ≤ a then true
    else match areas.find? fun r => decide (r.1 ≤ a) && decide (a < r.1 + r.2) with
      | some r => inAreas areas k (r.1 + r.2) b
      | none => false

/-- Whether `n` bytes at offset `off` lie inside a window; an empty transfer touches no byte (R90). -/
def Window.holds (w : Window) (off n : Nat) : Bool :=
  n = 0 || (w.lo ≤ w.base + off && w.base + off + n ≤ w.hi &&
    (match w.areas with | none => true | some as => inAreas as as.length (w.base + off) (w.base + off + n)))

/-- Whether an access of `n` bytes at an offset of a window needs a bank that is frozen (R184): scratch lies in none, and a block
written goes behind the stores already buffered. -/
def spaceFrozen (c : Chip) (v : Vat) (eng : Nat) (w : Window) (off n : Nat) (block : Bool) : Bool :=
  !w.scratch && n ≠ 0 && (bankFrozen c v (w.base + off) n ||
    (block && (engOf (plane c v) eng).stbuf.any fun s => bankFrozen c v s.1 s.2.length))

/-- A byte of a context's scratch; one that the activation has not written is a free value (R37). -/
def scratchByte (x : Ctx) (a : Nat) : Byte := (mapGet none x.scratch a).getD (Config.scratchByte x.stamp a)

/-- `n` bytes at offset `off` of a window. -/
def readSpace (p : VatPlane) (eng : Nat) (x : Ctx) (w : Window) (off n : Nat) : List Byte :=
  if w.scratch then (List.range n).map (fun j => scratchByte x (w.base + off + j))
  else seenBytes p eng (w.base + off) n

/-- Bytes written to a context's scratch. -/
def writeScratch (x : Ctx) (a : Nat) (bs : List Byte) : Ctx :=
  { x with scratch := (bs.zipIdx).foldl (fun m e => mapPut none m (a + e.2) (some e.1)) x.scratch }

/-- A single store: scratch at once, instance space through the store buffer (R559). -/
def storeSpace (p : VatPlane) (eng : Nat) (x : Ctx) (w : Window) (off : Nat) (bs : List Byte) : VatPlane × Ctx :=
  if w.scratch then (p, writeScratch x (w.base + off) bs) else (bufStore p eng (w.base + off) bs, x)

/-- A block written by COPY, EVR, IN or a memory-form POP: behind the stores already buffered (R92). -/
def blockSpace (p : VatPlane) (eng : Nat) (x : Ctx) (w : Window) (off : Nat) (bs : List Byte) : VatPlane × Ctx :=
  if w.scratch then (p, writeScratch x (w.base + off) bs) else (pokeMem (drainAll p eng) (w.base + off) bs, x)

end Sys2Proof.Machine
end

