-- ==== Sys2Proof/Machine/Engine.lean ====
section
/-! DEFINITION. How an engine runs: chain entry and the dispatcher's call (R73, R88), call boundaries and
preemption (R46 to R48), the issue of an instruction with the checks that come before its effect (R50, R70, R71,
R115), and the taking of an exception (R116, R117). -/

namespace Sys2Proof.Machine

/-! ### Chain entry, chain end, switching -/

/-- The buffer offset of a type's code on an engine (PLACE table 2). -/
def codeOfs (cu : Culture) (type eng : Nat) : Nat :=
  match cu.code.find? (fun k => k.type = type && k.engine = eng) with
  | some k => k.ofs
  | none => 0

/-- The placed instance of a number. -/
def instOf (cu : Culture) (n : Nat) : Option Inst := cu.insts.find? (fun i => i.num = n)

/-- The dispatcher's call of top-level instance `n` in frame 1 (R88): a call boundary. -/
def dispatcherCall (cu : Culture) (p : VatPlane) (eng : Nat) (x : Ctx) (n : Nat) : Ctx :=
  match instOf cu n with
  | none => x
  | some t =>
    { x with frames := [⟨none, 0, x.i, x.k, none⟩], i := t.base, k := 8 * bits (memWord p t.base) 20 0,
             p := codeOfs cu t.type eng, bnd := x.bnd + 1, seg := 0, atBnd := true }

/-- The context at chain entry (R73): all registers 0, s at reset with T, then the call of the first block. -/
def chainEntry (cu : Culture) (p : VatPlane) (eng : Nat) (d : Dispatch) : Ctx :=
  let x : Ctx := { Ctx.empty with on := true, task := d.task, old := d.old, calls := d.calls.drop 1, stamp := d.stamp,
                                  s := { Ctx.empty.s with t := d.t } }
  match d.calls with
  | [] => x
  | n :: _ => dispatcherCall cu p eng x n

/-- A chain starts on an engine that runs nothing. -/
def startChain (c : Chip) (v : Vat) (eng : Nat) (d : Dispatch) : Chip :=
  onPlane c v (fun p =>
    let p := setCtx p eng d.prio (chainEntry c.culture p eng d)
    setEng p eng { engOf p eng with cur := some d.prio, urgent := none, goal := none,
                                    reports := Tri.all none, postAt := none })

/-- The most urgent priority at which an engine holds a started context that does not run. -/
def bestHeld (p : VatPlane) (eng : Nat) : Option Nat := (List.range 16).find? (fun r => (ctxOf p eng r).on)

/-- Whether a chain is dispatched before another (R45): the more urgent one, and at equal priority a periodic task before an
event task and a lower number before a higher one, which is the order of the task codes. -/
def dispatchedBefore (d x : Dispatch) : Bool := d.prio < x.prio || (d.prio = x.prio && d.task.code < x.task.code)

/-- The chain that is dispatched first of those that wait; of two of one task the one that came first. -/
def bestWaiting (e : Engine) : Option Dispatch :=
  e.waiting.foldl (fun b d => match b with
    | none => some d
    | some x => if dispatchedBefore d x then some d else some x) none

/-- An engine that runs nothing takes the most urgent chain that is ready (R47): a held context before a chain of
its priority that has not started. -/
def pickNext (c : Chip) (v : Vat) (eng : Nat) : Chip :=
  let p := plane c v
  let e := engOf p eng
  match e.cur with
  | some _ => c
  | none =>
    let resume (r : Nat) : Chip :=
      setPlane c v (setEng p eng { e with cur := some r, urgent := none, goal := none, reports := Tri.all none, postAt := none })
    match bestHeld p eng, bestWaiting e with
    | none, none => setPlane c v (setEng p eng { e with urgent := none, goal := none, reports := Tri.all none, postAt := none })
    | some r, none => resume r
    | some r, some d => if r ≤ d.prio then resume r else
        startChain (setPlane c v (setEng p eng { e with waiting := e.waiting.erase d })) v eng d
    | none, some d => startChain (setPlane c v (setEng p eng { e with waiting := e.waiting.erase d })) v eng d

/-- A chain dispatched to an engine (R45, R47): it starts on an idle engine, begins boundary agreement against a
less urgent context, or waits. An idle engine posts the counter of the context that ran last (log entry 8). An agreement that
begins starts without any count held (R48 step 1). -/
def dispatchChain (c : Chip) (v : Vat) (eng : Nat) (d : Dispatch) : Chip :=
  let p := plane c v
  let e := engOf p eng
  match e.cur with
  | none =>
    let c := startChain (setPlane c v (setEng p eng { e with waiting := e.waiting })) v eng d
    onPlane c v (fun q => setEng q eng { engOf q eng with reports := (Tri.all none : Tri (Option Word)).set v (some e.last) })
  | some r =>
    let e := { e with waiting := e.waiting ++ [d] }
    let e := match e.urgent with
      | some u => if d.prio < u then { e with urgent := some d.prio } else e
      | none => if d.prio < r then { e with urgent := some d.prio, goal := none, reports := Tri.all none, postAt := none } else e
    setPlane c v (setEng p eng e)

/-- The context stops running at a boundary and the engine takes the urgent chain (R48 step 5). -/
def switchUrgent (c : Chip) (v : Vat) (eng : Nat) : Chip :=
  let p := plane c v
  let e := engOf p eng
  pickNext (setPlane c v (setEng p eng { e with cur := none, urgent := none, goal := none, reports := Tri.all none, postAt := none })) v eng

/-- KIND of VAT_CAUSEn for a request (Table: VAT_CAUSEn). -/
def Req.kind : Req → Nat
  | .noise => 4
  | .log _ => 2
  | .hset _ => 3
  | _ => 1

/-- Requests that the port acted on in the cycle of a context which has ended without issuing them: the Vat is sour (R24). What
it owes in another cycle stays. A chain that ends because its cycle was ended (R191) owes nothing more. -/
def settleOwed (c : Chip) (v : Vat) (key : Nat) (x : Ctx) : Chip :=
  let p := plane c v
  let t := (ctxAct p x).tick
  let (mine, rest) := (mapGet [] p.owed key).partition fun o => o.1 = t || x.stop
  match mine with
  | [] => c
  | o :: _ =>
    let c := setPlane c v { p with owed := mapPut [] p.owed key rest, early := mapPut [] p.early key [] }
    if x.stop then c else { c with core := { c.core with todo := c.core.todo ++ [.sour v 1 o.2.kind (some x.task) 0] } }

/-- The chain in a context ends (R51, R88, R89): the engine leaves the task's running engines, and the next chain is
taken. -/
def endChain (c : Chip) (v : Vat) (eng prio : Nat) : Chip :=
  let x := ctxOf (plane c v) eng prio
  let c := settleOwed c v (ctxKey eng prio) x
  let p := plane c v
  let a := ctxAct p x
  let run := a.running.erase eng
  let p := setCtxAct p x { a with running := run, computing := !run.isEmpty }
  let p := setCtx p eng prio Ctx.empty
  pickNext (setPlane c v (setEng p eng { engOf p eng with cur := none, last := x.bnd, urgent := none, goal := none, reports := Tri.all none,
                                                          qreports := Tri.all none, postAt := none, qpostAt := none })) v eng

/-! ### Exceptions (R115 to R117) -/

/-- The exception codes of Table: Exception codes. -/
inductive Xc | illegal | align | protect | divzero | calldepth | owner | queue | image | time | seglimit
  deriving DecidableEq, Repr

/-- XCODE. -/
def Xc.code : Xc → Nat
  | .illegal => 1
  | .align => 2
  | .protect => 3
  | .divzero => 4
  | .calldepth => 5
  | .owner => 6
  | .queue => 7
  | .image => 8
  | .time => 9
  | .seglimit => 10

/-- TYPE of the block whose instance is at base `i` (Table: Instance header). -/
def blockType (p : VatPlane) (i : Nat) : Nat := bits (memWord p (i + 4)) 31 20

/-- The device record of an exception that ends an activation, once for an engine and activation (R117); `old` says that it is
the activation before the task's present one. Log entry 9. -/
def recordExc (c : Chip) (eng : Nat) (t : TaskId) (old : Bool) (ex : Exc) : Chip :=
  let st := taskSt c t
  if (if old then st.excOld else st.excRec).contains eng then c
  else deviceRecord (setTask c t (if old then { st with excOld := st.excOld ++ [eng] } else { st with excRec := st.excRec ++ [eng] }))
    0x02 0x01 (ex.code * 2 ^ 24 + ex.pc) (t.code + eng * 2 ^ 16) ex.type

/-- An exception in the context at `prio` (R116): the handler of the current frame takes it; without one the frame
is removed and the exception stays to be raised at the caller's call; from frame 1 the activation ends. -/
def takeException (c : Chip) (v : Vat) (eng prio : Nat) (ex : Exc) : Chip :=
  let p := plane c v
  let x := ctxOf p eng prio
  match x.frames with
  | [] => c
  | f :: rest =>
    match f.handler with
    | some h =>
      setPlane c v (setCtx p eng prio
        { x with s := { x.s with xcode := ex.code, xpc := ex.site }, p := h, seg := 0, exc := none, atBnd := false,
                 frames := { f with handler := none } :: rest })
    | none =>
      match rest, f.ret with
      | _ :: _, some r =>
        if x.stop then endChain (setPlane c v (setCtx p eng prio { x with bnd := x.bnd + 1 })) v eng prio
        else setPlane c v (setCtx p eng prio
          { x with i := f.i, k := f.k, p := r, frames := rest, bnd := x.bnd + 1, seg := 0, atBnd := true,
                   exc := some { ex with site := f.site } })
      | _, _ =>
        let c := recordExc c eng x.task x.old ex
        let c := if x.task = .setup then
            onPlane c v (fun p => if p.setupEnd = 0 then { p with setupEnd := 2, setupExc := (ex.code, ex.pc) } else p) else c
        endChain c v eng prio

/-- An exception raised by the instruction at p. -/
def raiseExc (c : Chip) (v : Vat) (eng prio : Nat) (e : Xc) : Chip :=
  let x := ctxOf (plane c v) eng prio
  takeException c v eng prio ⟨e.code, x.p, blockType (plane c v) x.i, x.p⟩

/-! ### Issue -/

/-- What an instruction's own rules give: an exception without any effect, or its effect with the next context. -/
inductive Effect
  /-- It raises this exception (R115). -/
  | exc (e : Xc)
  /-- It completes; the context stands at its successor. -/
  | done (c : Chip) (x : Ctx)
  /-- It completes at a call boundary (R46). -/
  | boundary (c : Chip) (x : Ctx)
  /-- It waits (R98). -/
  | wait (c : Chip) (x : Ctx)
  /-- It ends the activation (R88, R89). -/
  | stop (c : Chip)
  /-- It needs a bank whose arbiter is frozen, and stalls without any effect until the arbiter is released (R184). -/
  | stall

/-- Whether a context stands stopped at a call boundary for boundary agreement: until the largest count is known,
and then at that count (R48). -/
def stoppedAt (g : Engine) (x : Ctx) : Bool :=
  x.atBnd && g.urgent.isSome && (match g.goal with | some m => decide (x.bnd = m) | none => true)

/-- The context that an engine runs and that can issue an instruction: the Vat is SERVING, the context waits for
nothing, has no exception to raise again, and does not stand stopped at a boundary for an agreement (R48). -/
def running (c : Chip) (e : Eng) : Option (Nat × Ctx) :=
  let p := plane c e.vat
  let g := engOf p e.num.val
  match g.cur with
  | none => none
  | some r =>
    let x := ctxOf p e.num.val r
    if p.state = .serving ∧ x.on ∧ x.wait = .none ∧ x.exc = none ∧ !stoppedAt g x then some (r, x) else none

/-- Whether an instruction of `len` bytes at `p` breaks R70: its extension word, or its sequential successor
unless it never continues in sequence, would lie beyond 0x7FFC. -/
def beyondBuffer (p len : Nat) (noSucc : Bool) : Bool :=
  (0x7FFC < p + len - 4) || (!noSucc && 0x7FFC < p + len)

/-- A reserved major opcode (Table: Major opcodes). -/
def reservedMajor (w : Word) : Bool :=
  let m := bits w 31 26
  (0x0A ≤ m && m ≤ 0x0F) || (0x14 ≤ m && m ≤ 0x17) || (0x25 ≤ m && m ≤ 0x27) || m = 0x2F || m = 0x33 || m = 0x3A || m = 0x3B || m = 0x3F

/-- Whether the instruction buffer of an engine holds a reserved major opcode at `p`: what the engine finds there is no
instruction, whatever the command names (R71; log entry 15). -/
def reservedAt (c : Chip) (e : Eng) (p : Nat) : Bool := reservedMajor (mapGet 0 (plane c e.vat).ibuf (e.num.val * 8192 + p / 4))

/-- The issue of an instruction (R50, R70, R71, R115): nothing where the engine runs no context that can issue;
SEGLIMIT first; then ILLEGAL for its place, its major opcode and its layout; then its own rules. A chain whose cycle has been ended stops at the call boundary
that it reaches (R191; log entry 35). -/
def issue (c : Chip) (e : Eng) (len : Nat) (noSucc illegal : Bool) (body : Nat → Ctx → Effect) : Chip :=
  match running c e with
  | none => c
  | some (r, x) =>
    if 65536 ≤ x.seg then raiseExc c e.vat e.num.val r .seglimit
    else if beyondBuffer x.p len noSucc || reservedAt c e x.p || illegal then raiseExc c e.vat e.num.val r .illegal
    else match body r x with
      | .exc k => raiseExc c e.vat e.num.val r k
      | .done c x => onPlane c e.vat (fun p => setCtx p e.num.val r { x with seg := x.seg + 1, atBnd := false })
      | .boundary c' y =>
        if x.stop then endChain (onPlane c e.vat fun p => setCtx p e.num.val r { x with bnd := x.bnd + 1 }) e.vat e.num.val r
        else onPlane c' e.vat (fun p => setCtx p e.num.val r { y with bnd := y.bnd + 1, seg := 0, atBnd := true })
      | .wait c y => onPlane c e.vat (fun p => setCtx p e.num.val r { y with atBnd := false })
      | .stop c => endChain c e.vat e.num.val r
      | .stall => c

/-- The context after an instruction of `len` bytes that does not branch (R70). -/
def adv (x : Ctx) (len : Nat) : Ctx := { x with p := x.p + len }

/-- A waiting instruction completes: the context goes on at its successor. -/
def finishWait (p : VatPlane) (eng prio : Nat) (x : Ctx) (len : Nat) : VatPlane :=
  setCtx p eng prio { adv x len with wait := .none, seg := x.seg + 1 }

/-- A field of MINOR. -/
def mbits (w : Enc) (msb lsb : Nat) : Nat := (w.minor.toNat / 2 ^ lsb) % 2 ^ (msb + 1 - lsb)

/-- MINOR as a signed 14-bit number. -/
def msigned (w : Enc) : Int := w.minor.toInt

end Sys2Proof.Machine
end

