-- ==== Sys2Proof/Machine/Whey.lean ====
section
/-! DEFINITION. Whey, the queue fabric (R161 to R177): descriptors and their checks, credits, appends, transfer and
credit messages, takes, and the order in which entries become visible. -/

namespace Sys2Proof.Machine

/-! ### Descriptors (R161 to R168) -/

/-- CHK of three descriptor words: CRC-32C over their 12 bytes, little-endian, in order. -/
def descChk (ctl prod cons : Word) : Word :=
  word (crc32c (bytesLE 4 ctl.toNat ++ bytesLE 4 prod.toNat ++ bytesLE 4 cons.toNat))

/-- Whether a stored descriptor passes its check (R95, R155). -/
def Desc.ok (d : Desc) : Bool := decide (descChk d.ctl d.prod d.cons = d.chk)

/-- The descriptor that a Vat's Whey instance stores for queue q. -/
def descOf (p : VatPlane) (q : Nat) : Desc := mapGet Desc.zero p.descs q

/-- The live descriptor of queue q, for queues of one copy. -/
def liveDesc (c : Chip) (q : Nat) : Desc :=
  let a := rawReg c (Reg.whyCtl.addr q)
  let b := rawReg c (Reg.whyProd.addr q)
  let d := rawReg c (Reg.whyCons.addr q)
  ⟨a, b, d, descChk a b d⟩

/-- EN. -/
def Desc.en (d : Desc) : Bool := bit d.ctl 31
/-- ORD, the ordering class. -/
def Desc.ord (d : Desc) : Nat := bits d.ctl 30 29
/-- EVT, the event binding. -/
def Desc.evt (d : Desc) : Nat := bits d.ctl 28 27
/-- The entry size in bytes, 4 × (SIZE + 1). -/
def Desc.size (d : Desc) : Nat := 4 * (bits d.ctl 26 21 + 1)
/-- The storage base in bytes. -/
def Desc.base (d : Desc) : Nat := 8 * bits d.ctl 20 0
/-- The depth in entries. -/
def Desc.depth (d : Desc) : Nat := bits d.prod 31 20 + 1
/-- The producer end code. -/
def Desc.pend (d : Desc) : Nat := bits d.prod 19 0
/-- EVSRC. -/
def Desc.evsrc (d : Desc) : Nat := bits d.cons 31 20
/-- The consumer end code. -/
def Desc.cend (d : Desc) : Nat := bits d.cons 19 0

/-- TYPE of an end code (Table: End code). -/
def endType (e : Nat) : Nat := e / 2 ^ 18 % 4

/-- The end code of a culture context (TYPE 0). -/
def ctxEnd (task eng : Nat) : Nat := task * 256 + eng

/-- Whether a descriptor is a culture queue (R52, R163): enabled, both ends culture contexts. -/
def Desc.culture (d : Desc) : Bool := d.en && endType d.pend = 0 && endType d.cend = 0

/-- Whether a descriptor is an inbound queue (Table: Queue kinds): one copy per Vat, consumed by a Vat function. -/
def Desc.inbound (d : Desc) : Bool := d.en && endType d.cend = 1 && 2 ≤ endType d.pend

/-! ### Dynamic state -/

/-- A Vat's queue. -/
def queueOf (p : VatPlane) (q : Nat) : Queue := mapGet Queue.empty p.queues q

/-- A Vat's queue replaced; its block of queue state is dirty (R145). -/
def setQueue (p : VatPlane) (q : Nat) (x : Queue) : VatPlane :=
  touch { p with queues := mapPut Queue.empty p.queues q x } [4096 + q / 64]

/-- A queue of one copy. -/
def devQueue (c : Chip) (q : Nat) : Queue := mapGet Queue.empty c.devq q

/-- A queue of one copy replaced. -/
def setDevQueue (c : Chip) (q : Nat) (x : Queue) : Chip := { c with devq := mapPut Queue.empty c.devq q x }

/-- Credits the producer holds (R170). -/
def Queue.credits (x : Queue) (depth : Nat) : Nat := depth - x.spent

/-- One credit spent and the entry sent in a transfer message (R171). -/
def Queue.append (x : Queue) (e : Entry) : Queue := { x with spent := x.spent + 1, transit := x.transit ++ [e] }

/-- The oldest message in transit reaches the consumer. -/
def Queue.deliver (x : Queue) : Queue :=
  match x.transit with
  | [] => x
  | e :: r => { x with transit := r, entries := x.entries ++ [e] }

/-- The head entry taken; its index moves on (R171). -/
def Queue.takeHead (x : Queue) (depth : Nat) : Queue :=
  { x with entries := x.entries.drop 1, head := (x.head + 1) % depth }

/-- `n` credits sent back to the producer. -/
def Queue.giveBack (x : Queue) (n : Nat) : Queue := { x with back := x.back + n }

/-- `n` credits reach the producer. -/
def Queue.credited (x : Queue) (n : Nat) : Queue := { x with spent := x.spent - n, back := x.back - n }

/-- DROP increased, saturating at 255 (R175). -/
def Queue.dropped (x : Queue) : Queue := { x with drop := satAdd 255 x.drop 1 }

/-- Every entry discarded, those in transit and those that the press holds included, and its credit given back. -/
def Queue.flush (x : Queue) (depth : Nat) : Queue :=
  let n := x.entries.length + x.transit.length
  { x.giveBack n with head := (x.head + n) % depth, entries := [], transit := [], held := [] }

/-- The least number of an entry that a producer end still has in transit to an ORD 1 queue of a Vat, by which
later FENCED entries are not yet visible (R174). -/
def fenceSeq (p : VatPlane) (pend : Nat) : Option Nat :=
  p.queues.foldl (fun m e =>
    let d := descOf p e.1
    if d.ord = 1 ∧ d.pend = pend then
      match e.2.transit, m with
      | [], m => m
      | x :: _, none => some x.seq
      | x :: _, some n => some (min x.seq n)
    else m) none

/-- The entries of a Vat's queue that its consumer can see (Table: Ordering classes). -/
def visible (p : VatPlane) (q : Nat) : List Entry :=
  let d := descOf p q
  let x := queueOf p q
  if d.ord = 1 then
    match fenceSeq p d.pend with
    | none => x.entries
    | some n => x.entries.takeWhile (fun e => e.seq < n)
  else x.entries

/-- The Vat byte address of entry index `n` of a queue's storage. -/
def entryAddr (d : Desc) (n : Nat) : Nat := d.base + (n % d.depth) * d.size

/-! ### Appends by ports, the press and the Affineur (R164, R166, R175) -/

/-- What an append gives: the queue, and whether an entry was dropped or replaced. -/
structure Appended where
  queue : Queue
  lost : Bool

/-- An append by a block port: with no credit an ORD 2 queue replaces its oldest entry in storage, any other drops
the new entry; so does an ORD 2 queue with nothing in storage yet. Log entry 84. -/
def portAppend (d : Desc) (x : Queue) (e : Entry) : Appended :=
  if x.spent < d.depth then ⟨x.append e, false⟩
  else if d.ord = 2 && !x.entries.isEmpty then
    ⟨{ (x.takeHead d.depth) with transit := x.transit ++ [e] }.dropped, true⟩
  else ⟨x.dropped, true⟩

/-- An append by the press: with no credit it holds up to 16 entries; a 17th is dropped, or with ORD 2 replaces the
oldest entry held. -/
def pressAppend (d : Desc) (x : Queue) (e : Entry) : Appended :=
  if x.spent < d.depth ∧ x.held = [] then ⟨x.append e, false⟩
  else if x.held.length < 16 then ⟨{ x with held := x.held ++ [e] }, false⟩
  else if d.ord = 2 then ⟨{ x with held := x.held.drop 1 ++ [e] }.dropped, true⟩
  else ⟨x.dropped, true⟩

/-- Entries that the press holds are appended as credits return (R175), each numbered from `n` as it is appended; with the next
number. -/
def releaseHeld (d : Desc) (x : Queue) (n : Nat) : Queue × Nat :=
  x.held.foldl (fun r e =>
    if r.1.spent < d.depth then ({ (r.1.append { e with seq := r.2 }) with held := r.1.held.drop 1 }, r.2 + 1) else r) (x, n)

/-- Whether a Vat's Whey instance accepts entries and credits: not while the Vat is halted (R138). -/
def wheyRuns (p : VatPlane) : Bool := p.state = .idle || p.state = .serving

/-- A Vat to be declared sour, put to the consequences of the step. -/
def todoSour (c : Chip) (v : Vat) (code kind : Nat) (task : Option TaskId) (item : Nat) : Chip :=
  { c with core := { c.core with todo := c.core.todo ++ [.sour v code kind task item] } }

/-- HOLD to be entered, put to the consequences of the step. -/
def todoHold (c : Chip) (cause code : Nat) (task : Option TaskId) : Chip :=
  { c with core := { c.core with todo := c.core.todo ++ [.hold cause code task] } }

/-- A failing descriptor found at an append in one instance: counted, and the Vat is sour with cause DESC (R166). -/
def descFails (c : Chip) (v : Vat) (q : Nat) : Chip := todoSour (bump c Reg.arbWerr.addr 31 16) v 14 7 none q

/-- An append to one Vat's copy of an inbound queue; the second component says whether an entry was lost. -/
def appendVat (c : Chip) (v : Vat) (q : Nat) (bs : List Byte) (whole : Nat := 0) (part : Nat := 0) : Chip × Bool :=
  let p := plane c v
  if !wheyRuns p then (c, false)
  else
    let d := descOf p q
    if !d.ok then (descFails c v q, false)
    else if !d.en then (c, false)
    else
      let r := portAppend d (queueOf p q) ⟨padTo d.size bs, p.seq, c.core.tick, whole, part⟩
      (setPlane c v { setQueue p q r.queue with seq := p.seq + 1 }, r.lost)

/-- CHK of a queue checked in every Whey instance that runs: the Vat of a failing one is sour, and the access is made by the
others (R166). The Boolean says whether it can be made. -/
def checkDescs (c : Chip) (q : Nat) : Chip × Bool :=
  let run := allVats.filter fun v => wheyRuns (plane c v)
  let bad := run.filter fun v => !(descOf (plane c v) q).ok
  (bad.foldl (fun c v => descFails c v q) c, run.isEmpty || bad.length < run.length)

/-- An append to a queue of one copy by a port, the press or the Affineur. -/
def appendDev (c : Chip) (q : Nat) (press : Bool) (bs : List Byte) (whole : Nat := 0) (part : Nat := 0) : Chip × Bool :=
  let d := liveDesc c q
  if !d.en then (c, false)
  else
    let (c, ok) := checkDescs c q
    if !ok then (c, false)
    else
      let e : Entry := ⟨padTo d.size bs, c.core.devSeq, c.core.tick, whole, part⟩
      let r := if press then pressAppend d (devQueue c q) e else portAppend d (devQueue c q) e
      (setDevQueue { c with core := { c.core with devSeq := c.core.devSeq + 1 } } q r.queue, r.lost)

/-- The least number of an entry that a producer end still has in transit to an ORD 1 queue of one copy (R174). -/
def fenceDev (c : Chip) (pend : Nat) : Option Nat :=
  c.devq.foldl (fun m e =>
    let d := liveDesc c e.1
    if d.ord = 1 ∧ d.pend = pend then
      match e.2.transit, m with
      | [], m => m
      | x :: _, none => some x.seq
      | x :: _, some n => some (min x.seq n)
    else m) none

/-- The entries of a queue of one copy that its consumer can see (Table: Ordering classes). -/
def visibleDev (c : Chip) (q : Nat) : List Entry :=
  let d := liveDesc c q
  let x := devQueue c q
  if d.ord = 1 then
    match fenceDev c d.pend with
    | none => x.entries
    | some n => x.entries.takeWhile (fun e => e.seq < n)
  else x.entries

/-- A drop or replacement counted in ARB_WDROP (R175). -/
def countDrop (c : Chip) (lost : Bool) : Chip := if lost then bump c Reg.arbWdrop.addr 31 0 else c

/-! ### Telegrams, requests and replies in several entries -/

/-- The entries at the front of a list that follow each other as parts of one whole, from part `k` on. -/
def partsFrom (whole k : Nat) : List Entry → List Entry
  | [] => []
  | e :: r => if e.whole = whole ∧ e.part = k then e :: partsFrom whole (k + 1) r else []

/-- The entries at the front of a list that belong to the whole of the first of them. -/
def sameWhole (es : List Entry) : List Entry := match es with | [] => [] | e :: _ => es.takeWhile fun x => x.whole = e.whole

/-- The wholes of `n` entries at the front of a list, `most` at the most, and how many entries to take for them. One of which a part
is missing is passed over, once another stands behind it; one that may still be arriving ends the list. -/
def wholesOf (n : Nat) : Nat → Nat → List Entry → List (List Entry) × Nat
  | 0, _, _ => ([], 0)
  | _, 0, _ => ([], 0)
  | fuel + 1, most + 1, es =>
    let s := (sameWhole es).take n
    match s with
    | [] => ([], 0)
    | e :: _ =>
      let good := decide ((partsFrom e.whole 0 s).length = n)
      if !good && s.length = es.length then ([], 0)
      else
        let (ws, k) := wholesOf n fuel (if good then most else most + 1) (es.drop s.length)
        (if good then s :: ws else ws, s.length + k)

/-! ### Messages (R171 to R173) -/

/-- The device record of a discarded message: handle, Vat, and 1 for a credit message. -/
def recordDiscard (c : Chip) (v : Nat) (q : Nat) (credit : Bool) : Chip :=
  deviceRecord c 0x04 0x01 (q + v * 2 ^ 16 + b2n credit * 2 ^ 20)

/-- The entry that reaches a queue of Vat memory written to its storage, behind those it holds (R161). -/
def storeEntry (p : VatPlane) (d : Desc) (x : Queue) : VatPlane :=
  match x.transit with
  | [] => p
  | e :: _ =>
    let a := entryAddr d (x.head + x.entries.length)
    touch { p with mem := memWrite p.mem a e.bytes } (pagesOf a e.bytes.length)

/-- A transfer message arrives at the consumer of a Vat's queue: its entry is stored, or with a failed header check
discarded and not replaced. -/
def transferVat (c : Chip) (v : Vat) (q : Nat) (ok : Bool) : Chip :=
  let p := plane c v
  let x := queueOf p q
  let d := descOf p q
  if !wheyRuns p || bankFrozen c v (entryAddr d (x.head + x.entries.length)) d.size then c
  else match x.transit with
    | [] => c
    | _ :: r =>
      if ok then setPlane c v (storeEntry (setQueue p q x.deliver) (descOf p q) x)
      else recordDiscard (bump (setPlane c v (setQueue p q { x with transit := r })) Reg.arbWerr.addr 31 16) v.num q false

/-- The same for a queue of one copy. -/
def transferDev (c : Chip) (q : Nat) (ok : Bool) : Chip :=
  let x := devQueue c q
  match x.transit with
  | [] => c
  | _ :: r =>
    if ok then setDevQueue c q x.deliver
    else recordDiscard (bump (setDevQueue c q { x with transit := r }) Reg.arbWerr.addr 31 16) 0 q false

/-- A credit message of `n` credits arrives: discarded where its header fails, or where it would raise the
producer's credits above the depth. What the press holds is appended, numbered from `num`. -/
def creditMsg (d : Desc) (x : Queue) (n num : Nat) : Option (Queue × Nat) :=
  if x.spent < n then none else some (releaseHeld d (x.credited n) num)

/-- A credit message for a Vat's queue. -/
def creditVat (c : Chip) (v : Vat) (q n : Nat) (ok : Bool) : Chip :=
  let p := plane c v
  let x := queueOf p q
  if !wheyRuns p then c
  else if !ok then
    recordDiscard (bump (setPlane c v (setQueue p q { x with back := x.back - n })) Reg.arbWerr.addr 31 16) v.num q true
  else match creditMsg (descOf p q) x n p.seq with
    | some (y, s) => setPlane c v { setQueue p q y with seq := s }
    | none => recordDiscard (bump c Reg.arbWerr.addr 15 0) v.num q true

/-- A credit message for a queue of one copy. -/
def creditDev (c : Chip) (q n : Nat) (ok : Bool) : Chip :=
  let x := devQueue c q
  if !ok then recordDiscard (bump (setDevQueue c q { x with back := x.back - n }) Reg.arbWerr.addr 31 16) 0 q true
  else match creditMsg (liveDesc c q) x n c.core.devSeq with
    | some (y, s) => setDevQueue { c with core := { c.core with devSeq := s } } q y
    | none => recordDiscard (bump c Reg.arbWerr.addr 15 0) 0 q true

end Sys2Proof.Machine
end

