-- ==== Sys2Proof/Machine/Evc.lean ====
section
/-! DEFINITION. The event controller (R218 to R224): arrivals counted in three copies, their comparison, hold-off
and emission, and the signal that a block gives to a source. -/

namespace Sys2Proof.Machine

/-- The sources that exist, as the chapters of the blocks assign them (R218 and each chapter's table of sources):
DIO, SPD, ALP, RIND, ETH, PTP, MVB, CAN, BRG, LDL, the module's own, queue and software sources. -/
def srcRanges : List (Nat × Nat) :=
  [(0, 108), (256, 287), (384, 483), (512, 526), (640, 647), (672, 719), (1024, 1030), (1040, 1063), (1152, 1159),
   (1184, 1199), (1408, 1416), (1424, 1432), (1440, 1448), (1456, 1464), (1664, 1696), (1728, 1791), (1920, 1927), (2112, 2118),
   (2176, 2178), (2208, 2211), (2240, 2240), (3072, 4031), (4032, 4095)]

/-- Whether a source exists. -/
def srcExists (s : Nat) : Bool := srcRanges.any fun r => r.1 ≤ s && s ≤ r.2

/-- Whether a source is one of the module's own, for the Affineur target only (R218). -/
def srcModule (s : Nat) : Bool := 2048 ≤ s && s ≤ 2303

/-- EVC_SRCs as it acts: the module sources that exist read EN 1 and TGT 2 (Table: EVC_SRCs register map). -/
def srcWord (c : Chip) (s : Nat) : Word := if srcModule s && srcExists s then 0x80000002 else rawReg c (Reg.evcSrc.addr s)

/-- Whether arrivals are counted for a target in the present mode (R229): 0 the Vats, 1 the Affineur. -/
def targetLive (c : Chip) (x : Nat) : Bool :=
  if x = 0 then c.sys.mode = .standby || c.sys.mode = .service else c.sys.mode ≠ .inert

/-- The targets that a source counts for. -/
def srcTargets (c : Chip) (s : Nat) : List Nat :=
  [0, 1].filter fun x => bit (srcWord c s) 31 && bit (srcWord c s) x && targetLive c x

/-- The counter of a source for a target. -/
def EvCopy.count (k : EvCopy) (s x : Nat) : EvCount := mapGet EvCount.zero k.counts (2 * s + x)

/-- A counter replaced. -/
def EvCopy.put (k : EvCopy) (s x : Nat) (n : EvCount) : EvCopy := { k with counts := mapPut EvCount.zero k.counts (2 * s + x) n }

/-- The tick that arrivals are counted at: the present one, or the next once the controller has acted on the present one
(R221, R224). -/
def evcNow (c : Chip) : Nat := if c.core.evcDone = c.core.tick + 1 then c.core.tick + 1 else c.core.tick

/-- One arrival counted at a tick (R219, R220): at most one a tick; at 255 the counter stays, SAT is set and the arrival is lost. -/
def countArrival (k : EvCopy) (tick s x : Nat) (lvl : Bool) (info : Word) : EvCopy :=
  let n := k.count s x
  if n.seen = tick + 1 then k
  else k.put s x { count := min 255 (n.count + 1), sat := n.sat || n.count = 255, lvl := lvl,
                   first := if n.count = 0 then tick % 2 ^ 32 else n.first, info := info, seen := tick + 1,
                   lost := decide (n.count = 255) }

/-- The Vats whose copies are compared (R224). -/
def comparedVats (c : Chip) : List Vat := allVats.filter fun v => (plane c v).state = .idle || (plane c v).state = .serving

/-- The Vat whose copy the comparison takes, with whether two copies agree; a single compared copy agrees with itself. -/
def agreedVat (c : Chip) : Option (Vat × Bool) :=
  match comparedVats c with
  | [] => none
  | [v] => some (v, true)
  | [v, w] => some (v, c.evc.get v = c.evc.get w)
  | v :: w :: u :: _ =>
    if c.evc.get v = c.evc.get w ∨ c.evc.get v = c.evc.get u then some (v, true)
    else if c.evc.get w = c.evc.get u then some (w, true)
    else some (v, false)

/-- The copy that the comparison agrees on, with whether two copies agree. -/
def agreedCopy (c : Chip) : Option (EvCopy × Bool) := (agreedVat c).map fun v => (c.evc.get v.1, v.2)

/-- The field of EVC_REAL of a copy. -/
def countReal (c : Chip) (v : Vat) : Chip :=
  match v with
  | .a => bump c Reg.evcReal.addr 7 0
  | .b => bump c Reg.evcReal.addr 15 8
  | .c => bump c Reg.evcReal.addr 23 16

/-- The comparison of a tick (R224): a copy that differs is set to the agreed one, or to the lowest-lettered, and counted. The
Boolean says whether two copies agree: else Q32512 takes no record of the tick. -/
def compareCopies (c : Chip) : Chip × Bool :=
  match agreedCopy c with
  | none => (c, false)
  | some (k, ok) =>
    ((comparedVats c).foldl (fun c v => if c.evc.get v = k then c else countReal { c with evc := c.evc.set v k } v) c, ok)

/-! ### Emission (R221 to R223) -/

/-- The record of a source (Table: Event record). -/
def eventRecord (k : EvCopy) (s x tick : Nat) : List Byte :=
  let n := k.count s x
  bytesLE 4 (n.count * 2 ^ 24 + b2n n.sat * 2 ^ 23 + b2n n.lvl * 2 ^ 22 + s) ++ bytesLE 4 tick ++ bytesLE 4 n.first ++
    bytesLE 4 n.info.toNat

/-- A source's counts returned to 0 after its record. -/
def EvCopy.clear (k : EvCopy) (s x : Nat) : EvCopy :=
  let n := k.count s x
  { k.put s x { EvCount.zero with seen := n.seen } with waiting := k.waiting.filter (fun w => decide (w ≠ 2 * s + x)) }

/-- What one copy emits for some sources: the copy, the records, and how many records begin to wait for a credit. -/
structure Emission where
  copy : EvCopy
  recs : List (List Byte)
  held : Nat

/-- Records of the sources of `srcs` in order while `credits` last; the rest wait (R222). -/
def emitSources (k : EvCopy) (srcs : List Nat) (x tick credits : Nat) : Emission :=
  let go := srcs.take credits
  let stay := (srcs.drop credits).filter fun s => !k.waiting.contains (2 * s + x)
  let recs := go.map fun s => eventRecord k s x tick
  let k := go.foldl (fun k s => k.clear s x) k
  ⟨{ k with waiting := k.waiting ++ stay.map fun s => 2 * s + x }, recs, stay.length⟩

/-- Whether a source's records go to target x: TGT as it stands at the emission (R232). -/
def srcFeeds (c : Chip) (s x : Nat) : Bool := bit (srcWord c s) 31 && bit (srcWord c s) x

/-- The sources of a group with arrivals for a target, ascending. -/
def groupSources (c : Chip) (k : EvCopy) (g x : Nat) : List Nat :=
  ((List.range 64).map (64 * g + ·)).filter fun s => 0 < (k.count s x).count && srcFeeds c s x

/-- The timer of a group for a target: 0 for IDLE, else its expiry tick plus 1. -/
def EvCopy.timer (k : EvCopy) (g x : Nat) : Nat := mapGet 0 k.groups (2 * g + x)

/-- The timer set. -/
def EvCopy.setTimer (k : EvCopy) (g x t : Nat) : EvCopy := { k with groups := mapPut 0 k.groups (2 * g + x) t }

/-- The credits that the controller holds for its target: a Vat's own Q32513, or Q32512; none before Rennet has written their
descriptors (R167). -/
def evCredits (c : Chip) (x : Nat) (v : Vat) : Nat :=
  if x = 0 then
    let p := plane c v
    let d := descOf p 32513
    if d.en then d.depth - (queueOf p 32513).spent else 0
  else
    let d := liveDesc c 32512
    if d.en then d.depth - (devQueue c 32512).spent else 0

/-- Records appended to a Vat's Q32513 or to Q32512. -/
def deliverRecords (c : Chip) (x : Nat) (v : Vat) (rs : List (List Byte)) : Chip :=
  rs.foldl (fun c r => if x = 0 then (appendVat c v 32513 r).1 else (appendDev c 32512 false r).1) c

/-- The compared copies emit by `f` for target x. For the Vat target each feeds its own Vat's Q32513; Q32512 takes the
records of agreeing copies once. EVC_HELD counts from the lowest-lettered copy. -/
def emitAll (c : Chip) (x : Nat) (agreed : Bool) (f : EvCopy → Nat → Emission) : Chip :=
  let vs := comparedVats c
  match vs with
  | [] => c
  | v0 :: _ =>
    let e0 := f (c.evc.get v0) (evCredits c x v0)
    let c1 := vs.foldl (fun d v =>
      let e := f (d.evc.get v) (evCredits c x v)
      let d := { d with evc := d.evc.set v e.copy }
      if x = 0 then deliverRecords d 0 v e.recs else d) c
    let c1 := if x = 1 && agreed then deliverRecords c1 1 v0 e0.recs else c1
    bumpBy c1 Reg.evcHeld.addr 31 0 e0.held

/-- HOLDOFF of a group. -/
def holdoff (c : Chip) (g : Nat) : Nat := fieldOf c (Reg.evcGrp.addr g) 15 0

/-- A group emits at the present tick and its hold-off starts (R221). -/
def emitGroup (c : Chip) (g x : Nat) (agreed : Bool) : Chip :=
  let t := c.core.tick
  let h := holdoff c g
  emitAll c x agreed fun k cr =>
    let e := emitSources k (groupSources c k g x) x (t % 2 ^ 32) cr
    { e with copy := e.copy.setTimer g x (t + h + 1) }

/-- The action of a tick on a group and target (R221), from the state on which the copies agree: an IDLE group with arrivals emits;
at its expiry a HOLDING one emits again, or returns to IDLE. -/
def groupTick (agreed : Bool) (c : Chip) (key : Nat) : Chip :=
  let g := key / 2
  let x := key % 2
  match agreedCopy c with
  | none => c
  | some (k, _) =>
    if !targetLive c x || c.core.tick + 1 < k.timer g x then c
    else if !(groupSources c k g x).isEmpty then emitGroup c g x agreed
    else { c with evc := c.evc.map fun k => k.setTimer g x 0 }

/-- Group × 2 + target of every group that holds counts or is HOLDING, ascending. -/
def activeGroups (k : EvCopy) : List Nat :=
  if k.groups.isEmpty && k.counts.isEmpty then []
  else (List.range 128).filter fun key => k.groups.any (fun e => e.1 = key) ||
    k.counts.any fun e => decide (0 < e.2.count) && e.1 / 128 * 2 + e.1 % 2 = key

/-- The records that wait for a credit emitted for target x, as far as there are credits, with EMIT at the present tick (R222). -/
def emitDelayed (agreed : Bool) (c : Chip) (x : Nat) : Chip :=
  if !targetLive c x || (comparedVats c).all (fun v => (c.evc.get v).waiting.isEmpty) then c
  else emitAll c x agreed fun k cr =>
    let srcs := ((k.waiting.filter fun w => w % 2 = x).map (· / 2)).filter fun s => srcFeeds c s x
    emitSources k (srcs.take cr) x (c.core.tick % 2 ^ 32) cr

/-- Arrivals of the present tick that saturated counters have lost, as the agreed state holds them: each counted once (R220,
R224). -/
def countSat (c : Chip) : Chip :=
  match agreedCopy c with
  | none => c
  | some (k, _) =>
    bumpBy c Reg.evcSatc.addr 31 0
      (((k.counts.filter fun e => e.2.lost && e.2.seen = c.core.tick + 1).map fun e => e.1 / 2).eraseDups).length

/-- The voted levels of the inputs: bit by bit the majority of the three comparator paths, after debounce (R219). -/
def votedLevels (c : Chip) : BitVec 64 := maj3 c.fio.paths.a.levels c.fio.paths.b.levels c.fio.paths.c.levels

/-- INFO of input s: the voted levels of its group (R415). -/
def inputInfo (c : Chip) (s : Nat) : Word := ((votedLevels c).extractLsb' (s / 8 * 8) 8).zeroExtend 32

/-- Whether a change of input s to the level `lvl` is in the direction that EDGE selects (R219). -/
def edgeSelects (c : Chip) (s : Nat) (lvl : Bool) : Bool :=
  let edge := bits (srcWord c s) 3 2
  edge = 0 || (edge = 1 && lvl) || (edge = 2 && !lvl)

/-- A copy samples level source s: it holds the voted level from then on, and counts a change in the direction of EDGE where it
`sees` it (R219). -/
def sampleLevel (c : Chip) (sees : Bool) (k : EvCopy) (s : Nat) : EvCopy :=
  let lvl := (votedLevels c).getLsbD s
  if k.levels.getLsbD s = lvl then k
  else
    let k := { k with levels := k.levels ^^^ ((1 : BitVec 64) <<< s) }
    if sees && edgeSelects c s lvl then
      (srcTargets c s).foldl (fun k x => countArrival k (evcNow c) s x lvl (inputInfo c s)) k else k

/-- Every copy that is compared samples every input (R219, R224). -/
def sampleLevels (c : Chip) : Chip :=
  (comparedVats c).foldl (fun d v =>
    if (d.evc.get v).levels = votedLevels c then d
    else { d with evc := d.evc.upd v fun k => (List.range 64).foldl (sampleLevel c true) k }) c

/-- The controller acts on a tick, once, when the arrivals of the tick have been counted (R219 to R224): the copies are compared;
lost arrivals are counted; each copy emits the records that wait for a credit, and what R221 gives for each group and target. -/
def evcTick (c : Chip) : Chip :=
  if c.core.evcDone = c.core.tick + 1 then c
  else
    let (c, ok) := compareCopies (sampleLevels c)
    let c := [0, 1].foldl (emitDelayed ok) (countSat c)
    let keys := match agreedCopy c with | some (k, _) => activeGroups k | none => []
    let c := keys.foldl (groupTick ok) c
    { c with core := { c.core with evcDone := c.core.tick + 1 } }

/-- An arrival on source `s` in the copies that see it: counted for the targets that the source is enabled for (R219, R220). The
controller acts on it with the other arrivals of its tick (`evcTick`). -/
def arrive (c : Chip) (s : Nat) (info : Word) (lvl : Bool) (seen : Tri Bool) : Chip :=
  let xs := srcTargets c s
  let t := evcNow c
  (comparedVats c).foldl (fun c v =>
    if seen.get v then { c with evc := c.evc.upd v fun k => xs.foldl (fun k x => countArrival k t s x lvl info) k } else c) c

/-- A pulse of a block on source `s` with INFO. -/
def raise (c : Chip) (s : Nat) (info : Nat := 0) : Chip :=
  if srcExists s then arrive c s (word info) false (Tri.all true) else c

/-- The enabled queues of the live configuration, ascending. -/
def enabledQueues (c : Chip) : List Nat :=
  ((regsIn c.regs Reg.whyCtl.base (Reg.whyCtl.base + 0x1FFFF)).filterMap fun e =>
    if (e.1 - Reg.whyCtl.base) % 4 = 0 && bit (rawReg c e.1) 31 then some ((e.1 - Reg.whyCtl.base) / 4) else none)

/-- INFO of an arrival (R223): the handle for a queue source, none where no enabled queue names it; 0 for a software source; as
the block gives it otherwise. -/
def arrivalInfo (c : Chip) (s : Nat) (info : Word) : Option Word :=
  if 4032 ≤ s then some 0
  else if 3072 ≤ s then
    ((enabledQueues c).find? fun q => (liveDesc c q).evt ≠ 0 && (liveDesc c q).evsrc = s).map word
  else some info

/-- An arrival from outside (R219): a pulse, queue or software source as it comes; a level source is sampled in every copy, which
makes an arrival of a change of the voted level in the direction of EDGE, and the copies outside `seen` miss it. -/
def eventArrival (c : Chip) (s : Nat) (info : Word) (seen : Tri Bool) : Chip :=
  if !srcExists s then c
  else if 64 ≤ s then (match arrivalInfo c s info with | some i => arrive c s i false seen | none => c)
  else (comparedVats c).foldl (fun d v => { d with evc := d.evc.upd v fun k => sampleLevel c (seen.get v) k s }) c

/-- HOLDOFF_EXPIRY (R221): at the expiry of a group's hold-off the controller acts on the tick. -/
def holdoffExpiry (c : Chip) (g x : Nat) : Chip :=
  match agreedCopy c with
  | some (k, _) => if k.timer g x ≠ 0 && decide (k.timer g x ≤ c.core.tick + 1) then evcTick c else c
  | none => c

/-- EVENT_EMIT_DELAYED (R222): at the first tick with a credit for a record that waits, the controller acts on the tick. -/
def delayedEmission (c : Chip) (s x : Nat) : Chip :=
  match agreedCopy c with
  | some (k, _) =>
    if k.waiting.contains (2 * s + x) && (comparedVats c).any (fun v => decide (0 < evCredits c x v)) then evcTick c else c
  | none => c

/-- Counts of a disabled source discarded (R232). -/
def dropCounts (c : Chip) (s : Nat) : Chip :=
  { c with evc := c.evc.map fun k => (k.clear s 0).clear s 1 }

/-- On entry to STANDBY or SERVICE from another mode every Vat-target counter is 0 and every group IDLE (R229). -/
def evcEnter (c : Chip) : Chip :=
  { c with evc := c.evc.map fun k =>
      { k with counts := k.counts.filter (fun e => e.1 % 2 = 1), groups := [],
               waiting := k.waiting.filter (fun w => w % 2 = 1) } }

/-- On leaving both for another mode pending lists and the Vat copies of Q32513 are emptied, with their credits
restored (R229). -/
def evcLeave (c : Chip) : Chip :=
  { c with vats := c.vats.map fun p => setQueue { p with pending := [] } 32513 Queue.empty }

/-! ### Appends with their event binding (R164, R171, R175, R219) -/

/-- The queue source of a descriptor's EVT: 1 one arrival per append, 2 one per append to an empty queue. -/
def evtRaise (c : Chip) (d : Desc) (q : Nat) (wasEmpty : Bool) : Chip :=
  if d.evt = 1 ∨ (d.evt = 2 ∧ wasEmpty) then raise c d.evsrc q else c

/-- Whether an inbound queue is empty before an append, as the Vat shown holds it. -/
def inboundEmpty (c : Chip) (q : Nat) : Bool :=
  match servingVats c with
  | v :: _ => (queueOf (plane c v) q).entries.isEmpty && (queueOf (plane c v) q).transit.isEmpty
  | [] => true

/-- An append by a block port to all three copies of an inbound queue, or to those of the Vats named; the Boolean says whether a copy lost an entry
(R164, R175). The spec does not say whether an append that some copies drop and others make is an arrival for EVT: none is raised
unless ORD is 2 (DESIGN CHOICE, log entry 101). -/
def appendInbound (c : Chip) (q : Nat) (bs : List Byte) (whole : Nat := 0) (part : Nat := 0) (vats : List Vat := allVats) : Chip × Bool :=
  let d := liveDesc c q
  if !d.en then (c, false)
  else
    let empty := inboundEmpty c q
    let (c, lost) := vats.foldl (fun (r : Chip × Bool) v =>
      let (c, l) := appendVat r.1 v q bs whole part
      (c, r.2 || l)) (c, false)
    let c := countDrop c lost
    (if lost && d.ord ≠ 2 then c else evtRaise c d q empty, lost)

/-- An append to a queue of one copy, with its drop count and event binding: an entry that the press holds for want of a credit raises
it when it is held, not again when it is appended (DESIGN CHOICE, log entry 101). -/
def appendOne (c : Chip) (q : Nat) (press : Bool) (bs : List Byte) (whole : Nat := 0) (part : Nat := 0) : Chip × Bool :=
  let d := liveDesc c q
  let x := devQueue c q
  let (c, lost) := appendDev c q press bs whole part
  let c := countDrop c lost
  (if lost && d.ord ≠ 2 then c else evtRaise c d q (x.entries.isEmpty && x.transit.isEmpty), lost)

/-- The producer end code of a block port (Table: End code, TYPE 2). -/
def portEnd (block port : Nat) : Nat := 2 * 2 ^ 18 + block * 2 ^ 10 + port

/-- The enabled queue whose producer end is a block port. Where several enabled queues name one port, the spec does not say which of
them its appends go to: the lowest-numbered (DESIGN CHOICE, log entry 112). -/
def queueOfPort (c : Chip) (block port : Nat) : Option Nat :=
  (enabledQueues c).find? fun q => (liveDesc c q).pend = portEnd block port

/-- The enabled queue whose producer end is an Affineur channel (Table: End code, TYPE 3); of several the lowest-numbered, as for a
port (DESIGN CHOICE, log entry 112). -/
def queueOfChannel (c : Chip) (ch : Nat) : Option Nat :=
  (enabledQueues c).find? fun q => (liveDesc c q).pend = 3 * 2 ^ 18 + ch

/-- The entries that the curd latch takes from a Vat's inbound queue (R165): from the head up to the first that does not
qualify, of these as many as `count` says, with their credits returned; none where the instance's descriptor fails its check (R155, R166; log entry 84), and none
whose storage lies in a frozen bank (R184). -/
def takeWhileQual (c : Chip) (v : Vat) (q : Nat) (qual : Entry → Bool) (count : List Entry → Nat := List.length) : VatPlane × List Entry :=
  let p := plane c v
  let d := descOf p q
  let x := queueOf p q
  let free (n : Nat) : Bool := !bankFrozen c v (entryAddr d (x.head + n)) d.size
  let es := if d.ok then ((visible p q).zipIdx.takeWhile fun e => qual e.1 && free e.2).map (·.1) else []
  let es := es.take (count es)
  if es.isEmpty then (p, [])
  else
    (setQueue p q { x with entries := x.entries.drop es.length, head := (x.head + es.length) % d.depth, back := x.back + es.length }, es)

/-- Entries with a receive timestamp before `t`. -/
def takeStamped (c : Chip) (v : Vat) (q t : Nat) : VatPlane × List Entry := takeWhileQual c v q fun e => decide (leAt e.bytes 0 8 < t)

/-- Entries without a timestamp appended before tick `t`. -/
def takeUnstamped (c : Chip) (v : Vat) (q t : Nat) : VatPlane × List Entry := takeWhileQual c v q fun e => decide (e.tick < t)

/-- Takes from a queue of one copy by its consuming block: the head entry, with its credit on the way back. The access checks CHK in
each instance (R166). -/
def takeDev (c : Chip) (q : Nat) : Option (List Byte × Chip) :=
  match visibleDev c q, checkDescs c q with
  | e :: _, (c, true) => some (e.bytes, setDevQueue c q (((devQueue c q).takeHead (liveDesc c q).depth).giveBack 1))
  | _, _ => none

end Sys2Proof.Machine
end

