-- ==== Sys2Proof/Machine/Arb.lean ====
section
/-! DEFINITION. The slot arbiters (R179 to R186): one decision, the grant, ranks, the slot table and its wrap. -/

namespace Sys2Proof.Machine

/-- An arbiter replaced. -/
def setArb (c : Chip) (key : Nat) (x : Arbiter) : Chip := { c with arbs := mapPut Arbiter.reset c.arbs key x }

/-- Whether an arbiter has a requester of an index (R180). -/
def hasReq (a x : Nat) : Bool :=
  if a < 32 then x ≤ 23 || x = 63 else if a = 32 then x < 5 else if a = 33 then x < 64 else x < 4

/-- The burst limit of a bank's requester in beats, which are clocks of the bank (Table: Bank requesters). Those of the other
arbiters are a frame, a transaction, a record and a page, which no clock of theirs counts. -/
def burst (a x : Nat) : Option Nat :=
  if 32 ≤ a then none else if x = 16 then some 32 else if x = 19 then some 2 else if x = 23 then some 1 else some 8

/-- A rank word as it acts: at its default unless EXPERT is declared for ARB (R185). -/
def rankWord (c : Chip) (addr : Nat) : Word := if expertLive c 4 then rawReg c addr else regReset addr

/-- The rank of a requester (R180, R185); index 63 of a bank keeps 15. -/
def rankOf (c : Chip) (a x : Nat) : Nat :=
  if a < 32 ∧ x = 63 then 15 else bits (rankWord c (0x040000 + 0x100 * a + 8 + x / 8)) (4 * (x % 8) + 3) (4 * (x % 8))

/-- The owner byte of a slot in the table in force; 0x80 is FREE. -/
def slotByte (x : Arbiter) (n : Nat) : Nat :=
  let w := mapGet 0x80808080 x.table (n / 4)
  bits w (8 * (n % 4) + 7) (8 * (n % 4))

/-- The requesters that ask. -/
def asking (x : Arbiter) : List Nat := x.reqs.map (·.1)

/-- The requester of best rank, counting from last(r) + 1 within it (R181). -/
def byRank (c : Chip) (a : Nat) (x : Arbiter) : Option (Nat × Nat) :=
  match (asking x).filter (hasReq a) with
  | [] => none
  | cand =>
    let r := cand.foldl (fun m i => min m (rankOf c a i)) 15
    let order := (List.range 64).map fun j => (mapGet 63 x.last r + 1 + j) % 64
    match order.find? (fun i => cand.contains i && rankOf c a i = r) with
    | some g => some (g, r)
    | none => none

/-- The grant of one decision and the arbiter's last(r) after it (R181). -/
def grantOf (c : Chip) (key : Nat) (x : Arbiter) : Option Nat × Arbiter :=
  let a := arbNum key
  let owner := slotByte x x.ptr
  if arbFrozen c key then (none, x)
  else if owner < 64 && hasReq a owner && (asking x).contains owner then (some owner, x)
  else match byRank c a x with
    | none => (none, x)
    | some (g, r) => (some g, { x with last := mapPut 63 x.last r g })

/-- The committed slot words of an arbiter become live, once every copy of it has wrapped (R183). -/
def slotsLive (c : Chip) (a : Nat) (t : SMap Word) : Chip :=
  let keys := if a < 32 then allVats.map (arbKey a) else [arbKey a .a]
  if keys.any fun k => (arbOf c k).staged.isSome then c
  else (List.range 64).foldl (fun c w => setReg c (0x040000 + 0x100 * a + 0x40 + w) (mapGet 0x80808080 t w)) c

/-- The clocks since the last decision: at most the burst limit of the grant that was held (R180, R182). -/
def grantClocks (a : Nat) (x : Arbiter) (clk : Nat) : Nat :=
  match x.holder with
  | some h => (match burst a h with | some n => min clk n | none => clk)
  | none => clk

/-- One decision (R181): requests raised since the last one join, each with the clocks since it was raised, the pointer
advances, a staged table becomes live at the wrap, and the wait of the grant counts in ARB_WMAXa. `clk` clocks of the
resource have passed. -/
def arbDecide (c : Chip) (key : Nat) (raised : List (Nat × Nat)) (clk : Nat) : Chip × Option Nat :=
  let x := arbOf c key
  let a := arbNum key
  let clk := grantClocks a x clk
  let clock := x.clock + clk
  let x := { x with clock := clock, holder := none,
                    reqs := raised.foldl (fun m i => if (mapGet none m i.1).isSome then m else mapPut none m i.1 (some (clock - min i.2 clk))) x.reqs }
  let (g, x) := grantOf c key x
  let wait := match g with | some i => (match mapGet none x.reqs i with | some t => clock - t | none => 0) | none => 0
  let x := match g with | some i => { x with holder := some i, reqs := mapErase x.reqs i } | none => x
  let ptr := (x.ptr + 1) % 256
  let x := { x with ptr := ptr, wmax := max x.wmax wait }
  let (x, live) := match x.staged with
    | some t => if ptr = 0 then ({ x with table := t, staged := none }, some t) else (x, none)
    | none => (x, none)
  let c := setArb c key x
  (match live with | some t => slotsLive c a t | none => c, g)

/-- A decision of an arbiter that has one copy, with the requesters `ask`, where it grants requester w, whose transfer ends
within the step; none where the arbiter is frozen or grants another (R181, R184). -/
def granted (c : Chip) (a w : Nat) (ask : List Nat) : Option Chip :=
  let key := arbKey a .a
  let x := arbOf c key
  let (d, g) := arbDecide (setArb c key { x with reqs := x.reqs.filter fun e => ask.contains e.1 }) key (ask.map fun i => (i, 0)) 0
  if g = some w then some (setArb d key { arbOf d key with holder := none }) else none

/-- The Vat whose bank arbiters the registers show: the lowest-lettered SERVING one (R186). -/
def shownVat (c : Chip) : Vat := match servingVats c with | v :: _ => v | [] => .a

/-- ARB_WMAXa, of the Vat shown. -/
def arbWmax (c : Chip) (a : Nat) : Word := word (min 65535 (arbOf c (arbKey a (shownVat c))).wmax)

/-- A read of ARB_WMAXa starts its measure anew, in all three Vats. -/
def arbWmaxRead (c : Chip) (a : Nat) : Chip :=
  (if a < 32 then allVats.map (arbKey a) else [arbKey a .a]).foldl (fun c k => setArb c k { arbOf c k with wmax := 0 }) c

/-- Every rank word at its default: where EXPERT for ARB was declared in staging only, and staging is discarded (R185). -/
def ranksDefault (c : Chip) : Chip :=
  if expertLive c 4 then c
  else { c with regs := c.regs.filter fun e => !(0x040000 ≤ e.1 && e.1 < 0x042400 && 8 ≤ e.1 % 256 && e.1 % 256 < 16) }

/-- ARB_STATa. -/
def arbStat (c : Chip) (a : Nat) : Word :=
  let key := arbKey a (shownVat c)
  let x := arbOf c key
  word (b2n (arbFrozen c key && x.holder.isNone) * 2 ^ 31 + b2n x.staged.isSome * 2 ^ 30 + b2n x.ifrz * 2 ^ 29 + x.ptr * 2 ^ 16 +
    (match x.holder with | some h => 128 + h | none => 0))

/-- The module freezes an arbiter, or releases it (R184). -/
def setIfrz (c : Chip) (key : Nat) (on : Bool) : Chip := setArb c key { arbOf c key with ifrz := on }

end Sys2Proof.Machine
end

