-- ==== Sys2Proof/Machine/Cellar.lean ====
section
/-! DEFINITION. The Cellar event recorder (R472 to R491): the grant and write of records, repeats and limits, the
clear, and the scan at power-up. Offering a record is in `Ops`. -/

namespace Sys2Proof.Machine

/-- Whether the culture record limit of the management tick is reached (R479). -/
def crateReached (c : Chip) : Bool :=
  let lim := if expertLive c 0x18 then fieldOf c Reg.celCtl.addr 15 0 else 4096
  lim ≤ c.cel.made

/-- A record made with the next SEQ (R473, R475, R478). -/
def makeRecord (c : Chip) (r : Rec) : Chip :=
  let x := c.cel
  let seq := x.newest + 1
  let r := if r.kind = 1 then { r with seq := seq, opsec := x.opsec, pwrcyc := x.pwrcyc, rep := 0 } else { r with seq := seq, rep := 0 }
  let k := slotOf seq
  let x := { x with slots := mapPut none x.slots k (some r), newest := seq, since := true,
                    cwrap := x.cwrap || decide (16384 + 245760 ≤ seq),
                    oldest := max x.oldest (seq - 245759), made := if r.kind = 2 then x.made + 1 else x.made }
  let c := { c with cel := x }
  if seq = 2 ^ 40 - 1 then raise { c with cel := { c.cel with seqEnd := true } } 2178 else c

/-- A record made, or counted as a repeat of the newest (R480). -/
def makeOrRepeat (c : Chip) (r : Rec) : Chip := if isRepeat c.cel r then countRepeat c else makeRecord c r

/-- The record of its buffer's losses that a writer makes first once room has returned there (R479). -/
def writeLost (c : Chip) (culture : Bool) : Chip :=
  let n := if culture then c.cel.lostCul else c.cel.lostPend
  if n = 0 || c.cel.seqEnd then c
  else
    let r : Rec := { seq := 0, kind := 1, block := 0x18, rep := 0, opsec := 0, pwrcyc := 0, code := 1, task := 0,
                     data := dataWords n c.cel.newest 0 0 }
    raise (makeOrRepeat { c with cel := if culture then { c.cel with lostCul := 0 } else { c.cel with lostPend := 0 } } r) 2176 n

/-- The clear record as granted (R488): SC is the newest SEQ; the clear starts in the same grant. -/
def grantClear (c : Chip) (r : Rec) : Chip :=
  let sc := c.cel.newest
  let c := makeRecord c { r with data := bytesLE 4 sc ++ bytesLE 4 (sc / 2 ^ 32) ++ r.data.drop 8 }
  { c with cel := { c.cel with clearing := some sc, clearAsked := false, oldest := max c.cel.oldest (sc + 1) } }

/-- The device record writer granted: the oldest record of its buffer. -/
def writeDevice (c : Chip) : Chip :=
  match c.cel.devBuf with
  | [] => c
  | r :: rest =>
    let c := writeLost { c with cel := { c.cel with devBuf := rest } } false
    let clear := decide (r.block = 0x18 ∧ r.code = 2)
    if c.cel.seqEnd then bump (if clear then { c with cel := { c.cel with clearAsked := false } } else c) Reg.celCnt0.addr 31 16
    else if clear then grantClear c r else makeOrRepeat c r

/-- The culture record writer granted: a repeat takes no SEQ and no CRATE; a new record beyond CRATE is dropped, but not where
everything held is written before the module stops (R479, R483). -/
def writeCulture (c : Chip) (all : Bool := false) : Chip :=
  match c.cel.culBuf with
  | [] => c
  | r :: rest =>
    let c := writeLost { c with cel := { c.cel with culBuf := rest } } true
    if c.cel.seqEnd then bump c Reg.celCnt0.addr 31 16
    else if isRepeat c.cel r then countRepeat c
    else if crateReached c && !all then bump { c with cel := { c.cel with dropped := c.cel.dropped + 1 } } Reg.celCnt0.addr 15 0
    else makeRecord c r

/-- The requesters of arbiter 34 that ask for the MRAM port: the writers of the buffers that hold a record, and the scrubber
(R180). -/
def celAsking (c : Chip) : List Nat :=
  (if c.cel.devBuf.isEmpty then [] else [0]) ++ (if c.cel.culBuf.isEmpty then [] else [1]) ++ (if c.cel.clearing.isSome then [3] else [])

/-- The MRAM port granted to a requester that asks, once the scan of R482 has ended (R478, R181). -/
def celGrant (c : Chip) (w : Nat) : Option Chip := if c.cel.ready then granted c 34 w (celAsking c) else none

/-- One grant of the MRAM port to a record writer: nothing where arbiter 34 is frozen or grants another requester. -/
def recordWrite (c : Chip) (culture : Bool) : Chip :=
  match celGrant c (if culture then 1 else 0) with
  | none => c
  | some c => if culture then writeCulture c else writeDevice c

/-- Every record of both buffers written, device records first (R483). -/
def flushRecords (c : Chip) : Chip :=
  let c := (List.range c.cel.devBuf.length).foldl (fun c _ => writeDevice c) c
  (List.range c.cel.culBuf.length).foldl (fun c _ => writeCulture c true) c

/-- Circulating slots that hold a SEQ of `sc` or less. -/
def clearable (x : Cel) (sc : Nat) : List Nat :=
  x.slots.filterMap fun e => match e.2 with
    | some r => if 16384 ≤ e.1 && r.seq ≤ sc then some e.1 else none
    | none => none

/-- The scrubber granted: it marks one cleared slot KIND 0; after the last the clear ends (R488). -/
def clearSlot (c : Chip) : Chip :=
  match c.cel.clearing, celGrant c 3 with
  | none, _ => c
  | _, none => c
  | some sc, some c =>
    let c := match clearable c.cel sc with
      | [] => c
      | k :: _ => { c with cel := { c.cel with slots := mapErase c.cel.slots k } }
    if (clearable c.cel sc).isEmpty then raise { c with cel := { c.cel with clearing := none } } 2177 sc else c

/-- The scan of R482: the newest record is that of highest SEQ; OLDEST follows, never at or below a clear. -/
def cellarScan (c : Chip) : Chip :=
  let seqs := c.cel.slots.filterMap fun e => e.2.map (·.seq)
  let newest := seqs.foldl max 0
  let circ := seqs.filter (fun s => 16384 ≤ s)
  let low := match c.cel.clearing with | some sc => circ.filter (fun s => sc < s) | none => circ
  let floor := match c.cel.clearing with | some sc => sc + 1 | none => 16384
  { c with cel := { c.cel with newest := newest, ready := true, since := false,
                               oldest := max floor (max (if low.isEmpty then 16384 else low.foldl min newest) (newest - 245759)) } }

/-- What the latch of CEL_NEWL holds of the Cellar as it is (R489): CEL_NEWH, CEL_OLDL and CEL_OLDH. -/
def celFound (c : Chip) : List (Nat × Word) :=
  [(Reg.celNewh.addr, word (c.cel.newest / 2 ^ 32)), (Reg.celOldl.addr, word c.cel.oldest),
   (Reg.celOldh.addr, word (c.cel.oldest / 2 ^ 32))]

/-- The latch taken without a read: after a reset the registers show the Cellar as found. -/
def celLatch (c : Chip) : Chip :=
  { c with sys := { c.sys with latches := (celFound c).foldl (fun m e => mapPut 0 m e.1 e.2) c.sys.latches } }

/-- The management tick of the Cellar (R476, R479): OPSEC, and the record of culture records dropped. -/
def cellarTick (c : Chip) : Chip :=
  let n := c.cel.dropped
  let c := { c with cel := { c.cel with opsec := c.cel.opsec + 1, made := 0, dropped := 0 } }
  if n = 0 then c else deviceRecord c 0x18 0x03 n

/-- CEL_STAT. A clear cut short runs on from the end of the scan, and shows from there (R10, R488). -/
def celStat (c : Chip) : Word :=
  let x := c.cel
  let snaps := (List.range 4).foldl (fun a n => match mapGet none c.sys.sessions n with
    | some s => if s.snap.isSome then a + 2 ^ n else a
    | none => a) 0
  word (b2n (16383 ≤ x.newest) * 2 ^ 31 + b2n x.cwrap * 2 ^ 30 + b2n (x.ready && x.clearing.isSome) * 2 ^ 29 + b2n x.ready * 2 ^ 28 +
    b2n x.seqEnd * 2 ^ 27 + snaps * 2 ^ 16 + x.culBuf.length)

/-! ### The TSP commands (R485 to R488) -/

/-- A SEQ as an 8-byte field. -/
def seqBytes (n : Nat) : List Byte := bytesLE 8 (n % 2 ^ 40)

/-- The payload of CEL.INFO. -/
def celInfo (c : Chip) : List Byte :=
  seqBytes c.cel.newest ++ seqBytes c.cel.oldest ++ bytesLE 4 (celStat c).toNat ++ bytesLE 4 c.cel.pwrcyc ++
    bytesLE 4 c.cel.opsec ++ bytesLE 4 0

/-- The snapshot that CEL.SNAP latches (R486). -/
def takeSnap (c : Chip) : Snapshot :=
  ⟨c.cel.newest, match newestRec c.cel with | some r => r.rep | none => 0, c.cel.oldest⟩

/-- A record as its 32 bytes (Table: Record layout), with REPEAT as given. -/
def recordBytes (r : Rec) (rep : Nat) : List Byte :=
  bytesLE 4 r.seq ++
  bytesLE 4 (r.seq / 2 ^ 32 % 256 * 2 ^ 24 + r.kind * 2 ^ 22 + (if r.kind = 1 then r.block else 0) * 2 ^ 16 + rep) ++
  (if r.kind = 1 then bytesLE 4 r.opsec ++ bytesLE 4 (r.pwrcyc * 256 + r.code)
   else bytesLE 4 (r.code * 2 ^ 16 + r.task) ++ bytesLE 4 0) ++ padTo 16 r.data

/-- Whether a SEQ counts as cleared (R488 step 2). -/
def isCleared (x : Cel) (n : Nat) : Bool := 16384 ≤ n && (match x.clearing with | some sc => decide (n ≤ sc) | none => false)

/-- The records read from a SEQ upward, with the SEQs lost on the way: at most `count` records, not beyond SHI. -/
def celWalk (x : Cel) (sn : Snapshot) : Nat → Nat → Nat → List Rec × Nat × Nat
  | 0, n, _ => ([], 0, n)
  | fuel + 1, n, count =>
    if sn.shi < n ∨ count = 0 then ([], 0, n)
    else
      match mapGet none x.slots (slotOf n) with
      | some r =>
        if r.seq = n ∧ !isCleared x n then
          let (rs, l, m) := celWalk x sn fuel (n + 1) (count - 1)
          (r :: rs, l, m)
        else let (rs, l, m) := celWalk x sn fuel (n + 1) count; (rs, l + 1, m)
      | none => let (rs, l, m) := celWalk x sn fuel (n + 1) count; (rs, l + 1, m)

/-- CEL.READ (R487): BADMSG for a FROM above SHI or a COUNT outside 1 to 31, else FIRST, LOST, N and the records. -/
def celRead (c : Chip) (sn : Snapshot) (from_ count : Nat) : Nat × List Byte :=
  if sn.shi < from_ ∨ count = 0 ∨ 31 < count then (0x41, [])
  else
    let start := if 16384 ≤ from_ && from_ < c.cel.oldest then c.cel.oldest else from_
    let (rs, lost, _) := celWalk c.cel sn (sn.shi + 1 - start) start count
    let first := match rs with | r :: _ => r.seq | [] => sn.shi + 1
    (0, seqBytes first ++ bytesLE 4 (lost + (start - from_)) ++ bytesLE 4 rs.length ++
      (rs.map fun r => recordBytes r (if r.seq = sn.shi then sn.replat else r.rep)).flatten)

/-- CEL.CLEAR (R488): MODE outside MAINTENANCE or while a clear is in progress, BUSY with the device buffer full. -/
def celClear (c : Chip) (fingerprint : Nat) : Chip × Nat :=
  if c.sys.mode ≠ .maintenance ∨ c.cel.clearing.isSome ∨ c.cel.clearAsked then (c, 6)
  else if 1024 ≤ c.cel.devBuf.length then (c, 7)
  else
    let r : Rec := { seq := 0, kind := 1, block := 0x18, rep := 0, opsec := 0, pwrcyc := 0, code := 2, task := 0,
                     data := bytesLE 8 0 ++ bytesLE 8 fingerprint }
    ({ c with cel := { c.cel with devBuf := c.cel.devBuf ++ [r], clearAsked := true } }, 0)

end Sys2Proof.Machine
end

