-- ==== Sys2Proof/Machine/Ladle.lean ====
section
/-! DEFINITION. The charge pair and the Ladle link (R233 to R273): the vote over the lanes, charge decisions, the copy of
state to the standby and its application, handover and relinquish. -/

namespace Sys2Proof.Machine

/-- The LDL block changed. -/
def onLdl (c : Chip) (f : Ldl → Ldl) : Chip := { c with ldl := f c.ldl }

/-- A transition to another mode, put to the consequences of the step. -/
def todoMode (c : Chip) (m : Mode) (cause : Nat) : Chip := { c with core := { c.core with todo := c.core.todo ++ [.mode m cause] } }

/-- How many lanes of three are up. -/
def upCount (t : Tri Bool) : Nat := b2n t.a + b2n t.b + b2n t.c

/-- The link is up while at least two lanes are up in each direction (R248). -/
def linkUp (c : Chip) : Bool := 2 ≤ upCount c.ldl.rxUp && 2 ≤ upCount c.ldl.txUp

/-- LDL_CTL.PAIR. -/
def paired (c : Chip) : Bool := bit (rawReg c Reg.ldlCtl.addr) 31

/-- The modules are coded to equal positions: check 3 of Table: Pairing checks has failed (R236). -/
def equalCoding (c : Chip) : Bool := c.ldl.sync = 7 && c.ldl.refuse = 3

/-- The Ladle is up as the charge decisions see it: with equal coding they see it down (R236). -/
def ladleUp (c : Chip) : Bool := linkUp c && !equalCoding c

/-- LDL_CTL.TAKEANY. -/
def takeAny (c : Chip) : Bool := bit (rawReg c Reg.ldlCtl.addr) 30

/-- SYNCLIM in bytes. -/
def syncLim (c : Chip) : Nat := fieldOf c Reg.ldlCtl.addr 7 0 * 4096

/-- HOMARGIN in µs. -/
def hoMargin (c : Chip) : Nat := fieldOf c Reg.ldlCtl.addr 23 16 * 1000

/-- The module's own charge epoch (R241). -/
def epoch (c : Chip) : Nat := (rawReg c Reg.ldlEpoch.addr).toNat

/-- Whether something happened within the last `n` ticks. -/
def within (c : Chip) (t : Option Nat) (n : Nat) : Bool := match t with | some t => decide (c.core.tick ≤ t + n) | none => false

/-- The partner's epoch where it is known (R241). -/
def partnerEpoch (c : Chip) : Option Nat :=
  if within c c.ldl.pepochAt 2000 && !equalCoding c then some (rawReg c Reg.ldlPepoch.addr).toNat
  else if within c (c.ldl.pepochNet.map (·.1)) 2000 then c.ldl.pepochNet.map (·.2)
  else none

/-- The epoch that an entry to SERVICE sets (R241). -/
def nextEpoch (c : Chip) : Nat := max (epoch c) ((partnerEpoch c).getD 0) + 1

/-- The partner's epoch taken from a valid frame: a standby makes it its own (R241). With equal coding the Ladle counts as
down (R236). -/
def learnEpoch (c : Chip) (e : Nat) : Chip :=
  if equalCoding c then c
  else
    let c := onLdl (setReg c Reg.ldlPepoch.addr (word e)) fun l => { l with pepochAt := some c.core.tick }
    if c.sys.mode = .standby then setReg c Reg.ldlEpoch.addr (word e) else c

/-- The partner's last HEALTH report shows READY and arrived within the last 2 s (R265, R268). -/
def partnerReady (c : Chip) : Bool := within c c.ldl.healthAt 2000000 && bit (rawReg c (Reg.ldlPh.addr 3)) 31

/-- CHG_OUT toggles: the 2oo3 majority of the copies of the charge controller (R237). -/
def chgOn (c : Chip) : Bool := 2 ≤ upCount c.ldl.chgOut

/-- The copies of the charge controller start or stop CHG_OUT; the copy in a region without its supply stays stopped. -/
def setChg (c : Chip) (b : Bool) : Chip :=
  let one (v : Vat) : Bool := b && !c.pwr.fault.getLsbD (1 + v.num)
  onLdl c fun l => { l with chgOut := ⟨one .a, one .b, one .c⟩ }

/-- A result of a test of R261: its count, and the time of a failure. -/
def countTest (c : Chip) (ok : Bool) : Chip :=
  onLdl c fun l =>
    if ok then { l with testsOk := satAdd 65535 l.testsOk 1 }
    else { l with testsBad := satAdd 65535 l.testsBad 1, testBadAt := some c.core.tick }

/-- The module is in charge. -/
def inCharge (c : Chip) : Bool := c.sys.mode = .service

/-- Whether a test culture runs (R518). -/
def testRuns (c : Chip) : Bool := c.sys.mode = .maintenance && bit (rawReg c Reg.tstCtl.addr) 31

/-- Whether interface `n` of Table: Loopback depths is turned back on itself (R519): its depth in force is not 0. Then what
arrives from outside is discarded; what the module itself sent arrives by the commands of reception. -/
def turned (c : Chip) (n : Nat) : Bool := mapGet 0 c.tst.depths n ≠ 0

/-- Whether a test culture runs with interface `n` turned back on itself (R518, R519). -/
def looped (c : Chip) (n : Nat) : Bool := testRuns c && turned c n

/-- Whether the press releases what the listed interfaces send: in SERVICE, and in a test run to those turned back. -/
def releases (c : Chip) (ns : List Nat) : Bool := inCharge c || ns.any (looped c)

/-! ### Frames and their vote (R250, R251) -/

/-- A frame queued for sending, while the Ladle is used and its link is up (R249). -/
def queueFrame (c : Chip) (f : TxFrame) : Chip :=
  if paired c && linkUp c then onLdl c fun l => { l with txq := l.txq ++ [f] } else c

/-- The bytes of the header that HCRC covers. -/
def lfHead (f : LFrame) : List Byte := bytesLE 4 f.h0.toNat ++ bytesLE 4 f.h1.toNat ++ bytesLE 4 f.h2.toNat

/-- A lane's copy is usable if its header passes HCRC (R251). -/
def lfUsable (f : Option LFrame) : Bool := match f with | some f => decide (crc32c (lfHead f) = f.h3.toNat) | none => false

/-- Whether two copies hold the same header. -/
def sameHead (f g : LFrame) : Bool := f.h0 = g.h0 && f.h1 = g.h1 && f.h2 = g.h2 && f.h3 = g.h3

/-- The lanes whose usable copies hold the header that at least two of them hold. -/
def headLanes (t : Lanes) : List (Vat × LFrame) :=
  let us := allVats.filterMap fun v => if lfUsable (t.get v) then (t.get v).map fun f => (v, f) else none
  match us with
  | [x, y] => if sameHead x.2 y.2 then us else []
  | [x, y, z] =>
    if sameHead x.2 y.2 then (if sameHead x.2 z.2 then us else [x, y])
    else if sameHead x.2 z.2 then [x, z] else if sameHead y.2 z.2 then [y, z] else []
  | _ => []

/-- One 64-bit word of payload by majority of three; none where all differ. The second part names an outvoted lane. -/
def voteWord (a b d : List Byte) : Option (List Byte) × Option Vat :=
  if a = b then (some a, if a = d then none else some .c)
  else if a = d then (some a, some .b)
  else if b = d then (some b, some .a)
  else (none, none)

/-- `n` words of payload by majority of three, none where a word has no majority; and the lane of each outvoted word. -/
def voteWords : Nat → List Byte → List Byte → List Byte → Option (List Byte) × List Vat
  | 0, _, _, _ => (some [], [])
  | n + 1, a, b, d =>
    let (w, o) := voteWord (padTo 8 a) (padTo 8 b) (padTo 8 d)
    let (ws, os) := voteWords n (a.drop 8) (b.drop 8) (d.drop 8)
    (match w, ws with
      | some w, some ws => some (w ++ ws)
      | _, _ => none, o.toList ++ os)

/-- The outvoted words counted for their lanes in LDL_LANEERR (R251). -/
def countLane (c : Chip) (v : Vat) : Chip :=
  let c := onLdl c fun l => { l with outvoted := l.outvoted.upd v (· + 1) }
  match v with
  | .a => bump c Reg.ldlLaneerr.addr 7 0
  | .b => bump c Reg.ldlLaneerr.addr 15 8
  | .c => bump c Reg.ldlLaneerr.addr 23 16

/-- A frame whose header is agreed taken into the run of SEQ: a gap is counted in LDL_DROP.VOTE. -/
def noteSeq (c : Chip) (seq : Nat) : Chip :=
  let gap := match c.ldl.seqRx with | some s => (seq + 2 ^ 32 - 1 - s) % 2 ^ 32 | none => 0
  onLdl (bumpBy c Reg.ldlDrop.addr 15 0 gap) fun l => { l with seqRx := some seq }

/-- A frame discarded by the payload vote, or formed: a valid frame then, with its time of arrival. -/
def formFrame (c : Chip) (f : LFrame) (payload : Option (List Byte)) : Chip × Option LFrame :=
  let c := noteSeq c f.h1.toNat
  match payload with
  | some p => (onLdl c fun l => { l with lastRx := some c.core.tick }, some { f with payload := p })
  | none => (bump c Reg.ldlDrop.addr 15 0, none)

/-- LEN of a header in words of 64 bits. -/
def lfLen (f : LFrame) : Nat := bits f.h0 18 13

/-- The frame that the receiving Vats form from the lane copies (R251), with the counts it makes. -/
def voteFrame (c : Chip) (t : Lanes) : Chip × Option LFrame :=
  match headLanes t with
  | [x, y] =>
    let p := padTo (8 * lfLen x.2) x.2.payload
    formFrame c x.2 (if p = padTo (8 * lfLen x.2) y.2.payload then some p else none)
  | [x, y, z] =>
    let (p, os) := voteWords (lfLen x.2) x.2.payload y.2.payload z.2.payload
    formFrame (onLdl (os.foldl countLane c) fun l => { l with voted := l.voted + lfLen x.2 }) x.2 p
  | _ => (bump c Reg.ldlDrop.addr 31 16, none)

/-- TYPE of a frame. -/
def lfType (f : LFrame) : Nat := bits f.h0 31 28

/-- The task that a frame belongs to. -/
def lfTask (f : LFrame) : TaskId :=
  TaskId.ofCode ((if bit f.h0 27 then 256 else 0) + (bits f.h0 26 19) % (if bit f.h0 27 then 256 else 64))

/-- A received frame as it is buffered. -/
def lfKept (f : LFrame) : TxFrame := ⟨0, lfType f, bit f.h0 27, bits f.h0 26 19, f.h2.toNat, f.payload⟩

/-- Whether lane copies are frames of another module at a Ladle turned back on itself (R519): POSB is the sender's position. -/
def fromOutside (c : Chip) (t : Lanes) : Bool :=
  turned c 10 && allVats.all fun v => match t.get v with | some f => bit f.h0 12 != c.ldl.posb | none => true

/-- A frame of one type received: the vote, then its handler. -/
def onFrame (c : Chip) (t : Lanes) (type : Nat) (f : Chip → LFrame → Chip) : Chip :=
  if fromOutside c t then c
  else match voteFrame c t with
  | (c, some x) => if lfType x = type then f c x else c
  | (c, none) => c

/-- A frame of a reserved TYPE is discarded and counted (Table: Ladle frame types). -/
def reservedFrame (c : Chip) (t : Lanes) : Chip :=
  if fromOutside c t then c
  else match voteFrame c t with
  | (c, some x) => if lfType x = 0 ∨ lfType x = 15 then bump c Reg.ldlDrop.addr 31 16 else c
  | (c, none) => c

/-- The lane vote judged at a management tick: it fails with more than 1 outvoted word in 10^6 (R261), and the counts start
anew. R261 repeats the test at every frame and does not say how often it counts as a result: one pass or failure is counted at
each management tick with frames. DESIGN CHOICE, log entry 116. -/
def laneVoteTick (c : Chip) : Chip :=
  let l := c.ldl
  let out := l.outvoted.a + l.outvoted.b + l.outvoted.c
  let c := if c.sys.mode = .standby && 0 < l.voted then countTest c (out * 1000000 ≤ l.voted) else c
  onLdl c fun l => { l with outvotedLast := l.outvoted, outvoted := Tri.all 0, voted := 0 }

/-! ### SYNC and the full copy (R243, R254, R259) -/

/-- SYNC becomes STALE: source 1922, and a SYNCREQ with reason 1. -/
def becomeStale (c : Chip) : Chip :=
  if c.ldl.sync = 5 then c
  else raise (onLdl c fun l => { l with sync := 5, wantSync := some 1, rxbuf := [] }) 1922 (epoch c)

/-- The primary starts a full copy (R259). -/
def startFull (c : Chip) : Chip :=
  let c := { c with vats := c.vats.map fun p => { p with ldirty := [] } }
  onLdl c fun l => { l with sync := 3, full := some ⟨0, 61440, [], List.range 1024⟩ }

/-- The 8 bytes of a queue's dynamic state as a QSTATE frame carries them: ARB_WQST0 with DROP [5:0] in [5:0], then
ARB_WQST1 with DROP [7:6] in [4:3]. Log entry 11. -/
def queueBytes (p : VatPlane) (q : Nat) : List Byte :=
  let d := descOf p q
  let x := queueOf p q
  bytesLE 4 (x.entries.length * 2 ^ 19 + (d.depth - x.spent) * 2 ^ 6 + x.drop % 64) ++
    bytesLE 4 (x.deferred * 2 ^ 19 + x.head * 2 ^ 7 + b2n x.waitP * 64 + b2n x.waitC * 32 + x.drop / 64 * 8)

/-- The entries that one request takes in an inbox queue, whose producer is one of the Affineur channels 16 to 31 (R299); 1 in any
other queue. -/
def entriesOfWhole (d : Desc) : Nat :=
  if 3 * 2 ^ 18 + 16 ≤ d.pend && d.pend ≤ 3 * 2 ^ 18 + 31 then (1040 + d.size - 1) / d.size else 1

/-- A queue rebuilt from its dynamic state, its entries read from its storage. -/
def queueFrom (p : VatPlane) (q tick : Nat) (bs : List Byte) : Queue :=
  let d := descOf p q
  let w0 := word (leAt bs 0 4)
  let w1 := word (leAt bs 4 4)
  let n := entriesOfWhole d
  let head := bits w1 18 7
  { Queue.empty with
    head := head, spent := d.depth - bits w0 18 6, deferred := bits w1 31 19, drop := bits w0 5 0 + 64 * bits w1 4 3,
    waitP := bit w1 6, waitC := bit w1 5,
    entries := (List.range (bits w0 31 19)).map fun j => ⟨memRead p.mem (entryAddr d (head + j)) d.size, 0, tick, j / n, j % n⟩ }

/-- The payload of half-block `h` of queue state: 32 queues. -/
def halfBlock (p : VatPlane) (h : Nat) : List Byte := ((List.range 32).map fun j => queueBytes p (32 * h + j)).flatten

/-- A half-block of queue state applied to a Vat. An unused queue keeps the empty state. -/
def applyHalf (p : VatPlane) (h tick : Nat) (bs : List Byte) : VatPlane :=
  (List.range 32).foldl (fun p j =>
    let q := 32 * h + j
    if (descOf p q).en then { p with queues := mapPut Queue.empty p.queues q (queueFrom p q tick ((bs.drop (8 * j)).take 8)) } else p) p

/-- The press points of a task and its press image: their bytes in ascending order (R253). -/
def taskImage (c : Chip) (t : TaskId) : List Byte :=
  ((taskPoints c true t).map fun pt => padTo (ptSize c pt) ((mapGet none c.core.committed pt).getD [])).flatten

/-- A press point as last committed (R42), set. -/
def setCommitted (c : Chip) (pt : Nat) (bs : List Byte) : Chip :=
  { c with core := { c.core with committed := mapPut none c.core.committed pt (some bs) } }

/-- Bytes written into a task's press image from an offset, point by point. -/
def writeTaskImage (c : Chip) (t : TaskId) (ofs : Nat) (bs : List Byte) : Chip :=
  let step (r : Chip × Nat) (pt : Nat) : Chip × Nat :=
    let n := ptSize c pt
    let old := padTo n ((mapGet none r.1.core.committed pt).getD [])
    let lo := max ofs r.2
    let hi := min (ofs + bs.length) (r.2 + n)
    let new := overlay old (lo - r.2) ((bs.drop (lo - ofs)).take (hi - lo))
    let c := if lo < hi then setCommitted r.1 pt new else r.1
    (c, r.2 + n)
  ((taskPoints c true t).foldl step (c, 0)).1

/-- A STATE, QSTATE, PRESS or FULL frame applied in the standby (R254, R259). -/
def applyFrame (c : Chip) (f : TxFrame) : Chip :=
  let t := TaskId.ofCode ((if f.ev then 256 else 0) + f.task % (if f.ev then 256 else 64))
  if f.type = 1 ∨ f.type = 5 then
    let a := f.arg % 65536 * 256
    { c with vats := c.vats.map fun p => touch { p with mem := memWrite p.mem a f.payload } (pagesOf a f.payload.length) }
  else if f.type = 2 then { c with vats := c.vats.map fun p => applyHalf p (f.arg % 1024) c.core.tick f.payload }
  else if f.type = 3 then writeTaskImage c t (f.arg % 65536 * 8) f.payload
  else c

/-- A STATE, QSTATE or PRESS frame in a standby: buffered for its task while SYNCED, applied at once during a full copy
(R254, R259). -/
def stateFrame (c : Chip) (f : LFrame) : Chip :=
  if c.sys.mode ≠ .standby then c
  else if c.ldl.sync = 4 then
    let k := (lfTask f).code
    onLdl c fun l => { l with rxbuf := mapPut [] l.rxbuf k (mapGet [] l.rxbuf k ++ [lfKept f]) }
  else if c.ldl.sync = 3 && lfType f ≠ 1 then applyFrame c (lfKept f)
  else c

/-- A FULL frame (R259): a standby applies it as it arrives. One that is STALE or SYNCED receives a new copy with it. -/
def fullFrame (c : Chip) (f : LFrame) : Chip :=
  if c.sys.mode = .standby ∧ 3 ≤ c.ldl.sync ∧ c.ldl.sync ≤ 5 then applyFrame (onLdl c fun l => { l with sync := 3, rxbuf := [] }) (lfKept f)
  else c

/-- The latest tick not after the present whose low 32 bits are these (R227). -/
def extendTick (c : Chip) (low : Nat) : Nat :=
  let t := c.core.tick - c.core.tick % 2 ^ 32 + low % 2 ^ 32
  if t ≤ c.core.tick then t else t - 2 ^ 32

/-- The tick nearest to the present whose low 32 bits are these. -/
def nearTick (c : Chip) (low : Nat) : Int := c.core.tick + signed 32 ((low + 2 ^ 32 - c.core.tick % 2 ^ 32) % 2 ^ 32)

/-- Records removed from an event task's pending list when its END is applied: those of its source whose FIRST is at or before
its EMIT (R258). -/
def dropPending (c : Chip) (v : Fin 256) (src emit : Nat) : Chip :=
  { c with vats := c.vats.map fun p =>
      { p with pending := mapPut [] p.pending v.val ((mapGet [] p.pending v.val).filter fun r =>
          !(bits (word (leAt r 0 4)) 11 0 = src && decide ((extendTick c (leAt r 8 4) : Int) ≤ nearTick c emit))) } }

/-! ### The primary's copy (R253, R255, R256) -/

/-- Payload bytes waiting in the Ladle buffer. -/
def backlog (c : Chip) : Nat := ((c.ldl.txq.filter fun f => 1 ≤ f.type && f.type ≤ 3).map fun f => f.payload.length).sum

/-- Whether a page number belongs to the copy of a task's cycle: its own pages, queue storage, queue state (R252). -/
def pageInCopy (cu : Culture) (t : TaskId) (pg : Nat) : Bool :=
  if 4096 ≤ pg then true
  else
    let r := cu.pages.getD pg 0
    (r / 2 ^ 14 = 1 && r % 1024 = t.code) || r / 2 ^ 14 = 2

/-- The frames of one page or block of queue state. -/
def pageFrames (p : VatPlane) (type : Nat) (t : TaskId) (pg : Nat) : List TxFrame :=
  if 4096 ≤ pg then
    [0, 1].map fun j => ⟨0, 2, t.ev, t.num, 2 * (pg - 4096) + j, halfBlock p (2 * (pg - 4096) + j)⟩
  else (List.range 16).map fun j => ⟨0, type, t.ev, t.num, 16 * pg + j, memRead p.mem (4096 * pg + 256 * j) 256⟩

/-- Pieces of at most 256 bytes, with their offsets. -/
def pieces (fuel ofs : Nat) (bs : List Byte) : List (Nat × List Byte) :=
  match fuel with
  | 0 => []
  | n + 1 => if bs.isEmpty then [] else (ofs, bs.take 256) :: pieces n (ofs + 256) (bs.drop 256)

/-- The PRESS frames of a task. -/
def pressFrames (c : Chip) (t : TaskId) : List TxFrame :=
  let bs := taskImage c t
  (pieces (bs.length / 256 + 1) 0 bs).map fun x => ⟨1, 3, t.ev, t.num, x.1 / 8, x.2⟩

/-- Dirty volume counted, with the largest sum of the last 1 ms in LDL_VOL (R255). -/
def countVolume (c : Chip) (n : Nat) : Chip :=
  let l := (c.core.tick, n) :: c.ldl.volume.filter fun e => c.core.tick < e.1 + 1000
  raiseMax (onLdl c fun x => { x with volume := l }) Reg.ldlVol.addr 31 16 ((l.map (·.2)).sum / 1024)

/-- FINAL with an argument. -/
def finalTx (arg : Nat) : TxFrame := ⟨0, 9, false, 0, arg, []⟩

/-- The copy of a cycle of task t at its press close (R253), or its stop when the buffer would hold more than 512 KiB
(R256). The task's result is in `c` as committed press image. -/
def stateCopy (c : Chip) (t : TaskId) (commit : Nat) (ovr : Bool) : Chip :=
  if !inCharge c || c.ldl.sync ≠ 4 || !linkUp c then c
  else
    let p := plane c (shownVat c)
    let pages := p.ldirty.filter (pageInCopy c.culture t)
    let fs := (pages.map (pageFrames p 1 t)).flatten ++ pressFrames c t
    let vol := (fs.map fun f => f.payload.length).sum
    if 524288 < backlog c + vol then
      startFull (queueFrame (raise (bump c Reg.ldlDrop.addr 15 0) 1922 (epoch c)) (finalTx 0))
    else
      let st := taskSt c t
      let a := actOf p t
      let ev : List Byte := if t.ev then bytesLE 4 (bits (word (leAt a.record 0 4)) 11 0) ++ bytesLE 4 (leAt a.record 4 4) ++
          bytesLE 4 (leAt a.record 8 4) else bytesLE 12 0
      let pay := bytesLE 4 fs.length ++ bytesLE 4 (epoch c) ++ bytesLE 4 st.curdTick ++
        bytesLE 4 (b2n ovr * 2 ^ 31 + (st.cycles + 1) % 65536) ++ ev ++ bytesLE 4 0
      let c := { c with vats := c.vats.map fun p => { p with ldirty := p.ldirty.filter fun n => !pages.contains n } }
      let c := countVolume c vol
      fs.foldl queueFrame c |> fun c => queueFrame c ⟨0, 4, t.ev, t.num, commit % 2 ^ 32, pay⟩

/-- Whether the present pass of a full copy has sent everything. -/
def FullCopy.done (f : FullCopy) : Bool := f.stop ≤ f.next && f.list.isEmpty && f.half.isEmpty

/-- The next frame of a full copy. -/
def FullCopy.take (f : FullCopy) (p : VatPlane) : Option (TxFrame × FullCopy) :=
  let chunk (n : Nat) : TxFrame := ⟨0, 5, false, 0, n, memRead p.mem (256 * n) 256⟩
  if f.next < f.stop then some (chunk f.next, { f with next := f.next + 1 })
  else match f.list, f.half with
    | n :: r, _ => some (chunk n, { f with list := r })
    | [], h :: r => some (⟨0, 2, false, 0, h, halfBlock p h⟩, { f with half := r })
    | [], [] => none

/-- Bytes of a list of page numbers: 4 KiB pages and 512-byte blocks. -/
def pageBytes (l : List Nat) : Nat := (l.map fun n => if 4096 ≤ n then 512 else 4096).sum

/-- The next pass over the pages written during the last one, where more than SYNCLIM is left (R259 step 2). -/
def nextPass (c : Chip) : Chip :=
  match c.ldl.full with
  | none => c
  | some f =>
    let l := (plane c (shownVat c)).ldirty
    if f.done && syncLim c < pageBytes l then
      let c := { c with vats := c.vats.map fun p => { p with ldirty := [] } }
      onLdl c fun x => { x with full := some ⟨0, 0,
        ((l.filter (· < 3840)).map fun n => (List.range 16).map (16 * n + ·)).flatten,
        ((l.filter (4096 ≤ ·)).map fun n => [2 * (n - 4096), 2 * (n - 4096) + 1]).flatten⟩ }
    else c

/-- The tasks that are enabled. -/
def enabledTasks (c : Chip) : List TaskId :=
  ((regsIn c.regs Reg.hxkTcfg.base (Reg.hxkTcfg.base + 511)).filterMap fun e =>
      if (e.1 - Reg.hxkTcfg.base) % 8 = 0 && bit (rawReg c e.1) 31 then
        some (TaskId.periodic ⟨(e.1 - Reg.hxkTcfg.base) / 8 % 64, Nat.mod_lt _ (by decide)⟩) else none) ++
  ((regsIn c.regs Reg.hxkVcfg.base (Reg.hxkVcfg.base + 1023)).filterMap fun e =>
      if (e.1 - Reg.hxkVcfg.base) % 4 = 0 && bit (rawReg c e.1) 31 then
        some (TaskId.event ⟨(e.1 - Reg.hxkVcfg.base) / 4 % 256, Nat.mod_lt _ (by decide)⟩) else none)

/-- A quiet point once a pass of a full copy has been sent: the pages left, every task's press image, and SYNC (R259 step 3), or
another pass where more than SYNCLIM is left. -/
def finishFull (c : Chip) : Chip :=
  match c.ldl.full with
  | none => c
  | some f =>
    let p := plane c (shownVat c)
    if !f.done then c
    else if syncLim c < pageBytes p.ldirty then nextPass c
    else
      let fs := (p.ldirty.map (pageFrames p 5 .setup)).flatten ++ ((enabledTasks c).map (pressFrames c)).flatten ++
        [⟨0, 6, false, 0, c.core.tick % 2 ^ 32, []⟩]
      let c := { c with vats := c.vats.map fun p => { p with ldirty := [] } }
      raise (onLdl (fs.foldl queueFrame c) fun l => { l with full := none, sync := 4 }) 1923 (epoch c)

/-! ### Slots (R249, R259) -/

/-- The time counter and tick that a TIME frame carries at its slot. -/
def fillTime (c : Chip) (f : TxFrame) : TxFrame :=
  if f.type = 10 then { f with arg := now c % 2 ^ 32, payload := bytesLE 8 (now c) ++ bytesLE 8 c.core.tick } else f

/-- A frame as the lanes carry it: its header with LEN, POSB, SEQ and HCRC, and whole words of payload (R250). -/
def mkFrame (c : Chip) (f : TxFrame) : LFrame :=
  let len := (f.payload.length + 7) / 8
  let h0 := word (f.type * 2 ^ 28 + b2n f.ev * 2 ^ 27 + f.task % 256 * 2 ^ 19 + len % 64 * 2 ^ 13 + b2n c.ldl.posb * 2 ^ 12)
  let x : LFrame := ⟨h0, word c.ldl.seqTx, word f.arg, 0, padTo (8 * len) f.payload⟩
  { x with h3 := word (crc32c (lfHead x)) }

/-- Whether frame g, queued earlier, has to go before frame f: each task's copies and END keep their order (R253), SYNC and
FINAL close what was queued before them (R259, R265), and copies follow the SYNC that begins them. -/
def goesBefore (g f : TxFrame) : Bool :=
  let copy (x : TxFrame) : Bool := 1 ≤ x.type && x.type ≤ 4
  (copy g && copy f && g.ev = f.ev && g.task = f.task) || ((f.type = 6 || f.type = 9) && 1 ≤ g.type && g.type ≤ 6) ||
    (g.type = 6 && 1 ≤ f.type && f.type ≤ 5)

/-- The queued frames that can be sent in this slot, oldest first; FULL frames take at most 7 of every 8 slots (R259). -/
def sendable (fullSlots : Nat) : List TxFrame → List TxFrame → List TxFrame
  | _, [] => []
  | before, f :: r =>
    let rest := sendable fullSlots (before ++ [f]) r
    if before.any (goesBefore · f) || (f.type = 5 && 7 ≤ fullSlots) then rest else f :: rest

/-- A frame sent: on the lane of each SERVING Vat; idle blocks on the others. -/
def sendFrame (c : Chip) (f : TxFrame) : Chip :=
  let f := fillTime c f
  let x := mkFrame c f
  let lane (v : Vat) : Option LFrame := if serving c v then some x else none
  onLdl c fun l =>
    { l with
      slot := ⟨lane .a, lane .b, lane .c⟩
      seqTx := (l.seqTx + 1) % 2 ^ 32
      timeAt := if f.type = 10 then some c.core.tick else l.timeAt
      fullSlots := if f.type = 5 then l.fullSlots + 1 else 0
      handover := if f.type = 9 then l.handover.map (fun h => { h with final := true }) else l.handover }

/-- A slot that carries idle blocks. -/
def idleSlot (c : Chip) : Chip := onLdl c fun l => { l with slot := Tri.all none, fullSlots := 0 }

/-- One slot of 450 ns: arbiter 32 decides, and each SERVING Vat sends the frame granted on its lane, or idle blocks. The chunks
of a full copy ask as requester 0 while nothing else of it does and no SYNC or FINAL waits. -/
def ladleSlot (c : Chip) : Chip :=
  let l := c.ldl
  let fs := sendable l.fullSlots [] l.txq
  let reqs := (fs.map (·.req)).eraseDups
  let useFull := l.full.any (fun f => !f.done) && !reqs.contains 0 && l.fullSlots < 7 && !l.txq.any fun f => f.type = 6 || f.type = 9
  let raised := if useFull then 0 :: reqs else reqs
  if !paired c || !linkUp c then idleSlot c
  else
    let (c, g) := arbDecide c (arbKey 32 .a) (raised.map fun r => (r, 0)) 1
    match g with
    | none => idleSlot c
    | some r =>
      match fs.find? (fun f => f.req = r), l.full with
      | some f, _ => sendFrame (onLdl c fun l => { l with txq := l.txq.erase f }) f
      | none, some fc =>
        match fc.take (plane c (shownVat c)) with
        | some (f, fc) => nextPass (sendFrame (onLdl c fun l => { l with full := some fc }) f)
        | none => idleSlot c
      | none, none => idleSlot c

/-! ### Lanes (R248, R511) -/

/-- The Ladle has gone down: SYNC DOWN, source 1922 where its use or its link ends with that, everything in flight lost. A standby
that is SYNCED stays so until its partner is found STALE or silent (R243; log entry 85). -/
def linkLost (c : Chip) (ends : Bool) : Chip :=
  let was := c.ldl.sync
  let c := onLdl c fun l =>
    { l with sync := if c.sys.mode = .standby && was = 4 then 4 else 0, full := none, txq := [], rxbuf := [], seqRx := none, ident := none
             pathDelay := none }
  if ends then raise c 1922 (epoch c) else c

/-- The IDENT payload (R234): part number, PAIR, position, CULTID, BUILD, DIGEST, layout digest. Log entry 12. -/
def identBytes (c : Chip) : List Byte :=
  bytesLE 4 3192 ++ bytesLE 1 (b2n (paired c)) ++ bytesLE 1 (b2n c.ldl.posb) ++ bytesLE 2 0 ++ bytesLE 8 c.culture.cultid ++
    bytesLE 4 c.culture.build ++ bytesLE 4 0 ++ bytesBE 32 c.culture.digest ++ bytesBE 32 c.culture.layout ++ bytesLE 8 0

/-- The Ladle protocol revision, major in [15:8] (log entry 2). -/
def ladleRev : Nat := Config.ladleRev.toNat

/-- The pairing checks in their order, on the partner's last IDENT (R234, R270). The result of a pass waits for an entry to
STANDBY or SERVICE where the module is in neither. -/
def judgeIdent (c : Chip) : Chip :=
  match c.ldl.ident with
  | none => c
  | some (arg, b) =>
    let refuse (n : Nat) (pos : Bool) : Chip := onLdl c fun l => { l with sync := 7, refuse := n, posconf := pos, full := none }
    if leAt b 4 1 = 0 then refuse 1 c.ldl.posconf
    else if leAt b 0 4 ≠ 3192 ∨ arg / 256 % 256 ≠ ladleRev / 256 then refuse 2 c.ldl.posconf
    else if decide (leAt b 5 1 = 1) = c.ldl.posb then refuse 3 true
    else
      let c := onLdl c fun l => { l with refuse := 0, posconf := false }
      if beAt b 24 32 ≠ c.culture.digest ∧ beAt b 56 32 ≠ c.culture.layout then onLdl c fun l => { l with sync := 6, full := none }
      else if c.sys.mode = .standby then onLdl c fun l => { l with sync := 3 }
      else if inCharge c then startFull c
      else onLdl c fun l => { l with sync := 2 }

/-- The module sends its IDENT, with the link up, and judges the partner's where it has it. -/
def exchangeIdent (c : Chip) : Chip :=
  let c := onLdl c fun l => { l with sync := 2 }
  judgeIdent (queueFrame c ⟨2, 14, false, 0, ladleRev, identBytes c⟩)

/-- A lane comes up, one of its own only while the sending Vat is SERVING; with the link up the modules exchange IDENT. -/
def laneUp (c : Chip) (v : Vat) (tx : Bool) : Chip :=
  if tx && !serving c v then c
  else
    let was := linkUp c
    let c := onLdl c fun l => if tx then { l with txUp := l.txUp.set v true } else { l with rxUp := l.rxUp.set v true }
    if !paired c then c
    else if linkUp c && !was then exchangeIdent (onLdl c fun l => { l with seqRx := none, ident := none })
    else if !linkUp c && c.ldl.sync = 0 then onLdl c fun l => { l with sync := 1 }
    else c

/-- A lane goes down. -/
def laneDown (c : Chip) (v : Vat) (tx : Bool) : Chip :=
  let was := linkUp c
  let c := onLdl c fun l => if tx then { l with txUp := l.txUp.set v false } else { l with rxUp := l.rxUp.set v false }
  if was && !linkUp c then linkLost c true else c

/-- LDL_CMD OP 2: all lanes retrain (Table: LDL_CMD). -/
def linkReset (c : Chip) : Chip :=
  let c := linkLost (onLdl c fun l => { l with rxUp := Tri.all false, txUp := Tri.all false }) (linkUp c)
  if c.ldl.sync = 4 then c else onLdl c fun l => { l with sync := if paired c then 1 else 0 }

/-- LDL_CMD OP 1: a standby sends SYNCREQ with reason 3. -/
def resync (c : Chip) : Chip := if c.sys.mode = .standby then queueFrame c ⟨4, 13, false, 0, 3, []⟩ else c

/-- IDENT: kept, and judged by a module that uses the Ladle. -/
def identFrame (c : Chip) (f : LFrame) : Chip :=
  let c := onLdl c fun l => { l with ident := some (f.h2.toNat, f.payload) }
  if paired c then judgeIdent c else c

/-- SYNCREQ from the standby makes the primary start a full copy (R259). -/
def syncReq (c : Chip) (_ : LFrame) : Chip := if inCharge c ∧ c.ldl.sync ≠ 6 ∧ c.ldl.sync ≠ 7 then startFull c else c

/-- A message of the partner's Affineur (Table: Ladle frame types). -/
def affFrame (c : Chip) (f : LFrame) : Chip := onLdl c fun l => { l with aff := some (f.h2.toNat, f.payload) }

/-- READY of the partner judged again: source 1924 on a change (R273). -/
def noteReady (c : Chip) : Chip :=
  if partnerReady c = c.ldl.readySeen then c else raise (onLdl c fun l => { l with readySeen := partnerReady c }) 1924 (epoch c)

/-- A partner HEALTH report (R267): LDL_PHn, the epoch, and READY. -/
def healthFrame (c : Chip) (f : LFrame) : Chip :=
  let c := learnEpoch c f.h2.toNat
  let c := (List.range 16).foldl (fun c n => setReg c (Reg.ldlPh.addr n) (word (leAt f.payload (4 * n) 4))) c
  noteReady (onLdl c fun l => { l with healthAt := some c.core.tick })

/-! ### Charge (R237 to R246, R263 to R266) -/

/-- Whether the next entry to SERVICE would pass the limit of the epoch (R241). -/
def epochFull (c : Chip) : Bool := decide (0xFFFFFFFF < nextEpoch c)

/-- A standby takes charge: refused at the limit of the epoch (R241). KIND goes to LDL_TKLAST. -/
def takeCharge (c : Chip) (kind : Nat) : Chip :=
  if epochFull c then raise (onLdl c fun l => { l with topWarned := true }) 1927 (epoch c)
  else todoMode (setField c Reg.ldlTklast.addr 31 28 kind) .service 5

/-- A module in charge yields (R244). -/
def yieldCharge (c : Chip) : Chip :=
  let c := onLdl (setChg c false) fun l => { l with wantSync := some 2, handover := none }
  todoMode (raise (bump c Reg.ldlCnt.addr 15 0) 1921 (epoch c)) .standby 6

/-- The comparison of epochs by a module in charge whose partner is TOGGLING (R244). -/
def compareEpochs (c : Chip) : Chip :=
  match partnerEpoch c with
  | some e => if epoch c < e ∨ (epoch c = e ∧ c.ldl.posb) then yieldCharge c else c
  | none => if c.ldl.posb then yieldCharge c else c

/-- A standby can take charge: SYNCED, or with TAKEANY. -/
def canTake (c : Chip) : Bool := c.ldl.sync = 4 || takeAny c

/-- A partner that is SILENT without a valid frame for 3 ms: a standby that can takes charge, or raises source 1927 at the limit of
the epoch; another raises source 1926; each once in the silence. -/
def partnerGone (c : Chip) : Chip :=
  if canTake c then (if epochFull c && c.ldl.topWarned then c else takeCharge c 1)
  else if c.ldl.warned then c else raise (onLdl c fun l => { l with warned := true }) 1926 (epoch c)

/-- Valid Ladle frames arrive, within 3 ms, as the charge decisions see it (R236, R243). -/
def framesArrive (c : Chip) : Bool := within c c.ldl.lastRx 3000 && !equalCoding c

/-- The charge decisions of a fast-plane tick (R243). -/
def chargeDecision (c : Chip) : Chip :=
  match c.sys.mode, c.ldl.chgIn with
  | .standby, .toggling =>
    let c := onLdl c fun l => { l with chgline := false, warned := false, topWarned := false }
    if linkUp c then c else becomeStale c
  | .standby, .silent =>
    if framesArrive c then
      let was := c.ldl.chgline
      let c := onLdl c fun l => { l with chgline := true, warned := false, topWarned := false }
      if was then c else raise c 1925 (epoch c)
    else partnerGone (onLdl c fun l => { l with chgline := false })
  | .service, .toggling => if c.ldl.handover.any (·.begun) then c else compareEpochs c
  | _, _ => onLdl c fun l => { l with chgline := false }

/-- FINAL (R243, R256, R265): with ARG 0 the standby becomes STALE, otherwise it takes charge. -/
def finalFrame (c : Chip) (f : LFrame) : Chip :=
  if c.sys.mode ≠ .standby || equalCoding c then c
  else if f.h2 = 0 then becomeStale c
  else
    let c := learnEpoch c f.h2.toNat
    let kind := if c.ldl.partnerH.isSome then 2 else 3
    let c := onLdl c fun l => { l with partnerH := none }
    if canTake c then takeCharge c kind else c

/-- HANDOVER tells the standby H (R265). -/
def handoverFrame (c : Chip) (f : LFrame) : Chip := onLdl c fun l => { l with partnerH := some f.h2.toNat }

/-- The curd instants of a task that a takeover skips (R264). -/
def skippedCurds (c : Chip) (t : TaskId) : Nat :=
  match t with
  | .periodic n =>
    let p := taskPeriod c n
    let ph := taskPhase c n
    let last := match mapGet 0 c.ldl.applied t.code with | 0 => c.core.tick | k + 1 => k
    if p = 0 then 0 else (c.core.tick + 9 - ph) / p - (last - ph) / p
  | _ => 0

/-- GAP of LDL_TKLAST measured where the enable opens. -/
def measureGap (c : Chip) : Chip :=
  if c.ldl.gapPend ∧ c.ldl.chgIn ≠ .toggling then
    onLdl (setField c Reg.ldlTklast.addr 15 0 (match c.ldl.lastEdge with | some t => min 65535 (c.core.tick - t) | none => 0))
      fun l => { l with gapPend := false }
  else c

/-- SYNC at an entry to SERVICE: with the link up and the pairing checks passed the module starts a full copy, with the link down
it is no longer SYNCED. Log entry 85. -/
def serviceSync (c : Chip) : Chip :=
  let s := c.ldl.sync
  if linkUp c then
    (if (s = 2 && c.ldl.ident.isSome) || (3 ≤ s && s ≤ 5) then startFull (onLdl c fun l => { l with rxbuf := [], wantSync := none }) else c)
  else if 2 ≤ s then onLdl c fun l => { l with sync := 0, rxbuf := [], wantSync := none }
  else c

/-- What every entry to SERVICE does on the charge pair (R241, R264): the epoch, CHG_OUT, the counts, source 1920, and no
curd instant before the tick + 10 µs. The KIND has been entered before; `takeover` where STANDBY came before. -/
def enterCharge (c : Chip) (takeover : Bool) : Chip :=
  let lost := ((enabledTasks c).map (skippedCurds c)).sum
  let c := setReg c Reg.ldlEpoch.addr (word (nextEpoch c))
  let c := bump (setField c Reg.ldlTklast.addr 27 16 (if takeover then min 4095 lost else 0)) Reg.ldlCnt.addr 31 16
  let c := onLdl (setChg c true) fun l => { l with chgline := false, gapPend := true, partnerH := none, full := none }
  let c := serviceSync c
  let c := (enabledTasks c).foldl (fun c t => setTask c t { taskSt c t with start := max (taskSt c t).start (c.core.tick + 10) }) c
  measureGap (raise c 1920 (epoch c))

/-- An edge of CHG_IN (R237, R238): one longer than 20 µs is a toggle; three within 2 ms make the partner TOGGLING, and a
module in charge compares epochs at once. -/
def chgInEdge (c : Chip) (us : Nat) : Chip :=
  if us ≤ 20 then c
  else
    let t := c.core.tick
    let ts := t :: (c.ldl.toggles.filter fun x => t ≤ x + 2000).take 2
    let tog := c.ldl.chgIn = .toggling || ts.length = 3
    let was := c.ldl.chgIn = .toggling
    let c := onLdl c fun l => { l with toggles := ts, lastEdge := some t, quietFrom := t, warned := false, topWarned := false,
                                       chgIn := if tog then .toggling else .notToggling
                                       watchTog := l.watchTog || tog }
    if tog && !was && inCharge c && !(c.ldl.handover.any (·.begun)) then compareEpochs c else c

/-- No toggle for 300 µs: the partner is NOT TOGGLING, and the enable can open (R238, R239). -/
def togglingLost (c : Chip) : Chip :=
  if c.ldl.chgIn = .toggling ∧ c.ldl.quietFrom + 300 ≤ c.core.tick then
    measureGap (onLdl c fun l => { l with chgIn := .notToggling, toggles := [] })
  else c

/-- No toggle for 3 ms: the partner is SILENT (R238). -/
def partnerSilent (c : Chip) : Chip :=
  if c.ldl.chgIn = .notToggling ∧ c.ldl.quietFrom + 3000 ≤ c.core.tick then onLdl c fun l => { l with chgIn := .silent } else c

/-- No curd instant is formed: a handover or relinquish has begun (R265, R266), or the orderly power-down (R533). -/
def curdsStopped (c : Chip) : Bool := c.ldl.handover.any (·.begun) || c.pwr.downAt.isSome

/-- The last edge of CHG_OUT is made, and FINAL goes behind the Ladle buffer (R265 step 2, R266). -/
def beginLeaving (c : Chip) (h : Leaving) : Chip :=
  queueFrame (onLdl (setChg c false) fun l => { l with handover := some { h with tick := c.core.tick, begun := true } })
    (finalTx (epoch c))

/-- A handover asked for by SYS_CMD OP 6, with the tick H that the primary chooses (R265). It ends in STANDBY with cause 6
YIELD, as step 4 of Table: Handover says (log entry 86). -/
def startHandover (c : Chip) (h : Nat) : Chip :=
  let h := max h (c.core.tick + hoMargin c)
  queueFrame (onLdl c fun l => { l with handover := some ⟨h, 0, false, false, .standby, 6⟩ }) ⟨0, 8, false, 0, h % 2 ^ 32, []⟩

/-- H is reached (R265): with an event activation in progress, or more than SYNCLIM in the buffer, H moves to the quiet point `next`,
and after 16 moves the handover is abandoned; else it begins where the tick is a quiet point. -/
def handoverAt (c : Chip) (next : Nat) (quiet : Bool) : Chip :=
  match c.ldl.handover with
  | none => c
  | some h =>
    if c.sys.mode ≠ .service ∨ h.begun ∨ c.core.tick < h.tick then c
    else
      let busy := (enabledTasks c).any fun t => t.ev && (taskSt c t).active
      if busy || syncLim c < backlog c then
        if 16 ≤ h.moves then deviceRecord (onLdl c fun l => { l with handover := none }) 0x06 0x01 h.tick
        else
          let n := max next (c.core.tick + 1)
          queueFrame (onLdl c fun l => { l with handover := some { h with tick := n, moves := h.moves + 1 } }) ⟨0, 8, false, 0, n % 2 ^ 32, []⟩
      else if quiet then beginLeaving c h
      else c

/-- 270 µs after the cause instant the outputs go inert, and once FINAL has been sent, at most 1 ms after it, the module
enters the new mode (R191, R266); in the orderly power-down it goes on to INERT by itself (R533). -/
def relinquishEnd (c : Chip) : Chip :=
  match c.ldl.handover with
  | none => c
  | some h =>
    if c.sys.mode = .service && h.begun && decide (h.tick + 270 ≤ c.core.tick) &&
        (h.final || h.tick + 1000 ≤ c.core.tick || !ladleUp c) then
      if h.mode = .inert then onLdl c fun l => { l with handover := none } else todoMode c h.mode h.cause
    else c

/-- Whether leaving charge sends FINAL first: in charge, with a READY partner and the Ladle up (R266). -/
def mustRelinquish (c : Chip) : Bool := inCharge c && paired c && partnerReady c && ladleUp c && !curdsStopped c

/-- The drive permit of a relinquish: outputs stay driven until 270 µs after its begin (R266). -/
def leavingDrives (c : Chip) : Bool :=
  match c.ldl.handover with
  | some h => !h.begun || decide (c.core.tick < h.tick + 270)
  | none => true

/-- The output enable of R239, for the drive permit given. -/
def gateOpen (c : Chip) (permit : Bool) : Bool := permit && c.ldl.chgIn ≠ .toggling

/-- At a fast-plane tick: READY of the partner, which ends 2 s after its last report, a SYNCREQ asked for, and TIME at least every
100 µs (R249). -/
def ladleTick (c : Chip) : Chip :=
  let c := noteReady c
  let c := match c.ldl.wantSync with
    | some r => if linkUp c && paired c && c.sys.mode = .standby then
        queueFrame (onLdl c fun l => { l with wantSync := none }) ⟨4, 13, false, 0, r, []⟩ else c
    | none => c
  if paired c && linkUp c && !within c c.ldl.timeAt 98 && !c.ldl.txq.any (fun f => f.type = 10) then
    queueFrame c ⟨4, 10, false, 0, 0, []⟩
  else c

/-- LDL_STAT. -/
def ldlStat (c : Chip) (gate : Bool) : Word :=
  let l := c.ldl
  word (l.sync * 2 ^ 29 + b2n (chgOn c) * 2 ^ 28 + b2n (l.chgIn = .toggling) * 2 ^ 27 + b2n (l.chgIn = .silent) * 2 ^ 26 +
    b2n l.posb * 2 ^ 25 + b2n l.posconf * 2 ^ 24 + b2n gate * 2 ^ 23 +
    (b2n l.rxUp.a + 2 * b2n l.rxUp.b + 4 * b2n l.rxUp.c) * 2 ^ 20 + b2n l.chgline * 2 ^ 19 +
    b2n (partnerEpoch c).isSome * 2 ^ 18 + (if l.sync = 7 then l.refuse * 256 else 0))

end Sys2Proof.Machine
end

