-- ==== Sys2Proof/Machine/Rules.lean ====
section
/-! DEFINITION. The vocabulary of the rules that COMMIT checks (R203): a block's words as they would be after the commit,
and the fields that break a rule. -/

namespace Sys2Proof.Machine

/-- A field that breaks a rule: address, highest and lowest bit. -/
abbrev Fail := Nat × Nat × Nat

/-- The configuration words as they would stand after the commit. -/
abbrev After := Nat → Word

/-- The field, where the rule is broken. -/
def failIf (broken : Bool) (a msb lsb : Nat) : List Fail := if broken then [(a, msb, lsb)] else []

/-- Whether point p is enabled in direction `press` (R65). -/
def ptDir (w : After) (p : Nat) (press : Bool) : Bool := let e := w (Reg.hxkPt.addr p); bit e 31 && (bit e 30 == press)

/-- The size of point p in bytes. -/
def ptBytes (w : After) (p : Nat) : Nat := 8 * (bits (w (Reg.hxkPt.addr p)) 10 0 + 1)

/-- Whether point p is declared as an input of a task with a size. -/
def ptInput (w : After) (p size : Nat) : Bool := ptDir w p false && ptBytes w p = size

/-- Whether point p is a press point owned by a task with a size. -/
def ptPress (w : After) (p size : Nat) : Bool := ptDir w p true && ptBytes w p = size

/-- The task of a point: its code as special register TASK shows it. -/
def ptTask (w : After) (p : Nat) : Nat := bits (w (Reg.hxkPt.addr p)) 29 21

/-- Committed words of the addresses in `sel` become live (R206). -/
def applyPend (c : Chip) (sel : Nat → Bool) : Chip :=
  let now := c.sys.pend.filter fun e => sel e.1
  let c := now.foldl (fun c e => match e.2 with | some w => setReg c e.1 w | none => c) c
  { c with sys := { c.sys with pend := c.sys.pend.filter fun e => !sel e.1 } }

end Sys2Proof.Machine
end

