-- ==== Sys2Proof/Machine/Pwr.lean ====
section
/-! DEFINITION. Power (R19, R154, R529 to R551): interruptions, the orderly power-down, the input switch, the hold-up
store, temperatures, supply domains and the PWR registers. -/

namespace Sys2Proof.Machine

/-- PWR changed. -/
def onPwr (c : Chip) (f : Pwr → Pwr) : Chip := { c with pwr := f c.pwr }

/-- Whether the module is powered: from step 1 of the power-up sequence. -/
def powered (c : Chip) : Bool := 1 ≤ c.sys.step

/-- A bit of PWR_STAT that is a stored flag. -/
def pwrFlag (c : Chip) (n : Nat) : Bool := bit (rawReg c Reg.pwrStat.addr) n

/-- A stored flag of PWR_STAT set. -/
def setPwrFlag (c : Chip) (n : Nat) (b : Bool) : Chip := setField c Reg.pwrStat.addr n n (b2n b)

/-- A signed number as a 16-bit field. -/
def signed16 (i : Int) : Nat := unsigned 16 i

/-! ### Interruptions and the orderly power-down (R532 to R534) -/

/-- The orderly power-down begins (R533 step 1), with the input voltage in units of 10 mV: the record, the stored time
value, no more culture records, and a module in charge relinquishes or stops. -/
def powerDownBegin (c : Chip) (mv10 : Nat) : Chip :=
  if c.pwr.downAt.isSome || !powered c then c
  else
    let leave := mustRelinquish c
    let c := deviceRecord c 0x00 6 mv10
    let c := { c with ptp := { c.ptp with stored := now c }, cel := { c.cel with accept := false } }
    let c := onPwr c fun p => { p with downAt := some c.core.tick }
    if leave then beginLeaving c ⟨c.core.tick, 0, true, false, .inert, 0⟩
    else onLdl (setChg c false) fun l => { l with handover := none }

/-- PWR_CTL.INTRF in µs: 50 unless EXPERT is declared (R550). -/
def intrFilter (c : Chip) : Nat := if expertLive c 27 then fieldOf c Reg.pwrCtl.addr 7 0 else 50

/-- An interruption begins, with the input voltage in units of 10 mV (R532). -/
def interruption (c : Chip) (mv10 : Nat) : Chip :=
  if !powered c || c.pwr.downAt.isSome || c.pwr.intrAt.isSome then c
  else
    let c := onPwr c fun p => { p with intrAt := some c.core.tick, lowest := mv10 }
    raise (setPwrFlag c 31 false) 2112 mv10

/-- INTERRUPTION_DETECT: the input has been below 5.5 V for `run` µs; its limit lies within ±0.1 V (R529). -/
def interruptionDetect (c : Chip) (mv10 run : Nat) : Chip :=
  if 560 < mv10 || run < intrFilter c then c else interruption c mv10

/-- The interruption ends within 20 ms of its detection, with the lowest voltage seen: the input has been at or above 6.0 V for
1 ms (R529). -/
def interruptionEnd (c : Chip) (lowest : Nat) : Chip :=
  match c.pwr.intrAt with
  | some t =>
    if c.pwr.downAt.isSome || c.core.tick < t + 1000 || t + 20000 ≤ c.core.tick || c.pwr.openAt.isSome then c
    else
      let d := c.core.tick - t
      let low := min lowest c.pwr.lowest
      let c := onPwr c fun p => { p with intrAt := none }
      let c := setReg (bump (setPwrFlag c 31 true) Reg.pwrCnt.addr 31 16) Reg.pwrLastint.addr (word d)
      deviceRecord (raise c 2113 d) 0x1B 1 d low
  | none => c

/-- 20 ms have passed since the detection: the orderly power-down begins. -/
def interruptionTimeout (c : Chip) : Chip :=
  match c.pwr.intrAt with
  | some t => if t + 20000 ≤ c.core.tick then powerDownBegin c c.pwr.lowest else c
  | none => c

/-- Whether an input voltage in units of 10 mV, held for `run` µs, opens the input switch (R530). -/
def overvoltage (mv10 run : Nat) : Bool :=
  (4800 < mv10 && 1000000 ≤ run) || (6000 < mv10 && 10000 ≤ run) || 10000 < mv10

/-- The input switch opens on an overvoltage, which begins an interruption (R530). -/
def inputOvervoltage (c : Chip) (mv10 run : Nat) : Chip :=
  if !powered c || c.pwr.openAt.isSome || !overvoltage mv10 run then c
  else
    let c := onPwr c fun p => { p with openAt := some c.core.tick, highest := mv10 }
    interruption (raise (bump (setPwrFlag c 31 false) Reg.pwrCnt.addr 15 0) 2114 mv10) mv10

/-- The input has stayed at or below 48 V for 10 ms: the switch closes, and the record is written with the highest
voltage. -/
def inputSwitchClose (c : Chip) (highest : Nat) : Chip :=
  match c.pwr.openAt with
  | some t =>
    if c.core.tick < t + 10000 then c
    else
      let h := max highest c.pwr.highest
      let c := onPwr c fun p => { p with openAt := none }
      deviceRecord c 0x1B 2 h (c.core.tick - t)
  | none => c

/-! ### Measurements (R535, R536, R538, R547, R154) -/

/-- The hourly measurement of the store: its capacitance in µF and hold-up time in units of 0.1 ms. -/
def storeMeasure (c : Chip) (cap hup : Nat) : Chip :=
  if !powered c || c.pwr.intrAt.isSome then c
  else
    let w := min 65535 hup * 65536 + min 65535 cap
    let c := setReg c Reg.pwrHup.addr (word w)
    let low := decide (hup < 280)
    if low = pwrFlag c 28 then c
    else
      let c := raise (setPwrFlag c 28 low) 2117 (b2n low)
      if low then deviceRecord c 0x1B 4 w else c

/-- BPWARN in units of 0.1 °C. -/
def bpWarn (c : Chip) : Int := 10 * signed 8 (fieldOf c Reg.pwrCtl.addr 23 16)

/-- The baseplate temperature in units of 0.1 °C judged against BPWARN (R547). -/
def baseplate (c : Chip) (t : Int) : Chip :=
  if !powered c then c
  else
    let c := setReg c (Reg.pwrTemp.addr 5) (word (signed16 t))
    let was := pwrFlag c 27
    let warn := if was then decide (bpWarn c - 30 ≤ t) else decide (bpWarn c < t)
    if warn = was then c
    else
      let c := raise (setPwrFlag c 27 warn) 2115 (b2n warn)
      if warn then deviceRecord c 0x1B 3 (unsigned 32 t) else c

/-- The temperatures of the Vat regions in units of 0.1 °C (R154): more than 15 K apart is a warning with its record. -/
def regionTemps (c : Chip) (t : Tri Int) : Chip :=
  if !powered c then c
  else
    let c := allVats.foldl (fun c v => setReg c (Reg.pwrTemp.addr v.num) (word (signed16 (t.get v)))) c
    let d := max t.a (max t.b t.c) - min t.a (min t.b t.c)
    let far := decide (150 < d)
    if far = pwrFlag c 26 then c
    else
      let c := raise (setPwrFlag c 26 far) 2116 (b2n far)
      if far then deviceRecord c 0x01 4 d.toNat else c

/-- The module power in units of 0.1 W from the input voltage in units of 10 mV and the input current in mA (R536). -/
def modulePower (vin cur : Nat) : Nat := vin * cur / 10000

/-! ### Supply domains (R19) -/

/-- The nominal voltage of a domain in mV; the logic I/O has two supplies, of which `low` is the 1.8 V one. -/
def domainNominal (d : Nat) (low : Bool) : Nat :=
  if d = 0 then 12000 else if d ≤ 3 then 800 else if d = 4 then 900 else if d = 5 then (if low then 1800 else 3300)
  else if d = 6 then 5000 else 3300

/-- Whether a voltage in mV is outside the fault limit of its domain: ±7 % for the core supplies, ±10 % for the others. -/
def outsideLimit (d mv : Nat) (low : Bool) : Bool :=
  let n := domainNominal d low
  let p := if 1 ≤ d && d ≤ 4 then 7 else 10
  decide (mv * 100 < n * (100 - p)) || decide (n * (100 + p) < mv * 100)

/-- Whether what a supply has shown is a fault of its domain: outside the limit, and for more than 1 µs where the limit of a core
supply says so. -/
def domainFails (d : Nat) (x : SupplySeen) : Bool := outsideLimit d x.mv x.low && (!(1 ≤ d && d ≤ 4) || decide (1000 < x.ns))

/-- The domains that a management tick finds outside their limits: the bus and the Vat cores by the voltages measured, the others
as their monitors report. -/
def domainsOut (m : Mgmt) : BitVec 8 :=
  let out (d mv : Nat) : Nat := if outsideLimit d mv false then 2 ^ d else 0
  BitVec.ofNat 8 ((~~~m.domains).toNat / 16 * 16 + out 0 (10 * m.bus) + out 1 m.core.a + out 2 m.core.b + out 3 m.core.c)

/-- What a management tick measures, shown in the PWR registers. -/
def pwrTick (c : Chip) (m : Mgmt) : Chip :=
  let c := setReg c Reg.pwrVin.addr (word (min 65535 m.vin * 65536 + min 65535 m.cur))
  let c := setReg c Reg.pwrVbus.addr (word (min 65535 m.bus * 65536 + min 65535 m.store))
  let c := setReg c Reg.pwrVcore.addr (word (min 1023 m.core.c * 2 ^ 20 + min 1023 m.core.b * 1024 + min 1023 m.core.a))
  let c := raiseMax (setField c Reg.pwrPower.addr 15 0 (min 65535 (modulePower m.vin m.cur))) Reg.pwrPower.addr 31 16 (modulePower m.vin m.cur)
  let c := setReg c Reg.pwrFdiss.addr (word (min 65535 m.fdiss))
  let c := setReg (setReg c (Reg.pwrTemp.addr 3) (word (signed16 m.tempAff))) (Reg.pwrTemp.addr 4) (word (signed16 m.tempField))
  let c := setPwrFlag c 31 (550 ≤ m.vin && m.vin ≤ 4800)
  let c := onPwr c fun p => { p with fault := domainsOut m }
  baseplate (regionTemps c m.temp) m.tempBase

/-- A supply domain outside its fault limit (R19): its bit, the record and source 2118; what the module does about it is
the command's. -/
def domainFault (c : Chip) (d : Fin 8) (mv : Nat) : Chip :=
  let c := onPwr c fun p => { p with fault := p.fault ||| (1#8 <<< d.val) }
  raise (deviceRecord c 0x1B 5 d.val mv) 2118 d.val

/-- Whether a domain is within its limit. -/
def domainOk (c : Chip) (d : Nat) : Bool := !c.pwr.fault.getLsbD d

/-- Health report word 3 bit 24. -/
def suppliesOk (c : Chip) : Bool :=
  powered c && [0, 4, 5, 6, 7].all (domainOk c) && (servingVats c).all (fun v => domainOk c (1 + v.num)) &&
  !pwrFlag c 28 && !pwrFlag c 27 && !pwrFlag c 26

/-! ### Registers and rules (R549, R550) -/

/-- PWR_STAT. -/
def pwrStatus (c : Chip) : Word :=
  let ok (from_ d : Nat) : Nat := b2n (from_ ≤ c.sys.step && domainOk c d)
  let p := c.pwr
  word (b2n (pwrFlag c 31) * 2 ^ 31 + b2n p.intrAt.isSome * 2 ^ 30 + b2n p.openAt.isSome * 2 ^ 29 + b2n (pwrFlag c 28) * 2 ^ 28 +
    b2n (pwrFlag c 27) * 2 ^ 27 + b2n (pwrFlag c 26) * 2 ^ 26 + ok 1 0 * 2 ^ 25 + ok 2 5 * 2 ^ 24 + ok 2 4 * 2 ^ 23 +
    ok 8 6 * 2 ^ 22 + b2n (c.rind.on && domainOk c 7) * 2 ^ 21 + ok 2 3 * 2 ^ 20 + ok 2 2 * 2 ^ 19 + ok 2 1 * 2 ^ 18)

/-- What a read of a PWR register shows that is not a stored word. -/
def pwrView (c : Chip) (a : Nat) : Option Word :=
  let o := a - 0x1B0000
  if o = 0 then some (pwrStatus c)
  else if o = 1 then some (if expertLive c 27 then rawReg c a else setBits (rawReg c a) 7 0 50)
  else none

/-- The rules of COMMIT (R550). -/
def pwrRules (expert : Bool) (w : After) : List Fail :=
  let x := w Reg.pwrCtl.addr
  let b := signed 8 (bits x 23 16)
  failIf (decide (b < -40) || decide ((if Config.variantE then 85 else 70) < b)) Reg.pwrCtl.addr 23 16 ++
  failIf (expert && (bits x 7 0 < 10 || 200 < bits x 7 0)) Reg.pwrCtl.addr 7 0

end Sys2Proof.Machine
end

