-- ==== Sys2Proof/Machine/Eth.lean ====
section
/-! DEFINITION. Train Ethernet, inauguration, partners and roles, process data and message data (R274 to R303). -/

namespace Sys2Proof.Machine

/-- The ETH block changed. -/
def onEth (c : Chip) (f : Eth → Eth) : Chip := { c with eth := f c.eth }

/-- A role's entry. -/
def roleOf (c : Chip) (r : Nat) : Role := mapGet Role.none c.eth.roles r

/-- A role's entry replaced. -/
def setRole (c : Chip) (r : Nat) (x : Role) : Chip := onEth c fun e => { e with roles := mapPut Role.none e.roles r x }

/-- ETH_CTL.PAIRID. -/
def pairId (c : Chip) : Nat := fieldOf c Reg.ethCtl.addr 15 0

/-- AGE in ticks. -/
def ethAge (c : Chip) : Nat := fieldOf c Reg.ethCtl.addr 30 24 * 1000000

/-- The etbTopoCnt in force. -/
def topoInForce (c : Chip) : Nat := (rawReg c Reg.ethTopo.addr).toNat

/-- Whether the module may use the train network: from step 9, and in every mode but INERT (R275, R285). -/
def ethLive (c : Chip) : Bool := c.sys.mode ≠ .inert && 9 ≤ c.sys.step

/-- Whether the switch forwards at port p (R275): its link is up and the port enabled, from step 9, whatever the mode; not while it
is turned back on itself at depth 2 or 3 (R519). -/
def ethFwd (c : Chip) (p : Nat) : Bool :=
  mapGet 0 c.tst.depths p < 2 && bit (rawReg c (Reg.ethPstat.addr p)) 31 && bit (rawReg c (Reg.ethPcfg.addr p)) 31 && ethLive c

/-- Whether port p is enabled. -/
def portEn (c : Chip) (p : Nat) : Bool := bit (rawReg c (Reg.ethPcfg.addr p)) 31

/-- Whether the module runs TTDP (R279): ETBN with a port of FUNC 1, whose lines no bypass relay joins (R276). -/
def etbnRuns (c : Chip) : Bool :=
  ethLive c && bit (rawReg c Reg.ethCtl.addr) 31 &&
    [0, 1].any fun p => portEn c p && fieldOf c (Reg.ethPcfg.addr p) 28 27 = 1 && fieldOf c (Reg.ethPstat.addr p) 28 28 = 0

/-- The first `n` bits of an address. -/
def prefixOf (n : Nat) (ip : Nat) : Nat := ip / 2 ^ (32 - n)

/-- Where a message to an address goes (R278): to both networks for a multicast, over the backbone where the ETBN function runs
and the train network directory has its subnet outside the module's own, else into the consist subnet. Log entry 82. -/
def ethRoute (c : Chip) (ip : Nat) : Nat :=
  let pre := fieldOf c Reg.ethNet.addr 7 0
  if ip / 2 ^ 28 = 14 then (if etbnRuns c then 2 else 0)
  else if prefixOf pre ip = prefixOf pre (rawReg c Reg.ethIp.addr).toNat then 0
  else b2n (etbnRuns c && c.eth.directory.any fun n => prefixOf n.bits.toNat ip = prefixOf n.bits.toNat n.subnet.toNat)

/-- The etbTopoCnt in force at a receive timestamp (R280): the one before the present, for a frame received before the tick in
which the present one came into force. -/
def topoAtTime (c : Chip) (ts : Nat) : Word := if ts < c.eth.topoAt then c.eth.topoPrev else rawReg c Reg.ethTopo.addr

/-- Whether a frame's etbTopoCnt is neither 0 nor the one in force at its receive timestamp (R280). -/
def topoWrong (c : Chip) (topo : BitVec 32) (ts : Nat) : Bool := topo ≠ 0 && topo ≠ topoAtTime c ts

/-- The enabled ports of a network as `ethRoute` names it: 0 those that are not in an ETB direction, 1 those that are, 2 all. -/
def netPorts (c : Chip) (net : Nat) : List Nat :=
  (List.range 4).filter fun p => portEn c p &&
    (net = 2 || (fieldOf c (Reg.ethPcfg.addr p) 28 27 = 1) == decide (net = 1))

/-- The ports by which what the press releases leaves: in a test run those turned back on themselves (R518). -/
def pressPorts (c : Chip) (net : Nat) : List Nat := (netPorts c net).filter fun p => inCharge c || looped c p

/-- Whether what the press releases can leave towards a network. -/
def netReleases (c : Chip) (net : Nat) : Bool := inCharge c || (netPorts c net).any (looped c)

/-- Messages sent. -/
def ethSend (c : Chip) (ms : List EthMsg) : Chip := onEth c fun e => { e with sent := ms }

/-! ### The tag (R287) -/

/-- A tag of the module, big-endian: role with RV, or none. -/
def makeTag (c : Chip) (role : Option (Nat × Bool × Nat)) : List Byte :=
  let (rv, tdst, r, ep) := match role with | some (r, t, ep) => (true, t, r, ep) | none => (false, false, 0, 0)
  let w0 := (pairId c) * 2 ^ 16 + b2n c.ldl.posb * 2 ^ 15 + b2n (inCharge c) * 2 ^ 14 + b2n rv * 2 ^ 13 + b2n tdst * 2 ^ 12 + 1024 + r
  let h := bytesBE 4 w0 ++ bytesBE 4 ep ++ bytesBE 4 (epoch c)
  h ++ bytesBE 4 (crc32c h)

/-- The fields of a received tag. -/
structure Tag where
  pairid : Nat
  posb : Bool
  chg : Bool
  rv : Bool
  tdst : Bool
  role : Nat
  repoch : Nat
  cepoch : Nat

/-- A tag read from the first 16 bytes of a dataset; none where TCRC fails or TVER is not 1 (R287). -/
def readTag (bs : List Byte) : Option Tag :=
  let w := word (beAt bs 0 4)
  if bs.length < 16 ∨ crc32c (bs.take 12) ≠ beAt bs 12 4 ∨ bits w 11 10 ≠ 1 then none
  else some ⟨bits w 31 16, bit w 15, bit w 14, bit w 13, bit w 12, bits w 9 0, beAt bs 4 4, beAt bs 8 4⟩

/-- The highest CEPOCH seen from stations with a PAIRID (R288). -/
def highestCepoch (c : Chip) (pid : Nat) : Nat :=
  c.eth.stations.foldl (fun m e => match e.2 with | some s => if s.pairid = pid then max m s.cepoch else m | none => m) 0

/-- A tag taken in: TAGERR and STALE drop the frame (R287, R288); a partner's epoch is learnt (R289). -/
def takeTag (c : Chip) (bs : List Byte) : Chip × Option Tag :=
  match readTag bs with
  | none => (bump c Reg.ethCnt0.addr 31 16, none)
  | some t =>
    if t.pairid ≠ 0 ∧ t.cepoch < highestCepoch c t.pairid then (bump c Reg.ethCnt0.addr 15 0, none)
    else if t.pairid ≠ 0 ∧ t.pairid = pairId c ∧ t.posb ≠ c.ldl.posb then
      (onLdl (if within c c.ldl.pepochAt 2000 && !equalCoding c then c else setReg c Reg.ldlPepoch.addr (word t.cepoch)) fun l =>
        { l with pepochNet := some (c.core.tick, t.cepoch) }, some t)
    else (c, some t)

/-! ### Partners and roles (R282 to R286) -/

/-- The index of a station by address. -/
def stationIdx (c : Chip) (ip : Nat) : Option Nat :=
  (c.eth.stations.find? fun e => match e.2 with | some s => s.ip = ip | none => false).map (·.1)

/-- The entry of the sender of a frame that the module acts on, created where it is new; none where the table is full. -/
def noteStation (c : Chip) (ip etbn : Nat) (t : Option Tag) : Chip × Option Nat :=
  let fresh (s : Station) : Station :=
    let s := { s with etbn := etbn, heard := c.core.tick, stale := false }
    match t with
    | some t => { s with pairid := t.pairid, posb := t.posb, chg := t.chg, cepoch := t.cepoch }
    | none => s
  match stationIdx c ip with
  | some i =>
    (onEth c fun e => { e with stations := mapMod none e.stations i (fun s => s.map fresh) }, some i)
  | none =>
    match (List.range 4096).find? fun i => (mapGet none c.eth.stations i).isNone with
    | some i =>
      let st := some (fresh ⟨ip, 0, false, false, 0, etbn, 0, false⟩)
      (onEth c fun e => { e with ptDropping := false, stations := mapPut none e.stations i st }, some i)
    | none =>
      let c := bump c Reg.ethCnt4.addr 31 16
      ((if c.eth.ptDropping then c else raise (onEth c fun e => { e with ptDropping := true }) 647), none)

/-- The declared roles. -/
def declaredRoles (c : Chip) : List Nat :=
  (regsIn c.regs Reg.ethRcfg.base (Reg.ethRcfg.base + 4095)).filterMap fun e =>
    if (e.1 - Reg.ethRcfg.base) % 4 = 0 && bit (rawReg c e.1) 31 then some ((e.1 - Reg.ethRcfg.base) / 4) else none

/-- The roles held, ascending. -/
def heldRoles (c : Chip) : List Nat := (c.eth.roles.filter fun e => e.2.held).map (·.1)

/-- One telegram of the announcement (Table: Announcement dataset). -/
def annTelegram (c : Chip) (part parts : Nat) (rs : List Nat) (modeCode : Nat) : EthMsg :=
  ⟨1, ethRoute c 0xEFFF4D01, 0, 0xEFFF4D01, (rawReg c Reg.ethAnncom.addr).toNat, 0, c.eth.annSeq, topoInForce c,
    makeTag c none ++ bytesBE 2 part ++ bytesBE 2 parts ++ bytesBE 2 rs.length ++ bytesBE 2 modeCode ++
      (rs.map fun r => bytesBE 4 r ++ bytesBE 4 (roleOf c r).epoch).flatten, netPorts c (ethRoute c 0xEFFF4D01)⟩

/-- The code of a mode (Table: Modes). -/
def Mode.code : Mode → Nat
  | .inert => 0
  | .prove => 1
  | .standby => 2
  | .service => 3
  | .maintenance => 4
  | .hold => 5

/-- The announcement of the roles held, in telegrams of at most 176 roles (R285). -/
def announce (c : Chip) : Chip :=
  if !ethLive c then c
  else
    let rs := heldRoles c
    let n := max 1 ((rs.length + 175) / 176)
    let ms := (List.range n).map fun k => annTelegram c k n ((rs.drop (176 * k)).take 176) c.sys.mode.code
    onEth (ethSend c ms) fun e => { e with annSeq := (e.annSeq + 1) % 2 ^ 32 }

/-- ANNOUNCEMENT_SEND: the announcement of every ANNP × 10 ms (R285). -/
def announceDue (c : Chip) : Chip :=
  if !ethLive c || c.eth.annAt.any fun t => decide (c.core.tick < t + fieldOf c Reg.ethCtl.addr 23 16 * 10000) then c
  else onEth (announce c) fun e => { e with annAt := some c.core.tick }

/-- A role recorded for another station: a role that this module holds is released (R286). -/
def recordHolder (c : Chip) (r i ep : Nat) : Chip :=
  let x := roleOf c r
  let c' := setRole c r { known := true, holder := i, epoch := ep, held := false, heard := c.core.tick }
  if x.held then raise c' 646 r else c'

/-- Whether station i wins a conflict over the recorded holder (R286): the higher charge epoch, then the lower address. -/
def winsConflict (c : Chip) (x : Role) (i : Nat) : Bool :=
  let key (j : Option Nat) : Nat × Nat := match j with
    | some j => (match mapGet none c.eth.stations j with | some s => (s.cepoch, s.ip) | none => (0, 0))
    | none => (epoch c, (rawReg c Reg.ethIp.addr).toNat)
  let a := key (some i)
  let b := key (if x.held then none else some x.holder)
  b.1 < a.1 || (a.1 = b.1 && a.2 < b.2)

/-- One role named by station i with an epoch (R286): the chip, and whether it was stale or a conflict. -/
def judgeRole (c : Chip) (i r ep : Nat) : Chip × Bool × Bool :=
  let x := roleOf c r
  if !x.known && !x.held then (recordHolder c r i ep, false, false)
  else if ep < x.epoch then (c, true, false)
  else if x.epoch < ep then (recordHolder c r i ep, false, false)
  else if !x.held && x.holder = i then (setRole c r { x with heard := c.core.tick }, false, false)
  else if winsConflict c x i then (recordHolder c r i ep, false, true)
  else (c, false, true)

/-- The roles named in one frame; STALE and CONFLICT count the frame once each, and an announcement follows where a held role
has been released (R285). -/
def judgeRoles (c : Chip) (i : Nat) (rs : List (Nat × Nat)) : Chip :=
  let held := (heldRoles c).length
  let (c, st, cf) := rs.foldl (fun (a : Chip × Bool × Bool) r =>
    let (c, s, f) := judgeRole a.1 i r.1 r.2
    (c, a.2.1 || s, a.2.2 || f)) (c, false, false)
  let c := if st then bump c Reg.ethCnt0.addr 15 0 else c
  let c := if cf then bump c Reg.ethCnt4.addr 15 0 else c
  if (heldRoles c).length < held then announce c else c

/-- A role assumed at entry to SERVICE (R284). R283 does not say what KNOWN and the holder's index are while this module, which is
no station of its own partner table, holds the role: KNOWN is 1 and the index 0, and KNOWN is 0 once it is released. DESIGN CHOICE,
log entry 117. -/
def assumeRole (c : Chip) (r : Nat) : Chip :=
  let x := roleOf c r
  let ep := (max x.epoch (mapGet 0 c.eth.storedEpochs r) + 1) % 2 ^ 32
  let c := onEth c fun e => { e with storedEpochs := mapPut 0 e.storedEpochs r ep }
  raise (setRole c r { x with holder := 0, epoch := ep, held := true, known := true }) 645 r

/-- A role newly declared takes the epoch in MRAM, where nothing else is known of it (ETH_REPOr). -/
def declareRole (c : Chip) (r : Nat) : Chip :=
  let x := roleOf c r
  if x.known || x.epoch ≠ 0 then c else setRole c r { x with epoch := mapGet 0 c.eth.storedEpochs r }

/-- Every declared role assumed, and announced. -/
def assumeRoles (c : Chip) : Chip := announce ((declaredRoles c).foldl assumeRole c)

/-- Every role released on leaving SERVICE; an announcement that names none follows in the new mode (R284). -/
def releaseRoles (c : Chip) : Chip :=
  (onEth c fun e => { e with roles := mapMapVals Role.none e.roles fun _ x => if x.held then { x with held := false, known := false } else x })

/-- An announcement received (R286). -/
def annReceive (c : Chip) (f : PdFrame) : Chip :=
  let bs := f.dataset
  match takeTag c bs with
  | (c, none) => c
  | (c, some t) =>
    match noteStation c f.srcIp.toNat f.etbn.toNat (some t) with
    | (c, none) => c
    | (c, some i) =>
      if !t.chg then
        onEth c fun e => { e with roles := mapMapVals Role.none e.roles fun _ x =>
          if x.known && !x.held && x.holder = i then { x with known := false } else x }
      else
        let n := min (beAt bs 20 2) 176
        let rs := (List.range n).map fun k => (beAt bs (24 + 8 * k) 4 % 1024, beAt bs (28 + 8 * k) 4)
        let c := judgeRoles c i rs
        let (got, names) := if beAt bs 16 2 = 0 then (0, []) else mapGet (0, []) c.eth.annParts i
        let names := names ++ rs.map (·.1)
        if got + 1 < beAt bs 18 2 then onEth c fun e => { e with annParts := mapPut (0, []) e.annParts i (got + 1, names) }
        else onEth c fun e => { e with
          annParts := mapErase e.annParts i,
          roles := mapMapVals Role.none e.roles fun r x =>
            if x.known && !x.held && x.holder = i && !names.contains r then { x with known := false } else x }

/-! ### Process data received (R291, R292) -/

/-- The enabled subscriptions, ascending. -/
def subscriptions (c : Chip) : List Nat :=
  (regsIn c.regs Reg.ethSctl.base (Reg.ethSctl.base + 32767)).filterMap fun e =>
    if (e.1 - Reg.ethSctl.base) % 4 = 0 && bit (rawReg c e.1) 31 then some ((e.1 - Reg.ethSctl.base) / 4) else none

/-- The entries of one frame for a subscription (Table: PD queue entry). -/
def pdEntries (ts m station : Nat) (d : List Byte) : List (List Byte) :=
  let n := (d.length + 239) / 240
  (List.range n).map fun k =>
    let part := (d.drop (240 * k)).take 240
    bytesLE 8 ts ++ bytesLE 2 m ++ bytesLE 1 k ++ bytesLE 1 (b2n (k + 1 = n)) ++ bytesLE 2 station ++ bytesLE 2 part.length ++ padTo 240 part

/-- A frame appended to a channel's inbound queue, whole or not at all in each Vat (R292). -/
def appendPd (c0 : Chip) (q : Nat) (es : List (List Byte)) : Chip :=
  let c := c0
  let d := liveDesc c q
  let fits (v : Vat) : Bool := let p := plane c v; (queueOf p q).spent + es.length ≤ (descOf p q).depth
  let (c, lost) := allVats.foldl (fun (a : Chip × Bool) v =>
    if !wheyRuns (plane c v) then a
    else if fits v then (es.foldl (fun c e => (appendVat c v q e).1) a.1, a.2)
    else (onPlane a.1 v fun p => setQueue p q (queueOf p q).dropped, true)) (c, false)
  let empty := inboundEmpty c0 q
  let c := countDrop c lost
  if lost then c else evtRaise c d q empty

/-- Whether a sender is another than this module at a port turned back on itself: its frames are discarded (R519). -/
def alien (c : Chip) (p : Nat) (srcIp : BitVec 32) : Bool := turned c p && srcIp ≠ rawReg c Reg.ethIp.addr

/-- A received PD frame (R277, R280, R291). Where R291 leaves it open, a frame that matches two subscriptions of one channel is
appended for each of them (DESIGN CHOICE, log entry 118), and R282 does not say whether a frame that R290 drops, or that no BYROLE
subscription keeps, is one that the module acted on: its sender's entry is made or refreshed (DESIGN CHOICE, log entry 119). -/
def pdReceive (c : Chip) (f : PdFrame) : Chip :=
  if !portEn c f.port.val || alien c f.port.val f.srcIp then c
  else if !f.fcsOk then bump c (Reg.ethPstat.addr f.port.val) 15 0
  else if !ethLive c then c
  else if !f.supported then bump c Reg.ethCnt2.addr 31 16
  else
    let ctl (m : Nat) : Word := rawReg c (Reg.ethSctl.addr m)
    let pnt (m : Nat) : Word := rawReg c (Reg.ethSpnt.addr m)
    let src (m : Nat) : Word := rawReg c (Reg.ethSsrc.addr m)
    let subs := (subscriptions c).filter fun m =>
      rawReg c (Reg.ethScom.addr m) = f.comId && (bit (ctl m) 29 || src m = 0 || src m = f.srcIp)
    match subs with
    | [] => c
    | m0 :: _ =>
      if topoWrong c f.topo f.ts then bump c Reg.ethCnt1.addr 15 0
      else if f.dataset.length ≠ bits (pnt m0) 10 0 then bump c Reg.ethCnt2.addr 31 16
      else
        let tagged := bit (ctl m0) 30
        let (c1, tag) := if tagged then takeTag c f.dataset else (c, none)
        if tagged && tag.isNone then c1
        else match noteStation c1 f.srcIp.toNat f.etbn.toNat tag with
          | (c1, none) => c1
          | (c1, some i) =>
            let c2 := match tag with | some t => if t.rv && !t.tdst then judgeRoles c1 i [(t.role, t.repoch)] else c1 | none => c1
            let moved := match tag with | some t => t.rv && t.tdst && !(roleOf c2 t.role).held | none => false
            if moved then bump c2 Reg.ethCnt1.addr 31 16
            else
              let keep := subs.filter fun m => !(tagged && bit (ctl m) 29) || (match tag with
                | some t => bits (ctl m) 9 0 = t.role && (roleOf c2 (bits (ctl m) 9 0)).known &&
                    !(roleOf c2 (bits (ctl m) 9 0)).held && (roleOf c2 (bits (ctl m) 9 0)).holder = i
                | none => false)
              let d := if tagged then f.dataset.drop 16 else f.dataset
              keep.foldl (fun c m =>
                match queueOfPort c 7 (bits (pnt m) 15 11) with
                | none => c
                | some q =>
                  let c := onEth c fun e => { e with metas := (e.metas.filter fun x => x.sub ≠ m || f.ts < x.stamp + 2 ^ 40) ++
                    [⟨m, f.ts, f.seqc.toNat, match tag with | some t => t.repoch | none => 0⟩] }
                  appendPd c q (pdEntries f.ts m i d)) c2

/-- An announcement, judged as every TRDP frame (R280), or a tagged frame (R286). -/
def announcementReceive (c : Chip) (f : PdFrame) : Chip :=
  if f.comId ≠ rawReg c Reg.ethAnncom.addr then pdReceive c f
  else if !portEn c f.port.val || alien c f.port.val f.srcIp then c
  else if !f.fcsOk then bump c (Reg.ethPstat.addr f.port.val) 15 0
  else if !ethLive c then c
  else if !f.supported then bump c Reg.ethCnt2.addr 31 16
  else if topoWrong c f.topo f.ts then bump c Reg.ethCnt1.addr 15 0
  else annReceive c f

/-! ### The curd latch of subscriptions (R293, R294) -/

/-- The subscription that feeds a point. -/
def subOfPoint (c : Chip) (pt : Nat) : Option Nat := (subscriptions c).find? fun m => bits (rawReg c (Reg.ethSpnt.addr m)) 31 16 = pt

/-- One entry taken by the latch of Vat v: fragments that follow each other gathered, and with LAST the complete frame held. A frame
of which a fragment has been discarded (R173) is not complete. -/
def pdTake (c : Chip) (v : Vat) (bs : List Byte) : Chip :=
  let m := leAt bs 8 2 % 8192
  let k := leAt bs 10 1
  let ts := leAt bs 0 8
  let none' : Nat × Nat × List Byte := (0, 0, [])
  let (next, stamp, got) := mapGet none' (c.eth.frags.get v) m
  let data := (if k = 0 then [] else got) ++ (bs.drop 16).take (leAt bs 14 2)
  if k ≠ 0 && !(next = k && stamp = ts) then onEth c fun e => { e with frags := e.frags.upd v fun t => mapErase t m }
  else if leAt bs 11 1 % 2 = 0 then onEth c fun e => { e with frags := e.frags.upd v fun t => mapPut none' t m (k + 1, ts, data) }
  else
    let mt := c.eth.metas.find? fun x => x.sub = m && x.stamp = ts
    onEth c fun e => { e with
      frags := e.frags.upd v fun t => mapErase t m,
      held := e.held.upd v fun t =>
        let old := mapGet none t m
        mapPut none t m (some { stamp := ts, seqc := (mt.map (·.seqc)).getD 0, station := leAt bs 12 2, repoch := (mt.map (·.repoch)).getD 0,
                                data := data, fresh := true, prev := match old with | some h => h.prev | none => none }) }

/-- The latch of Vat v takes the entries of every channel that feeds the task's points. -/
def pdLatchTake (c : Chip) (v : Vat) (t : TaskId) (time : Nat) : Chip :=
  let ms := (subscriptions c).filter fun m => ptBelongs c (bits (rawReg c (Reg.ethSpnt.addr m)) 31 16) false t
  let c := onEth c fun e => { e with held := e.held.upd v fun h => ms.foldl (fun h m =>
    mapMod none h m fun x => x.map fun x => { x with fresh := false, prev := some (x.station, x.repoch) }) h }
  let chans := (ms.map fun m => bits (rawReg c (Reg.ethSpnt.addr m)) 15 11).eraseDups
  chans.foldl (fun c ch =>
    match queueOfPort c 7 ch with
    | none => c
    | some q =>
      let (p, es) := takeStamped c v q time
      es.foldl (fun c e => pdTake c v e.bytes) (setPlane c v p)) c

/-- Whether the frame held for a subscription has timed out at a time (R294). -/
def pdTimeout (c : Chip) (m : Nat) (h : PdHeld) (time : Nat) : Bool :=
  decide (bits (rawReg c (Reg.ethSctl.addr m)) 25 10 * 100000 < time - h.stamp)

/-- The sample of a subscribed point in Vat v (R293, R294). -/
def pdSample (c : Chip) (v : Vat) (m pt : Nat) (t : TaskId) (time : Nat) : Sample :=
  let n := ptSize c pt
  let topo := b2n (c.eth.topoPend.contains t.code) * 4
  match mapGet none (c.eth.held.get v) m with
  | none => ⟨.frame, word topo, List.replicate n 0, none⟩
  | some h =>
    let tmo := pdTimeout c m h time
    let chg := match h.prev with | some p => h.fresh && decide (p ≠ (h.station, h.repoch)) | none => false
    ⟨.frame, word (b2n (!tmo) * 2 ^ 31 + b2n h.fresh + b2n tmo * 2 + topo + b2n chg * 8),
      padTo n (bytesLE 8 h.stamp ++ bytesLE 4 h.seqc ++ bytesLE 2 h.station ++ bytesLE 2 0 ++ h.data), some h.stamp⟩

/-- After a task's latch: TIMEOUT entered raises its source, as the lowest-lettered SERVING Vat holds it, and TOPO has
been shown (R281, R294). -/
def pdAfterLatch (c : Chip) (t : TaskId) (time : Nat) : Chip :=
  let v := shownVat c
  let ms := (subscriptions c).filter fun m => ptBelongs c (bits (rawReg c (Reg.ethSpnt.addr m)) 31 16) false t
  let c := ms.foldl (fun c m =>
    let tmo := match mapGet none (c.eth.held.get v) m with | some h => pdTimeout c m h time | none => false
    let was := c.eth.timedOut.contains m
    if tmo && !was then raise (onEth c fun e => { e with timedOut := addNew e.timedOut m }) (672 + bits (rawReg c (Reg.ethSpnt.addr m)) 15 11) m
    else if !tmo && was then onEth c fun e => { e with timedOut := e.timedOut.filter fun x => decide (x ≠ m) }
    else c) c
  onEth c fun e => { e with topoPend := e.topoPend.filter fun k => decide (k ≠ t.code) }

/-! ### Publications (R295, R296) -/

/-- The enabled publications, ascending. -/
def publications (c : Chip) : List Nat :=
  (regsIn c.regs Reg.ethPctl.base (Reg.ethPctl.base + 16383)).filterMap fun e =>
    if (e.1 - Reg.ethPctl.base) % 4 = 0 && bit (rawReg c e.1) 31 then some ((e.1 - Reg.ethPctl.base) / 4) else none

/-- A commit instant of a task counted, from its first commit on (R295). -/
def pdCount (c : Chip) (t : TaskId) (committed : Bool) : Chip :=
  let k := mapGet 0 c.eth.pubCount t.code
  if k = 0 && !committed then c else onEth c fun e => { e with pubCount := mapPut 0 e.pubCount t.code (k + 1) }

/-- The publications at a commit instant of a task (R295): those due are released, or counted in PUBSKIP where the
cycle does not commit. R295 does not say whether the first commit is itself one that is the DIV-th: it is, and then every DIV-th
after it. DESIGN CHOICE, log entry 120. -/
def pdPublish (c : Chip) (t : TaskId) (committed : Bool) : Chip :=
  let k := mapGet 0 c.eth.pubCount t.code
  let c := pdCount c t committed
  (publications c).foldl (fun c n =>
    let ctl := rawReg c (Reg.ethPctl.addr n)
    let pnt := rawReg c (Reg.ethPpnt.addr n)
    let pt := bits pnt 31 16
    if !ptBelongs c pt true t then c
    else
      if k % (max 1 (bits ctl 25 18)) ≠ 0 then c
      else if !committed then bump c Reg.ethCnt2.addr 15 0
      else if !netReleases c (ethRoute c (rawReg c (Reg.ethPdst.addr n)).toNat) then c
      else
        let tag := if bit ctl 30 then makeTag c (some (bits ctl 9 0, bit ctl 29, (roleOf c (bits ctl 9 0)).epoch)) else []
        let d := padTo (bits pnt 10 0 - tag.length) ((mapGet none c.core.committed pt).getD [])
        let id := c.eth.splits + 1
        let c := onEth c fun e => { e with splits := id, released := e.released ++ [(id, topoInForce c, tag)] }
        ((pdEntries 0 n 0 d).zipIdx).foldl (fun c e => (appendOne c 32514 true e.1 id e.2).1) c) c

/-- The entries of the oldest telegram in Q32514, once its LAST or another telegram behind it is there; until then it may still be
arriving. -/
def firstTelegram (es : List Entry) : Option (List Entry) :=
  let s := sameWhole es
  if s.isEmpty || (s.length = es.length && !(s.getLast?.any fun e => leAt e.bytes 11 1 % 2 = 1)) then none else some s

/-- Whether the entries are a whole telegram: every fragment of it, up to its LAST. -/
def wholeTelegram (es : List Entry) : Bool :=
  match es.getLast?, es with
  | some l, e :: _ => leAt l.bytes 11 1 % 2 = 1 && (partsFrom e.whole 0 es).length = es.length
  | _, _ => false

/-- The head entries of a queue of one copy taken, `n` of them, with their credits on the way back. -/
def takeDevs (c : Chip) (q n : Nat) : Chip :=
  (List.range n).foldl (fun c _ => match takeDev c q with | some (_, c) => c | none => c) c

/-- PD_TELEGRAM_SEND (R296, R297): the entries of the oldest telegram taken from Q32514, their credits returned, and sent in
SERVICE, or in a test run by the ports turned back on themselves (R518); the publication is the one that the entry names. A telegram of
which an entry has been dropped (R175) or discarded (R173) is not sent. -/
def pdSend (c : Chip) : Chip :=
  if !releases c [0, 1, 2, 3] then c
  else match firstTelegram (visibleDev c 32514) with
  | some (e0 :: es) =>
    let n := leAt e0.bytes 8 2 % 8192
    let rel := (c.eth.released.find? fun r => r.1 = e0.whole).map (·.2)
    let c := takeDevs c 32514 (e0 :: es).length
    let c := onEth c fun e => { e with released := e.released.filter fun r => e0.whole < r.1 }
    match (if wholeTelegram (e0 :: es) then rel else none) with
    | none => c
    | some (topo, tag) =>
      let sq := mapGet 0 c.eth.pubSeq n
      let data := ((e0 :: es).map fun e => (e.bytes.drop 16).take (leAt e.bytes 14 2)).flatten
      let dest := (rawReg c (Reg.ethPdst.addr n)).toNat
      let m : EthMsg := ⟨0, ethRoute c dest, 0, dest, (rawReg c (Reg.ethPcom.addr n)).toNat,
        bits (rawReg c (Reg.ethPctl.addr n)) 28 26, sq, topo, tag ++ data, pressPorts c (ethRoute c dest)⟩
      onEth (ethSend c [m]) fun e => { e with pubSeq := mapPut 0 e.pubSeq n ((sq + 1) % 2 ^ 32) }
  | _ => c

/-! ### Message data (R298 to R300) -/

/-- The enabled inboxes. -/
def inboxes (c : Chip) : List Nat := (List.range 16).filter fun i => bit (rawReg c (Reg.ethMdctl.addr i)) 31

/-- Slots of an inbox. -/
def mdSlots (c : Chip) (i : Nat) : Nat := bits (rawReg c (Reg.ethMdctl.addr i)) 30 28 + 1

/-- The entries that one slot of `n` bytes takes in a queue. -/
def slotEntries (d : Desc) (n : Nat) : Nat := (n + d.size - 1) / d.size

/-- The Affineur appends held requests to the inbox queues, at most SLOTS each between two curd instants (R299). -/
def mdFeed (c : Chip) : Chip :=
  c.eth.mdHeld.foldl (fun c h =>
    let sent := mapGet 0 c.eth.mdSent h.1
    match queueOfChannel c (16 + h.1) with
    | none => c
    | some q =>
      let d := liveDesc c q
      let n := slotEntries d 1040
      let room := (servingVats c).all fun v => (queueOf (plane c v) q).spent + n ≤ d.depth
      if sent < mdSlots c h.1 && room && c.sys.affUp then
        let id := c.eth.splits + 1
        let c := onEth c fun e => { e with splits := id }
        let c := (List.range n).foldl (fun c k => (appendInbound c q ((h.2.drop (d.size * k)).take d.size) id k).1) c
        onEth c fun e => { e with mdHeld := e.mdHeld.erase h, mdSent := mapPut 0 e.mdSent h.1 (sent + 1) }
      else c) c

/-- Whether the Affineur waits to append a held request to queue q (R175). -/
def mdWaits (c : Chip) (q : Nat) : Bool :=
  c.eth.mdHeld.any fun h => decide (queueOfChannel c (16 + h.1) = some q) && decide (mapGet 0 c.eth.mdSent h.1 < mdSlots c h.1)

/-- An Me, as the standard states: 1 for an unknown ComId, 2 for a too-long message, 3 busy. Outside SERVICE only a busy reply
is sent (R297). It follows what the same command has sent already. -/
def sendMe (c : Chip) (m : MdMsg) (status : Nat) (said : List EthMsg) : Chip :=
  let net := ethRoute c m.srcIp.toNat
  if status = 3 || netReleases c net then
    ethSend c (said ++ [⟨3, net, status, m.srcIp.toNat, m.comId.toNat, 0, 0, topoInForce c, [],
      if status = 3 then netPorts c net else pressPorts c net⟩])
  else c

/-- MD_REQUEST_RECEIVE (Table: MD request handling). R298 states the role of an inbox for a message with a destination role and for one
without a tag; a tag that names no destination role (RV 0 or TDST 0) leaves it open, and any enabled inbox with the ComId takes the
message. DESIGN CHOICE, log entry 121. -/
def mdRequest (c : Chip) (m : MdMsg) : Chip :=
  if !portEn c m.port.val || alien c m.port.val m.srcIp || !ethLive c || !c.sys.affUp then c
  else if !m.supported then bump c Reg.ethCnt2.addr 31 16
  else if topoWrong c m.topo m.ts then bump c Reg.ethCnt1.addr 15 0
  else
    let (c, tag) := if m.tagged then takeTag c m.dataset else (c, none)
    if m.tagged && tag.isNone then c
    else
      match noteStation c m.srcIp.toNat m.etbn.toNat tag with
      | (c, none) => c
      | (c, some st) =>
        let told := c.eth.annSeq
        let c := match tag with | some t => if t.rv && !t.tdst then judgeRoles c st [(t.role, t.repoch)] else c | none => c
        let said := if c.eth.annSeq = told then [] else c.eth.sent
        let moved := match tag with | some t => t.rv && t.tdst && !(roleOf c t.role).held | none => false
        if moved then
          match tag with
          | none => c
          | some t =>
            let x := roleOf c t.role
            let ip := if x.known then (match mapGet none c.eth.stations x.holder with | some s => s.ip | none => 0) else 0
            ethSend (bump c Reg.ethCnt3.addr 31 16) [⟨2, ethRoute c m.srcIp.toNat, 0, m.srcIp.toNat, (rawReg c Reg.ethRmcom.addr).toNat, 0, 0, topoInForce c,
              makeTag c (some (t.role, true, x.epoch)) ++ bytesBE 4 ip ++ bytesBE 4 m.comId.toNat, netPorts c (ethRoute c m.srcIp.toNat)⟩]
        else
          let d := if m.tagged then m.dataset.drop 16 else m.dataset
          match (inboxes c).find? fun i => rawReg c (Reg.ethMdcom.addr i) = m.comId && (match tag with
              | some t => !t.rv || !t.tdst || bits (rawReg c (Reg.ethMdctl.addr i)) 25 16 = t.role
              | none => true) with
          | none => sendMe c m 1 said
          | some i =>
            if 1024 < d.length then sendMe c m 2 said
            else if 64 ≤ c.eth.mdHeld.length then sendMe (bump c Reg.ethCnt3.addr 15 0) m 3 said
            else
              let h := c.eth.nextHandle
              let slot := bytesLE 8 m.ts ++ bytesLE 4 h ++ bytesLE 2 d.length ++ bytesLE 1 (b2n m.isMr) ++ bytesLE 1 0 ++ padTo 1024 d
              let c := onEth c fun e => { e with
                nextHandle := if h + 1 = 2 ^ 32 then 1 else h + 1,
                sessions := e.sessions ++ [⟨h, i, m.isMr, m.srcIp.toNat, m.comId.toNat⟩],
                mdHeld := e.mdHeld ++ [(i, slot)] }
              mdFeed (raise c (704 + i) h)

/-- The request point of an inbox as Vat v latches it (R299): the requests that have arrived whole, SLOTS at the most. -/
def mdLatch (c : Chip) (v : Vat) (i pt tick : Nat) : Chip × Sample :=
  match queueOfChannel c (16 + i) with
  | none => (c, ⟨.bits, word (2 ^ 31), List.replicate (ptSize c pt) 0, none⟩)
  | some q =>
    let n := slotEntries (liveDesc c q) 1040
    let some' (es : List Entry) : List (List Entry) × Nat := wholesOf n (es.length + 1) (mdSlots c i) es
    let (p, es) := takeWhileQual c v q (fun e => decide (e.tick < tick)) fun es => (some' es).2
    let slots := (some' es).1.map fun s => padTo 1040 (s.map (·.bytes)).flatten
    (setPlane c v p, ⟨.bits, word (2 ^ 31 + b2n (!slots.isEmpty)), padTo (ptSize c pt) slots.flatten, none⟩)

/-- The inbox that feeds a point. -/
def inboxOfPoint (c : Chip) (pt : Nat) : Option Nat := (inboxes c).find? fun i => bits (rawReg c (Reg.ethMdctl.addr i)) 15 0 = pt

/-- A curd instant of the task of some inboxes lets the Affineur append again (R299). -/
def mdAfterLatch (c : Chip) (t : TaskId) : Chip :=
  let is := (inboxes c).filter fun i => ptBelongs c (bits (rawReg c (Reg.ethMdctl.addr i)) 15 0) false t
  mdFeed (onEth c fun e => { e with mdSent := is.foldl (fun m i => mapErase m i) e.mdSent })

/-- The reply slots with a handle released at a commit into Q32515 (R300), each in entries of that queue. -/
def mdRelease (c : Chip) (t : TaskId) : Chip :=
  (inboxes c).foldl (fun c i =>
    let pt := bits (rawReg c (Reg.ethMdrp.addr i)) 31 16
    if !ptBelongs c pt true t || !releases c [0, 1, 2, 3] then c
    else
      let bs := (mapGet none c.core.committed pt).getD []
      (List.range (mdSlots c i)).foldl (fun c k =>
        let slot := padTo 1032 (bs.drop (1032 * k))
        if leAt slot 0 4 = 0 then c
        else
          let d := liveDesc c 32515
          let id := c.eth.splits + 1
          let c := onEth c fun e => { e with splits := id }
          (List.range (slotEntries d 1032)).foldl (fun c j => (appendOne c 32515 true ((slot.drop (d.size * j)).take d.size) id j).1) c) c) c

/-- MD_REPLY_SEND (R300): the next reply slot of Q32515 that has arrived whole; sent as an Mp where its handle is that of an open Mr
session. Entries of a slot of which R175 or R173 has taken a part are passed over. -/
def mdReplySend (c : Chip) : Chip :=
  let d := liveDesc c 32515
  let all := visibleDev c 32515
  let (ws, k) := wholesOf (slotEntries d 1032) (all.length + 1) 1 all
  if !c.sys.affUp ∨ !releases c [0, 1, 2, 3] then c
  else match ws with
  | [] => takeDevs c 32515 k
  | es :: _ =>
    let slot := (es.map (·.bytes)).flatten
    let c := takeDevs c 32515 k
    match c.eth.sessions.find? fun s => s.handle = leAt slot 0 4 with
    | none => c
    | some s =>
      if !s.isMr || !netReleases c (ethRoute c s.ip) then c
      else
        let r := bits (rawReg c (Reg.ethMdctl.addr s.inbox)) 25 16
        let m : EthMsg := ⟨2, ethRoute c s.ip, 0, s.ip, s.comId, 0, 0, topoInForce c,
          makeTag c (some (r, false, (roleOf c r).epoch)) ++ (slot.drop 8).take (min 1024 (leAt slot 4 2)), pressPorts c (ethRoute c s.ip)⟩
        onEth (ethSend c [m]) fun e => { e with sessions := e.sessions.erase s }

/-- MD_SESSION_TIMEOUT (R300): an Mr session without a reply is closed. -/
def mdTimeout (c : Chip) (h : Nat) : Chip := onEth c fun e => { e with sessions := e.sessions.filter fun s => !(s.handle = h && s.isMr) }

/-! ### Topology, ageing, ports (R276, R279 to R283) -/

/-- TTDP detects a topology change (R279). -/
def topologyChange (c : Chip) : Chip := if etbnRuns c then onEth c fun e => { e with inaug := true } else c

/-- A new etbTopoCnt comes into force (R279 to R281), from the start of the present tick on, with the train network directory
that TTDP has produced and the module's train-wide address in it (R278). -/
def inaugurationDone (c : Chip) (topo : Word) (own : BitVec 32) (dir : List EtbNode) : Chip :=
  if !etbnRuns c then c
  else
    let old := rawReg c Reg.ethTopo.addr
    let c := onEth (setReg c Reg.ethTopo.addr topo) fun e => { e with
      inaug := false, topok := true, topoPrev := old, topoAt := now c, directory := dir.take 63, trainIp := own,
      stations := mapMapVals none e.stations fun _ s => s.map fun s => { s with stale := true },
      topoPend := (enabledTasks c).map (·.code) }
    raise c 640 topo.toNat

/-- A partner entry silent for AGE seconds is removed (R282). -/
def partnerAgeing (c : Chip) (i : Nat) : Chip :=
  match mapGet none c.eth.stations i with
  | none => c
  | some s =>
    if s.heard + ethAge c ≤ c.core.tick + 100000 then
      onEth c fun e => { e with stations := mapErase e.stations i, ptDropping := false }
    else c

/-- A role whose holder has been silent for AGE seconds becomes unknown (R283). -/
def roleAgeing (c : Chip) (r : Nat) : Chip :=
  let x := roleOf c r
  if x.known && !x.held && decide (x.heard + ethAge c ≤ c.core.tick) then setRole c r { x with known := false, epoch := 0 } else c

/-- A port's link changes (Table: ETH_PSTATp); source 641 + p. -/
def linkChange (c : Chip) (p : Fin 4) (up : Bool) (giga : Bool) : Chip :=
  let a := Reg.ethPstat.addr p.val
  let en := bit (rawReg c (Reg.ethPcfg.addr p.val)) 31
  let up := up && en
  let was := bit (rawReg c a) 31
  let c := setField c a 31 31 (b2n up)
  let c := setField c a 30 29 (if !up then 0 else if giga then 2 else 1)
  if was = up then c else raise c (641 + p.val) (b2n up)

/-- The bypass relay of ports 0 and 1 (R276). -/
def bypassRelay (c : Chip) (switchBad : Bool) : Chip :=
  let c := onEth c fun e => { e with switchBad := switchBad }
  let en := bit (rawReg c (Reg.ethPcfg.addr 0)) 25 || bit (rawReg c (Reg.ethPcfg.addr 1)) 25
  let closed := en && !(turned c 0 || turned c 1) && (!ethLive c || switchBad)
  setField (setField c (Reg.ethPstat.addr 0) 28 28 (b2n closed)) (Reg.ethPstat.addr 1) 28 28 (b2n closed)

/-- The depths of TST_LBKn come into force at a fast-plane tick (R528): at depth 2 the link of an Ethernet port goes down, and
the bypass relay stays open while port 0 or 1 is turned back (R519). -/
def applyDepths (c : Chip) : Chip :=
  let want (n : Nat) : Nat := fieldOf c (Reg.tstLbk.addr n) 2 0
  let is (n : Nat) : Nat := mapGet 0 c.tst.depths n
  if (List.range 15).all fun n => want n = is n then c
  else
    let c' := { c with tst := { c.tst with depths := (List.range 15).foldl (fun m n => mapPut 0 m n (want n)) [] } }
    let c' := (List.finRange 4).foldl (fun c' p => if want p.val = 2 && is p.val ≠ 2 then linkChange c' p false false else c') c'
    bypassRelay c' c.eth.switchBad

/-- ETH_STAT. -/
def ethStat (c : Chip) : Word :=
  word (b2n c.eth.inaug * 2 ^ 31 + b2n c.eth.topok * 2 ^ 30 + c.eth.stations.length * 2 ^ 16 + (heldRoles c).length)

/-- ETH_PT0 to ETH_PT3 of the selected entry. -/
def ethPt (c : Chip) (k : Nat) : Word :=
  match mapGet none c.eth.stations (fieldOf c Reg.ethPtsel.addr 11 0) with
  | none => 0
  | some s =>
    match k with
    | 0 => word s.ip
    | 1 => word (s.pairid * 2 ^ 16 + b2n s.posb * 2 ^ 15 + b2n s.chg * 2 ^ 14 + 2 ^ 13 + b2n s.stale * 2 ^ 12)
    | 2 => word s.cepoch
    | _ => word (min 65535 ((c.core.tick - s.heard) / 100000) * 2 ^ 16 + s.etbn)

/-- ETH_RSTr. -/
def ethRst (c : Chip) (r : Nat) : Word :=
  let x := roleOf c r
  word (b2n x.held * 2 ^ 31 + b2n x.known * 2 ^ 30 + x.holder)

/-- ETH_REPOr: the role's epoch in the role table. -/
def ethRepo (c : Chip) (r : Nat) : Word := word (roleOf c r).epoch

/-- ETH_PSTATp, with FWD as the port forwards. -/
def ethPortStat (c : Chip) (p : Nat) : Word := setBits (rawReg c (Reg.ethPstat.addr p)) 27 27 (b2n (ethFwd c p))

end Sys2Proof.Machine
end

