-- ==== Sys2Proof/Machine/Ptp.lean ====
section
/-! DEFINITION. Network time (R304 to R325): FREQ and SLEW, the two domains, the choice of the source, the servo, steps
as they are decided, the PPS, and the compare and capture units. -/

namespace Sys2Proof.Machine

/-- The PTP block changed. -/
def onPtp (c : Chip) (f : Ptp → Ptp) : Chip := { c with ptp := f c.ptp }

/-- A quotient of integers, exact where it can be; else one of the two neighbours, of which the spec names none. -/
def roundFree (c : Chip) (num den : Int) : Chip × Int :=
  if num % den = 0 then (c, num / den)
  else let (st, c) := drawStamp c; (c, num / den + b2n (bit (Config.freeWord st) 0))

/-- A number held to a range. -/
def clampInt (lo hi x : Int) : Int := max lo (min hi x)

/-! ### FREQ and SLEW (R304, R305) -/

/-- FREQ in units of 2^−32 ns. -/
def freq (c : Chip) : Nat := bits (rawReg c Reg.ptpFreqh.addr) 7 0 * 2 ^ 32 + (rawReg c Reg.ptpFreql.addr).toNat

/-- FREQ set, within 4 ns ± 500 ppm; a value beyond sets CLAMP. -/
def setFreq (c : Chip) (f : Int) : Chip :=
  let g := (clampInt 0x03FF7CED91 0x040083126F f).toNat
  let c := setReg (setReg c Reg.ptpFreqh.addr (word (g / 2 ^ 32))) Reg.ptpFreql.addr (word g)
  if f = g then c else setField c Reg.ptpStat.addr 25 25 1

/-- SLEW set, within ± 100 ppm, for 1.2 s; a value beyond sets CLAMP. -/
def setSlew (c : Chip) (s : Int) : Chip :=
  let g := clampInt (-1717986) 1717986 s
  let c := onPtp (setReg c Reg.ptpSlew.addr (BitVec.ofInt 32 g)) fun p => { p with slewAt := some c.core.tick }
  if s = g then c else setField c Reg.ptpStat.addr 25 25 1

/-- INC (R304): FREQ and SLEW together, in units of 2^−32 ns. -/
def inc (c : Chip) : Nat := max 1 ((freq c : Int) + signed 32 (rawReg c Reg.ptpSlew.addr).toNat).toNat

/-- SLEW returned to 0 by hardware. -/
def slewBack (c : Chip) (after : Nat) : Chip :=
  match c.ptp.slewAt with
  | some t => if t + after ≤ c.core.tick then onPtp (setReg c Reg.ptpSlew.addr 0) fun p => { p with slewAt := none } else c
  | none => c

/-- A SLEW written 1.21 s ago has returned to 0, whatever else has come (R305). -/
def slewEnd (c : Chip) : Chip := slewBack c 1210000

/-- SLEW_EXPIRY (R305): 1.2 s ± 10 ms after it was written SLEW is 0. -/
def slewExpiry (c : Chip) : Chip := slewBack c 1190000

/-- Whether the expert fields of PTP act (R324). -/
def ptpManual (c : Chip) : Bool := expertLive c 8 && bit (rawReg c Reg.ptpServo.addr) 31

/-- KP and KF, at their defaults without EXPERT. -/
def ptpGain (c : Chip) (msb lsb dflt : Nat) : Nat := if expertLive c 8 then fieldOf c Reg.ptpServo.addr msb lsb else dflt

/-- PTP_FREQH written: FREQ applies with the PTP_FREQL that is held, or the present one (R305). -/
def writeFreqh (c : Chip) (w : Word) : Chip :=
  let lo := (c.ptp.freqlHeld.getD (rawReg c Reg.ptpFreql.addr)).toNat
  setFreq (onPtp c fun p => { p with freqlHeld := none }) (bits w 7 0 * 2 ^ 32 + lo : Nat)

/-! ### Domains (R309) -/

/-- A domain. -/
def domOf (c : Chip) (d : Nat) : Dom := if d = 0 then c.ptp.d0 else c.ptp.d1

/-- A domain replaced. -/
def setDom (c : Chip) (d : Nat) (x : Dom) : Chip := onPtp c fun p => if d = 0 then { p with d0 := x } else { p with d1 := x }

/-- PTP_DCFGd. -/
def domCfg (c : Chip) (d : Nat) : Word := rawReg c (if d = 0 then Reg.ptpDcfg0.addr else Reg.ptpDcfg1.addr)

/-- A domain enters a state: its source is raised (R325). -/
def domState (c : Chip) (d s : Nat) : Chip :=
  if (domOf c d).state = s then c else raise (setDom c d { domOf c d with state := s }) (1027 + d) s

/-- The data set order of the default best master algorithm of IEEE 1588-2019. -/
def Master.rank (m : Master) : List Nat :=
  [m.ann.prio1.toNat, m.ann.clockClass.toNat, m.ann.accuracy.toNat, m.ann.variance.toNat, m.ann.prio2.toNat, m.ann.gm.toNat,
   m.ann.steps.toNat, m.ann.sender.toNat, m.port]

/-- Whether one rank comes before another. -/
def rankBefore : List Nat → List Nat → Bool
  | a :: as, b :: bs => decide (a < b) || (a = b && rankBefore as bs)
  | _, _ => false

/-- The best of the masters heard. -/
def bestMaster (ms : List Master) : Option Master :=
  ms.foldl (fun b m => match b with | none => some m | some x => if rankBefore m.rank x.rank then some m else some x) none

/-- Units of 1 µs in `n` intervals of 2^k s, for k from −4 up. -/
def intervals (n : Nat) (k : Int) : Nat := n * 62500 * 2 ^ (k + 4).toNat

/-- Masters whose Announce has come within ARTO intervals. -/
def liveMasters (c : Chip) (d : Nat) (ms : List Master) : List Master :=
  ms.filter fun m => decide (c.core.tick < m.at_ + intervals (bits (domCfg c d) 19 16) m.ann.logInt)

/-- The best master chosen again; a change of grandmaster raises source 1030. -/
def chooseMaster (c : Chip) (d : Nat) (ms : List Master) : Chip :=
  let x := domOf c d
  let b := bestMaster ms
  let changed := match x.best, b with | some o, some n => decide (o.ann.gm ≠ n.ann.gm) | _, _ => false
  let c := setDom c d { x with masters := ms, best := b }
  if changed then raise c 1030 d else c

/-- FAR (R310): the offset from the time value is above 1 ms. -/
def domFar (c : Chip) (d : Nat) : Bool := decide (1000000 < (domOf c d).cur.natAbs)

/-- PTP_UTC from the best master of the source domain. -/
def updateUtc (c : Chip) : Chip :=
  if c.ptp.src = 1 ∨ c.ptp.src = 2 then
    match (domOf c (c.ptp.src - 1)).best with
    | some m => onPtp c fun p => { p with utc := word (b2n m.ann.utcValid * 2 ^ 18 + b2n m.ann.li61 * 2 ^ 17 + b2n m.ann.li59 * 2 ^ 16 + m.ann.utc.toNat) }
    | none => c
  else c

/-! ### The source (R310 to R313) -/

/-- Whether the Ladle is the source's choice (R315): a standby with a TIME frame within 1 ms. -/
def ladleTime (c : Chip) : Bool := c.sys.mode = .standby && within c c.ldl.timeRx 1000

/-- The choice of R310: the source, and whether it is taken as a return (its offset is judged under R313). -/
def sourceChoice (c : Chip) : Nat × Bool :=
  let pref := b2n (bit (rawReg c Reg.ptpCtl.addr) 31)
  let valid (d : Nat) : Bool := decide ((domOf c d).state = 4 - 1)
  let near (d : Nat) : Bool := valid d && !domFar c d
  let s := c.ptp.src
  if ladleTime c then (3, false)
  else if (s = 1 || s = 2) && valid (s - 1) then
    if bit (rawReg c Reg.ptpCtl.addr) 30 && decide (s - 1 ≠ pref) && near pref && decide ((domOf c pref).validAt + 10000000 ≤ c.core.tick)
    then (pref + 1, false) else (s, false)
  else if near pref then (pref + 1, false)
  else if near (1 - pref) then (2 - pref, false)
  else if valid pref then (pref + 1, true)
  else if valid (1 - pref) then (2 - pref, true)
  else (0, false)

/-- A step decided (R313, R314): added to one that waits. -/
def decideStep (c : Chip) (s : Int) : Chip := onPtp c fun p => { p with step := some (p.step.getD 0 + s) }

/-- The offset of a domain judged under R313. -/
def judgeReturn (c : Chip) (d : Nat) : Chip :=
  if domFar c d && bit (rawReg c Reg.ptpCtl.addr) 29 then decideStep c (-(domOf c d).cur) else c

/-- SOURCE_CHOICE (R310, R311, R316). A change to a source counts and raises 1024; the loss of the last one is HOLDOVER. -/
def chooseSource (c : Chip) : Chip :=
  if c.sys.mode = .inert then c
  else
    let (n, ret) := sourceChoice c
    let o := c.ptp.src
    if n = o then updateUtc c
    else if n = 0 then
      raise (onPtp (setSlew c 0) fun p => { p with src := 0, state := 2, holdFrom := some c.core.tick, prev := none, overs := 0 }) 1025
    else
      let c := setSlew c 0
      let c := onPtp c fun p => { p with src := n, state := 1, holdFrom := none, prev := none, overs := 0 }
      let c := raise (bump c Reg.ptpCnt.addr 19 8) 1024 n
      updateUtc (if (ret || o = 0) && n ≠ 3 then judgeReturn c (n - 1) else c)

/-! ### Messages (R308, R309) -/

/-- Whether a message uses only what Table: Supported PTP options names. -/
def ptpSupported (m : PtpMsg) : Bool :=
  m.supported && decide (m.domain.toNat < 128) && match m.body with
    | .announce a => decide (-3 ≤ a.logInt) && decide (a.logInt ≤ 3)
    | .sync _ k => decide (-4 ≤ k) && decide (k ≤ 1)
    | .delay _ => true

/-- Whether a message is for domain d. -/
def forDomain (c : Chip) (m : PtpMsg) (d : Nat) : Bool :=
  let w := domCfg c d
  bit w 31 && bits w 7 0 = m.domain.toNat && bit w (20 + m.port.val) && (bit w 30 == m.udp)

/-- A message used by domain d: only the slave port's Syncs and delay responses count. -/
def ptpUse (c : Chip) (m : PtpMsg) (d : Nat) : Chip :=
  let x := domOf c d
  let onSlave := match x.best with | some b => decide (b.port = m.port.val) | none => false
  match m.body with
  | .announce a =>
    let same (y : Master) : Bool := y.port = m.port.val && y.ann.sender = a.sender
    let ms := (liveMasters c d x.masters).filter (fun y => !same y) ++ [⟨m.port.val, a, c.core.tick⟩]
    let c := chooseMaster c d ms
    let c := if x.state = 1 ∨ x.state = 4 then
        domState (setDom c d { domOf c d with samples := [], streak := 0, syncAt := some c.core.tick }) d 2 else c
    if c.ptp.src = d + 1 then updateUtc c else c
  | .sync o k =>
    if onSlave then setDom c d { x with samples := x.samples ++ [o], syncAt := some c.core.tick, syncLog := k } else c
  | .delay n =>
    if onSlave && (bit (domCfg c d) 29 == m.p2p) then setDom c d { x with delay := n, delayAt := some c.core.tick } else c

/-- The switch passes a PTP message on: from a port that forwards to the others that do, corrected by the transparent clock of
the enabled domain that it belongs to (R308). -/
def ptpForward (c : Chip) (m : PtpMsg) : Chip :=
  if !ethFwd c m.port.val then c
  else
    let ours (d : Nat) : Bool := bit (domCfg c d) 31 && bits (domCfg c d) 7 0 = m.domain.toNat
    let kind (d : Nat) : Nat := 1 + b2n (bit (domCfg c d) 29)
    let clock := if ours 0 then kind 0 else if ours 1 then kind 1 else 0
    onPtp c fun p => { p with fwd := some ⟨m, (List.range 4).filter fun q => q ≠ m.port.val && ethFwd c q, clock⟩ }

/-- PTP_MESSAGE_RECEIVE: passed on by the switch whatever the module makes of it, and used by the Affineur (R16, R308). What
arrives at a port turned back on itself is discarded (R519). -/
def ptpReceive (c : Chip) (m : PtpMsg) : Chip :=
  let c := if turned c m.port.val then c else ptpForward c m
  if turned c m.port.val || !c.sys.affUp then c
  else if !ptpSupported m then bump c Reg.ptpCnt.addr 7 0
  else if c.sys.mode = .inert then c
  else if forDomain c m 0 then chooseSource (ptpUse c m 0)
  else if forDomain c m 1 then chooseSource (ptpUse c m 1)
  else c

/-- Whether a VALID domain has met a loss condition (Table: Domain states), once expired masters are out. -/
def domLost (c : Chip) (d : Nat) : Bool :=
  let x := domOf c d
  (liveMasters c d x.masters).isEmpty || !(x.syncAt.any fun t => decide (c.core.tick < t + intervals 4 x.syncLog)) ||
    !(x.delayAt.any fun t => decide (c.core.tick < t + 16000000))

/-- DOMAIN_LOSS: a VALID domain is LOST, and the source is chosen again; another master still heard keeps it VALID. -/
def domainLoss (c : Chip) (d : Nat) : Chip :=
  if (domOf c d).state ≠ 3 then c
  else
    let lost := domLost c d
    let c := chooseMaster c d (liveMasters c d (domOf c d).masters)
    if lost then chooseSource (domState c d 4) else c

/-- A domain whose configuration has changed restarts (R324). -/
def domRestart (c : Chip) (d : Nat) : Chip :=
  domState (setDom c d { Dom.off with state := (domOf c d).state }) d (if bit (domCfg c d) 31 then 1 else 0)

/-! ### The management tick (R309, R312) -/

/-- A list of integers with one put in, in rising order. -/
def putSorted (x : Int) : List Int → List Int
  | [] => [x]
  | y :: ys => if x ≤ y then x :: y :: ys else y :: putSorted x ys

/-- The median of samples; of an even number, half the sum of the middle two, rounded down. -/
def medianOf (l : List Int) : Int :=
  let s := l.foldl (fun a x => putSorted x a) []
  let n := s.length
  if n % 2 = 1 then s.getD (n / 2) 0 else (s.getD (n / 2 - 1) 0 + s.getD (n / 2) 0) / 2

/-- A domain at a management tick: its median, and VALID after samples in two ticks in a row with a path delay measured.
The Boolean says whether o(m) exists. -/
def domTick (c : Chip) (d : Nat) : Chip × Option Int :=
  let x := domOf c d
  if x.samples.isEmpty then (setDom c d { x with streak := 0 }, none)
  else
    let o := medianOf x.samples
    let c := setDom c d { x with samples := [], streak := x.streak + 1, ofs := o, cur := o }
    let ok := x.delayAt.any fun t => decide (c.core.tick < t + 16000000)
    let c := if x.state = 2 && 2 ≤ x.streak + 1 && ok then
        domState (setDom c d { domOf c d with validAt := c.core.tick }) d 3 else c
    (c, some o)

/-- SERVO_UPDATE (R312) with o(m) of the source domain. Rates are in units of 1/256,000 ppm. -/
def servoUpdate (c : Chip) (d : Nat) (o : Int) : Chip :=
  let kp := ptpGain c 15 8 128
  let kf := ptpGain c 7 0 64
  let raw := -(kp * o)
  let s := clampInt (-25600000) 25600000 raw
  let c := match c.ptp.prev with
    | some (o', s', false) =>
      if o.natAbs ≤ 1000000 then
        let e := (o - o') * 256 - s'
        let (c, dlt) := roundFree c (freq c * kf * e) (256 * 256000 * 1000000)
        setFreq c (freq c - dlt)
      else c
    | _ => c
  let (c, sl) := roundFree c (s * freq c) (256000 * 1000000)
  let c := setSlew c sl
  let c := onPtp c fun p => { p with servoO := o, prev := some (o, s, decide (s ≠ raw)),
                                     overs := if 1000000 < o.natAbs then p.overs + 1 else 0 }
  if 3 ≤ c.ptp.overs && bit (rawReg c Reg.ptpCtl.addr) 29 then judgeReturn (onPtp c fun p => { p with overs := 0 }) d else c

/-- The time part of a management tick: the domains, of which one past a loss condition is LOST by now, the source, the servo, and
the time value stored (R307). While a step waits, one decided at this tick too, the servo rests: it goes on from the next
management tick (R313). -/
def ptpTick (c : Chip) : Chip :=
  if c.sys.mode = .inert || !c.sys.affUp then c
  else
    let (c, o0) := domTick (domainLoss c 0) 0
    let (c, o1) := domTick (domainLoss c 1) 1
    let c := chooseSource c
    let c := onPtp c fun p => { p with stored := now c }
    let none' (c : Chip) : Chip := onPtp c fun p => { p with prev := none, overs := 0 }
    if ptpManual c then c
    else if c.ptp.step.isSome then none' c
    else match c.ptp.src with
      | 1 => match o0 with | some o => servoUpdate c 0 o | none => none' c
      | 2 => match o1 with | some o => servoUpdate c 1 o | none => none' c
      | _ => c

/-- HOLDOVER_TIMEOUT (R316): HOLDOVER has lasted HOLDMAX minutes. -/
def holdoverTimeout (c : Chip) : Chip :=
  match c.ptp.holdFrom with
  | some t =>
    if c.ptp.state = 2 ∧ t + fieldOf c Reg.ptpCtl.addr 15 0 * 60000000 ≤ c.core.tick then onPtp c fun p => { p with state := 0, holdFrom := none }
    else c
  | none => c

/-- Seconds in the present holdover (PTP_HOLD). -/
def holdSeconds (c : Chip) : Nat := match c.ptp.holdFrom with | some t => (c.core.tick - t) / 1000000 | none => 0

/-! ### TIME frames (R260, R315) -/

/-- A tick moved with HXK_TICK. -/
def moveTick (d : Int) (t : Nat) : Nat := (t + d).toNat

/-- HXK_TICK set to another value: what the Ladle, the stations and the time unit hold as ticks moves with it, so that the
intervals since stay the same. -/
def setTick (c : Chip) (t : Nat) : Chip :=
  if t = c.core.tick then c
  else
    let d : Int := (t : Int) - c.core.tick
    let m := moveTick d
    let mo (o : Option Nat) : Option Nat := o.map m
    let mp (n : Nat) : Nat := if n = 0 then 0 else m n
    let c := { c with core := { c.core with
      tick := t
      evcDone := mp c.core.evcDone
      rcNext := c.core.rcNext.map fun e => (e.1, m e.2)
      quietSince := mo c.core.quietSince
      quietEnd := m c.core.quietEnd
      missFrom := m c.core.missFrom
      rcStart := m c.core.rcStart } }
    let c := onLdl c fun l =>
      { l with
        toggles := l.toggles.map m
        lastEdge := mo l.lastEdge
        quietFrom := m l.quietFrom
        lastRx := mo l.lastRx
        pepochAt := mo l.pepochAt
        pepochNet := l.pepochNet.map fun e => (m e.1, e.2)
        healthAt := mo l.healthAt
        timeAt := mo l.timeAt
        timeRx := mo l.timeRx
        testBadAt := mo l.testBadAt
        watchAt := mo l.watchAt
        volume := l.volume.map fun e => (m e.1, e.2) }
    let c := { c with eth := { c.eth with
      stations := c.eth.stations.map fun e => (e.1, e.2.map fun s => { s with heard := m s.heard })
      roles := mapMapVals Role.none c.eth.roles fun _ x => if x.known then { x with heard := m x.heard } else x
      annAt := mo c.eth.annAt } }
    let dom (x : Dom) : Dom :=
      { x with masters := x.masters.map (fun y => { y with at_ := m y.at_ }), delayAt := mo x.delayAt, syncAt := mo x.syncAt,
               validAt := m x.validAt }
    let c := onPtp c fun p => { p with d0 := dom p.d0, d1 := dom p.d1, holdFrom := mo p.holdFrom, slewAt := mo p.slewAt,
                                       acted := mp p.acted, cmpAt := p.cmpAt.map (fun e => (e.1, mp e.2)), pps := p.pps.map fun e => (m e.1, e.2) }
    let lane (l : FLane) : FLane := { l with fresh := mo l.fresh, pend := l.pend.map fun p => { p with commit := m p.commit } }
    let evc (k : EvCopy) : EvCopy :=
      { k with counts := k.counts.map (fun e => (e.1, { e.2 with seen := mp e.2.seen })), groups := k.groups.map fun e => (e.1, mp e.2) }
    { c with
      sys := { c.sys with sessions := c.sys.sessions.map fun e => (e.1, e.2.map fun s => { s with heard := m s.heard }) }
      vats := c.vats.map fun p => { p with soured := p.soured.map m, realigned := p.realigned.map m }
      tasks := mapMapVals TaskSt.empty c.tasks fun _ x => { x with start := m x.start, lastCommit := mp x.lastCommit }
      evc := c.evc.map evc
      mvb := { c.mvb with lastValid := m c.mvb.lastValid, period := m c.mvb.period }
      can := c.can.map fun e => (e.1, { e.2 with lock := e.2.lock.map (fun l => (l.1, m l.2)), refTick := mo e.2.refTick })
      brg := { c.brg with xfers := c.brg.xfers.map fun e => (e.1, e.2.map fun x => { x with backed := mo x.backed }) }
      fio := { c.fio with
               lanes := c.fio.lanes.map lane
               tx := c.fio.tx.map fun o => o.map fun p => { p with commit := m p.commit }
               lossAt := mo c.fio.lossAt
               lpAt := m c.fio.lpAt
               pulses := c.fio.pulses.map fun e => (e.1, e.2.map fun p => (m p.1, p.2))
               debAt := c.fio.debAt.map fun e => (e.1, mp e.2)
               changed := c.fio.changed.map fun e => (e.1, m e.2)
               alp := c.fio.alp.map fun e => (e.1, { e.2 with errFrom := mo e.2.errFrom, okFrom := mo e.2.okFrom, setAt := m e.2.setAt, settleAt := mo e.2.settleAt, resAt := m e.2.resAt }) }
      rind := { c.rind with
                unlock := c.rind.unlock.map fun u => (u.1, m u.2)
                acceptAt := c.rind.acceptAt.map fun u => (m u.1, u.2)
                sentAt := m c.rind.sentAt }
      upd := { c.upd with peer := c.upd.peer.map fun x => { x with sentAt := m x.sentAt } }
      tst := { c.tst with from_ := m c.tst.from_, vatBack := mo c.tst.vatBack }
      pwr := { c.pwr with intrAt := mo c.pwr.intrAt, openAt := mo c.pwr.openAt, downAt := mo c.pwr.downAt } }

/-- TIME_FRAME: a standby takes HXK_TICK, slews towards the primary's time value at a rate within the limit that the spec
leaves to the hardware, or decides a step above 10 µs. `trip` is the round trip of TIME frames in ns where lane training has measured one with this frame:
half of it is the Ladle path delay while the link stays up. Without a delay measured the time value is not steered. -/
def timeFrame (c : Chip) (f : LFrame) (trip : Option Nat) : Chip :=
  let c := onLdl c fun l => { l with timeRx := some c.core.tick, pathDelay := (l.pathDelay <|> trip.map (· / 2)) }
  if c.sys.mode ≠ .standby then c
  else
    let c := chooseSource (setTick c (leAt f.payload 8 8))
    match c.ldl.pathDelay with
    | none => c
    | some delay =>
    let t := leAt f.payload 0 8 + delay
    let o : Int := (now c : Int) - t
    if 10000 < o.natAbs then (if c.ptp.step.isSome then c else decideStep c (-o))
    else if o = 0 then setSlew c 0
    else
      let (st, c) := drawStamp c
      let r : Int := ((Config.freeWord st).toNat % 1717986 + 1 : Nat)
      setSlew c (if 0 < o then -r else r)

/-- LADLE_TIME_LOSS (R315). -/
def ladleTimeLoss (c : Chip) : Chip := chooseSource c

/-! ### PPS (R317, R318) -/

/-- Whether the present tick holds a second boundary of the time value whose edge has not been made. One passed over by a
forward step is none (R314). -/
def ppsDue (c : Chip) : Bool :=
  decide (c.ptp.from_ / 1000000000 < now c / 1000000000) && !(c.ptp.pps.any fun e => decide (e.1 = c.core.tick))

/-- PPS_OUTPUT_EDGE: a rising edge whose width encodes the time state. -/
def ppsOut (c : Chip) : Chip :=
  let w := rawReg c Reg.ptpPps.addr
  if bit w 31 && !bit w 30 && 7 ≤ c.sys.step && ppsDue c then
    onPtp c fun p => { p with pps := some (c.core.tick, match p.state with | 1 => 100 | 2 => 200 | _ => 500) }
  else c

/-- A signed 32-bit value that saturates at ±(2^31 − 1). -/
def sat31 (i : Int) : Int := clampInt (-(2 ^ 31 - 1)) (2 ^ 31 - 1) i

/-- PPS_INPUT_EDGE at a time value: the offset from the nearest second; halfway between two, the spec names neither. -/
def ppsIn (c : Chip) (t : Nat) : Chip :=
  let w := rawReg c Reg.ptpPps.addr
  if bit w 31 && bit w 30 then
    let r := t % 1000000000
    let (c, up) := if r = 500000000 then let (st, c) := drawStamp c; (c, bit (Config.freeWord st) 0) else (c, decide (500000000 < r))
    let o : Int := if up then (r : Int) - 1000000000 else r
    raise (onPtp c fun p => { p with ppsOfs := o }) 1029 (unsigned 32 (sat31 o))
  else c

/-! ### Compare and capture units (R319, R320) -/

/-- The target of a compare unit, 40 bits. -/
def cmpTarget (c : Chip) (n : Nat) : Nat := bits (rawReg c (Reg.ptpCmpth.addr n)) 7 0 * 2 ^ 32 + (rawReg c (Reg.ptpCmptl.addr n)).toNat

/-- ARM reads 0 with PER = 1 and a PERIOD outside 1 to 500,000,000 (R324). -/
def cmpCheck (c : Chip) (n : Nat) : Chip :=
  let w := rawReg c (Reg.ptpCmpctl.addr n)
  let per := (rawReg c (Reg.ptpCmpper.addr n)).toNat
  if bit w 30 && (per = 0 || 500000000 < per) then setField c (Reg.ptpCmpctl.addr n) 31 31 0 else c

/-- A write of a unit's words: judged from the next tick. -/
def cmpWritten (c : Chip) (n : Nat) : Chip := onPtp (cmpCheck c n) fun p => { p with cmpAt := mapPut 0 p.cmpAt n (c.core.tick + 1) }

/-- COMPARE_FIRE: the judgement of unit n at the present tick, before the PPS edge of the tick (R322). -/
def compareFire (c : Chip) (n : Nat) : Chip :=
  let w := rawReg c (Reg.ptpCmpctl.addr n)
  let t := cmpTarget c n
  let ago := (now c + 2 ^ 40 - t) % 2 ^ 40
  if !bit w 31 || 2 ^ 39 ≤ ago || mapGet 0 c.ptp.cmpAt n = c.core.tick + 1 || c.ptp.pps.any (fun e => e.1 = c.core.tick) then c
  else
    let c := raise c (1040 + n) (t % 2 ^ 32)
    if bit w 30 then
      let per := 1000 * (rawReg c (Reg.ptpCmpper.addr n)).toNat
      let k := if per = 0 then 1 else ago / per + 1
      let t' := (t + k * per) % 2 ^ 40
      let c := setReg (setField c (Reg.ptpCmpth.addr n) 7 0 (t' / 2 ^ 32)) (Reg.ptpCmptl.addr n) (word t')
      if 1 < k then setField c (Reg.ptpCmpctl.addr n) 29 29 1 else c
    else setField c (Reg.ptpCmpctl.addr n) 31 31 0

/-- Whether a Vat's comparator path shows the level that an edge of a signal leaves: its debounced level of a digital input, its
level of a speed input; the sync pair has no path that the module holds. -/
def capShows (c : Chip) (v : Vat) (src : Nat) (rising : Bool) : Bool :=
  let p := c.fio.paths.get v
  if src < 64 then p.levels.getLsbD src == rising else if src < 72 then p.spdLev.getLsbD (src - 64) == rising else true

/-- CAPTURE_EDGE: an edge of a unit's signal with the time at which each Vat's path took it; only a path that shows the edge takes
it. Which arrival is raised for edges that the Vats do not all take: one, with the shown Vat's time (log entry 102, DESIGN
CHOICE). -/
def captureEdge (c : Chip) (n : Nat) (rising : Bool) (t : Tri (Option Nat)) : Chip :=
  let w := rawReg c (Reg.ptpCapctl.addr n)
  let e := bits w 30 29
  if !bit w 31 || !(e = 0 || (e = 1 && rising) || (e = 2 && !rising)) then c
  else
    let t : Tri (Option Nat) := t.upd .a fun x => if capShows c .a (bits w 6 0) rising then x else none
    let t := t.upd .b fun x => if capShows c .b (bits w 6 0) rising then x else none
    let t := t.upd .c fun x => if capShows c .c (bits w 6 0) rising then x else none
    let caps := allVats.foldl (fun (m : Tri (SMap Capture)) v => match t.get v with
      | some x => m.upd v fun s => mapMod Capture.zero s n fun k => ⟨x, (k.count + 1) % 2 ^ 32, min 2 (k.since + 1)⟩
      | none => m) c.ptp.caps
    let c := onPtp c fun p => { p with caps := caps }
    match t.get (shownVat c) with
    | some x => raise c (1056 + n) (x % 2 ^ 32)
    | none => c

/-- The capture unit whose point is pt. -/
def capOfPoint (c : Chip) (pt : Nat) : Option Nat :=
  (List.range 8).find? fun n => bit (rawReg c (Reg.ptpCapctl.addr n)) 31 && bits (rawReg c (Reg.ptpCappnt.addr n)) 31 16 = pt

/-- The sample of a capture point in a Vat (R320). -/
def capSample (c : Chip) (v : Vat) (n : Nat) : Sample :=
  let k := mapGet Capture.zero (c.ptp.caps.get v) n
  ⟨.values [8, 4, 4], word (2 ^ 31 + b2n (1 ≤ k.since) + 2 * b2n (2 ≤ k.since)), bytesLE 8 k.time ++ bytesLE 4 k.count ++ bytesLE 4 0, none⟩

/-- Whether pt is the time status point. -/
def isTimePoint (c : Chip) (pt : Nat) : Bool := pt ≠ 0 && fieldOf c Reg.ptpTspnt.addr 31 16 = pt

/-- The sample of the time status point (R321). -/
def timeSample (c : Chip) : Sample :=
  let p := c.ptp
  ⟨.values [4, 4, 4, 4],
   word (2 ^ 31 + b2n (p.state = 2) + 2 * b2n (p.state = 0) + 4 * b2n p.stepped + 8 * b2n (p.src = 2) + 16 * b2n (p.src = 3)),
   bytesLE 4 (unsigned 32 (sat31 p.servoO)) ++ bytesLE 4 (unsigned 32 (signed 16 (bits p.utc 15 0))) ++ bytesLE 4 (holdSeconds c) ++ bytesLE 4 0,
   none⟩

/-- After a task's latch: the flags of its capture points and STEPPED have been shown. -/
def ptpAfterLatch (c : Chip) (t : TaskId) : Chip :=
  let c := (List.range 8).foldl (fun c n =>
    if bit (rawReg c (Reg.ptpCapctl.addr n)) 31 && ptBelongs c (bits (rawReg c (Reg.ptpCappnt.addr n)) 31 16) false t then
      onPtp c fun p => { p with caps := p.caps.map fun s => mapMod Capture.zero s n fun k => { k with since := 0 } }
    else c) c
  let pt := fieldOf c Reg.ptpTspnt.addr 31 16
  if pt ≠ 0 && ptBelongs c pt false t then onPtp c fun p => { p with stepped := false } else c

/-! ### Registers (R323, R324) -/

/-- PTP_STAT, with the stored CLAMP. -/
def ptpStat (c : Chip) : Word :=
  word (c.ptp.state * 2 ^ 30 + c.ptp.src * 2 ^ 28 + b2n c.ptp.step.isSome * 2 ^ 27 +
    b2n (c.sys.affUp && !ptpManual c && c.sys.mode ≠ .inert) * 2 ^ 26 + fieldOf c Reg.ptpStat.addr 25 25 * 2 ^ 25)

/-- PTP_DSTATd. -/
def domStat (c : Chip) (d : Nat) : Word :=
  let x := domOf c d
  word (x.state * 2 ^ 29 + b2n (c.ptp.src ≠ d + 1 && domFar c d) * 2 ^ 28 + b2n (c.ptp.src = d + 1) * 2 ^ 27 +
    (match x.best with | some m => m.port * 2 ^ 20 + m.ann.steps.toNat % 256 | none => 0))

/-- What a read of a PTP register shows that is not a stored word. -/
def ptpView (c : Chip) (a : Nat) : Option Word :=
  let gm (d : Nat) : Nat := match (domOf c d).best with | some m => m.ann.gm.toNat | none => 0
  match a - 0x080000 with
  | 0x0 => some (ptpStat c)
  | 0x2 => if expertLive c 8 then none else some 0x00008040
  | 0x4 => some (word (now c))
  | 0x9 => some c.ptp.utc
  | 0xA => some (word (holdSeconds c))
  | 0xC => some (word (unsigned 32 c.ptp.ppsOfs))
  | 0xE => some (word (unsigned 64 c.ptp.lastStep))
  | 0x11 => some (domStat c 0)
  | 0x12 => some (word (unsigned 32 (sat31 c.ptp.d0.ofs)))
  | 0x13 => some (word (gm 0))
  | 0x14 => some (word (gm 0 / 2 ^ 32))
  | 0x15 => some (word c.ptp.d0.delay)
  | 0x19 => some (domStat c 1)
  | 0x1A => some (word (unsigned 32 (sat31 c.ptp.d1.ofs)))
  | 0x1B => some (word (gm 1))
  | 0x1C => some (word (gm 1 / 2 ^ 32))
  | 0x1D => some (word c.ptp.d1.delay)
  | _ => none

/-- The commit rules of PTP (R324). -/
def ptpRules (w : After) : List Fail :=
  let d0 := Reg.ptpDcfg0.addr
  let d1 := Reg.ptpDcfg1.addr
  let dom (a : Nat) : List Fail :=
    let x := w a
    let en := bit x 31
    failIf (en && 127 < bits x 7 0) a 7 0 ++ failIf (en && (bits x 19 16 < 2 || 10 < bits x 19 16)) a 19 16 ++
      failIf ((en && bits x 23 20 = 0) || (List.range 4).any fun p => bit x (20 + p) && !bit (w (Reg.ethPcfg.addr p)) 31) a 23 20
  let both := bit (w d0) 31 && bit (w d1) 31 && bits (w d0) 7 0 = bits (w d1) 7 0
  let caps := (List.range 8).flatMap fun n =>
    let a := Reg.ptpCapctl.addr n
    let x := w a
    let s := bits x 6 0
    let pt := bits (w (Reg.ptpCappnt.addr n)) 31 16
    failIf (bits x 30 29 = 3) a 30 29 ++
      failIf (72 < s || (s = 72 && !(bit (w Reg.ptpPps.addr) 31 && bit (w Reg.ptpPps.addr) 30))) a 6 0 ++
      failIf ((bit x 31 || pt ≠ 0) && !ptInput w pt 16) (Reg.ptpCappnt.addr n) 31 16
  let ts := bits (w Reg.ptpTspnt.addr) 31 16
  dom d0 ++ dom d1 ++ failIf both d1 7 0 ++
    failIf (bits (w Reg.ptpServo.addr) 15 8 = 0) Reg.ptpServo.addr 15 8 ++ failIf (bits (w Reg.ptpServo.addr) 7 0 = 0) Reg.ptpServo.addr 7 0 ++
    failIf (bits (w Reg.ptpCtl.addr) 15 0 = 0) Reg.ptpCtl.addr 15 0 ++ caps ++
    failIf (ts ≠ 0 && !ptInput w ts 16) Reg.ptpTspnt.addr 31 16

end Sys2Proof.Machine
end

