-- ==== Sys2Proof/Machine/Mvb.lean ====
section
/-! DEFINITION. MVB (R326 to R353): lines, joining, ports and their points, the reply window, administration and the
switch of schedule sets. -/

namespace Sys2Proof.Machine

/-- The MVB block changed. -/
def onMvb (c : Chip) (f : Mvb → Mvb) : Chip := { c with mvb := f c.mvb }

/-- MVB_CTL.EN. -/
def mvbOn (c : Chip) : Bool := bit (rawReg c Reg.mvbCtl.addr) 31

/-- The transmitter is open (R329). -/
def mvbTx (c : Chip) : Bool := mvbOn c && releases c [4] && c.ldl.chgIn ≠ .toggling

/-- Whether the module is bus administrator (R342). -/
def mvbAdmin (c : Chip) : Bool := mvbTx c && bit (rawReg c Reg.mvbCtl.addr) 30

/-- RTO in µs. -/
def mvbRto (c : Chip) : Nat := fieldOf c Reg.mvbCtl.addr 23 18

/-- RWIN in µs: RTO − 4 without EXPERT (R350). -/
def mvbRwin (c : Chip) : Nat := if expertLive c 9 then fieldOf c Reg.mvbDctl.addr 23 16 else mvbRto c - 4

/-- LEAD: 4 without EXPERT. -/
def mvbLead (c : Chip) : Nat := if expertLive c 9 then fieldOf c Reg.mvbActl.addr 15 8 else 4

/-- TBP in µs (R331). -/
def mvbTbp (c : Chip) : Nat := if bit (rawReg c Reg.mvbActl.addr) 29 then 2000 else 1000

/-- 2^MC. -/
def mvbMacro (c : Chip) : Nat := 2 ^ fieldOf c Reg.mvbActl.addr 28 25

/-- JPORT. -/
def mvbJport (c : Chip) : Nat := fieldOf c Reg.mvbDctl.addr 11 0

/-- Data length in bytes of an F-code 0 to 4 (R333). -/
def mvbLen (fc : Nat) : Nat := 2 * 2 ^ fc

/-- The size in bytes of a sink point (R335). -/
def sinkSize (fc : Nat) : Nat := 16 + (mvbLen fc + 7) / 8 * 8

/-- The enabled ports, ascending, as seen through a view of the configuration. -/
def mvbPortsOf (keys : List Nat) (w : After) : List Nat :=
  keys.filterMap fun a => if (a - Reg.mvbPcfg.base) % 4 = 0 && bit (w a) 31 then some ((a - Reg.mvbPcfg.base) / 4) else none

/-- The enabled ports. -/
def mvbPorts (c : Chip) : List Nat := mvbPortsOf ((regsIn c.regs Reg.mvbPcfg.base (Reg.mvbPcfg.base + 16383)).map (·.1)) (rawReg c)

/-- MVB_PCFGj. -/
def mvbCfg (c : Chip) (j : Nat) : Word := rawReg c (Reg.mvbPcfg.addr j)

/-- POINT of port j. -/
def mvbPoint (c : Chip) (j : Nat) : Nat := bits (rawReg c (Reg.mvbPpnt.addr j)) 31 16

/-- Whether j is an enabled sink port. -/
def isSink (c : Chip) (j : Nat) : Bool := bit (mvbCfg c j) 31 && !bit (mvbCfg c j) 30

/-! ### Lines (R327) -/

/-- A line that is sound or failed changes state. -/
def lineState (c : Chip) (a : Bool) (sound : Bool) : Chip :=
  if (if a then c.mvb.lineA else c.mvb.lineB) = sound then c
  else raise (onMvb c fun m => if a then { m with lineA := sound } else { m with lineB := sound }) (if a then 1156 else 1157) (b2n sound)

/-- A device enters JOINING after a silence (R331). -/
def mvbSilent (c : Chip) : Chip :=
  let c' := onMvb c fun m => { m with joined := false, lastJoin := none }
  if c.mvb.joined then raise c' 1155 else c'

/-- A frame with the validity of its two copies: counts, line states; the Boolean says whether it is valid. A silence of more
than 4.1 ms before it has made the device JOINING (R331). -/
def mvbFrame (c : Chip) (va vb : Bool) : Chip × Bool :=
  let c := if c.mvb.lastValid + 4100 < c.core.tick && !mvbAdmin c then mvbSilent c else c
  let c := if va && !vb then bump c Reg.mvbCnt1.addr 15 0 else if vb && !va then bump c Reg.mvbCnt1.addr 31 16 else c
  let c := onMvb c fun m =>
    { m with
      badA := if vb && !va then m.badA + 1 else 0
      badB := if va && !vb then m.badB + 1 else 0
      goodA := if va then m.goodA + 1 else 0
      goodB := if vb then m.goodB + 1 else 0
      lastValid := if va || vb then c.core.tick else m.lastValid }
  let c := if 16 ≤ c.mvb.badA then lineState c true false else if 16 ≤ c.mvb.goodA then lineState c true true else c
  let c := if 16 ≤ c.mvb.badB then lineState c false false else if 16 ≤ c.mvb.goodB then lineState c false true else c
  (c, va || vb)

/-! ### Announcements and joining (R331, R345, R346) -/

/-- The announcement word, laid out as MVB_STAT shows its fields. -/
def annWord (cur next cdn mcnt : Nat) : Word := word (cur * 2 ^ 30 + next * 2 ^ 28 + cdn * 2 ^ 20 + mcnt)

/-- A device enters JOINED. -/
def enterJoined (c : Chip) : Chip :=
  if c.mvb.joined then c else raise (onMvb c fun m => { m with joined := true }) 1154 c.mvb.mcnt

/-- A valid announcement: CUR is taken, and by a device that is not the administrator NEXT and CDN. -/
def takeAnnouncement (c : Chip) (w : Word) : Chip :=
  let cur := bits w 31 30
  onMvb c fun m =>
    { m with
      switched := m.switched || decide (cur ≠ m.cur)
      cur := cur
      next := if m.admin then m.next else bits w 29 28
      cdn := if m.admin then m.cdn else bits w 27 20
      mcnt := bits w 15 0
      ann := some (cur, bits w 29 28, bits w 27 20) }

/-- A valid slave frame of JPORT: joining (R331). -/
def noteJoin (c : Chip) (mcnt ts : Nat) : Chip :=
  let d : Int := mvbMacro c * mvbTbp c * 1000
  let ok := match c.mvb.lastJoin with
    | none => false
    | some (m, t) =>
      if bit (rawReg c Reg.mvbDctl.addr) 31 then decide (mcnt = (m + 1) % 65536)
      else decide (((ts : Int) - t - d).natAbs ≤ 1000000)
  let c := onMvb c fun m => { m with lastJoin := some (mcnt, ts) }
  if ok then enterJoined c else c

/-- MVB_SILENCE (R331): 4 ms without a valid frame; an administrator in charge stays JOINED (R332). -/
def mvbSilence (c : Chip) : Chip :=
  if c.core.tick < c.mvb.lastValid + 3900 || mvbAdmin c then c else mvbSilent c

/-- The acknowledgement word (R346), from the latest announcement; before one, from a set in force of 0. -/
def ackWord (c : Chip) : Word :=
  let (cur, next, cdn) := c.mvb.ann.getD (c.mvb.cur, c.mvb.cur, 0)
  let rdy := 0 < cdn && bit (rawReg c Reg.mvbDctl.addr) (24 + next)
  word (cur * 2 ^ 30 + (if rdy then next else cur) * 2 ^ 28 + b2n rdy * 2 ^ 27 + fieldOf c Reg.mvbCtl.addr 11 0)

/-! ### Replies (R338 to R341) -/

/-- A frame of the module's own on the segment. It is no silence; turned back on the module it is received like any other, at
depth 1 as if on line A, at depth 2 from both lines (R519). -/
def mvbOwn (c : Chip) : Chip :=
  if turned c 4 then (mvbFrame c true (mapGet 0 c.tst.depths 4 = 2)).1 else onMvb c fun m => { m with lastValid := c.core.tick }

/-- A reply sent. -/
def mvbReply (c : Chip) (fc addr : Nat) (d : List Byte) : Chip :=
  let c := if turned c 4 then mvbOwn c else c
  onMvb c fun m => { m with sentReply := some (fc, addr, d) }

/-- The lookup is delayed: a committed change of the port table is being applied (R340). -/
def lookupDelayed (c : Chip) : Bool := c.mvb.tableAt.any fun t => decide (c.core.tick ≤ t + 4)

/-- The earliest start of a reply that its lookup allows, in ns: not after 2.5 µs, and at most 4 µs later where a change of the
port table delays the lookup (R339, R340). -/
def replyStart (c : Chip) (start : Nat) : Nat := min start (if lookupDelayed c then 6500 else 2500)

/-- A reply withheld because it would begin after RWIN (R340), else sent. -/
def replyInWindow (c : Chip) (fc addr start : Nat) (d : List Byte) : Chip :=
  if mvbRwin c * 1000 < start then raise (bump c Reg.mvbCnt0.addr 31 16) 1159 addr else mvbReply c fc addr d

/-- The device status word (R341): the two device-specific bits stand where the standard has them, and its other bits are the
standard's, which the spec does not give. -/
def deviceStatus (c : Chip) (st : Nat) : Word :=
  let lo := Config.mvbServiceBit.val
  let hi := lo + 1 + Config.mvbJoinedBit.val % (15 - lo)
  setBits (setBits (word ((Config.freeWord st).toNat % 2 ^ 16)) lo lo (b2n (c.sys.mode = .service))) hi hi (b2n c.mvb.joined)

/-- The device's part in a master frame: `start` is the earliest start of its reply in ns. An acknowledgement that the
administrator gives itself counts for the agreement like any other (R345). -/
def deviceReply (c : Chip) (fc addr start : Nat) : Chip :=
  let start := replyStart c start
  if !mvbTx c || !c.mvb.joined then c
  else if fc = 15 then
    if addr ≠ fieldOf c Reg.mvbCtl.addr 11 0 then c
    else
      let (st, c) := drawStamp c
      replyInWindow c fc addr start (bytesLE 2 (deviceStatus c st).toNat)
  else if bit (rawReg c Reg.mvbDctl.addr) 31 && addr = fieldOf c Reg.mvbAckp.addr 11 0 && fc = 1 then
    let w := ackWord c
    let c := if c.mvb.admin && start ≤ mvbRwin c * 1000 then onMvb c fun m => { m with acks := mapPut none m.acks addr (some w) } else c
    replyInWindow c fc addr start (bytesLE 4 w.toNat)
  else
    let w := mvbCfg c addr
    if !(bit w 31 && bit w 30 && bits w 29 27 = fc) then c
    else match mapGet none c.mvb.buffers addr with
      | none => bump c Reg.mvbCnt0.addr 31 16
      | some d => replyInWindow c fc addr start d

/-- A master frame on the bus: an awaited slave frame that has not come leaves the slot empty (R344). -/
def noteMaster (c : Chip) (fc addr : Nat) : Chip :=
  let c := match c.mvb.await with
    | some j => bump c (Reg.mvbPemp.addr j) 31 16
    | none => c
  onMvb c fun m => { m with last := some (fc, addr), await := if fc ≤ 4 && isSink c addr then some addr else none }

/-- MASTER_FRAME_RECEIVE: one that the administrator did not send stops its polling (R343); an own port is answered. -/
def masterFrame (c : Chip) (fc addr start : Nat) (va vb : Bool) : Chip :=
  if !mvbOn c || turned c 4 then c
  else
    let (c, ok) := mvbFrame c va vb
    if !ok then c
    else
      let c := if mvbAdmin c then raise (onMvb (bump c Reg.mvbCnt3.addr 31 16) fun m => { m with polls := [] }) 1158 addr else c
      deviceReply (noteMaster c fc addr) fc addr start

/-! ### Slave frames (R334, R344) -/

/-- The queue entry of a frame (Table: MVB queue entry). -/
def mvbEntry (ts addr fc line : Nat) (d : List Byte) : List Byte :=
  bytesLE 8 ts ++ bytesLE 2 addr ++ bytesLE 1 fc ++ bytesLE 1 line ++ bytesLE 2 d.length ++ bytesLE 2 0 ++ padTo 32 d

/-- SLAVE_FRAME_RECEIVE. -/
def slaveFrame (c : Chip) (f : MvbSlave) : Chip :=
  if !mvbOn c || turned c 4 then c
  else
    let (c, ok) := mvbFrame c f.validA f.validB
    match ok, c.mvb.last with
    | true, some (fc, addr) =>
      if mvbRto c * 1000 < f.begins then (if mvbAdmin c then bump c Reg.mvbCnt0.addr 15 0 else c)
      else if 4 < fc || f.data.length ≠ mvbLen fc then c
      else
        let c := onMvb c fun m => { m with last := none, await := none }
        let c := if addr = mvbJport c && fc = 1 then
            let w := word (natLE f.data)
            noteJoin (takeAnnouncement c w) (bits w 15 0) f.ts else c
        let c := if mvbAdmin c && fc = 1 then onMvb c fun m => { m with acks := mapPut none m.acks addr (some (word (natLE f.data))) } else c
        if isSink c addr && bits (mvbCfg c addr) 29 27 = fc then
          let c := bump c (Reg.mvbPemp.addr addr) 15 0
          match queueOfPort c 9 (bits (mvbCfg c addr) 19 16) with
          | some q => (appendInbound c q (mvbEntry f.ts addr fc (b2n (!f.validA)) f.data)).1
          | none => c
        else c
    | _, _ => c

/-! ### Sink points (R335, R336) -/

/-- The sink port that feeds a point. -/
def sinkOfPoint (c : Chip) (pt : Nat) : Option Nat := (mvbPorts c).find? fun j => !bit (mvbCfg c j) 30 && mvbPoint c j = pt

/-- The sink ports whose points belong to a task. -/
def taskSinks (c : Chip) (t : TaskId) : List Nat := (mvbPorts c).filter fun j => !bit (mvbCfg c j) 30 && ptBelongs c (mvbPoint c j) false t

/-- The latch of Vat v takes the entries of every channel that feeds the task's points. -/
def mvbLatchTake (c : Chip) (v : Vat) (t : TaskId) (time : Nat) : Chip :=
  let js := taskSinks c t
  let c := onMvb c fun m => { m with fresh := m.fresh.upd v fun l => l.filter fun j => !js.contains j }
  let chans := (js.map fun j => bits (mvbCfg c j) 19 16).eraseDups
  chans.foldl (fun c ch => match queueOfPort c 9 ch with
    | none => c
    | some q =>
      let (p, es) := takeStamped c v q time
      es.foldl (fun c e =>
        let j := leAt e.bytes 8 2
        onMvb c fun m => { m with held := m.held.upd v (fun h => mapPut none h j (some e.bytes)), fresh := m.fresh.upd v fun l => addNew l j })
        (setPlane c v p)) c

/-- TIMEOUT of a held frame. -/
def sinkTimeout (c : Chip) (j : Nat) (e : List Byte) (time : Nat) : Bool :=
  decide (bits (mvbCfg c j) 15 0 * 1000000 < time - leAt e 0 8)

/-- INACTIVE: the set in force does not poll the port. -/
def sinkInactive (c : Chip) (j : Nat) : Bool := !bit (mvbCfg c j) (23 + c.mvb.cur)

/-- The sample of a sink point in Vat v. -/
def sinkSample (c : Chip) (v : Vat) (j pt time : Nat) : Sample :=
  let base := 4 * b2n (sinkInactive c j) + 8 * b2n (!c.mvb.joined)
  match mapGet none (c.mvb.held.get v) j with
  | none => ⟨.frame, word base, List.replicate (ptSize c pt) 0, none⟩
  | some e =>
    let tmo := sinkTimeout c j e time
    ⟨.frame, word (b2n (!tmo) * 2 ^ 31 + b2n ((c.mvb.fresh.get v).contains j) + 2 * b2n tmo + base), padTo (ptSize c pt) e, some (leAt e 0 8)⟩

/-- After a task's latch: sink ports that have entered TIMEOUT raise their source, and SWITCHED has been shown. -/
def mvbAfterLatch (c : Chip) (t : TaskId) (time : Nat) : Chip :=
  let v := shownVat c
  let c := (taskSinks c t).foldl (fun c j =>
    let tmo := match mapGet none (c.mvb.held.get v) j with | some e => sinkTimeout c j e time | none => false
    let was := c.mvb.timedOut.contains j
    if tmo && !was then
      let c := onMvb c fun m => { m with timedOut := addNew m.timedOut j }
      if sinkInactive c j || !c.mvb.joined then c else raise c (1184 + bits (mvbCfg c j) 19 16) j
    else if !tmo && was then onMvb c fun m => { m with timedOut := m.timedOut.filter fun x => decide (x ≠ j) }
    else c) c
  let pt := fieldOf c Reg.mvbStspnt.addr 31 16
  if pt ≠ 0 && ptBelongs c pt false t then onMvb c fun m => { m with switched := false } else c

/-- NEXT: equal to CUR when no switch is pending. -/
def mvbNext (c : Chip) : Nat := if c.mvb.cdn = 0 then c.mvb.cur else c.mvb.next

/-- The sample of the status point (R352). -/
def mvbStatusSample (c : Chip) : Sample :=
  let m := c.mvb
  ⟨.values [4, 4], word (2 ^ 31 + b2n m.switched),
   bytesLE 4 (m.cur + 4 * mvbNext c + 16 * m.cdn + 2 ^ 12 * b2n m.joined + 2 ^ 13 * b2n (mvbAdmin c)) ++ bytesLE 4 m.mcnt, none⟩

/-! ### Source points (R330, R337) -/

/-- The source ports of a task with the bytes of their points, as last committed. -/
def taskSources (c : Chip) (t : TaskId) : List (Nat × List Byte) :=
  ((mvbPorts c).filter fun j => bit (mvbCfg c j) 30 && ptBelongs c (mvbPoint c j) true t).map fun j =>
    (j, padTo (mvbLen (bits (mvbCfg c j) 29 27)) ((mapGet none c.core.committed (mvbPoint c j)).getD []))

/-- A commit releases every source point of the task into Q32516, in SERVICE. -/
def mvbRelease (c : Chip) (t : TaskId) : Chip :=
  if !releases c [4] then c
  else (taskSources c t).foldl (fun c e =>
    (appendOne c 32516 true (bytesLE 2 e.1 ++ bytesLE 2 e.2.length ++ bytesLE 4 0 ++ padTo 32 e.2)).1) c

/-- A standby loads the source points of an applied image (R330). -/
def mvbLoad (c : Chip) (t : TaskId) : Chip :=
  (taskSources c t).foldl (fun c e => onMvb c fun m => { m with buffers := mapPut none m.buffers e.1 (some e.2) }) c

/-- MVB_SOURCE_ENTRY: an entry of Q32516 moves into its port's source buffer. -/
def mvbSourceEntry (c : Chip) : Chip :=
  match takeDev c 32516 with
  | none => c
  | some (e, c) => onMvb c fun m => { m with buffers := mapPut none m.buffers (leAt e 0 2 % 4096) (some ((e.drop 8).take (leAt e 2 2))) }

/-! ### Administration (R342 to R345, R348) -/

/-- The enabled entries of schedule set s with their index, ascending. -/
def schedule (c : Chip) (s : Nat) : List (Nat × Word) :=
  (regsIn c.regs (Reg.mvbSch.addr (1024 * s)) (Reg.mvbSch.addr (1024 * s) + 1023)).filterMap fun e =>
    let w := rawReg c e.1
    if bit w 31 then some (e.1 - Reg.mvbSch.addr (1024 * s), w) else none

/-- Entries in ascending PEXP and then index. -/
def byPexp (es : List (Nat × Word)) : List (Nat × Word) :=
  (List.range 16).flatMap fun p => es.filter fun e => bits e.2 26 23 = p

/-- Whether an entry falls in basic period b. -/
def inPeriod (w : Word) (b : Nat) : Bool := b % 2 ^ bits w 26 23 = bits w 22 13

/-- The acknowledgement ports listed for agreement. -/
def ackPorts (w : After) : List Nat :=
  (List.range 32).filterMap fun k => let x := w (Reg.mvbAgr.addr k); if bit x 31 then some (bits x 11 0) else none

/-- The polls of basic period b: F-code and address. -/
def pollsOf (c : Chip) (b : Nat) : List (Nat × Nat) :=
  (if b = 0 then [(1, mvbJport c)] else []) ++ (if b = 1 then (ackPorts (rawReg c)).map fun p => (1, p) else []) ++
    ((byPexp (schedule c c.mvb.poll)).filter fun e => inPeriod e.2 b).map fun e => (bits e.2 30 27, bits e.2 11 0)

/-- The present macro-cycle number. -/
def macroNumber (c : Chip) : Nat := c.core.tick / (mvbTbp c * mvbMacro c) % 65536

/-- The administrator sends the next master frame of the basic period, and answers it where the port is its own, 1.5 to 2.5 µs
after it or, while the lookup is delayed, at most 4 µs later (R339, R340); a slot that cannot begin by PPH is not polled. -/
def pollNext (c : Chip) : Chip :=
  match c.mvb.polls with
  | [] => c
  | (fc, addr) :: rest =>
    if c.mvb.period + (mvbTbp c - 100) < c.core.tick then
      onMvb (bumpBy c Reg.mvbCnt3.addr 15 0 (rest.length + 1)) fun m => { m with polls := [] }
    else
      let c := noteMaster (onMvb (mvbOwn c) fun m => { m with polls := rest, sentMaster := some (fc, addr) }) fc addr
      if addr = mvbJport c && fc = 1 then
        let m := c.mvb
        let w := annWord m.poll (if m.cdn = 0 then m.poll else m.next) m.cdn (macroNumber c)
        let c := takeAnnouncement (mvbReply c 1 addr (bytesLE 4 w.toNat)) w
        onMvb c fun m => { m with announced := true, last := none, await := none }
      else
        let (st, c) := drawStamp c
        deviceReply c fc addr (1500 + (Config.freeWord st).toNat % (if lookupDelayed c then 5001 else 1001))

/-- BASIC_PERIOD: at a boundary the administrator starts polling in order; it is JOINED from its first macro-cycle. -/
def basicPeriod (c : Chip) : Chip :=
  if !mvbAdmin c || c.core.tick % mvbTbp c ≠ 0 then c
  else
    let b := c.core.tick / mvbTbp c % mvbMacro c
    let c := bumpBy c Reg.mvbCnt3.addr 15 0 c.mvb.polls.length
    pollNext (onMvb (enterJoined c) fun m => { m with polls := pollsOf c b, period := c.core.tick })

/-- MVB_SLOT_END: the slot of the last poll ends, and the next master frame follows. A slave frame that begins later, before
another master frame, is still a late reply (R344). -/
def mvbSlotEnd (c : Chip) : Chip :=
  if !mvbAdmin c then c
  else
    let c := match c.mvb.await with | some j => bump c (Reg.mvbPemp.addr j) 31 16 | none => c
    pollNext (onMvb c fun m => { m with await := none })

/-- A pending switch abandoned, with its reason and the acknowledgement port. -/
def abandonSwitch (c : Chip) (reason port : Nat) : Chip :=
  raise (bump (onMvb c fun m => { m with next := m.poll, cdn := 0, announced := false, setChanged := false }) Reg.mvbCnt2.addr 15 0)
    1153 (reason + port * 2 ^ 16)

/-- The first acknowledgement port that has not said ready for NEXT in this macro-cycle. -/
def notReady (c : Chip) : Option Nat :=
  (ackPorts (rawReg c)).find? fun p => match mapGet none c.mvb.acks p with
    | some w => !(bit w 27 && bits w 29 28 = c.mvb.next)
    | none => true

/-- Whether an address is a schedule entry or MVB_ACTL, which apply at a macro-cycle boundary (R348). -/
def mvbScheduled (a : Nat) : Bool := a = Reg.mvbActl.addr || (Reg.mvbSch.base ≤ a && a < Reg.mvbSch.base + 4096)

/-- A commit with the words that it adds: one that changes set NEXT while a switch is pending is noted (R348). -/
def noteSetChange (c : Chip) (staged : SMap (Option Word)) : Chip :=
  let m := c.mvb
  let a := Reg.mvbSch.addr (1024 * m.next)
  if mvbAdmin c && m.cdn ≠ 0 && staged.any (fun e => a ≤ e.1 && e.1 < a + 1024 && e.2.any fun w => decide (w ≠ rawReg c e.1))
  then onMvb c fun m => { m with setChanged := true } else c

/-- MACRO_CYCLE_BOUNDARY: committed schedule words apply, CDN counts down, an agreed switch takes place. -/
def macroBoundary (c : Chip) : Chip :=
  if c.core.tick % (mvbTbp c * mvbMacro c) ≠ 0 then c
  else
    let m := c.mvb
    let c := applyPend c mvbScheduled
    let c :=
      if m.cdn = 0 || !mvbAdmin c then c
      else if m.setChanged then abandonSwitch c 2 0
      else if !m.announced then c
      else if 1 < m.cdn then onMvb c fun m => { m with cdn := m.cdn - 1 }
      else match notReady c with
        | some p => abandonSwitch c 1 p
        | none => raise (bump (onMvb c fun m => { m with poll := m.next, cdn := 0 }) Reg.mvbCnt2.addr 31 16) 1152 m.next
    onMvb c fun m => { m with announced := false, acks := [] }

/-- A write of MVB_ASEL (R345): whether it is accepted, and its effect. -/
def aselWrite (c : Chip) (w : Word) : Chip × Bool :=
  match bits w 31 28 with
  | 0 => (c, true)
  | 1 =>
    if !mvbAdmin c || c.mvb.cdn ≠ 0 then (c, false)
    else if bits w 1 0 = c.mvb.poll then (c, true)
    else (onMvb c fun m => { m with next := bits w 1 0, cdn := mvbLead c, announced := false, setChanged := false }, true)
  | _ => (c, false)

/-- The administration begins or ends with the mode, the transmitter and ADMIN. A switch that is pending is abandoned, also one that
another administrator had announced, at a takeover (R348). -/
def mvbAdminCheck (c : Chip) : Chip :=
  let a := mvbAdmin c
  if a = c.mvb.admin then c
  else if a then
    let s := if c.mvb.joined then c.mvb.cur else fieldOf c Reg.mvbActl.addr 31 30
    let c := onMvb c fun m => { m with admin := true, poll := s, announced := false, polls := [], acks := [] }
    if c.mvb.cdn ≠ 0 then abandonSwitch c 3 0 else c
  else
    let c := if c.mvb.cdn ≠ 0 then abandonSwitch c 3 0 else c
    onMvb c fun m => { m with admin := false, polls := [] }

/-- On entry to STANDBY or SERVICE from another mode no source port has been released or loaded (R338). -/
def mvbEnter (c : Chip) : Chip := onMvb c fun m => { m with buffers := [] }

/-! ### Registers and commit rules (R349, R350) -/

/-- MVB_STAT. -/
def mvbStat (c : Chip) : Word :=
  let m := c.mvb
  word (m.cur * 2 ^ 30 + mvbNext c * 2 ^ 28 + m.cdn * 2 ^ 20 + b2n (mvbAdmin c) * 2 ^ 19 + b2n m.joined * 2 ^ 18 + b2n m.lineA * 2 ^ 17 +
    b2n m.lineB * 2 ^ 16 + m.mcnt)

/-- What a read of an MVB register shows that is not a stored word. -/
def mvbView (c : Chip) (a : Nat) : Option Word :=
  if a = Reg.mvbStat.addr then some (mvbStat c)
  else if a = Reg.mvbDctl.addr then some (setBits (rawReg c a) 23 16 (mvbRwin c))
  else if a = Reg.mvbActl.addr then some (setBits (rawReg c a) 15 8 (mvbLead c))
  else none

/-- Whether a change of an MVB word is refused in the present mode (R351). -/
def mvbModeLocked (c : Chip) (a : Nat) (old new : Word) : Bool :=
  !(c.sys.mode = .prove || c.sys.mode = .maintenance) &&
    ((a = Reg.mvbCtl.addr && ((old ^^^ new) &&& 0xE0000FFF) ≠ 0) || (a = Reg.mvbActl.addr && ((old ^^^ new) &&& 0x3E000000) ≠ 0))

/-- The slot budget of a poll in half bit times (R347). -/
def slotBudget (rto fc : Nat) : Nat := 2 * 36 + 3 * rto + 2 * (match fc with | 0 => 33 | 1 => 49 | 2 => 81 | 3 => 153 | _ => 297)

/-- The first poll at which the budgets pass a limit: F-codes with the address of the EN field that is named. -/
def overBudget (rto limit : Nat) : Nat → List (Nat × Nat) → Option Nat
  | _, [] => none
  | sum, (fc, a) :: l => let s := sum + slotBudget rto fc; if limit < s then some a else overBudget rto limit s l

/-- The commit rules of MVB (R347, R350); `keys` are the addresses of the block that are listed, ascending. -/
def mvbRules (keys : List Nat) (expert : Bool) (inq : Nat → Nat → Bool) (w : After) : List Fail :=
  let ctl := w Reg.mvbCtl.addr
  let dctl := w Reg.mvbDctl.addr
  let actl := w Reg.mvbActl.addr
  let rto := bits ctl 23 18
  let mc := bits actl 28 25
  let tbp := if bit actl 29 then 2000 else 1000
  let ports := mvbPortsOf (keys.filter fun a => Reg.mvbPcfg.base ≤ a && a < Reg.mvbPcfg.base + 16384) w
  let acks := ackPorts w
  let jport := bits dctl 11 0
  let basic :=
    failIf (rto < 6 || 42 < rto) Reg.mvbCtl.addr 23 18 ++
    failIf (expert && (bits dctl 23 16 < 2 || rto - 2 < bits dctl 23 16)) Reg.mvbDctl.addr 23 16 ++
    failIf (expert && bits actl 15 8 < 2) Reg.mvbActl.addr 15 8 ++ failIf (10 < mc) Reg.mvbActl.addr 28 25 ++
    failIf (bit dctl 31 && ports.contains (bits (w Reg.mvbAckp.addr) 11 0)) Reg.mvbAckp.addr 11 0
  let port (j : Nat) : List Fail :=
    let a := Reg.mvbPcfg.addr j
    let x := w a
    let fc := bits x 29 27
    let pt := bits (w (Reg.mvbPpnt.addr j)) 31 16
    failIf (bit ctl 30 && (j = jport || acks.contains j)) a 31 31 ++ failIf (4 < fc) a 29 27 ++
      (if bit x 30 then
        failIf (bits x 15 0 ≠ 0) a 15 0 ++ failIf (!ptPress w pt ((mvbLen fc + 7) / 8 * 8)) (Reg.mvbPpnt.addr j) 31 16
      else
        failIf (bits x 15 0 = 0) a 15 0 ++ failIf (!ptInput w pt (sinkSize fc)) (Reg.mvbPpnt.addr j) 31 16 ++
          failIf (!inq 9 (bits x 19 16)) a 19 16)
  let sch (s : Nat) : List (Nat × Word) :=
    (keys.filter fun a => Reg.mvbSch.addr (1024 * s) ≤ a && a < Reg.mvbSch.addr (1024 * s) + 1024 && bit (w a) 31).map fun a => (a, w a)
  let entry (e : Nat × Word) : List Fail :=
    let x := e.2
    failIf (4 < bits x 30 27) e.1 30 27 ++ failIf (mc < bits x 26 23) e.1 26 23 ++
      failIf (2 ^ bits x 26 23 ≤ bits x 22 13) e.1 22 13 ++ failIf (bits x 11 0 = jport || acks.contains (bits x 11 0)) e.1 11 0
  let cap (s : Nat) : Option Fail :=
    (List.range (2 ^ min mc 10)).findSome? fun b =>
      let own := if b = 0 then [(1, Reg.mvbDctl.addr)] else if b = 1 then
          ((List.range 32).filter fun k => bit (w (Reg.mvbAgr.addr k)) 31).map fun k => (1, Reg.mvbAgr.addr k) else []
      let es := ((byPexp (sch s)).filter fun e => inPeriod e.2 b).map fun e => (bits e.2 30 27, e.1)
      (overBudget rto (3 * (tbp - 100)) 0 (own ++ es)).map fun a => (a, 31, 31)
  let st := bits (w Reg.mvbStspnt.addr) 31 16
  basic ++ ports.flatMap port ++ (List.range 4).flatMap (fun s => (sch s).flatMap entry) ++
    (((List.range 4).findSome? cap).toList) ++ failIf (st ≠ 0 && !ptInput w st 8) Reg.mvbStspnt.addr 31 16

end Sys2Proof.Machine
end

