-- ==== Sys2Proof/Machine/Can.lean ====
section
/-! DEFINITION. The CAN controllers (R354 to R374): routing, the transmit store, bus-off and the frozen head, the time
master, the monitor window. -/

namespace Sys2Proof.Machine

/-- A controller. -/
def canOf (c : Chip) (p : Nat) : CanCtl := mapGet CanCtl.reset c.can p

/-- A controller changed. -/
def onCan (c : Chip) (p : Nat) (f : CanCtl → CanCtl) : Chip := { c with can := mapMod CanCtl.reset c.can p f }

/-- CAN_CTLp. -/
def canCfg (c : Chip) (p : Nat) : Word := rawReg c (Reg.canCtl.addr p)

/-- Whether the controller is enabled. -/
def canOn (c : Chip) (p : Nat) : Bool := bit (canCfg c p) 31

/-- Whether transmission is open (R366). -/
def canOpen (c : Chip) (p : Nat) : Bool := canOn c p && !bit (canCfg c p) 30 && releases c [5 + p] && c.ldl.chgIn ≠ .toggling

/-- Event source k of controller p. -/
def canSrc (p k : Nat) : Nat := 1408 + 16 * p + k

/-! ### Bit timing (R356) -/

/-- CAN_ARBTIM as derived from NRATE. -/
def derivedArb (nrate : Nat) : Word := word (63 * 2 ^ 24 + 16 * 2 ^ 17 + 16 * 2 ^ 10 + 8 / 2 ^ nrate)

/-- A CAN_FDTIM word. -/
def fdWord (before after jump presc sspen ofs : Nat) : Word :=
  word (before * 2 ^ 26 + after * 2 ^ 21 + jump * 2 ^ 16 + presc * 2 ^ 11 + sspen * 2 ^ 10 + ofs)

/-- CAN_FDTIM as derived from DRATE. -/
def derivedFd (drate : Nat) : Word :=
  match drate with
  | 1 => fdWord 59 20 15 1 0 0
  | 2 => fdWord 29 10 10 1 1 30
  | 3 => fdWord 14 5 5 1 1 15
  | 4 => fdWord 11 4 4 1 1 12
  | _ => 0

/-- NRATE and DRATE. -/
def nrate (w : Word) : Nat := bits w 21 20
/-- DRATE. -/
def drate (w : Word) : Nat := bits w 19 17

/-! ### Fault confinement (R354, R374) -/

/-- The state that error counters give, with the sources of error passive and of error active regained. -/
def canState (c : Chip) (p : Nat) : Chip :=
  let x := canOf c p
  if x.state = 2 then c
  else if 128 ≤ x.tec || 128 ≤ x.rcv then
    if x.state = 1 then c
    else raise (onCan c p fun x => { x with state := 1 }) (canSrc p 0) (min 255 x.tec + min 255 x.rcv * 256)
  else if x.state = 1 then raise (onCan c p fun x => { x with state := 0 }) (canSrc p 1)
  else c

/-- Whether the error counters run: not in plain bus monitoring. -/
def countersRun (c : Chip) (p : Nat) : Bool := canOpen c p || (bit (canCfg c p) 27 && !bit (canCfg c p) 30)

/-- REC after a valid frame; above 127 it becomes one of 119 to 127, of which the standard names none. -/
def recGood (c : Chip) (p : Nat) : Chip :=
  let r := (canOf c p).rcv
  if !countersRun c p then c
  else if 127 < r then
    let (st, c) := drawStamp c
    canState (onCan c p fun x => { x with rcv := 119 + (Config.freeWord st).toNat % 9 }) p
  else canState (onCan c p fun x => { x with rcv := r - 1 }) p

/-- REC after an invalid frame. -/
def recBad (c : Chip) (p n : Nat) : Chip :=
  if countersRun c p then canState (onCan c p fun x => { x with rcv := min 255 (x.rcv + n) }) p else c

/-! ### Receiving (R357 to R361) -/

/-- The identifier word of Table: CAN receive entry. -/
def rxIdw (f : CanRx) : Nat := b2n f.ide * 2 ^ 31 + b2n f.fdf * 2 ^ 30 + b2n f.brs * 2 ^ 29 + f.id.toNat

/-- The flags byte. -/
def rxFlags (f : CanRx) : Nat := b2n f.rtr + 2 * b2n f.esi

/-- A receive entry. -/
def rxEntry (f : CanRx) (index : Nat) : List Byte :=
  bytesLE 8 f.ts ++ bytesLE 8 f.sof ++ bytesLE 4 (rxIdw f) ++ bytesLE 1 f.data.length ++ bytesLE 1 (rxFlags f) ++ bytesLE 1 index ++
    bytesLE 1 0 ++ padTo 64 f.data

/-- Whether element f matches. -/
def filterHits (c : Chip) (p f : Nat) (x : CanRx) : Bool :=
  let a := rawReg c (Reg.canFlta.addr p f)
  let b := rawReg c (Reg.canFltb.addr p f)
  let w := if x.ide then 28 else 10
  let d := ((x.id.zeroExtend 32) ^^^ a) &&& b
  bit a 31 && (bit b 31 == x.ide) && bits d w 0 = 0

/-- The action and index of a frame (R358). -/
def route (c : Chip) (p : Nat) (x : CanRx) : Nat × Nat :=
  match (List.range 64).find? fun f => filterHits c p f x with
  | some f => (bits (rawReg c (Reg.canFlta.addr p f)) 30 29, f)
  | none => (bits (canCfg c p) 25 24, 0x7F)

/-- A matching frame for the monitor window (R370). -/
def monitorFrame (c : Chip) (p : Nat) (m : MonFrame) : Chip :=
  let w := rawReg c (Reg.canMonctl.addr p)
  if !bit w 31 || !(bit w 7 || (bits w 6 0 = m.index && m.index < 64)) then c
  else
    let x := canOf c p
    match x.lock with
    | none => onCan c p fun x => { x with window := some m }
    | some _ =>
      let c := if x.pendWin.isSome then bump c (Reg.canMonctl.addr p) 23 16 else c
      onCan c p fun x => { x with pendWin := some m }

/-- A frame that the controller receives: one of the bus, or its own where it is turned back on itself (R519). The first drop after
a curd without one raises the queue's source (R359). -/
def canDeliver (c : Chip) (p : Nat) (f : CanRx) : Chip :=
  if !f.valid then recBad (bump c (Reg.canCnt2.addr p) 31 16) p f.recAdd
  else
    let (act, index) := route c p f
    let c := recGood (monitorFrame c p ⟨f, index⟩) p
    if act = 0 || act = 3 then c
    else match queueOfPort c 10 (2 * p + (act - 1)) with
      | none => c
      | some q =>
        let (c, lost) := appendInbound c q (rxEntry f index)
        if !lost then c
        else
          let x := canOf c p
          let was := if act = 1 then x.lost0 || x.shown0 else x.lost1 || x.shown1
          let c := onCan c p fun x => if act = 1 then { x with lost0 := true, lostSt := true } else { x with lost1 := true, lostSt := true }
          if was then c else raise c (canSrc p (4 + act)) (rxIdw f)

/-- CAN_FRAME_RECEIVE. A controller in bus-off takes no part in the bus; one turned back on itself takes nothing from it. -/
def canReceive (c : Chip) (p : Nat) (f : CanRx) : Chip :=
  if !canOn c p || (canOf c p).state = 2 || turned c (5 + p) then c else canDeliver c p f

/-- KSTAT of a controller's points but for NEW and QLOST (R361). -/
def canKstat (c : Chip) (p : Nat) : Nat :=
  let x := canOf c p
  4 * b2n (x.state = 1) + 8 * b2n (x.state = 2) + 16 * b2n (!canOpen c p)

/-- Controller and queue of a receive point. -/
def rxOfPoint (c : Chip) (pt : Nat) : Option (Nat × Nat) :=
  if pt = 0 then none
  else [(0, 0), (0, 1), (1, 0), (1, 1), (2, 0), (2, 1), (3, 0), (3, 1)].find? fun e =>
    bits (rawReg c (Reg.canRxpnt.addr e.1 e.2)) 31 16 = pt

/-- A receive point as Vat v latches it (R360, R361): its entries are taken into the slots. -/
def canLatch (c : Chip) (v : Vat) (p q pt time : Nat) : Chip × Sample :=
  let (c, es) := match queueOfPort c 10 (2 * p + q) with
    | none => (c, [])
    | some h => let (pl, es) := takeStamped c v h time; (setPlane c v pl, es)
  let lost := if q = 0 then (canOf c p).lost0 else (canOf c p).lost1
  (c, ⟨.stream 88, word (b2n (canOn c p) * 2 ^ 31 + b2n (!es.isEmpty) + 2 * b2n lost + canKstat c p),
       padTo (ptSize c pt) (bytesLE 4 es.length ++ bytesLE 4 0 ++ (es.map (·.bytes)).flatten), none⟩)

/-- The controller of a status point. -/
def canStatusOf (c : Chip) (pt : Nat) : Option Nat :=
  if pt = 0 then none else (List.range 4).find? fun p => bits (rawReg c (Reg.canStspnt.addr p)) 31 16 = pt

/-- After a task's latch: QLOST has been shown, or its absence. -/
def canAfterLatch (c : Chip) (t : TaskId) : Chip :=
  (List.range 4).foldl (fun c p =>
    let p0 := bits (rawReg c (Reg.canRxpnt.addr p 0)) 31 16
    let p1 := bits (rawReg c (Reg.canRxpnt.addr p 1)) 31 16
    let ps := bits (rawReg c (Reg.canStspnt.addr p)) 31 16
    let c := if p0 ≠ 0 && ptBelongs c p0 false t then onCan c p fun x => { x with lost0 := false, shown0 := x.lost0 } else c
    let c := if ps ≠ 0 && ptBelongs c ps false t then onCan c p fun x => { x with lostSt := false } else c
    if p1 ≠ 0 && ptBelongs c p1 false t then onCan c p fun x => { x with lost1 := false, shown1 := x.lost1 } else c) c

/-! ### The transmit store (R362 to R364, R367) -/

/-- Frames pending in the store: a reference message, frozen or not, is none of them (R369). -/
def txPend (x : CanCtl) : Nat := x.store.length + b2n (x.frozen.any fun f => !f.isRef)

/-- Frames that a flush discards: the store, the frozen head and a reference message that waits. -/
def txHeld (x : CanCtl) : Nat := x.store.length + b2n x.frozen.isSome + b2n x.refMsg.isSome

/-- An entry of Q32517 + p as a frame. -/
def entryFrame (e : List Byte) : CanFrame :=
  let n := leAt e 4 1
  ⟨word (leAt e 0 4), n, leAt e 5 1, (e.drop 8).take n, false⟩

/-- The faults of R363. -/
def badFrame (w : Word) (f : CanFrame) : Bool :=
  let fdf := bit f.idw 30
  !([0, 1, 2, 3, 4, 5, 6, 7, 8, 12, 16, 20, 24, 32, 48, 64].contains f.len) || (!fdf && 8 < f.len) || (fdf && !bit w 29) ||
    (bit f.idw 29 && drate w = 0) || (fdf && f.flags % 2 = 1) || (!bit f.idw 31 && bits f.idw 28 11 ≠ 0)

/-- The commit of a task releases a new batch of each of its transmit points into Q32517 + p, in SERVICE (R362). -/
def canRelease (c : Chip) (t : TaskId) : Chip :=
  (List.range 4).foldl (fun c p =>
    let w := rawReg c (Reg.canTxpnt.addr p)
    let pt := bits w 31 16
    if !releases c [5 + p] || pt = 0 || !ptBelongs c pt true t then c
    else
      let bs := padTo (ptSize c pt) ((mapGet none c.core.committed pt).getD [])
      let seq := leAt bs 0 2
      let n := leAt bs 2 2 % 64
      if seq = (canOf c p).lastSeq then c
      else
        let c := onCan c p fun x => { x with lastSeq := seq }
        if bits w 5 0 < n then bump c (Reg.canCnt2.addr p) 15 0
        else (List.range n).foldl (fun c i => (appendOne c (32517 + p) true ((bs.drop (8 + 72 * i)).take 72)).1) c) c

/-- The store, the frozen head, a reference message that waits and the queue of a controller discarded, counted in TXFLUSH: a
reference message counts like any other frame (R369). -/
def flushStore (c : Chip) (p : Nat) (queue : Bool) : Chip :=
  let x := canOf c p
  let d := devQueue c (32517 + p)
  let inQ := if queue then d.entries.length + d.transit.length + d.held.length else 0
  let c := bumpBy c (Reg.canCnt1.addr p) 31 16 (txHeld x + inQ)
  let c := onCan c p fun x => { x with store := [], frozen := none, refMsg := none, offered := none }
  if queue then setDevQueue c (32517 + p) (d.flush (liveDesc c (32517 + p)).depth) else c

/-- CAN_STORE_FILL: an entry moves from the queue to the store while it has room; closed, it is discarded. -/
def storeFill (c : Chip) (p : Nat) : Chip :=
  if !canOn c p then c
  else if 64 ≤ txPend (canOf c p) then c
  else match takeDev c (32517 + p) with
    | none => c
    | some (e, c) =>
      let f := entryFrame e
      if !canOpen c p then bump c (Reg.canCnt1.addr p) 31 16
      else if badFrame (canCfg c p) f then bump c (Reg.canCnt2.addr p) 15 0
      else
        let c := onCan c p fun x => { x with store := x.store ++ [f] }
        if 64 ≤ txPend (canOf c p) then raise c (canSrc p 4) else c

/-- The arbitration field of a frame as a number: the least wins (R364). -/
def arbField (f : CanFrame) : Nat :=
  let id := bits f.idw 28 0
  let rtr := f.flags % 2
  if bit f.idw 31 then (id / 2 ^ 18) * 2 ^ 21 + 2 ^ 20 + 2 ^ 19 + (id % 2 ^ 18) * 2 + rtr
  else (id % 2 ^ 11) * 2 ^ 21 + rtr * 2 ^ 20

/-- The most urgent frame of a store; of equal ones the first to enter. -/
def mostUrgent (l : List CanFrame) : Option CanFrame :=
  l.foldl (fun b f => match b with | none => some f | some g => if arbField f < arbField g then some f else some g) none

/-- CAN_BUS_IDLE: the frozen head first, then a reference message, then the most urgent frame of the store. The bus is not idle
while a frame that has been offered is on it. -/
def busIdle (c : Chip) (p : Nat) : Chip :=
  let x := canOf c p
  if !canOpen c p || x.state = 2 || x.offered.isSome then c
  else
    let f := match x.frozen, x.refMsg with
      | some f, _ => some f
      | none, some f => some f
      | none, none => mostUrgent x.store
    onCan c p fun x => { x with offered := f }

/-- A frame leaves: the frozen head, the reference message or a frame of the store. -/
def CanCtl.leave (x : CanCtl) (f : CanFrame) : CanCtl :=
  if x.frozen = some f then { x with frozen := none }
  else if f.isRef then { x with refMsg := if x.refMsg = some f then none else x.refMsg }
  else { x with store := x.store.erase f }

/-- The own frame that a controller turned back on itself receives at the end of its transmission (R519). -/
def ownFrame (c : Chip) (p sof : Nat) (f : CanFrame) : CanRx :=
  { valid := true, ide := bit f.idw 31, fdf := bit f.idw 30, brs := bit f.idw 29, rtr := f.flags % 2 = 1,
    esi := bit f.idw 30 && (canOf c p).state = 1, id := f.idw.setWidth 29, data := f.data.take f.len, ts := now c, sof := sof, recAdd := 0 }

/-- CAN_TX_SUCCESS, with the SOF time of the frame; a reference message queued meanwhile carries it. A controller turned back on
itself receives its own frame. -/
def txSuccess (c : Chip) (p sof : Nat) : Chip :=
  match (canOf c p).offered with
  | none => c
  | some f =>
    let c := if turned c (5 + p) then canDeliver c p (ownFrame c p sof f) else c
    let c := onCan c p fun x => { x.leave f with offered := none, tec := x.tec - 1, sentCount := (x.sentCount + 1) % 2 ^ 32 }
    let c := canState c p
    if f.isRef then
      raise (bump (onCan c p fun x => { x with refLast := some sof, refMsg := x.refMsg.map fun g => { g with data := bytesBE 8 sof } }) (Reg.canCnt3.addr p) 15 0) (canSrc p 7) (sof % 2 ^ 32)
    else c

/-- CAN_ARB_LOST. -/
def arbLost (c : Chip) (p : Nat) : Chip :=
  match (canOf c p).offered with
  | none => c
  | some _ => bump (onCan c p fun x => { x with offered := none }) (Reg.canCnt0.addr p) 31 16

/-- BUS_OFF (R365): the frame becomes the frozen head, and recovery starts with AUTOREC. -/
def enterBusOff (c : Chip) (p : Nat) (f : CanFrame) : Chip :=
  let c := onCan c p fun x => { x.leave f with frozen := some f, offIdw := f.idw, state := 2, recov := bit (canCfg c p) 28 }
  raise (bump c (Reg.canCnt1.addr p) 15 0) (canSrc p 2) f.idw.toNat

/-- CAN_TX_ERROR; `counts` says whether the standard adds 8 to TEC for it. -/
def txError (c : Chip) (p : Nat) (counts : Bool) : Chip :=
  match (canOf c p).offered with
  | none => c
  | some f =>
    let tec := (canOf c p).tec + (if counts then 8 else 0)
    let c := bump (onCan c p fun x => { x with offered := none, tec := tec }) (Reg.canCnt0.addr p) 15 0
    if 255 < tec then enterBusOff c p f else canState c p

/-- CAN_RECOVERY_DONE: the source carries the INFO that bus-off had, also where the frozen head has been flushed meanwhile. -/
def recoveryDone (c : Chip) (p : Nat) : Chip :=
  let x := canOf c p
  if x.state ≠ 2 || !x.recov then c
  else raise (onCan c p fun x => { x with tec := 0, rcv := 0, state := 0, recov := false }) (canSrc p 3) x.offIdw.toNat

/-- A write of CAN_CMDp: whether it is accepted, and its effect (Table: CAN_CMDp). -/
def canCmdWrite (c : Chip) (p : Nat) (w : Word) : Chip × Bool :=
  match bits w 31 28 with
  | 0 => (c, true)
  | 1 =>
    let x := canOf c p
    if x.state = 2 && !x.recov && !bit (canCfg c p) 28 then (onCan c p fun x => { x with recov := true }, true) else (c, false)
  | 2 => (flushStore c p false, true)
  | _ => (c, false)

/-! ### Transmission opening and closing (R366 to R368) -/

/-- CAN_TX_CLOSE and its opposite, as the module's mode, the partner and the configuration have them now. -/
def canCheck (c : Chip) : Chip :=
  (List.range 4).foldl (fun c p =>
    let o := canOpen c p
    let x := canOf c p
    if o = x.opened then c
    else
      let c := onCan c p fun x => { x with opened := o, offered := if o then x.offered else none }
      if !o && !bit (canCfg c p) 30 then flushStore c p true else c) c

/-- An entry to SERVICE (R362, R369). -/
def canEnterService (c : Chip) : Chip :=
  (List.range 4).foldl (fun c p =>
    let pt := bits (rawReg c (Reg.canTxpnt.addr p)) 31 16
    let seq := leAt ((mapGet none c.core.committed pt).getD []) 0 2
    onCan c p fun x => { x with refLast := none, lastSeq := if pt = 0 then x.lastSeq else seq }) c

/-- The bit timing in force: the registers under EXPERT, else what NRATE and DRATE derive (R356, R373). -/
def canTiming (c : Chip) (p : Nat) : Word × Word :=
  if expertLive c 10 then (rawReg c (Reg.canArbtim.addr p), rawReg c (Reg.canFdtim.addr p))
  else (derivedArb (nrate (canCfg c p)), derivedFd (drate (canCfg c p)))

/-- Recovery starts where AUTOREC is 1: at once at bus-off, or as it becomes 1 during it (R365). -/
def autoRecover (c : Chip) (p : Nat) : Chip :=
  onCan c p fun x => { x with recov := x.recov || (decide (x.state = 2) && bit (canCfg c p) 28) }

/-- A committed change of bit timing, EN or LOM resets the counters and empties the store; EN of the time master begins
anew (R369, R373). -/
def canApplied (c : Chip) (p : Nat) (reset newRef : Bool) : Chip :=
  let c := if reset then
      onCan (flushStore c p false) p fun x => { x with tec := 0, rcv := 0, state := 0, recov := false } else c
  if newRef then onCan c p fun x => { x with refLast := none } else c

/-! ### Time master (R369) -/

/-- REFERENCE_INSTANT, one for an instant. -/
def referenceInstant (c : Chip) (p : Nat) : Chip :=
  let w := rawReg c (Reg.canRefctl.addr p)
  let per := (rawReg c (Reg.canRefper.addr p)).toNat
  let ph := (rawReg c (Reg.canRefph.addr p)).toNat
  if !bit w 31 || per = 0 || ((now c / 1000 : Nat) - (ph : Int)) % per ≠ 0 || !canOpen c p || (canOf c p).refTick = some c.core.tick then c
  else
    let x := canOf c p
    let f : CanFrame := ⟨word (b2n (bit w 30) * 2 ^ 31 + bits w 28 0), 8, 0, bytesBE 8 (x.refLast.getD 0), true⟩
    let c := if x.refMsg.isSome then bump c (Reg.canCnt3.addr p) 31 16 else c
    onCan c p fun x => { x with refMsg := some f, refTick := some c.core.tick }

/-! ### Monitor window (R370) -/

/-- LASTW of a frame. -/
def lastW (m : MonFrame) : Nat := 3 + (m.rx.data.length + 3) / 4

/-- LASTW as the window shows it: 0 while it holds no frame. -/
def shownLast (m : Option MonFrame) : Nat := m.elim 0 lastW

/-- Word w of the window. -/
def monWord (m : Option MonFrame) (w : Nat) : Word :=
  match m with
  | none => 0
  | some m =>
    match w with
    | 0 => word (rxIdw m.rx)
    | 1 => word (m.rx.data.length * 2 ^ 24 + rxFlags m.rx * 2 ^ 16 + m.index * 256 + lastW m)
    | 2 => word m.rx.ts
    | 3 => word (m.rx.ts / 2 ^ 32)
    | w => word (leAt (padTo 64 m.rx.data) (4 * (w - 4)) 4)

/-- The lock released: a pending frame enters the window. -/
def monRelease (c : Chip) (p : Nat) : Chip :=
  onCan c p fun x => { x with lock := none, window := match x.pendWin with | some m => some m | none => x.window, pendWin := none }

/-- CAN_MON_READ: word w read by the culture or a session. -/
def monRead (c : Chip) (p w : Nat) (who : Writer) : Chip × Word :=
  let x := canOf c p
  let v := monWord x.window w
  let t := c.core.tick
  match x.lock with
  | none => if w = 0 && bit (rawReg c (Reg.canMonctl.addr p)) 31 then (onCan c p fun x => { x with lock := some (who, t) }, v) else (c, v)
  | some (o, _) =>
    if o ≠ who then (c, v)
    else if w = shownLast x.window then (monRelease c p, v)
    else (onCan c p fun x => { x with lock := some (o, t) }, v)

/-- OWNER and SESSION of a lock. -/
def lockCode : Option (Writer × Nat) → Nat × Nat
  | none => (0, 0)
  | some (.culture, _) => (1, 0)
  | some (.session n, _) => (2, n.val)

/-- A lock ended without a read: its source is raised. -/
def monDrop (c : Chip) (p : Nat) : Chip :=
  let l := (canOf c p).lock
  if l.isNone then c
  else let (o, n) := lockCode l; raise (monRelease c p) (canSrc p 8) (o + 4 * n)

/-- MONITOR_LOCK_TIMEOUT: 10 ms ± 1 ms without a read by the owner. -/
def monTimeout (c : Chip) (p : Nat) : Chip :=
  match (canOf c p).lock with
  | some (_, t) => if t + 9000 ≤ c.core.tick then monDrop c p else c
  | none => c

/-- Locks of an ended session, or of all sessions at an Affineur restart. -/
def monSessionEnd (c : Chip) (n : Option (Fin 4)) : Chip :=
  (List.range 4).foldl (fun c p => match (canOf c p).lock, n with
    | some (.session k, _), some n => if k = n then monDrop c p else c
    | some _, none => monDrop c p
    | _, _ => c) c

/-! ### Registers and commit rules (R371 to R373) -/

/-- CAN_STATp. -/
def canStat (c : Chip) (p : Nat) : Word :=
  let x := canOf c p
  word ((if canOn c p then x.state else 3) * 2 ^ 30 + b2n (!canOpen c p) * 2 ^ 29 + b2n x.frozen.isSome * 2 ^ 28 + b2n x.recov * 2 ^ 27 +
    min 255 x.rcv * 2 ^ 16 + min 255 x.tec * 2 ^ 8 + txPend x)

/-- The sample of a status point (R371). -/
def canStatusSample (c : Chip) (p : Nat) : Sample :=
  let x := canOf c p
  let st := if canOn c p then x.state else 3
  ⟨.values [4, 4], word (b2n (canOn c p) * 2 ^ 31 + 2 * b2n x.lostSt + canKstat c p),
   bytesLE 4 (min 255 x.tec + min 255 x.rcv * 256 + st * 2 ^ 16 + txPend x * 2 ^ 18) ++ bytesLE 4 x.sentCount, none⟩

/-- What a read of a CAN register shows that is not a stored word; the window is read by `monRead`. -/
def canView (c : Chip) (a : Nat) : Option Word :=
  let p := (a - 0x0A0000) / 1024
  let o := (a - 0x0A0000) % 1024
  match o with
  | 1 => if expertLive c 10 then none else some (derivedArb (nrate (canCfg c p)))
  | 2 => if expertLive c 10 then none else some (derivedFd (drate (canCfg c p)))
  | 3 => some (canStat c p)
  | 0x20 =>
    let (ow, n) := lockCode (canOf c p).lock
    some (setBits (setBits (setBits (rawReg c a) 30 30 (b2n (canOf c p).lock.isSome)) 29 28 ow) 26 24 n)
  | _ => none

/-- Whether a change of a CAN word is refused in the present mode (R373). -/
def canModeLocked (c : Chip) (a : Nat) (old new : Word) : Bool :=
  let o := (a - 0x0A0000) % 1024
  !(c.sys.mode = .prove || c.sys.mode = .maintenance) &&
    ((o = 0 && ((old ^^^ new) &&& 0x803E0000) ≠ 0) || ((o = 1 || o = 2) && old ≠ new))

/-- The commit rules of one controller (R373). `inq` answers whether an enabled inbound queue of a port exists, with its
SIZE field, depth and task. -/
def canRulesOf (expert : Bool) (inq : Nat → Option (Nat × Nat × Nat)) (w : After) (p : Nat) : List Fail :=
  let ca := Reg.canCtl.addr p
  let ctl := w ca
  let aa := Reg.canArbtim.addr p
  let fa := Reg.canFdtim.addr p
  let a := if expert then w aa else derivedArb (nrate ctl)
  let f := if expert then w fa else derivedFd (drate ctl)
  let fl := (List.range 64).flatMap fun k =>
    failIf (bits (w (Reg.canFlta.addr p k)) 30 29 = 3) (Reg.canFlta.addr p k) 30 29
  let aq := bits a 8 0 * (1 + bits a 31 24 + bits a 23 17)
  let fq := bits f 15 11 * (1 + bits f 31 26 + bits f 25 21)
  let rx (q : Nat) : List Fail :=
    let ra := Reg.canRxpnt.addr p q
    let pt := bits (w ra) 31 16
    if pt = 0 then []
    else match inq (2 * p + q) with
      | some (size, depth, task) =>
        failIf (size ≠ 21 || 32 < depth || !ptInput w pt (8 + 88 * depth) || ptTask w pt ≠ task) ra 31 16
      | none => [(ra, 31, 16)]
  let ta := Reg.canTxpnt.addr p
  let slots := bits (w ta) 5 0
  let tpt := bits (w ta) 31 16
  let sa := Reg.canStspnt.addr p
  let ref := w (Reg.canRefctl.addr p)
  let per := (w (Reg.canRefper.addr p)).toNat
  fl ++ failIf (bits ctl 25 24 = 3) ca 25 24 ++ failIf (5 ≤ drate ctl) ca 19 17 ++ failIf (drate ctl ≠ 0 && !bit ctl 29) ca 19 17 ++
    failIf (aq < 80 || 8000 < aq) aa 8 0 ++ failIf (bits a 23 17 < 2) aa 23 17 ++
    failIf (bits a 16 10 = 0 || bits a 23 17 < bits a 16 10) aa 16 10 ++
    (if drate ctl = 0 then [] else
      failIf (fq < 16 || bits f 15 11 = 0) fa 15 11 ++ failIf (bits f 31 26 = 0) fa 31 26 ++ failIf (bits f 25 21 = 0) fa 25 21 ++
        failIf (bits f 20 16 = 0 || bits f 25 21 < bits f 20 16) fa 20 16) ++
    rx 0 ++ rx 1 ++
    (if tpt = 0 then [] else failIf (slots = 0 || 32 < slots) ta 5 0 ++ failIf (!ptPress w tpt (8 + 72 * slots)) ta 31 16) ++
    failIf (bits (w sa) 31 16 ≠ 0 && !ptInput w (bits (w sa) 31 16) 8) sa 31 16 ++
    (if !bit ref 31 then [] else
      failIf (per < 100 || 1000000 < per) (Reg.canRefper.addr p) 31 0 ++
        failIf (per ≤ (w (Reg.canRefph.addr p)).toNat) (Reg.canRefph.addr p) 31 0 ++
        failIf (!bit ref 30 && 0x7FF < bits ref 28 0) (Reg.canRefctl.addr p) 28 0)

end Sys2Proof.Machine
end

