-- ==== Sys2Proof/Machine/Brg.lean ====
section
/-! DEFINITION. The legacy rack port (R375 to R389): windows, transfers and their ends, rack masters, side-band lines. -/

namespace Sys2Proof.Machine

/-- The BRG block changed. -/
def onBrg (c : Chip) (f : Brg → Brg) : Chip := { c with brg := f c.brg }

/-- BRG_CTL.EN. -/
def brgOn (c : Chip) : Bool := bit (rawReg c Reg.brgCtl.addr) 31

/-- Whether the bridge drives the bus (R386). -/
def brgDrive (c : Chip) : Bool := brgOn c && c.sys.mode = .service && c.ldl.chgIn ≠ .toggling

/-- Whether the bridge watches the bus of the partner: MON, while not driving, and not turned back on itself (R386, R519). -/
def brgMon (c : Chip) : Bool := brgOn c && !brgDrive c && bit (rawReg c Reg.brgCtl.addr) 30 && !turned c 9

/-- RETRY: 16 without EXPERT (R389). -/
def brgRetry (c : Chip) : Nat := if expertLive c 11 then fieldOf c Reg.brgCtl.addr 23 16 else 16

/-- BRG_WCTLw. -/
def winCfg (c : Chip) (w : Nat) : Word := rawReg c (Reg.brgWctl.addr w)

/-- KIND of a window word: 0 OUTPUT, 1 INPUT, 2 INBOUND. -/
def winKind (w : Word) : Nat := bits w 30 29

/-- LEN in words. -/
def winLen (w : Word) : Nat := bits w 5 0

/-- The words of window w now: BRG_WCTL and BRG_WADR. -/
def winWords (c : Chip) (w : Nat) : Word × Word := (winCfg c w, rawReg c (Reg.brgWadr.addr w))

/-- The words under which a window's transfer runs: as they were when the transfer began (R389). -/
def xferWords (c : Chip) (w : Nat) : Word × Word := (mapGet none c.brg.under w).getD (winWords c w)

/-- BRG_WCTL under which a window's transfer runs. -/
def xferCfg (c : Chip) (w : Nat) : Word := (xferWords c w).1

/-- POINT of window w. -/
def winPoint (c : Chip) (w : Nat) : Nat := bits (rawReg c (Reg.brgWpnt.addr w)) 31 16

/-- The enabled windows of a kind, ascending. -/
def windows (c : Chip) (k : Nat) : List Nat := (List.range 64).filter fun w => bit (winCfg c w) 31 && winKind (winCfg c w) = k

/-! ### Byte lanes (R380) -/

/-- The four point bytes that a bus word carries under a lane rule. -/
def laneBytes (lane : Nat) (ad : Word) : List Byte :=
  match bytesLE 4 ad.toNat with
  | [b0, b1, b2, b3] => match lane with
    | 1 => [b2, b3, b0, b1]
    | 2 => [b3, b2, b1, b0]
    | _ => [b0, b1, b2, b3]
  | l => l

/-! ### Transfer ends (R378, R383) -/

/-- A window queue entry (Table: Window queue entry). -/
def winEntry (ts w res : Nat) (d : List Byte) : List Byte :=
  let d := if res = 0 then d else []
  bytesLE 8 ts ++ bytesLE 1 w ++ bytesLE 1 res ++ bytesLE 2 d.length ++ bytesLE 4 0 ++ padTo 240 d

/-- The counter that a result increases. -/
def countResult (c : Chip) (res : Nat) : Chip :=
  match res with
  | 1 => bump c Reg.brgCnt1.addr 31 16
  | 2 => bump c Reg.brgCnt1.addr 15 0
  | 4 => bump c Reg.brgCnt2.addr 15 0
  | _ => c

/-- Whether Vat v's copy of a window's queue holds a credit. -/
def creditAt (c : Chip) (w : Nat) (v : Vat) : Bool :=
  (queueOfPort c 11 w).any fun q => let p := plane c v; decide ((queueOf p q).spent < (descOf p q).depth)

/-- Whether every SERVING Vat's copy of a window's queue holds a credit. R383 does not say what the first transaction of an INBOUND
transfer finds where only some copies hold one: it is backed off (DESIGN CHOICE, log entry 105). -/
def winCredit (c : Chip) (w : Nat) : Bool := (queueOfPort c 11 w).isSome && (servingVats c).all (creditAt c w)

/-- The bus is free of the bridge's transaction, and with it arbiter 33 of its grant. -/
def brgFree (c : Chip) : Chip :=
  let k := arbKey 33 .a
  setArb (onBrg c fun b => { b with trans := none }) k { arbOf c k with holder := none }

/-- A read of an INPUT window at its start. -/
def BrgXfer.read : BrgXfer := ⟨false, [], 0, [], 0, none⟩

/-- A window's transfer put to arbiter 33 as requester w, under the window's present words (R381, R389). -/
def requestTransfer (c : Chip) (w : Nat) (x : BrgXfer) : Chip :=
  onBrg c fun b => { b with xfers := mapPut none b.xfers w (some x), under := mapPut none b.under w (some (winWords c w)) }

/-- A read of window w that fell due while the last one ran begins. -/
def readAgain (c : Chip) (w : Nat) : Chip :=
  match mapGet 0 c.brg.again w with
  | 0 => c
  | n + 1 => requestTransfer (onBrg c fun b => { b with again := mapPut 0 b.again w n }) w BrgXfer.read

/-- A window's transfer ends with a result: INPUT and INBOUND windows append an entry, of an INPUT window to each copy that holds a
credit (R164, R383), and an error raises the source. -/
def endTransfer (c : Chip) (w res ts : Nat) (d : List Byte) : Chip :=
  let kind := winKind (xferCfg c w)
  let c := if c.brg.trans.any fun t => t.win = w then brgFree c else c
  let c := onBrg c fun b => { b with xfers := mapErase b.xfers w, under := mapErase b.under w, gathered := mapErase b.gathered w, results := mapPut 0 b.results w res }
  let c := bump (countResult c res) (Reg.brgWst.addr w) 15 0
  let vats := if kind = 1 then allVats.filter (creditAt c w) else allVats
  let c := if kind = 0 || vats.isEmpty then c
    else match queueOfPort c 11 w with
      | some q => (appendInbound c q (winEntry ts w res d) 0 0 vats).1
      | none => c
  readAgain (if res = 0 then c else raise c (1728 + w) res) w

/-! ### Transactions (R376, R377, R379, R381) -/

/-- The data of point bytes as the bus words that carry them. -/
def busWords (lane : Nat) (d : List Byte) : List Word :=
  (List.range ((d.length + 3) / 4)).map fun k => word (leAt ((laneBytes lane (word (leAt d (4 * k) 4)))) 0 4)

/-- Words of a window's transfer. -/
def xferLen (c : Chip) (w : Nat) (x : BrgXfer) : Nat := if x.write then (x.data.length + 3) / 4 else winLen (xferCfg c w)

/-- The word after the transaction that begins at word `next`: transactions end at multiples of 16 words and at the last word. -/
def transStop (next len : Nat) : Nat := min len ((next / 16 + 1) * 16)

/-- The address-phase word of window w from word `next` on: SEL 0, the slot and the byte offset (R376). -/
def transAddr (c : Chip) (w next : Nat) : Word := word (bits (xferWords c w).2 27 0 + 4 * next)

/-- Whether the slot that a window's transfer addresses is present. -/
def slotPresent (c : Chip) (w : Nat) : Bool := c.brg.pres.getLsbD (bits (xferWords c w).2 27 24)

/-- The windows that ask arbiter 33: their transfers run, and do not wait out a back-off (R379). -/
def brgReady (c : Chip) : List Nat := (c.brg.xfers.filter fun e => e.2.any fun x => x.backed.isNone).map (·.1)

/-- Window w granted: its next transaction goes onto the bus. To an absent slot it is not made, and the transfer ends with ABSENT
(R382). -/
def beginTrans (c : Chip) (w : Nat) : Chip :=
  match mapGet none c.brg.xfers w with
  | none => brgFree c
  | some x =>
    if !slotPresent c w then endTransfer (brgFree c) w 4 (now c) []
    else
      let words := if x.write then (busWords (bits (xferCfg c w) 28 27) x.data).take (transStop x.next (xferLen c w x)) else []
      onBrg c fun b => { b with trans := some ⟨w, x.write, transAddr c w x.next, words.drop x.next⟩ }

/-- A rack master's transaction backed off. -/
def backOffMaster (c : Chip) : Chip := bump (onBrg c fun b => { b with grant := none }) Reg.brgCnt0.addr 31 16

/-- The bus goes to the next outbound request while the bridge drives it: arbiter 33 decides, a rack master that owns the bus is
backed off (R379), and a request to an absent slot leaves the bus to the next one. -/
def brgNext : Nat → Chip → Chip
  | 0, c => c
  | n + 1, c =>
    let ask := brgReady c
    if !brgDrive c || c.brg.trans.isSome || ask.isEmpty then c
    else
      let c := if c.brg.grant.isSome then backOffMaster c else c
      let k := arbKey 33 .a
      let x := arbOf c k
      match arbDecide (setArb c k { x with reqs := x.reqs.filter fun e => ask.contains e.1 }) k (ask.map fun w => (w, 0)) 0 with
      | (d, none) => d
      | (d, some w) => brgNext n (beginTrans d w)

/-- A window's transfer starts. -/
def startTransfer (c : Chip) (w : Nat) (x : BrgXfer) : Chip := brgNext 64 (requestTransfer c w x)

/-- An OUTPUT window's data turned back, at depth 1, to the INPUT windows of its slot and offset (Table: Loopback depths). -/
def turnBack (c : Chip) (w : Nat) (d : List Byte) : Chip :=
  let ad := busWords (bits (winCfg c w) 28 27) d
  let place (w : Nat) : Nat := bits (rawReg c (Reg.brgWadr.addr w)) 27 0
  let c := ((windows c 1).filter fun i => place i = place w).foldl (fun c i =>
    endTransfer c i 0 (now c) ((ad.take (winLen (winCfg c i))).flatMap (laneBytes (bits (winCfg c i) 28 27)))) c
  endTransfer c w 0 (now c) []

/-- OUTPUT_WINDOW_WRITE: the next entry of Q32521, in queue order; with the port looped the bus is not driven. -/
def outputWrite (c : Chip) : Chip :=
  let busy := c.brg.xfers.any fun e => match e.2 with | some x => x.write | none => false
  if looped c 9 && brgOn c then
    match takeDev c 32521 with
    | none => c
    | some (e, c) => turnBack c (leAt e 0 2 % 64) ((e.drop 16).take (leAt e 2 2))
  else if !brgDrive c || busy then c
  else match takeDev c 32521 with
    | none => c
    | some (e, c) => startTransfer c (leAt e 0 2 % 64) ⟨true, (e.drop 16).take (leAt e 2 2), 0, [], 0, none⟩

/-- INPUT_WINDOW_READ: RDLEAD before a curd instant of the owning task; for a periodic task that instant is known. A read that falls
due while the last one of the window runs follows it. -/
def inputRead (c : Chip) (w : Nat) : Chip :=
  let cfg := winCfg c w
  let due := match TaskId.ofCode (ptTask (rawReg c) (winPoint c w)) with
    | .periodic n => aligned c n (c.core.tick + bits cfg 26 16)
    | _ => true
  if !brgDrive c || !bit cfg 31 || winKind cfg ≠ 1 || !due then c
  else if (mapGet none c.brg.xfers w).isSome then onBrg c fun b => { b with again := mapPut 0 b.again w (mapGet 0 b.again w + 1) }
  else startTransfer c w BrgXfer.read

/-- Whether a transaction of window w is on the bus. -/
def onBus (c : Chip) (w : Nat) : Bool := c.brg.trans.any fun t => t.win = w

/-- RACK_TRANSFER_END: the last data phase of a transaction of window w at a time value, with its result, and the words read in it as
they stood on AD. After the last transaction, or one that failed, the window's transfer ends. A monitoring bridge delivers a read of
its partner as its own (R386). -/
def transferEnd (c : Chip) (w res ts : Nat) (ad : List Word) : Chip :=
  let cfg := xferCfg c w
  let mine := brgDrive c && onBus c w
  let seen := brgMon c && bit cfg 31 && winKind cfg = 1
  if !(mine || seen) || !(res = 0 || (res = 2 && winKind cfg ≠ 0) || res = 5) then c
  else
    let x := (mapGet none c.brg.xfers w).getD BrgXfer.read
    let stop := transStop x.next (xferLen c w x)
    let got := x.got ++ (List.range (stop - x.next)).map fun k => ad.getD k 0
    if res = 0 && stop < xferLen c w x then
      let under := some (xferWords c w)
      let c := if mine then brgFree c else c
      brgNext 64 (onBrg c fun b =>
        { b with xfers := mapPut none b.xfers w (some { x with next := stop, got := got, retries := 0 }), under := mapPut none b.under w under })
    else brgNext 64 (endTransfer c w res ts (got.flatMap (laneBytes (bits cfg 28 27))))

/-- TMO: 64 without EXPERT (R389). -/
def brgTmo (c : Chip) : Nat := if expertLive c 11 then fieldOf c Reg.brgCtl.addr 15 8 else 64

/-- RACK_WAIT_LIMIT: RDY has stayed high for `clocks` clocks, of which TMO end the transaction. -/
def rackWaitLimit (c : Chip) (w clocks ts : Nat) : Chip :=
  if onBus c w && brgTmo c ≤ clocks then brgNext 64 (endTransfer c w 1 ts []) else c

/-- RACK_BACKOFF: BOFF after some more words, given as a read found them on AD; after RETRY repeats of one transaction the result is
RETRY. -/
def rackBackoff (c : Chip) (w : Nat) (words : List Word) (ts : Nat) : Chip :=
  match mapGet none c.brg.xfers w with
  | none => c
  | some x =>
    if !onBus c w then c
    else if brgRetry c ≤ x.retries then brgNext 64 (endTransfer c w 3 ts [])
    else
      let ws := words.take (transStop x.next (xferLen c w x) - x.next - 1)
      brgNext 64 (onBrg (brgFree c) fun b => { b with xfers := mapPut none b.xfers w (some { x with
        next := x.next + ws.length, got := if x.write then [] else x.got ++ ws, backed := some c.core.tick }) })

/-- BACKOFF_REPEAT: the transaction asks for the bus again, from the first word not transferred. -/
def backoffRepeat (c : Chip) (w : Nat) : Chip :=
  match mapGet none c.brg.xfers w with
  | some x =>
    if x.backed.isNone then c
    else brgNext 64 (onBrg (bump c Reg.brgCnt0.addr 15 0) fun b =>
      { b with xfers := mapPut none b.xfers w (some { x with retries := x.retries + 1, backed := none }) })
  | none => c

/-! ### Rack masters (R379, R382) -/

/-- Whether arbiter 33 holds a ready outbound request: a transfer that does not wait out a back-off, or an entry of Q32521 whose
write is to start. -/
def outboundReady (c : Chip) : Bool :=
  let writes := c.brg.xfers.any fun e => e.2.any fun x => x.write
  !(brgReady c).isEmpty || (!writes && !(visibleDev c 32521).isEmpty)

/-- RACK_BREQ: the bus requests asserted; the grant goes round from the slot last granted. A master that owns the bus keeps it. -/
def rackBreq (c : Chip) (lines : BitVec 16) : Chip :=
  if !brgDrive c || outboundReady c || c.brg.grant.isSome then c
  else match ((List.range 16).map fun k => (c.brg.lastGrant + 1 + k) % 16).find? fun s => lines.getLsbD s with
    | some s => onBrg c fun b => { b with grant := some s, lastGrant := s }
    | none => c

/-- A rack master's transaction rejected with TERR: the words gathered are discarded and the result is TERR (R382). -/
def rejectMaster (c : Chip) (w : Nat) : Chip :=
  raise (onBrg c fun b => { b with
    grant := none, gathered := mapErase b.gathered w, under := mapErase b.under w, results := mapPut 0 b.results w 5 }) (1728 + w) 5

/-- The BRG_WCTL word that a transaction from word `start` of an INBOUND window runs under: a transfer in progress keeps the old one. -/
def inboundCfg (c : Chip) (w start : Nat) : Word := if start = 0 then winCfg c w else xferCfg c w

/-- The INBOUND window and the word in it that an address-phase word names: SEL 0xC and 0x100 × w + 4 × word (R376, R381). -/
def inboundPlace (c : Chip) (addr : Word) : Option (Nat × Nat) :=
  let w := bits addr 27 8
  let start := bits addr 7 2
  let cfg := inboundCfg c w start
  if bits addr 31 28 = 12 && bits addr 1 0 = 0 && w < 64 && bit cfg 31 && winKind cfg = 2 then some (w, start) else none

/-- RACK_MASTER_WRITE: a transaction of the master in a slot, complete at a time value, by its address-phase word and the words of its
data phases: by the master that the bridge has granted the bus or, where it monitors, that its partner has. A monitoring bridge
without a credit takes nothing; it backs nothing off. -/
def masterWrite (c : Chip) (slot : Nat) (addr : Word) (ts : Nat) (ad : List Word) : Chip :=
  let mon := brgMon c
  if !((brgDrive c && c.brg.grant = some slot) || mon) then c
  else if !mon && outboundReady c then backOffMaster c
  else match inboundPlace c addr with
  | none => onBrg c fun b => { b with grant := none }
  | some (w, start) =>
    let cfg := inboundCfg c w start
    let got := mapGet [] c.brg.gathered w
    if start = 0 && !winCredit c w then
      (if mon then onBrg c fun b => { b with gathered := mapErase b.gathered w, under := mapErase b.under w } else backOffMaster c)
    else if (start ≠ 0 && start ≠ got.length) || winLen cfg < start + ad.length || 16 < ad.length || ad.isEmpty then rejectMaster c w
    else
      let words := (if start = 0 then [] else got) ++ ad
      let under := if start = 0 then winWords c w else xferWords c w
      let c := onBrg c fun b => { b with grant := none, gathered := mapPut [] b.gathered w words, under := mapPut none b.under w (some under) }
      if words.length = winLen cfg then endTransfer c w 0 ts (words.flatMap (laneBytes (bits cfg 28 27))) else c

/-! ### Points (R384, R385) -/

/-- The window that feeds a point. -/
def winOfPoint (c : Chip) (pt : Nat) : Option Nat := ((windows c 1) ++ windows c 2).find? fun w => winPoint c w = pt

/-- A window point as Vat v latches it. -/
def winLatch (c : Chip) (v : Vat) (w pt time : Nat) : Chip × Sample :=
  let cfg := winCfg c w
  let input := decide (winKind cfg = 1)
  let (c, es) := match queueOfPort c 11 w with
    | none => (c, [])
    | some q => let (p, es) := takeStamped c v q time; (setPlane c v p, es.map fun (e : Entry) => e.bytes)
  let oks := es.filter fun e => leAt e 9 1 = 0
  let c := match oks.getLast? with
    | some e => onBrg c fun b => { b with held := b.held.upd v fun h => mapPut none h w (some e) }
    | none => c
  let inert := input && !brgDrive c && !bit (rawReg c Reg.brgCtl.addr) 30 && !looped c 9
  let late := input && es.isEmpty && (mapGet none c.brg.xfers w).isSome
  let st (valid : Bool) : Word := word (b2n (valid && !inert) * 2 ^ 31 + b2n (!oks.isEmpty) + 2 * b2n late + 4 * b2n (decide (1 < es.length)) +
    8 * b2n (es.any fun e => leAt e 9 1 ≠ 0) + 16 * b2n inert)
  match mapGet none (c.brg.held.get v) w with
  | none => (c, ⟨.frame, st false, List.replicate (ptSize c pt) 0, none⟩)
  | some e =>
    (c, ⟨.frame, st (if input then !oks.isEmpty else true), padTo (ptSize c pt) (e.take 8 ++ (e.drop 16).take (leAt e 10 2)), some (leAt e 0 8)⟩)

/-- Late reads counted once, as the lowest-lettered SERVING Vat saw them, before its latch. -/
def countLate (c : Chip) (t : TaskId) (time : Nat) : Chip :=
  ((windows c 1).filter fun w => ptBelongs c (winPoint c w) false t).foldl (fun c w =>
    let es := match queueOfPort c 11 w with | some q => (takeStamped c (shownVat c) q time).2 | none => []
    if es.isEmpty && (mapGet none c.brg.xfers w).isSome then bump c Reg.brgCnt2.addr 31 16 else c) c

/-- A commit releases the OUTPUT points of the task into Q32521, in SERVICE. -/
def brgRelease (c : Chip) (t : TaskId) : Chip :=
  if !releases c [9] then c
  else ((windows c 0).filter fun w => ptBelongs c (winPoint c w) true t).foldl (fun c w =>
    let n := 4 * winLen (winCfg c w)
    let d := padTo n ((mapGet none c.core.committed (winPoint c w)).getD [])
    (appendOne c 32521 true (bytesLE 2 w ++ bytesLE 2 n ++ List.replicate 12 0 ++ padTo 240 d)).1) c

/-! ### Driving and side-band lines (R386, R387) -/

/-- BRIDGE_DRIVE_STOP and its opposite: a transaction in progress is cut off, and what a monitoring bridge has followed of a read of
its partner is not its own. -/
def brgCheck (c : Chip) : Chip :=
  let d := brgDrive c
  if d = c.brg.driving then c
  else onBrg (brgFree c) fun b => { b with driving := d, xfers := [], again := [], under := b.under.filter fun e => (mapGet [] b.gathered e.1).length ≠ 0, grant := none }

/-- SIDEBAND_CHANGE: the lines as sampled, each change with its source; data that came before is already appended. -/
def sidebandChange (c : Chip) (irq pres : BitVec 16) (sysfail : Bool) : Chip :=
  if !brgOn c then c
  else
    let b := c.brg
    let c := onBrg c fun b => { b with irq := irq, pres := pres, sysfail := sysfail }
    let c := (List.range 16).foldl (fun c s => if irq.getLsbD s && !b.irq.getLsbD s then raise c (1664 + s) s else c) c
    let c := (List.range 16).foldl (fun c s => if pres.getLsbD s = b.pres.getLsbD s then c else raise c (1680 + s) (b2n (pres.getLsbD s))) c
    if sysfail = b.sysfail then c else raise c 1696 (b2n sysfail)

/-! ### Registers and commit rules (R388, R389) -/

/-- What a read of a BRG register shows that is not a stored word. -/
def brgView (c : Chip) (a : Nat) : Option Word :=
  let o := a - 0x0B0000
  if o = 0 then some (if expertLive c 11 then rawReg c a else setBits (setBits (rawReg c a) 23 16 16) 15 8 64)
  else if o = 1 then some (word (b2n (brgDrive c) * 2 ^ 31 + b2n c.brg.sysfail * 2 ^ 30 + c.brg.pres.toNat))
  else if 0x100 ≤ o && o < 0x200 && o % 4 = 3 then
    let w := (o - 0x100) / 4
    let busy := (mapGet none c.brg.xfers w).isSome || !(mapGet [] c.brg.gathered w).isEmpty
    some (setBits (setBits (rawReg c a) 31 31 (b2n busy)) 30 28 (mapGet 0 c.brg.results w))
  else none

/-- Whether a change of a BRG word is refused in the present mode (R389). -/
def brgModeLocked (c : Chip) (a : Nat) (old new : Word) : Bool :=
  a = Reg.brgCtl.addr && ((old ^^^ new) &&& 0xC0000000) ≠ 0 && !(c.sys.mode = .prove || c.sys.mode = .maintenance)

/-- The commit rules of BRG. `inq` answers whether an enabled inbound queue of ORD 1 and SIZE 63 is produced by a port. -/
def brgRules (expert : Bool) (inq : Nat → Bool) (w : After) : List Fail :=
  let ctl := w Reg.brgCtl.addr
  (if expert then failIf (bits ctl 23 16 = 0) Reg.brgCtl.addr 23 16 ++ failIf (bits ctl 15 8 < 8) Reg.brgCtl.addr 15 8 else []) ++
  (List.range 64).flatMap fun n =>
    let a := Reg.brgWctl.addr n
    let x := w a
    if !bit x 31 then []
    else
      let k := winKind x
      let len := winLen x
      let ad := w (Reg.brgWadr.addr n)
      let pa := Reg.brgWpnt.addr n
      let pt := bits (w pa) 31 16
      let size := if k = 0 then (4 * len + 7) / 8 * 8 else (8 + 4 * len + 7) / 8 * 8
      let lead := bits x 26 16
      let task := ptTask w pt
      let period := if task < 256 then bits (w (Reg.hxkTcfg.addr (task % 64))) 17 0 * 50 else 2 ^ 32
      failIf (k = 3) a 30 29 ++ failIf (bits x 28 27 = 3) a 28 27 ++ failIf (len = 0 || 60 < len) a 5 0 ++
        failIf (if k = 1 then lead = 0 || 2000 < lead || period ≤ lead else lead ≠ 0) a 26 16 ++
        failIf (bits ad 23 0 % 4 ≠ 0 || 0x1000000 < bits ad 23 0 + 4 * len) (Reg.brgWadr.addr n) 23 0 ++
        failIf (k = 2 && bits ad 27 0 ≠ 0) (Reg.brgWadr.addr n) 27 24 ++
        failIf (if k = 0 then !ptPress w pt size else !ptInput w pt size || !inq n) pa 31 16

end Sys2Proof.Machine
end

