-- ==== Sys2Proof/Machine/Fio.lean ====
section
/-! DEFINITION. Field lanes, digital inputs and outputs, test-pulse supplies and speed inputs (R390 to R418). -/

namespace Sys2Proof.Machine

/-- The field I/O unit changed. -/
def onFio (c : Chip) (f : Fio → Fio) : Chip := { c with fio := f c.fio }

/-- A comparator path changed. -/
def onPath (c : Chip) (v : Vat) (f : FPath → FPath) : Chip := onFio c fun x => { x with paths := x.paths.upd v f }

/-- Whether the unit runs: from step 8 of the power-up sequence, except in INERT. -/
def fioOn (c : Chip) : Bool := 8 ≤ c.sys.step && c.sys.mode ≠ .inert

/-! ### Enables and votes (R187, R192, R239, R402) -/

/-- Whether HOLD drives substitute values (R192). -/
def substitutes (c : Chip) : Bool :=
  c.sys.mode = .hold && c.sys.holdSub && bit (rawReg c Reg.sysCtl.addr) 0 && c.ldl.chgIn ≠ .toggling && c.pwr.downAt.isNone

/-- The drive permit of the module as a whole (R187); in the orderly power-down only a relinquish still drives (R533). -/
def drivePermit (c : Chip) : Bool :=
  (c.sys.mode = .service && (c.pwr.downAt.isNone || c.ldl.handover.isSome)) || substitutes c || (testRuns c && c.pwr.downAt.isNone)

/-- The output enable (R239), which the loss of refresh (R20) and a fault of the field-logic supply (R19) also close. -/
def outEnable (c : Chip) : Bool := gateOpen c (drivePermit c && leavingDrives c) && !c.fio.inert && !c.pwr.fault.getLsbD 6

/-- A lane's gate commands as the voters see them: none while it is marked absent or held off (R138, R392). -/
def laneGates (c : Chip) (v : Vat) : BitVec 32 := if serving c v && !(c.fio.lanes.get v).off then (c.fio.lanes.get v).cmd.gates else 0

/-- The substitute commands (R407). -/
def subGates (c : Chip) : BitVec 32 :=
  BitVec.ofNat 32 (((List.range 32).map fun n => if bit (rawReg c (Reg.dioDocfg.addr n)) 14 then 2 ^ n else 0).sum)

/-- The voted and enabled commands of the outputs. -/
def effGates (c : Chip) : BitVec 32 :=
  if !outEnable c then 0
  else if c.sys.mode = .hold then subGates c
  else
    let m := maj3 (laneGates c .a) (laneGates c .b) (laneGates c .c)
    if c.sys.mode = .maintenance then m &&& rawReg c Reg.tstOuten.addr else m

/-- The field supply of output n (Table: Field supply assignment). -/
def supplyOf (n : Nat) : Nat := if n < 12 then 0 else if n < 24 then 1 else if n < 28 then 2 else 3

/-- Whether the switch of output n is closed: commanded, without a FAULT latch, its supply present. -/
def doOn (c : Chip) (n : Nat) : Bool := c.fio.eff.getLsbD n && !c.fio.fault.getLsbD n && c.fio.fsok.getLsbD (supplyOf n)

/-- Whether the shared switch of coil group g is closed (R402, R403): the OR of its members' commands in two lanes, in MAINTENANCE
of those that a test selects (R187), with no FAULT latch of the group switch itself (R404). -/
def groupOn (c : Chip) (g : Nat) : Bool :=
  let any (w : BitVec 32) : Bool := w.getLsbD (24 + 2 * g) || w.getLsbD (25 + 2 * g)
  let lane (v : Vat) : Nat := b2n (any (if c.sys.mode = .maintenance then laneGates c v &&& rawReg c Reg.tstOuten.addr else laneGates c v))
  let votes := if c.sys.mode = .hold then 3 * b2n (any (subGates c)) else lane .a + lane .b + lane .c
  outEnable c && 2 ≤ votes && !c.fio.gfault.getLsbD g && c.fio.fsok.getLsbD (supplyOf (24 + 2 * g))

/-- Whether output n conducts: a coil member also needs its group's switch. -/
def conducts (c : Chip) (n : Nat) : Bool := doOn c n && (n < 24 || groupOn c ((n - 24) / 2))

/-- The effective commands judged again: the tick of each change is kept. -/
def fioCheck (c : Chip) : Chip :=
  let e := effGates c
  if e = c.fio.eff then c
  else
    let d := e ^^^ c.fio.eff
    onFio c fun x =>
      { x with
        eff := e
        changed := (List.range 32).foldl (fun m n => if d.getLsbD n then mapPut 0 m n c.core.tick else m) x.changed }

/-! ### Lanes (R20, R390 to R392) -/

/-- A lane frame that is not valid. -/
def laneBad (c : Chip) : Chip := bump c Reg.dioCnt.addr 31 22

/-- Whether a frame is valid (R390): its symbols, delimiters and length are right, and its sequence number is one more than that of
the lane's previous frame in the direction, where there has been one. -/
def frameValid (last : Option (BitVec 8)) (ok : Bool) (seq : BitVec 8) : Bool := ok && (match last with | some l => seq = l + 1 | none => true)

/-- A frame of a downlink that is turned to its uplink (R519): the uplink's receiver checks it like any other frame. It is no input
frame, and brings no samples. -/
def loopedFrame (c : Chip) (v : Vat) (ok : Bool) (seq : BitVec 8) : Chip :=
  let valid := frameValid (c.fio.seqUp.get v) ok seq
  let c := onFio c fun x => { x with seqUp := x.seqUp.set v (some seq) }
  if valid then c else laneBad c

/-- The result of a channel that travels in the input frame of a tick: of the latest conversion that ended before the sample instant,
1 µs before the tick (R424). -/
def resultSent (t : Nat) (x : AlpCh) : Option AlpRes := if x.resAt + 2 ≤ t then x.res else x.prev

/-- INPUT_FRAME: lane v carries its path's states and the results converted so far. Lanes turned back on themselves carry none
(R519). -/
def inputFrame (c : Chip) (v : Vat) (ok : Bool) (seq : BitVec 8) : Chip :=
  if !fioOn c || turned c 11 then c else
  let valid := frameValid (c.fio.seqUp.get v) ok seq
  let c := onFio c fun x => { x with seqUp := x.seqUp.set v (some seq) }
  if !valid then laneBad c
  else onFio c fun x =>
    { x with frames := x.frames.set v { path := x.paths.get v, fault := x.fault, openD := x.openD, tpflt := x.tpflt, fsok := x.fsok,
                                        time := (plane c v).time - 1000,
                                        alp := x.alp.filterMap fun e => (resultSent c.core.tick e.2).map fun r => (e.1, some r) } }

/-- The words of ALP_OPNTn and DIO_DOCFGn whose point, before or after the change, the task owns: they become live at its
commit. -/
def outputWord (c : Chip) (t : TaskId) (a : Nat) : Bool :=
  let owned (w : Word) : Bool := ptBelongs c (bits w 31 16) true t
  (Reg.alpOpnt.covers a || Reg.dioDocfg.covers a) &&
    (owned (rawReg c a) || (match mapGet none c.sys.pend a with | some w => owned w | none => false))

/-- An output word as it acts from the task's next commit on: a committed change takes effect with that commit (R414, R435). -/
def commitWord (c : Chip) (t : TaskId) (a : Nat) : Word :=
  if outputWord c t a then (mapGet none c.sys.pend a).getD (rawReg c a) else rawReg c a

/-- What a commit of a task changes in the lanes' commands, with the press points as `pt` has them (R407, R434). An output that the
task gives up to another one with this commit takes its command from that one's point, as last committed. -/
def taskPatch (c : Chip) (t : TaskId) (pt : Nat → List Byte) (commit : Nat) : FPatch :=
  let point (p : Nat) : List Byte := if ptBelongs c p true t then pt p else (mapGet none c.core.committed p).getD []
  let outs := (List.range 32).filter fun n => outputWord c t (Reg.dioDocfg.addr n) || !bit (commitWord c t (Reg.dioDocfg.addr n)) 15
  let on (n : Nat) : Bool :=
    let w := commitWord c t (Reg.dioDocfg.addr n)
    let b := bits w 5 0
    bit w 15 && ((point (bits w 31 16)).getD (b / 8) 0).getLsbD (b % 8)
  let chans := (List.range 32).filter fun n => bit (rawReg c (Reg.alpCfg.addr n)) 31 && outputWord c t (Reg.alpOpnt.addr n)
  { commit := commit
    mask := BitVec.ofNat 32 (outs.map fun n => 2 ^ n).sum
    gates := BitVec.ofNat 32 ((outs.filter on).map fun n => 2 ^ n).sum
    aout := chans.map fun n => (n, word (leAt (point (bits (commitWord c t (Reg.alpOpnt.addr n)) 31 16)) 0 4)) }

/-- A lane's commands after what a commit changes in them. -/
def FCmd.after (o : FCmd) (p : FPatch) : FCmd :=
  ⟨(o.gates &&& ~~~p.mask) ||| (p.gates &&& p.mask), p.aout.foldl (fun m e => mapPut 0 m e.1 e.2) o.aout⟩

/-- The press has a lane's commands for a commit: a frame where they change them (R390, R392). -/
def sendCommand (c : Chip) (v : Vat) (p : FPatch) : Chip :=
  let old := c.fio.outs.get v
  if old.after p = old then c
  else onFio c fun x => { x with outs := x.outs.set v (old.after p), tx := x.tx.set v (x.tx.get v ++ [p]) }

/-- A frame on the downlink of lane v: its sequence number is the lane's last one (R390). -/
def noteDown (c : Chip) (v : Vat) (seq : BitVec 8) : Chip := onFio c fun x => { x with seqDown := x.seqDown.set v (some seq) }

/-- COMMAND_FRAME: a lane's commands reach the field side, to apply at their commit instant; those of a lane turned back on
itself come back to the Vat instead (R519). -/
def commandFrame (c : Chip) (v : Vat) (ok : Bool) (seq : BitVec 8) : Chip :=
  match c.fio.tx.get v with
  | [] => c
  | p :: rest =>
    let valid := frameValid (c.fio.seqDown.get v) ok seq
    let c := onFio c fun x => { x with tx := x.tx.set v rest }
    if !fioOn c then c
    else if turned c 11 then loopedFrame c v ok seq
    else
    let c := noteDown c v seq
    if !valid then laneBad c
    else onFio c fun x => { x with lanes := x.lanes.upd v fun l => { l with pend := l.pend ++ [p] } }

/-- REFRESH_FRAME: a valid one ends the hold-off of its lane. -/
def refreshFrame (c : Chip) (v : Vat) (ok : Bool) (seq : BitVec 8) : Chip :=
  let valid := frameValid (c.fio.seqDown.get v) ok seq
  if !fioOn c then c
  else if turned c 11 then loopedFrame c v ok seq
  else if !valid then laneBad (noteDown c v seq)
  else onFio (noteDown c v seq) fun x => { x with lanes := x.lanes.upd v fun l => { l with off := false, fresh := some c.core.tick } }

/-- Whether a lane has had a valid refresh within 500 µs. -/
def laneFresh (c : Chip) (v : Vat) : Bool := match (c.fio.lanes.get v).fresh with | some t => decide (c.core.tick < t + 500) | none => false

/-- REFRESH_LOSS (R20): fewer than two lanes have been refreshed for 500 µs. -/
def refreshLoss (c : Chip) : Chip :=
  if 2 ≤ (allVats.filter (laneFresh c)).length then c else onFio c fun x => { x with inert := true, lossAt := some c.core.tick }

/-- FIELD_LANE_REFRESH_TIMEOUT (R392). -/
def laneTimeout (c : Chip) (v : Vat) : Chip :=
  if laneFresh c v then c else onFio c fun x => { x with lanes := x.lanes.upd v fun l => { l with off := true } }

/-- A lane at a tick: the commands whose commit instants have come take effect, in the order in which they came. -/
def FLane.apply (l : FLane) (t : Nat) : FLane :=
  { l with cmd := (l.pend.filter fun p => decide (p.commit ≤ t)).foldl FCmd.after l.cmd, pend := l.pend.filter fun p => decide (t < p.commit) }

/-- OUTPUT_APPLY (R402): commands whose commit instant has come take effect, each lane on its own; an output image committed after
the loss, with two lanes refreshed again, ends the inert state of R20, and that of R19 once the field-logic supply is back. -/
def outputApply (c : Chip) : Chip :=
  let t := c.core.tick
  let after (k : Nat) : Bool := match c.fio.lossAt with | some s => decide (s < k) | none => true
  let ends (l : FLane) : Bool := l.pend.any fun p => decide (p.commit ≤ t) && after p.commit
  let back := (allVats.any fun v => ends (c.fio.lanes.get v)) && decide (2 ≤ (allVats.filter (laneFresh c)).length) && !c.pwr.fault.getLsbD 6
  onFio c fun x => { x with lanes := x.lanes.map fun l => l.apply t, inert := x.inert && !back }

/-! ### Digital inputs and test pulses (R393 to R398) -/

/-- The ON and OFF levels of a threshold class in units of 100 mV (Table: Input threshold classes). -/
def classLevels (k : Nat) : Int × Int :=
  match k with
  | 0 => (150, 96)
  | 1 => (225, 144)
  | 2 => (450, 288)
  | _ => (688, 440)

/-- CLASS of the group of input n. -/
def inputClass (c : Chip) (n : Nat) : Nat := fieldOf c (Reg.dioGcfg.addr (n / 8)) 14 13

/-- What a path reads of input n at a voltage (R393): between the levels it may read either, and reads what the operand says. -/
def rawLevel (c : Chip) (n : Nat) (x : RawInput) : Bool :=
  let (on, off) := classLevels (inputClass c n)
  if on ≤ x.volt then true else if x.volt ≤ off then false else x.reads

/-- How long, in ns, a raw level has stood for the debounce: a committed change of DEB has restarted it (R394). -/
def debounceRun (c : Chip) (n run : Nat) : Nat :=
  match mapGet 0 c.fio.debAt n with
  | 0 => run
  | t + 1 => min run ((c.core.tick - t + 1) * 1000)

/-- DEBOUNCE_ACCEPT: path v accepts what it reads of input n, where that has differed from the accepted level for `run` ns: for DEB,
within 1 % and 50 ns. -/
def debounceAccept (c : Chip) (v : Vat) (n : Nat) (x : RawInput) (run : Nat) : Chip :=
  if !fioOn c || 100 * debounceRun c n run + 5000 < 99000 * fieldOf c (Reg.dioDicfg.addr n) 31 16 then c
  else onPath c v fun p => { p with levels := if rawLevel c n x then p.levels ||| (1 <<< n) else p.levels &&& ~~~((1 : BitVec 64) <<< n) }

/-- The group that feeds a point. -/
def groupOfPoint (c : Chip) (pt : Nat) : Option Nat :=
  (List.range 8).find? fun g => let w := rawReg c (Reg.dioGcfg.addr g); bit w 15 && bits w 31 16 = pt

/-- The sample of group g in Vat v (R395). -/
def groupSample (c : Chip) (v : Vat) (g : Nat) : Sample :=
  let p := (c.fio.frames.get v).path
  let byte (w : BitVec 64) : Nat := w.toNat / 2 ^ (8 * g) % 256
  ⟨.bits, word (b2n (8 ≤ c.sys.step) * 2 ^ 31), bytesLE 4 (byte p.levels) ++ bytesLE 4 (byte p.tpfail), none⟩

/-- DIO_TPCFGt. -/
def tpCfg (c : Chip) (t : Nat) : Word := rawReg c (Reg.dioTpcfg0.addr + t)

/-- The last tick of the pulse of supply t, if it has had one: a pulse in progress completes under its own width (R414). -/
def pulseEnd (c : Chip) (t : Nat) : Option Nat := (mapGet none c.fio.pulses t).map fun e => e.1 + e.2

/-- Whether supply t is in a pulse. -/
def inPulse (c : Chip) (t : Nat) : Bool := (pulseEnd c t).any fun e => decide (c.core.tick < e)

/-- The supplies run in every mode from step 8 of the power-up sequence (R396). -/
def supplyOn (c : Chip) : Bool := decide (8 ≤ c.sys.step)

/-- The field supply of TPt, and of SPn's sensor supply (Table: Field supply assignment). -/
def tpSupply (t : Nat) : Nat := t / 4
/-- The field supply of SPn's sensor supply. -/
def spSupply (n : Nat) : Nat := 2 + n / 4

/-- Whether TPt is powered: not in a pulse, and with its field supply within its range (R396, R399). -/
def tpOn (c : Chip) (t : Nat) : Bool := supplyOn c && c.fio.fsok.getLsbD (tpSupply t) && !inPulse c t

/-- Whether SPn's sensor supply is on: while the input is enabled, from its field supply (R399, R409). -/
def spOn (c : Chip) (n : Nat) : Bool := fioOn c && bit (rawReg c (Reg.spdCfg.addr n)) 31 && c.fio.fsok.getLsbD (spSupply n)

/-- TEST_PULSE (R396): supply t switches off at its instants, the first tick of a millisecond of the time value. -/
def testPulse (c : Chip) (t : Nat) : Chip :=
  let w := tpCfg c t
  let per := bits w 20 11
  let ms := now c / 1000000
  if !supplyOn c || !bit w 31 || per = 0 || ((ms : Int) - bits w 10 1) % per ≠ 0 || 1000 ≤ now c % 1000000 || inPulse c t then c
  else onFio c fun x => { x with pulses := mapPut none x.pulses t (some (c.core.tick, bits w 30 21)) }

/-- The inputs that are checked against supply t. -/
def checkedBy (c : Chip) (t : Nat) : BitVec 64 :=
  BitVec.ofNat 64 (((List.range 64).map fun n =>
    let w := rawReg c (Reg.dioDicfg.addr n); if bit w 15 && bits w 14 12 = t then 2 ^ n else 0).sum)

/-- A supply enters or leaves fault. -/
def setTpflt (c : Chip) (t : Nat) (bad : Bool) (info : Nat) : Chip :=
  let was := c.fio.tpflt.getLsbD t
  let m : BitVec 8 := (1 : BitVec 8) <<< t
  let c := onFio c fun x => { x with tpflt := if bad then x.tpflt ||| m else x.tpflt &&& ~~~m }
  if bad && !was then raise c (96 + t) info else c

/-- TEST_PULSE_SAMPLE (R397, R398): the raw levels of each path PW − 20 µs into the pulse, and whether the supply's own
readback passes. -/
def testPulseSample (c : Chip) (t : Nat) (raw : Tri (BitVec 64)) (rbOk : Bool) : Chip :=
  if !inPulse c t || c.core.tick + 20 < (pulseEnd c t).getD 0 then c
  else
    let m := checkedBy c t
    let c := onFio c fun x =>
      { x with paths := ⟨{ x.paths.a with tpfail := (x.paths.a.tpfail &&& ~~~m) ||| (raw.a &&& m) },
                         { x.paths.b with tpfail := (x.paths.b.tpfail &&& ~~~m) ||| (raw.b &&& m) },
                         { x.paths.c with tpfail := (x.paths.c.tpfail &&& ~~~m) ||| (raw.c &&& m) }⟩ }
    setTpflt c t (!rbOk) 2

/-- TEST_PULSE_CURRENT_LIMIT (R398): the supply has been in current limiting for `run` µs, more than 1 ms. -/
def testPulseLimit (c : Chip) (t run : Nat) : Chip := if supplyOn c && 1000 < run then setTpflt c t true 1 else c

/-! ### Outputs (R404, R405, R408, R399) -/

/-- FAULT latched for output `n`, counted and raised where it was not latched before. -/
def latchFault (c : Chip) (n : Nat) : Chip :=
  if c.fio.fault.getLsbD n then c
  else raise (bump (onFio c fun x => { x with fault := x.fault ||| ((1 : BitVec 32) <<< n) }) Reg.dioCnt.addr 10 0) (64 + n) 1

/-- DIO_XCTL as it acts: at its defaults without EXPERT (R414). -/
def dioXctl (c : Chip) : Word := if expertLive c 12 then rawReg c Reg.dioXctl.addr else 0x14020500

/-- The limit time of output n in µs (R404): OVLDT × 100 µs, or 20 ms with INRUSH; of group switch 32 + g, 20 ms where a member has
INRUSH (log entry 106, DESIGN CHOICE). -/
def limitTime (c : Chip) (n : Nat) : Nat :=
  let inrush (k : Nat) : Bool := bit (rawReg c (Reg.dioDocfg.addr k)) 13
  let slow := if n < 32 then inrush n else inrush (24 + 2 * (n - 32)) || inrush (25 + 2 * (n - 32))
  if slow then 20000 else 100 * bits (dioXctl c) 15 8

/-- OUTPUT_OVERLOAD: the switch has been at its current limit for `run` µs, or is at its thermal limit (`hot`): FAULT latched; on
group switch 32 + g, of the switch and of both members. -/
def outputOverload (c : Chip) (n run : Nat) (hot : Bool) : Chip :=
  if !fioOn c || !(hot || limitTime c n ≤ run) then c
  else if n < 32 then (if conducts c n then latchFault c n else c)
  else if groupOn c (n - 32) then
    latchFault (latchFault (onFio c fun x => { x with gfault := x.gfault ||| ((1 : BitVec 4) <<< (n - 32)) }) (24 + 2 * (n - 32))) (25 + 2 * (n - 32))
  else c

/-- FAULT_CLEAR: the voted command, of group switch 32 + g those of both members, has been off for 1 ms. -/
def faultClear (c : Chip) (n : Nat) : Chip :=
  let off (k : Nat) : Bool := !c.fio.eff.getLsbD k && decide (mapGet 0 c.fio.changed k + 1000 ≤ c.core.tick)
  if 32 ≤ n then
    (if off (24 + 2 * (n - 32)) && off (25 + 2 * (n - 32)) then onFio c fun x => { x with gfault := x.gfault &&& ~~~((1 : BitVec 4) <<< (n - 32)) } else c)
  else if c.fio.eff.getLsbD n || c.core.tick < mapGet 0 c.fio.changed n + 1000 then c
  else onFio c fun x => { x with fault := x.fault &&& ~~~((1 : BitVec 32) <<< n) }

/-- The readback delay of an output in µs (R405). -/
def rbDelay (c : Chip) (n : Nat) : Nat :=
  let w := dioXctl c
  if c.fio.eff.getLsbD n then bits w 31 24 * 10 else bits w 23 16 * 1000

/-- READBACK_CHECK: the readback of output n on each path, judged against the voted command after the delay. -/
def readbackCheck (c : Chip) (n : Nat) (rb : Tri Bool) : Chip :=
  if !fioOn c then c
  else
    let m : BitVec 32 := (1 : BitVec 32) <<< n
    let put (w : BitVec 32) (b : Bool) : BitVec 32 := if b then w ||| m else w &&& ~~~m
    let cmd := c.fio.eff.getLsbD n
    let late := mapGet 0 c.fio.changed n + rbDelay c n ≤ c.core.tick
    let voted (c : Chip) : Bool := (maj3 c.fio.paths.a.rberr c.fio.paths.b.rberr c.fio.paths.c.rberr).getLsbD n
    let was := voted c
    let one (p : FPath) (b : Bool) : FPath := { p with rb := put p.rb b, rberr := if b = cmd then put p.rberr false else if late then put p.rberr true else p.rberr }
    let c := onFio c fun x => { x with paths := ⟨one x.paths.a rb.a, one x.paths.b rb.b, one x.paths.c rb.c⟩ }
    if voted c && !was then raise (bump c Reg.dioCnt.addr 21 11) (64 + n) 2 else c

/-- OPEN_DETECT: the current of output n has been below 10 mA for `run` µs, of which 10 ms set OPEN, or is above it again. -/
def openDetect (c : Chip) (n : Nat) (low : Bool) (run : Nat) : Chip :=
  let m : BitVec 32 := (1 : BitVec 32) <<< n
  let was := c.fio.openD.getLsbD n
  let on := low && conducts c n && decide (10000 ≤ run)
  let c := onFio c fun x => { x with openD := if on then x.openD ||| m else if low then x.openD else x.openD &&& ~~~m }
  if on && !was then raise c (64 + n) 3 else c

/-- Whether the test VOTER runs (R520). -/
def voterRuns (c : Chip) : Bool := c.tst.state = 1 && c.tst.testid = 3

/-- OUTPUT_STAGE_TEST (R408): in STANDBY with the enable closed, and once in the test VOTER (R520); the voters that gave a wrong
vote. -/
def stageTest (c : Chip) (bad : BitVec 36) : Chip :=
  let standby := c.sys.mode = .standby && !outEnable c
  if !standby && !voterRuns c then c
  else
    let c := onFio c fun x => { x with stageBad := bad }
    let c := if standby then countTest c (bad = 0) else { c with tst := { c.tst with votes := some (decide (bad = 0)) } }
    (List.range 36).foldl (fun c n => if bad.getLsbD n then deviceRecord (raise c 108 n) 0x0C 0x01 n else c) c

/-- FIELD_SUPPLY_CHANGE: supply f at a voltage (10 mV) and current (mA); its range is 16.8 to 36 V. -/
def fieldSupply (c : Chip) (f volt curr : Nat) : Chip :=
  if !supplyOn c then c
  else
    let ok := 1680 ≤ volt && volt ≤ 3600
    let m : BitVec 4 := (1 : BitVec 4) <<< f
    let was := c.fio.fsok.getLsbD f
    let c := onFio c fun x =>
      { x with
        fsVolt := mapPut 0 x.fsVolt f (volt % 65536)
        fsCurr := mapPut 0 x.fsCurr f (curr % 65536)
        fsok := if ok then x.fsok ||| m else x.fsok &&& ~~~m }
    if ok = was then c else raise c (104 + f) (b2n ok)

/-- The sample of the readback point in Vat v (R406). -/
def readbackSample (c : Chip) (v : Vat) : Sample :=
  let f := c.fio.frames.get v
  ⟨.bits, word (b2n (8 ≤ c.sys.step) * 2 ^ 31),
   bytesLE 4 f.path.rb.toNat ++ bytesLE 4 f.fault.toNat ++ bytesLE 4 f.path.rberr.toNat ++ bytesLE 4 f.openD.toNat ++
     bytesLE 4 (f.tpflt.toNat + f.fsok.toNat * 256) ++ bytesLE 4 0, none⟩

/-! ### Speed inputs (R409 to R412) -/

/-- SPD_CFGn. -/
def spdCfg (c : Chip) (n : Nat) : Word := rawReg c (Reg.spdCfg.addr n)

/-- The number of the input or pair that input n belongs to. -/
def spdBase (c : Chip) (n : Nat) : Nat := if n % 2 = 1 && bit (spdCfg c (n - 1)) 29 then n - 1 else n

/-- The state of an input or pair on a path. -/
def FPath.spdOf (p : FPath) (n : Nat) : SpdPath := mapGet SpdPath.zero p.spd n

/-- The state replaced. -/
def FPath.putSpd (p : FPath) (n : Nat) (x : SpdPath) : FPath := { p with spd := mapPut SpdPath.zero p.spd n x }

/-- A level bit of the speed inputs set. -/
def FPath.setLev (p : FPath) (n : Nat) (b : Bool) : FPath :=
  { p with spdLev := if b then p.spdLev ||| ((1 : BitVec 8) <<< n) else p.spdLev &&& ~~~((1 : BitVec 8) <<< n) }

/-- The inputs of the input or pair b. -/
def spdInputs (c : Chip) (b : Nat) : List Nat := if b % 2 = 0 && bit (spdCfg c b) 29 then [b, b + 1] else [b]

/-- BREAK of an input or pair on a path: of any of its inputs. -/
def FPath.brkOf (p : FPath) (c : Chip) (b : Nat) : Bool := (spdInputs c b).any fun n => p.spdBrk.getLsbD n
/-- SHORT of an input or pair on a path. -/
def FPath.shortOf (p : FPath) (c : Chip) (b : Nat) : Bool := (spdInputs c b).any fun n => p.spdShort.getLsbD n
/-- Whether a sensor fault holds the input or pair in STILL (R411). -/
def FPath.faulty (p : FPath) (c : Chip) (b : Nat) : Bool := p.brkOf c b || p.shortOf c b

/-- A speed edge in a direction at a time (Table: Speed states). -/
def speedEdgeStep (x : SpdPath) (dir : Bool) (t : Nat) : SpdPath :=
  let st := match x.state with
    | 0 => 1
    | 1 => if dir = x.dir then 2 else 1
    | 2 => if dir = x.dir then 2 else 3
    | _ => if dir = x.dir then 2 else 3
  { x with state := st, p := if x.tl = 0 then 0 else t - x.tl, tl := t, dir := dir }

/-- An edge of input n on one path: `both` says that the other track changed within the same filter window. -/
def pathEdge (c : Chip) (n : Nat) (rising both : Bool) (t : Nat) (p : FPath) : FPath :=
  let b := spdBase c n
  let w := spdCfg c b
  let inv := bit w 28
  let x := p.spdOf b
  let add (x : SpdPath) (up : Bool) : SpdPath :=
    { x with count := if (up != inv) then (x.count + 1) % 2 ^ 32 else (x.count + 2 ^ 32 - 1) % 2 ^ 32 }
  if p.faulty c b then p.setLev n rising
  else if b % 2 = 0 && bit w 29 then
    let other := p.spdLev.getLsbD (if n = b then b + 1 else b)
    if both then ((p.setLev n rising).setLev (if n = b then b + 1 else b) (!other)).putSpd b { x with qerr := x.qerr + 1 }
    else
      let up := if n = b then rising != other else rising == other
      let x := add x up
      let x := if n = b && rising then speedEdgeStep x (other != inv) t else x
      (p.setLev n rising).putSpd b x
  else if rising then (p.setLev n rising).putSpd b (speedEdgeStep (add x true) inv t)
  else p.setLev n rising

/-- FILT in units of 100 ns: 20 without EXPERT (R417). -/
def spdFilt (c : Chip) (n : Nat) : Nat := if expertLive c 13 then fieldOf c (Reg.spdXcfg.addr n) 6 0 else 20

/-- SPEED_EDGE: an edge of input n, with the time at which each path took it and the ns for which the new level has stood; the
glitch filter ignores what is shorter than FILT. -/
def speedEdge (c : Chip) (n : Nat) (rising both : Bool) (t : Tri (Option Nat)) (held : Nat) : Chip :=
  let b := spdBase c n
  if !fioOn c || !bit (spdCfg c n) 31 || held < 100 * spdFilt c n then c
  else
    let old := c.fio.paths
    let c := allVats.foldl (fun c v => match t.get v with | some tv => onPath c v (pathEdge c n rising both tv) | none => c) c
    let nw := c.fio.paths
    let sees (f : SpdPath → SpdPath → Bool) : Tri Bool :=
      ⟨f (old.a.spdOf b) (nw.a.spdOf b), f (old.b.spdOf b) (nw.b.spdOf b), f (old.c.spdOf b) (nw.c.spdOf b)⟩
    let any (s : Tri Bool) : Bool := s.a || s.b || s.c
    let x := (nw.get (shownVat c)).spdOf b
    let edged := sees fun o x => decide (o.tl ≠ x.tl)
    let c := if edged.get (shownVat c) && x.p ≠ 0 && x.p < 23800 then bump c Reg.spdCnt.addr 15 0 else c
    let c := if both && bit (spdCfg c b) 29 then bump c Reg.spdCnt.addr 31 16 else c
    let start := sees fun o x => o.state = 0 && x.state = 1
    let rev := sees fun o x => x.state = 3 && decide (o.tl ≠ x.tl)
    let c := if any start then arrive c (264 + b) (word (b2n x.dir)) false start else c
    if any rev then arrive c (272 + b) (word (b2n x.dir)) false rev else c

/-- STILL_TIMEOUT: paths without a speed edge for STILLT ms ± 1 ms. -/
def stillTimeout (c : Chip) (n : Nat) : Chip :=
  let lim := (bits (spdCfg c n) 15 0 - 1) * 1000000
  let hit (v : Vat) : Bool :=
    let x := (c.fio.paths.get v).spdOf n
    x.state ≠ 0 && x.tl + lim ≤ (plane c v).time
  let seen : Tri Bool := ⟨hit .a, hit .b, hit .c⟩
  let still (c : Chip) (v : Vat) : Chip :=
    if seen.get v then onPath c v fun p => p.putSpd n { p.spdOf n with state := 0 } else c
  let c' := allVats.foldl still c
  if seen.a || seen.b || seen.c then
    arrive c' (256 + n) (word ((c'.fio.paths.get (shownVat c')).spdOf n).count) false seen else c

/-- SPEED_SENSOR_FAULT: BREAK and SHORT of input n on each path, held for `run` µs, of which they need 1 ms, or gone; while one of the
input or of its pair holds, the path is STILL. -/
def sensorFault (c : Chip) (n : Nat) (brk short : Tri Bool) (run : Nat) : Chip :=
  let held := brk.a || brk.b || brk.c || short.a || short.b || short.c
  if !fioOn c || !bit (spdCfg c n) 31 || bit (spdCfg c n) 30 || (held && decide (run < 1000)) then c
  else
    let b := spdBase c n
    let old := c.fio.paths
    let m : BitVec 8 := (1 : BitVec 8) <<< n
    let put (w : BitVec 8) (s : Bool) : BitVec 8 := if s then w ||| m else w &&& ~~~m
    let c := allVats.foldl (fun c v => onPath c v fun p =>
      let p := { p with spdBrk := put p.spdBrk (brk.get v), spdShort := put p.spdShort (short.get v) }
      if p.faulty c b then p.putSpd b { p.spdOf b with state := 0 } else p) c
    let diff (v : Vat) : Bool :=
      let o := old.get v
      let x := c.fio.paths.get v
      o.brkOf c b != x.brkOf c b || o.shortOf c b != x.shortOf c b
    let seen : Tri Bool := ⟨diff .a, diff .b, diff .c⟩
    let p := c.fio.paths.get (shownVat c)
    let fell (v : Vat) : Bool := ((old.get v).spdOf b).state ≠ 0 && ((c.fio.paths.get v).spdOf b).state = 0
    let fs : Tri Bool := ⟨fell .a, fell .b, fell .c⟩
    let c := if seen.a || seen.b || seen.c then arrive c (280 + b) (word (b2n (p.brkOf c b) + 2 * b2n (p.shortOf c b))) false seen else c
    if fs.a || fs.b || fs.c then arrive c (256 + b) (word (p.spdOf b).count) false fs else c

/-- The speed of a path at its sample instant, in mHz (R411). -/
def speedAt (x : SpdPath) (t : Nat) : Int :=
  if x.state ≠ 2 then 0
  else
    let d := if x.p < t - x.tl then t - x.tl else x.p
    let s : Int := if d = 0 then 0 else (10 ^ 12 / d : Nat)
    if x.dir then -s else s

/-- The input or pair that feeds a point. -/
def spdOfPoint (c : Chip) (pt : Nat) : Option Nat :=
  (List.range 8).find? fun n => bit (spdCfg c n) 31 && spdBase c n = n && bits (rawReg c (Reg.spdPnt.addr n)) 31 16 = pt

/-- The sample of a speed point in Vat v (R412). -/
def spdSample (c : Chip) (v : Vat) (n : Nat) : Sample :=
  let f := c.fio.frames.get v
  let x := f.path.spdOf n
  let k := b2n (x.state = 0) + 2 * b2n (x.state = 1) + 4 * b2n (x.state = 3) + 8 * b2n x.dir + 16 * b2n (f.path.brkOf c n) +
    32 * b2n (f.path.shortOf c n) + 64 * b2n (x.state ≠ 0 && x.p ≠ 0 && x.p < 23800) +
    128 * b2n (x.qerr ≠ mapGet 0 (c.fio.qshown.get v) n)
  ⟨.values [4, 4, 8, 8], word (2 ^ 31 + k),
   bytesLE 4 (unsigned 32 (speedAt x f.time)) ++ bytesLE 4 x.count ++ bytesLE 8 (if x.state = 0 then 0 else x.p) ++ bytesLE 8 x.tl, none⟩

/-- After a task's latch: the simultaneous changes that the latched frames carried have been shown. -/
def spdAfterLatch (c : Chip) (t : TaskId) : Chip :=
  (List.range 8).foldl (fun c n =>
    if bit (spdCfg c n) 31 && ptBelongs c (bits (rawReg c (Reg.spdPnt.addr n)) 31 16) false t then
      onFio c fun x =>
        let sh (v : Vat) : SMap Nat := mapPut 0 (x.qshown.get v) n ((x.frames.get v).path.spdOf n).qerr
        { x with qshown := ⟨sh .a, sh .b, sh .c⟩ }
    else c) c

/-- A committed change of EN, TYPE, QUAD or DIRINV puts an input or pair into STILL with a count of 0 (R417), which a path that was
not STILL enters (R418). -/
def spdApplied (c : Chip) (n : Nat) : Chip :=
  let seen : Tri Bool := c.fio.paths.map fun p => (p.spdOf n).state ≠ 0
  let c := allVats.foldl (fun c v => onPath c v fun p => p.putSpd n { SpdPath.zero with qerr := (p.spdOf n).qerr }) c
  if seen.a || seen.b || seen.c then arrive c (256 + n) 0 false seen else c

/-! ### Registers and commit rules (R413 to R417) -/

/-- A number with bit n where p n holds. -/
def maskOf (n : Nat) (p : Nat → Bool) : Nat := ((List.range n).map fun k => if p k then 2 ^ k else 0).sum

/-- What a read of a DIO or SPD register shows that is not a stored word. -/
def fioView (c : Chip) (a : Nat) : Option Word :=
  if a = Reg.dioStat.addr then
    some (word (c.fio.fsok.toNat * 2 ^ 28 + c.fio.tpflt.toNat * 256 + maskOf 8 fun t => tpOn c t))
  else if a = Reg.dioXctl.addr then (if expertLive c 12 then none else some 0x14020500)
  else if Reg.dioFs.addr ≤ a && a < Reg.dioFs.addr + 4 then
    some (word (mapGet 0 c.fio.fsVolt (a - Reg.dioFs.addr) * 65536 + mapGet 0 c.fio.fsCurr (a - Reg.dioFs.addr)))
  else if a = Reg.spdStat.addr then
    let p := (c.fio.frames.get (shownVat c)).path
    some (word (p.spdBrk.toNat * 2 ^ 24 + p.spdShort.toNat * 2 ^ 16 + maskOf 8 (fun n => spOn c n) * 256))
  else if Reg.spdXcfg.addr ≤ a && a < Reg.spdXcfg.addr + 8 then (if expertLive c 13 then none else some 20)
  else none

/-- Whether a change of a DIO word is refused in the present mode (R414). -/
def dioModeLocked (c : Chip) (a : Nat) (old new : Word) : Bool :=
  Reg.dioGcfg.addr ≤ a && a < Reg.dioGcfg.addr + 8 && ((old ^^^ new) &&& 0xE000) ≠ 0 &&
    !(c.sys.mode = .prove || c.sys.mode = .maintenance)

/-- The commit rules of DIO (R414). -/
def dioRules (expert : Bool) (w : After) : List Fail :=
  let groups := (List.range 8).flatMap fun g =>
    let a := Reg.dioGcfg.addr g
    failIf (bit (w a) 15 && !ptInput w (bits (w a) 31 16) 8) a 31 16
  let tp (t : Nat) : Word := w (Reg.dioTpcfg0.addr + t)
  let ins := (List.range 64).flatMap fun n =>
    let a := Reg.dioDicfg.addr n
    let x := w a
    let s := tp (bits x 14 12)
    failIf (bits x 31 16 = 0 || (bit x 15 && bits x 31 16 ≤ bits s 30 21 + 50)) a 31 16 ++ failIf (bit x 15 && !bit s 31) a 15 15
  let outs := (List.range 32).flatMap fun n =>
    let a := Reg.dioDocfg.addr n
    let x := w a
    let twin := (List.range n).any fun m =>
      let y := w (Reg.dioDocfg.addr m); bit y 15 && bits y 31 16 = bits x 31 16 && bits y 5 0 = bits x 5 0
    if !bit x 15 then [] else failIf (!ptPress w (bits x 31 16) 8) a 31 16 ++ failIf twin a 5 0
  let sups := (List.range 8).flatMap fun t =>
    let a := Reg.dioTpcfg0.addr + t
    let x := tp t
    let per := bits x 20 11
    let ph := bits x 10 1
    let meets := (List.range t).any fun u =>
      let y := tp u
      bit y 31 && ((ph : Int) - bits y 10 1) % (Nat.gcd per (bits y 20 11) : Int) = 0
    if !bit x 31 then []
    else failIf (bits x 30 21 < 100 || 1000 < bits x 30 21) a 30 21 ++ failIf (per = 0 || 1000 < per) a 20 11 ++ failIf (per ≤ ph || meets) a 10 1
  let rp := bits (w Reg.dioRbpnt.addr) 31 16
  let x := w Reg.dioXctl.addr
  groups ++ ins ++ outs ++ sups ++ failIf (rp ≠ 0 && !ptInput w rp 24) Reg.dioRbpnt.addr 31 16 ++
    (if expert then failIf (bits x 31 24 = 0) Reg.dioXctl.addr 31 24 ++ failIf (bits x 23 16 = 0) Reg.dioXctl.addr 23 16 ++
      failIf (bits x 15 8 = 0) Reg.dioXctl.addr 15 8 else [])

/-- The commit rules of SPD (R417). -/
def spdRules (expert : Bool) (w : After) : List Fail :=
  (List.range 8).flatMap fun n =>
    let a := Reg.spdCfg.addr n
    let x := w a
    let odd := n % 2 = 1
    let paired := odd && bit (w (Reg.spdCfg.addr (n - 1))) 29
    let pa := Reg.spdPnt.addr n
    let pt := bits (w pa) 31 16
    let y := w (Reg.spdCfg.addr (n + 1))
    failIf (odd && bit x 29) a 29 29 ++
      (if !odd && bit x 29 then
        failIf (!bit x 31 || !bit y 31) (if bit x 31 then Reg.spdCfg.addr (n + 1) else a) 31 31 ++ failIf (bit x 30 != bit y 30) (Reg.spdCfg.addr (n + 1)) 30 30 ++
          failIf (bits (w (Reg.spdPnt.addr (n + 1))) 31 16 ≠ 0) (Reg.spdPnt.addr (n + 1)) 31 16 else []) ++
      failIf (bit x 31 && !paired && !ptInput w pt 24) pa 31 16 ++ failIf (bits x 15 0 = 0) a 15 0 ++
      failIf (expert && 100 < bits (w (Reg.spdXcfg.addr n)) 6 0) (Reg.spdXcfg.addr n) 6 0

end Sys2Proof.Machine
end

