-- ==== Sys2Proof/Machine/Float.lean ====
section
/-! DEFINITION. IEEE 754-2019 arithmetic on binary32 and binary64 (R82): operands are decoded to exact numbers,
computed exactly, and rounded once. Every NaN result is the canonical quiet NaN; subnormals are kept. -/

namespace Sys2Proof.Machine

/-- A binary format: exponent bits and fraction bits. -/
structure Fmt where
  ebits : Nat
  mbits : Nat
  deriving DecidableEq, Repr

/-- binary32. -/
def b32 : Fmt := ⟨8, 23⟩
/-- binary64. -/
def b64 : Fmt := ⟨11, 52⟩

/-- The width of a format. -/
def Fmt.width (f : Fmt) : Nat := 1 + f.ebits + f.mbits
/-- The exponent of the least significant bit of a subnormal. -/
def Fmt.emin (f : Fmt) : Int := 2 - 2 ^ (f.ebits - 1) - f.mbits
/-- The code of +∞. -/
def Fmt.infCode (f : Fmt) : Nat := (2 ^ f.ebits - 1) * 2 ^ f.mbits
/-- The canonical quiet NaN (R82). -/
def Fmt.nan (f : Fmt) : Nat := f.infCode + 2 ^ (f.mbits - 1)
/-- The sign bit's value. -/
def Fmt.signBit (f : Fmt) : Nat := 2 ^ (f.ebits + f.mbits)

/-- A decoded operand: NaN, an infinity, or (−1)^sign · m · 2^e. -/
inductive Fl
  | nan
  | inf (sign : Bool)
  | fin (sign : Bool) (m : Nat) (e : Int)
  deriving DecidableEq, Repr

/-- An operand decoded. -/
def Fmt.decode (f : Fmt) (code : Nat) : Fl :=
  let sign := decide (f.signBit ≤ code % 2 ^ f.width)
  let mag := code % f.signBit
  let ex := mag / 2 ^ f.mbits
  let fr := mag % 2 ^ f.mbits
  if ex = 2 ^ f.ebits - 1 then (if fr = 0 then .inf sign else .nan)
  else if ex = 0 then .fin sign fr f.emin
  else .fin sign (fr + 2 ^ f.mbits) (f.emin + (ex : Int) - 1)

/-- A code with a sign. -/
def Fmt.withSign (f : Fmt) (sign : Bool) (mag : Nat) : Nat := mag + (if sign then f.signBit else 0)

/-- The number of bits of a number. -/
def bitLen (m : Nat) : Nat := if m = 0 then 0 else Nat.log2 m + 1

/-- m / 2^d rounded to nearest, ties to even. -/
def rneShift (m d : Nat) : Nat :=
  let q := m / 2 ^ d
  let r := m % 2 ^ d
  if d = 0 then m
  else if 2 ^ (d - 1) < r then q + 1
  else if r = 2 ^ (d - 1) then q + q % 2
  else q

/-- The exact number (−1)^sign · m · 2^e rounded to nearest even and encoded (R82). -/
def Fmt.round (f : Fmt) (sign : Bool) (m : Nat) (e : Int) : Nat :=
  if m = 0 then f.withSign sign 0
  else
    let t : Int := max (e + bitLen m - (f.mbits + 1 : Nat)) f.emin
    let q := if e < t then rneShift m (t - e).toNat else m * 2 ^ (e - t).toNat
    let code := (t - f.emin).toNat * 2 ^ f.mbits + q
    f.withSign sign (min code f.infCode)

/-- The exact sum of two numbers, as sign, magnitude and exponent; an exact zero has sign `zs`. -/
def exactSum (s1 : Bool) (m1 : Nat) (e1 : Int) (s2 : Bool) (m2 : Nat) (e2 : Int) (zs : Bool) : Bool × Nat × Int :=
  let e := min e1 e2
  let v1 : Int := (m1 * 2 ^ (e1 - e).toNat : Nat)
  let v2 : Int := (m2 * 2 ^ (e2 - e).toNat : Nat)
  let v := (if s1 then -v1 else v1) + (if s2 then -v2 else v2)
  if v = 0 then (zs, 0, e) else (decide (v < 0), v.natAbs, e)

/-- a + b. -/
def Fmt.add (f : Fmt) (a b : Fl) : Nat :=
  match a, b with
  | .nan, _ => f.nan
  | _, .nan => f.nan
  | .inf s, .inf t => if s = t then f.withSign s f.infCode else f.nan
  | .inf s, .fin .. => f.withSign s f.infCode
  | .fin .., .inf s => f.withSign s f.infCode
  | .fin s m e, .fin t n k =>
    let r := exactSum s m e t n k (s && t)
    f.round r.1 r.2.1 r.2.2

/-- −a. -/
def Fl.neg : Fl → Fl
  | .nan => .nan
  | .inf s => .inf !s
  | .fin s m e => .fin (!s) m e

/-- a × b. -/
def Fmt.mul (f : Fmt) (a b : Fl) : Nat :=
  match a, b with
  | .nan, _ => f.nan
  | _, .nan => f.nan
  | .inf s, .inf t => f.withSign (s != t) f.infCode
  | .inf s, .fin t m _ => if m = 0 then f.nan else f.withSign (s != t) f.infCode
  | .fin s m _, .inf t => if m = 0 then f.nan else f.withSign (s != t) f.infCode
  | .fin s m e, .fin t n k => f.round (s != t) (m * n) (e + k)

/-- a × b + c, rounded once. -/
def Fmt.fma (f : Fmt) (a b c : Fl) : Nat :=
  match a, b with
  | .nan, _ => f.nan
  | _, .nan => f.nan
  | .fin s m e, .fin t n k =>
    match c with
    | .nan => f.nan
    | .inf u => f.withSign u f.infCode
    | .fin u o l =>
      let r := exactSum (s != t) (m * n) (e + k) u o l ((s != t) && u)
      f.round r.1 r.2.1 r.2.2
  | x, y =>
    let zero := (match x with | .fin _ m _ => decide (m = 0) | _ => false) || (match y with | .fin _ m _ => decide (m = 0) | _ => false)
    let sx := (match x with | .inf s => s | .fin s _ _ => s | .nan => false)
    let sy := (match y with | .inf s => s | .fin s _ _ => s | .nan => false)
    if zero then f.nan else
      match c with
      | .nan => f.nan
      | .inf u => if u = (sx != sy) then f.withSign u f.infCode else f.nan
      | .fin .. => f.withSign (sx != sy) f.infCode

/-- a ÷ b. -/
def Fmt.div (f : Fmt) (a b : Fl) : Nat :=
  match a, b with
  | .nan, _ => f.nan
  | _, .nan => f.nan
  | .inf _, .inf _ => f.nan
  | .inf s, .fin t _ _ => f.withSign (s != t) f.infCode
  | .fin s _ _, .inf t => f.withSign (s != t) 0
  | .fin s m e, .fin t n k =>
    if n = 0 then (if m = 0 then f.nan else f.withSign (s != t) f.infCode)
    else
      let sh := 2 * f.mbits + 8
      let q := m * 2 ^ sh / n
      let sticky := if m * 2 ^ sh % n = 0 then 0 else 1
      f.round (s != t) (2 * q + sticky) (e - k - sh - 1)

/-- √a. -/
def Fmt.sqrt (f : Fmt) (a : Fl) : Nat :=
  match a with
  | .nan => f.nan
  | .inf s => if s then f.nan else f.infCode
  | .fin s m e =>
    if m = 0 then f.withSign s 0
    else if s then f.nan
    else
      let m1 := if e % 2 = 0 then m else 2 * m
      let e1 := if e % 2 = 0 then e else e - 1
      let sh := f.mbits + 4
      let v := m1 * 4 ^ sh
      let r := Nat.sqrt v
      let sticky := if r * r = v then 0 else 1
      f.round false (2 * r + sticky) (e1 / 2 - sh - 1)

/-- A number's key in the order of minimum and maximum, in which −0 is less than +0. -/
def Fmt.orderKey (f : Fmt) (code : Nat) : Int :=
  let c := code % 2 ^ f.width
  if f.signBit ≤ c then -((c - f.signBit : Nat) : Int) - 1 else (c : Int)

/-- minimum(a, b) of IEEE 754-2019 on codes. -/
def Fmt.min (f : Fmt) (a b : Nat) : Nat :=
  if f.decode a = .nan ∨ f.decode b = .nan then f.nan
  else if f.orderKey a ≤ f.orderKey b then a else b

/-- maximum(a, b) of IEEE 754-2019 on codes. -/
def Fmt.max (f : Fmt) (a b : Nat) : Nat :=
  if f.decode a = .nan ∨ f.decode b = .nan then f.nan
  else if f.orderKey a ≤ f.orderKey b then b else a

/-- Whether a is less than b, neither being NaN. -/
def Fmt.lt (f : Fmt) (a b : Nat) : Bool :=
  let zero (x : Nat) := decide (x % f.signBit = 0)
  !(zero a && zero b) && decide (f.orderKey a < f.orderKey b)

/-- Whether a equals b, neither being NaN. -/
def Fmt.eq (f : Fmt) (a b : Nat) : Bool :=
  (decide (a % f.signBit = 0) && decide (b % f.signBit = 0)) || decide (a = b)

/-- A NaN made canonical; every other code as it is (R82). -/
def Fmt.canon (f : Fmt) (code : Nat) : Nat := if f.decode code = .nan then f.nan else code

/-- The integer nearest to (−1)^s · m · 2^e under RND: 0 nearest even, 1 toward zero, 2 toward −∞, 3 toward +∞ (R84). -/
def toIntRnd (rnd : Nat) (s : Bool) (m : Nat) (e : Int) : Int :=
  if 0 ≤ e then (if s then -1 else 1) * (m * 2 ^ e.toNat : Nat)
  else
    let d := (-e).toNat
    let q := m / 2 ^ d
    let inexact := decide (m % 2 ^ d ≠ 0)
    let mag := match rnd with
      | 0 => rneShift m d
      | 1 => q
      | 2 => if s && inexact then q + 1 else q
      | _ => if !s && inexact then q + 1 else q
    (if s then -1 else 1) * (mag : Int)

/-- A float to integer conversion (R84): the code of the result in `width` bits, and whether it saturated or the
source was NaN. -/
def floatToInt (a : Fl) (rnd width : Nat) (isSigned : Bool) : Nat × Bool :=
  let lo : Int := if isSigned then -(2 ^ (width - 1)) else 0
  let hi : Int := if isSigned then 2 ^ (width - 1) - 1 else 2 ^ width - 1
  match a with
  | .nan => (0, true)
  | .inf s => (unsigned width (if s then lo else hi), true)
  | .fin s m e =>
    let i := toIntRnd rnd s m e
    if i < lo then (unsigned width lo, true)
    else if hi < i then (unsigned width hi, true)
    else (unsigned width i, false)

/-- An integer to float conversion. -/
def Fmt.ofInt (f : Fmt) (i : Int) : Nat := f.round (decide (i < 0)) i.natAbs 0

/-- A conversion between formats. -/
def Fmt.ofFl (f : Fmt) (a : Fl) : Nat :=
  match a with
  | .nan => f.nan
  | .inf s => f.withSign s f.infCode
  | .fin s m e => f.round s m e

end Sys2Proof.Machine
end

