-- ==== Sys2Proof/Machine/Alp.lean ====
section
/-! DEFINITION. Current loops and universal channels (R419 to R436): kinds, rows by mode, conversion, damping, settling,
alarms, output errors and the loop proof. -/

namespace Sys2Proof.Machine

/-- A channel. -/
def alpOf (c : Chip) (n : Nat) : AlpCh := mapGet AlpCh.zero c.fio.alp n

/-- A channel changed. -/
def onAlp (c : Chip) (n : Nat) (f : AlpCh → AlpCh) : Chip := onFio c fun x => { x with alp := mapMod AlpCh.zero x.alp n f }

/-- ALP_CFGn. -/
def alpCfg (c : Chip) (n : Nat) : Word := rawReg c (Reg.alpCfg.addr n)

/-- LOOP. -/
def isLoop (w : Word) : Bool := bit w 30
/-- KIND. -/
def alpKind (w : Word) : Nat := bits w 29 26
/-- Whether a kind is an output kind. -/
def isOut (w : Word) : Bool := if isLoop w then alpKind w < 2 else alpKind w = 1 || alpKind w = 3
/-- DAMP. -/
def alpDamp (w : Word) : Nat := bits w 11 0

/-- ALP_XCTL, at its defaults without EXPERT. -/
def alpXctl (c : Chip) : Word := if expertLive c 14 then rawReg c Reg.alpXctl.addr else 0x00143200

/-- f in S/s (Table: Settling counts). -/
def alpRate (rate : Nat) (notch : Bool) : Nat :=
  match rate with
  | 0 => if notch then 60 else 50
  | 1 => 1000
  | 2 => 4000
  | _ => 10000

/-- N of a change (R433): B and the damping term. -/
def settleCount (w : Word) (notch kind : Bool) : Nat :=
  let f := alpRate (bits w 25 24) notch
  (if kind then 3 + (2 * f + 99) / 100 else 3) + (7 * alpDamp w * f + 99) / 100

/-- A change begins settling. A kind change restarts y where it changes KIND, LOOP, W3 or the mode state. What changes in one
tick, before a conversion, is one change and takes the larger count (R433). -/
def startSettle (c : Chip) (n : Nat) (kind : Bool) : Chip :=
  let k := settleCount (alpCfg c n) (bit (alpXctl c) 0) kind
  let x := alpOf c n
  let t := c.core.tick
  let same := x.settleAt = some t && x.settle.getLast?.any fun e => e.1 = e.2
  let k := if same then max k ((x.settle.getLast?.map (·.1)).getD 0) else k
  let count (c : Chip) : Chip := if same then c else bump c Reg.alpCnt.addr 31 16
  count (onAlp c n fun x => { x with settle := (if same then x.settle.dropLast else x.settle) ++ [(k, k)], settleAt := some t, loRun := 0, hiRun := 0, brkRun := 0, errFrom := none, okFrom := none,
                                     y := if kind then none else x.y })

/-! ### Rows of Table: Analog channels by mode (R427 to R429) -/

/-- The row of a channel: 0 off, 1 measure, 2 measures own loop, 3 output idle with readback measured, 4 drives its
setpoint, 5 drives its substitute, 6 measures and powers the loop. In MAINTENANCE a test selects a channel with its bit of TST_AOUTEN,
which then does as in SERVICE, or with a depth of TST_LBK14: at 1 every converter measures its reference, at 2 the output stages
drive their internal loads and are measured (R518, R519). -/
def alpRow (c : Chip) (n : Nat) : Nat :=
  let w := alpCfg c n
  let en := outEnable c
  if !bit w 31 || !fioOn c then 0
  else
    let sub := c.sys.mode = .hold && substitutes c && en && bit w 23 && isOut w
    let depth := if c.sys.mode = .maintenance then mapGet 0 c.tst.depths 14 else 0
    let test := testRuns c && en && bit (rawReg c Reg.tstAouten.addr) n && !(depth = 1 || depth = 2)
    if depth = 1 then 1
    else if depth = 2 && isOut w then 3
    else match isLoop w, isOut w, c.sys.mode with
    | true, true, .standby => 3
    | true, true, .service => if en then 4 else 3
    | true, true, _ => if sub then 5 else if test then 4 else 2
    | true, false, .standby => 1
    | true, false, .service => if en && alpKind w = 2 then 6 else 1
    | true, false, _ => if test then (if alpKind w = 2 then 6 else 1) else 2
    | false, true, .service => if en then 4 else 3
    | false, true, _ => if sub then 5 else if test then 4 else 3
    | false, false, _ => 1

/-- ANALOG_MODE_CHANGE (R429): channels whose row has changed. -/
def alpCheck (c : Chip) : Chip :=
  (List.range 32).foldl (fun c n =>
    let r := alpRow c n
    if r = (alpOf c n).row then c
    else
      let c := onAlp c n fun x => { x with row := r }
      if r = 0 then c else startSettle c n true) c

/-! ### Setpoints (R130, R422, R428) -/

/-- The saturation rule of NAMUR NE 43, in nA. -/
def mapLoop (s : Int) : Int :=
  if s ≤ 3600000 then 3600000
  else if s < 3800000 then 3800000
  else if s ≤ 20500000 then s
  else if s < 21000000 then 20500000
  else 21000000

/-- The range of a universal kind in its unit (R421). -/
def univRange (k : Nat) : Int × Int :=
  match k with
  | 0 | 1 => (-10500000, 10500000)
  | 2 | 3 => (0, 24000000)
  | 4 => (0, 10000000)
  | 5 | 6 => (-200000, 850000)
  | 7 => (-200000, 1200000)
  | 8 => (-200000, 1372000)
  | 9 => (-200000, 1300000)
  | _ => (-200000, 400000)

/-- A setpoint as it is applied. -/
def mapSetpoint (w : Word) (s : Int) : Int :=
  if isLoop w then mapLoop s else clampInt (univRange (alpKind w)).1 (univRange (alpKind w)).2 s

/-- The setpoint of a channel from the lanes: the median of those present, or the lower of two. -/
def fieldSetpoint (c : Chip) (n : Nat) : Option Int :=
  let ls := allVats.filter fun v => serving c v && !(c.fio.lanes.get v).off
  let s (v : Vat) : Int := (mapGet 0 (c.fio.lanes.get v).cmd.aout n).toInt
  match ls with
  | [u, v, w] => some (median3 (s u) (s v) (s w))
  | [u, v] => some (min (s u) (s v))
  | _ => none

/-- Whether the field supply that feeds channel n is within its range (Table: Analog channel groups). -/
def alpSupplied (c : Chip) (n : Nat) : Bool := c.fio.fsok.getLsbD (n / 8)

/-- What a channel drives now: none where its row drives nothing, or its field supply is out of range (R19, R419). -/
def drivenSetpoint (c : Chip) (n : Nat) : Option Int :=
  let w := alpCfg c n
  if !alpSupplied c n then none
  else match alpRow c n with
  | 4 => (fieldSetpoint c n).map (mapSetpoint w)
  | 5 => some (mapSetpoint w (rawReg c (Reg.alpSub.addr n)).toInt)
  | _ => none

/-- Setpoints that have changed take effect, with the tick of the change; a loop is powered or not. -/
def alpDrive (c : Chip) : Chip :=
  (List.range 32).foldl (fun c n =>
    let on := alpRow c n = 6 && alpSupplied c n
    let c := if on = (alpOf c n).powers then c else onAlp c n fun x => { x with powers := on }
    let s := drivenSetpoint c n
    if s = (alpOf c n).setpoint then c
    else onAlp c n fun x => { x with setpoint := s, setAt := c.core.tick, errFrom := none, okFrom := none }) c

/-! ### Conversion (R424 to R426, R431 to R433) -/

/-- The damped value (R425) in binary64: y(n − 1) + (x − y(n − 1)) ÷ (1 + DAMP × f ÷ 100). -/
def damped (w : Word) (notch : Bool) (y : Option Nat) (x : Int) : Nat :=
  let f := b64
  match y with
  | none => f.ofInt x
  | some y =>
    if alpDamp w = 0 then f.ofInt x
    else
      let k := f.div (f.decode (f.ofInt (alpDamp w * alpRate (bits w 25 24) notch : Nat))) (f.decode (f.ofInt 100))
      let d := f.add (f.decode (f.ofInt 1)) (f.decode k)
      let diff := f.add (f.decode (f.ofInt x)) (f.decode y).neg
      f.add (f.decode y) (f.decode (f.div (f.decode diff) (f.decode d)))

/-- A binary64 code as an integer, rounded toward zero. -/
def truncated (code : Nat) : Int := signed 64 (floatToInt (b64.decode code) 1 64 true).1

/-- One alarm: the flag after one more conversion, and the conversions in a row that contradict it. -/
def alarmStep (flag cond : Bool) (run : Nat) : Bool × Nat :=
  if cond = flag then (flag, 0) else if run + 1 < 4 then (flag, run + 1) else (cond, 0)

/-- Whether the measurand is outside the range of R421; the loop kinds have none there. -/
def outOfRange (w : Word) (x : Int) : Bool := !isLoop w && (x < (univRange (alpKind w)).1 || (univRange (alpKind w)).2 < x)

/-- Whether a kind is a thermocouple. -/
def isTc (w : Word) : Bool := !isLoop w && 7 ≤ alpKind w && alpKind w ≤ 10

/-- CONVERSION_END: channel n has converted x at the present time value; `opened` says that the front end finds an RTD,
resistance or thermocouple open. -/
def conversionEnd (c : Chip) (n : Nat) (x : Int) (opened : Bool) : Chip :=
  let w := alpCfg c n
  let ch := alpOf c n
  if ch.row = 0 then c
  else
    let notch := bit (alpXctl c) 0
    let settling := ch.settle.any fun e => 0 < e.1
    let ended := !settling && !ch.settle.isEmpty
    let lastN := match ch.settle.getLast? with | some e => e.2 | none => 0
    let own := ch.row = 2
    let loop := isLoop w && !own
    let brkCond := if isLoop w then loop && 2 ≤ alpKind w && x < 500000 else opened && 4 ≤ alpKind w
    let judge := !settling && !own
    let (lo, loRun) := if judge && isLoop w then alarmStep ch.lo (x ≤ 3600000) ch.loRun else (ch.lo && isLoop w, 0)
    let (hi, hiRun) := if judge && isLoop w then alarmStep ch.hi (21000000 ≤ x) ch.hiRun else (ch.hi && isLoop w, 0)
    let (brk, brkRun) := if judge then alarmStep ch.brk brkCond ch.brkRun else (ch.brk, 0)
    let yc := damped w notch ch.y x
    let y := let t := truncated yc; if loop then clampInt 3800000 20500000 t else t
    let cj := isTc w && !c.fio.cjok.getLsbD (n / 8)
    let limit : Int := bits (alpXctl c) 23 16 * 10000
    let t := c.core.tick
    let wide := match ch.setpoint with | some s => decide (limit < (x - s).natAbs) | none => false
    let track := judge && isOut w && ch.setpoint.isSome && ch.setAt + 2000 ≤ t
    let errFrom := if track && wide then some (ch.errFrom.getD t) else if track then none else ch.errFrom
    let okFrom := if track && !wide then some (ch.okFrom.getD t) else if track then none else ch.okFrom
    let valid := !settling && !brk
    let outerr := ch.outerr && isOut w
    let k := b2n settling + 2 * b2n (loop && 3600000 < x && x < 3800000) + 4 * b2n (loop && 20500000 < x && x < 21000000) + 8 * b2n lo +
      16 * b2n hi + 32 * b2n brk + 64 * b2n (outOfRange w x) + 128 * b2n outerr + 256 * b2n own + 512 * b2n cj
    let last := if valid then some (y, x, now c) else ch.last
    let (ry, rx, rt) := last.getD (0, 0, 0)
    let c' := onAlp c n fun ch =>
      { ch with
        y := some yc
        res := some ⟨ry, rx, rt, k, valid⟩
        resAt := t
        prev := ch.res
        last := last
        outerr := outerr
        settle := if settling then ch.settle.map fun e => (e.1 - 1, e.2) else []
        loRun := loRun
        hiRun := hiRun
        brkRun := brkRun
        lo := lo
        hi := hi
        brk := brk
        errFrom := errFrom
        okFrom := okFrom }
    let c' := if ended then raise c' (448 + n) lastN else c'
    if lo != ch.lo || hi != ch.hi || brk != ch.brk then raise c' (384 + n) (b2n lo + 2 * b2n hi + 4 * b2n brk) else c'

/-- OUTERR_TIMER (R432): the readback has been outside, or within, its threshold for OETM ms. -/
def outerrTimer (c : Chip) (n : Nat) : Chip :=
  let ch := alpOf c n
  let d := bits (alpXctl c) 15 8 * 1000
  let past (o : Option Nat) : Bool := match o with | some t => decide (t + d ≤ c.core.tick) | none => false
  if ch.outerr then (if past ch.okFrom then onAlp c n fun x => { x with outerr := false } else c)
  else if past ch.errFrom then
    raise (bump (onAlp c n fun x => { x with outerr := true }) Reg.alpCnt.addr 15 0) (416 + n) (unsigned 32 (ch.setpoint.getD 0))
  else c

/-- The channel that feeds a point. -/
def alpOfPoint (c : Chip) (pt : Nat) : Option Nat :=
  if pt = 0 then none else (List.range 32).find? fun n => bits (rawReg c (Reg.alpPnt.addr n)) 31 16 = pt

/-- The sample of an analog point in Vat v (R426). -/
def alpSample (c : Chip) (v : Vat) (n : Nat) : Sample :=
  match mapGet none (c.fio.frames.get v).alp n with
  | some r =>
    ⟨.values [4, 4, 8], word (b2n r.valid * 2 ^ 31 + r.kstat),
     bytesLE 4 (unsigned 32 r.y) ++ bytesLE 4 (unsigned 32 r.x) ++ bytesLE 8 r.time, none⟩
  | none => ⟨.values [4, 4, 8], 0, List.replicate 16 0, none⟩

/-- COLD_JUNCTION_CHANGE: sensor j is sound or faulty, with its temperature in m°C. -/
def coldJunction (c : Chip) (j : Nat) (sound : Bool) (temp : Int) : Chip :=
  let m : BitVec 4 := (1 : BitVec 4) <<< j
  let was := c.fio.cjok.getLsbD j
  let c := onFio c fun x => { x with cjok := if sound then x.cjok ||| m else x.cjok &&& ~~~m, cjTemp := mapPut 0 x.cjTemp j temp }
  if was = sound then c else raise c (480 + j) (b2n sound)

/-- What a committed change of a channel's words does (R425, R433): `kind` and `range` say which class changed. -/
def alpApplied (c : Chip) (n : Nat) (old : Word) (notch : Bool) : Chip :=
  let w := alpCfg c n
  let d := old ^^^ w
  let kind := (d &&& 0xFC400000) ≠ 0
  let range := (d &&& 0x03000FFF) ≠ 0 || (notch && bits w 25 24 = 0)
  let c := if bit d 31 then onAlp c n fun x => { AlpCh.zero with row := x.row, settle := x.settle, settleAt := x.settleAt } else c
  if !bit w 31 then (let c := onAlp c n fun _ => AlpCh.zero; if bit d 31 then bump c Reg.alpCnt.addr 31 16 else c)
  else if kind then startSettle (onAlp c n fun x => { x with row := alpRow c n }) n true
  else if range then startSettle c n false
  else c

/-! ### Loop proof (R430) -/

/-- Whether an average passes its window: the average in the unit of Table: Loop proof, and for IN_SRC the external voltage
in µV. -/
def proofPasses (kind : Nat) (avg volt : Int) : Bool :=
  match kind with
  | 0 => 20000 ≤ avg && avg ≤ 600000
  | 1 => 5000000 ≤ avg && avg ≤ 36000000
  | 2 => avg ≤ 100000 && volt ≤ 1000000
  | _ => -100000 ≤ avg && avg ≤ 22000000

/-- The channels that a proof measurement judges: enabled loop channels that measure their own loop. -/
def proofChannels (c : Chip) : List Nat :=
  (List.range 32).filter fun n => let w := alpCfg c n; bit w 31 && isLoop w && (alpOf c n).row = 2

/-- The averages of one attempt kept and judged: ALP_LPRESn, ALP_LPFAIL. A repeat judges the channels that failed. A channel whose
average the attempt does not bring has not passed it. -/
def judgeProof (c : Chip) (again : Bool) (res : List (Fin 32 × BitVec 32 × Int)) : Chip :=
  let ns := (proofChannels c).filter fun n => !again || c.fio.lpFail.getLsbD n
  ns.foldl (fun c n =>
    let m : BitVec 32 := (1 : BitVec 32) <<< n
    match res.find? fun r => r.1.val = n with
    | none => onFio c fun x => { x with lpFail := x.lpFail ||| m }
    | some (_, avg, volt) =>
      let ok := proofPasses (alpKind (alpCfg c n)) avg.toInt volt
      onFio (setReg c (Reg.alpLpres.addr n) avg) fun x => { x with lpFail := if ok then x.lpFail &&& ~~~m else x.lpFail ||| m }) c

/-! ### Registers and commit rules (R434, R435) -/

/-- What a read of an ALP register shows that is not a stored word. -/
def alpView (c : Chip) (a : Nat) : Option Word :=
  let o := a - 0x0E0000
  if o = 0 then some (word (c.fio.cjok.toNat * 2 ^ 28))
  else if o = 1 then (if expertLive c 14 then none else some 0x00143200)
  else if o = 3 then some c.fio.lpFail
  else if 4 ≤ o && o < 8 then some (BitVec.ofInt 32 (mapGet 0 c.fio.cjTemp (o - 4)))
  else if 0x100 ≤ o && o < 0x200 && o % 8 = 5 then
    some (match (alpOf c ((o - 0x100) / 8)).res with | some r => word r.kstat | none => 0)
  else none

/-- Whether a change of an ALP word is refused in the present mode (R435). -/
def alpModeLocked (c : Chip) (a : Nat) (old new : Word) : Bool :=
  let o := a - 0x0E0000
  let kindChange := bits old 29 26 ≠ bits new 29 26
  0x100 ≤ o && o < 0x200 && o % 8 = 0 && !(c.sys.mode = .prove || c.sys.mode = .maintenance) &&
    (((old ^^^ new) &&& 0xC0000000) ≠ 0 || (kindChange && (isOut old || isOut new || isLoop old)))

/-- The commit rules of ALP. -/
def alpRules (w : After) : List Fail :=
  (List.range 32).flatMap fun n =>
    let a := Reg.alpCfg.addr n
    let x := w a
    let k := alpKind x
    let sub := (w (Reg.alpSub.addr n)).toInt
    let lim : Int × Int := if isLoop x then (3600000, 21000000) else univRange k
    let ip := bits (w (Reg.alpPnt.addr n)) 31 16
    let op := bits (w (Reg.alpOpnt.addr n)) 31 16
    let shared := (List.range 32).any fun m =>
      m ≠ n && bit (w (Reg.alpCfg.addr m)) 31 && bits (w (Reg.alpOpnt.addr m)) 31 16 = op
    if !bit x 31 then []
    else
      failIf (if isLoop x then 3 < k else 10 < k) a 29 26 ++ failIf (2 ≤ bits x 25 24 && !isLoop x && 3 < k) a 25 24 ++
        failIf (3200 < alpDamp x) a 11 0 ++ failIf (bit x 22 && !(!isLoop x && (k = 5 || k = 6))) a 22 22 ++
        failIf (bit x 23 && !isOut x) a 23 23 ++
        failIf (sub < lim.1 || lim.2 < sub) (Reg.alpSub.addr n) 31 0 ++
        failIf (ip ≠ 0 && !ptInput w ip 16) (Reg.alpPnt.addr n) 31 16 ++
        failIf (isOut x && (!ptPress w op 8 || shared)) (Reg.alpOpnt.addr n) 31 16

end Sys2Proof.Machine
end

