-- ==== Sys2Proof/Machine/Hash.lean ====
section
/-! DEFINITION. SHA-256 and SHA-384 (FIPS 180-4) and the verification of an ECDSA signature over P-384 with SHA-384
(FIPS 186-5), as R12 names them for R30, R464 and R492 to R500. -/

namespace Sys2Proof.Machine

/-! ### SHA-2 -/

/-- The parameters of a hash of the SHA-2 family: the width of a word, rounds, the rotations of Σ0, Σ1, σ0 and σ1 (the
last of each σ a shift), round constants. -/
structure Sha where
  width : Nat
  rounds : Nat
  big0 : Nat × Nat × Nat
  big1 : Nat × Nat × Nat
  small0 : Nat × Nat × Nat
  small1 : Nat × Nat × Nat
  k : List Nat

/-- Round constants of SHA-256. -/
def k256 : List Nat :=
  [0x428A2F98, 0x71374491, 0xB5C0FBCF, 0xE9B5DBA5, 0x3956C25B, 0x59F111F1, 0x923F82A4, 0xAB1C5ED5,
   0xD807AA98, 0x12835B01, 0x243185BE, 0x550C7DC3, 0x72BE5D74, 0x80DEB1FE, 0x9BDC06A7, 0xC19BF174,
   0xE49B69C1, 0xEFBE4786, 0x0FC19DC6, 0x240CA1CC, 0x2DE92C6F, 0x4A7484AA, 0x5CB0A9DC, 0x76F988DA,
   0x983E5152, 0xA831C66D, 0xB00327C8, 0xBF597FC7, 0xC6E00BF3, 0xD5A79147, 0x06CA6351, 0x14292967,
   0x27B70A85, 0x2E1B2138, 0x4D2C6DFC, 0x53380D13, 0x650A7354, 0x766A0ABB, 0x81C2C92E, 0x92722C85,
   0xA2BFE8A1, 0xA81A664B, 0xC24B8B70, 0xC76C51A3, 0xD192E819, 0xD6990624, 0xF40E3585, 0x106AA070,
   0x19A4C116, 0x1E376C08, 0x2748774C, 0x34B0BCB5, 0x391C0CB3, 0x4ED8AA4A, 0x5B9CCA4F, 0x682E6FF3,
   0x748F82EE, 0x78A5636F, 0x84C87814, 0x8CC70208, 0x90BEFFFA, 0xA4506CEB, 0xBEF9A3F7, 0xC67178F2]

/-- Round constants of SHA-384, first half. -/
def k512a : List Nat :=
  [0x428A2F98D728AE22, 0x7137449123EF65CD, 0xB5C0FBCFEC4D3B2F, 0xE9B5DBA58189DBBC,
   0x3956C25BF348B538, 0x59F111F1B605D019, 0x923F82A4AF194F9B, 0xAB1C5ED5DA6D8118,
   0xD807AA98A3030242, 0x12835B0145706FBE, 0x243185BE4EE4B28C, 0x550C7DC3D5FFB4E2,
   0x72BE5D74F27B896F, 0x80DEB1FE3B1696B1, 0x9BDC06A725C71235, 0xC19BF174CF692694,
   0xE49B69C19EF14AD2, 0xEFBE4786384F25E3, 0x0FC19DC68B8CD5B5, 0x240CA1CC77AC9C65,
   0x2DE92C6F592B0275, 0x4A7484AA6EA6E483, 0x5CB0A9DCBD41FBD4, 0x76F988DA831153B5,
   0x983E5152EE66DFAB, 0xA831C66D2DB43210, 0xB00327C898FB213F, 0xBF597FC7BEEF0EE4,
   0xC6E00BF33DA88FC2, 0xD5A79147930AA725, 0x06CA6351E003826F, 0x142929670A0E6E70,
   0x27B70A8546D22FFC, 0x2E1B21385C26C926, 0x4D2C6DFC5AC42AED, 0x53380D139D95B3DF,
   0x650A73548BAF63DE, 0x766A0ABB3C77B2A8, 0x81C2C92E47EDAEE6, 0x92722C851482353B]

/-- Round constants of SHA-384, second half. -/
def k512b : List Nat :=
  [0xA2BFE8A14CF10364, 0xA81A664BBC423001, 0xC24B8B70D0F89791, 0xC76C51A30654BE30,
   0xD192E819D6EF5218, 0xD69906245565A910, 0xF40E35855771202A, 0x106AA07032BBD1B8,
   0x19A4C116B8D2D0C8, 0x1E376C085141AB53, 0x2748774CDF8EEB99, 0x34B0BCB5E19B48A8,
   0x391C0CB3C5C95A63, 0x4ED8AA4AE3418ACB, 0x5B9CCA4F7763E373, 0x682E6FF3D6B2B8A3,
   0x748F82EE5DEFB2FC, 0x78A5636F43172F60, 0x84C87814A1F0AB72, 0x8CC702081A6439EC,
   0x90BEFFFA23631E28, 0xA4506CEBDE82BDE9, 0xBEF9A3F7B2C67915, 0xC67178F2E372532B,
   0xCA273ECEEA26619C, 0xD186B8C721C0C207, 0xEADA7DD6CDE0EB1E, 0xF57D4F7FEE6ED178,
   0x06F067AA72176FBA, 0x0A637DC5A2C898A6, 0x113F9804BEF90DAE, 0x1B710B35131C471B,
   0x28DB77F523047D84, 0x32CAAB7B40C72493, 0x3C9EBE0A15C9BEBC, 0x431D67C49C100D4C,
   0x4CC5D4BECB3E42B6, 0x597F299CFC657E2A, 0x5FCB6FAB3AD6FAEC, 0x6C44198C4A475817]

/-- Initial hash value of SHA-256. -/
def h256 : List Nat :=
  [0x6A09E667, 0xBB67AE85, 0x3C6EF372, 0xA54FF53A, 0x510E527F, 0x9B05688C, 0x1F83D9AB, 0x5BE0CD19]

/-- Initial hash value of SHA-384. -/
def h384 : List Nat :=
  [0xCBBB9D5DC1059ED8, 0x629A292A367CD507, 0x9159015A3070DD17, 0x152FECD8F70E5939,
   0x67332667FFC00B31, 0x8EB44A8768581511, 0xDB0C2E0D64F98FA7, 0x47B5481DBEFA4FA4]

/-- SHA-256. -/
def sha256P : Sha := ⟨32, 64, (2, 13, 22), (6, 11, 25), (7, 18, 3), (17, 19, 10), k256⟩

/-- The compression function of SHA-512, which SHA-384 uses. -/
def sha384P : Sha := ⟨64, 80, (28, 34, 39), (14, 18, 41), (1, 8, 7), (19, 61, 6), k512a ++ k512b⟩

/-- x rotated right by n in the hash's word width. -/
def Sha.rotr (s : Sha) (n x : Nat) : Nat := x / 2 ^ n + (x % 2 ^ n) * 2 ^ (s.width - n)

/-- Σ: three rotations. -/
def Sha.big (s : Sha) (r : Nat × Nat × Nat) (x : Nat) : Nat := Nat.xor (Nat.xor (s.rotr r.1 x) (s.rotr r.2.1 x)) (s.rotr r.2.2 x)

/-- σ: two rotations and a shift. -/
def Sha.small (s : Sha) (r : Nat × Nat × Nat) (x : Nat) : Nat := Nat.xor (Nat.xor (s.rotr r.1 x) (s.rotr r.2.1 x)) (x / 2 ^ r.2.2)

/-- The eight working variables a to h. -/
structure ShaVars where
  a : Nat
  b : Nat
  c : Nat
  d : Nat
  e : Nat
  f : Nat
  g : Nat
  h : Nat
  deriving DecidableEq, Repr

/-- One round, with round constant k and schedule word w. -/
def Sha.round (s : Sha) (v : ShaVars) (k w : Nat) : ShaVars :=
  let m := 2 ^ s.width
  let ch := Nat.xor (Nat.land v.e v.f) (Nat.land (m - 1 - v.e) v.g)
  let maj := Nat.xor (Nat.xor (Nat.land v.a v.b) (Nat.land v.a v.c)) (Nat.land v.b v.c)
  let t1 := v.h + s.big s.big1 v.e + ch + k + w
  let t2 := s.big s.big0 v.a + maj
  ⟨(t1 + t2) % m, v.a, v.b, v.c, (v.d + t1) % m, v.e, v.f, v.g⟩

/-- The rounds over the constants that remain; `win` holds the next 16 words of the schedule. -/
def Sha.rounds_ (s : Sha) : List Nat → List Nat → ShaVars → ShaVars
  | [], _, v => v
  | k :: ks, win, v =>
    let w (i : Nat) := win.getD i 0
    let next := (s.small s.small1 (w 14) + w 9 + s.small s.small0 (w 1) + w 0) % 2 ^ s.width
    s.rounds_ ks (win.drop 1 ++ [next]) (s.round v k (w 0))

/-- One block taken into the hash value. -/
def Sha.block (s : Sha) (h : List Nat) (ws : List Nat) : List Nat :=
  let i (n : Nat) := h.getD n 0
  let v := s.rounds_ s.k ws ⟨i 0, i 1, i 2, i 3, i 4, i 5, i 6, i 7⟩
  (List.zip h [v.a, v.b, v.c, v.d, v.e, v.f, v.g, v.h]).map fun p => (p.1 + p.2) % 2 ^ s.width

/-- The words of a byte string, most significant byte first; `n` bounds their number. -/
def Sha.words (s : Sha) : Nat → List Byte → List Nat
  | 0, _ => []
  | n + 1, bs => natBE (bs.take (s.width / 8)) :: s.words n (bs.drop (s.width / 8))

/-- The blocks of 16 words taken in order; `n` bounds their number. -/
def Sha.blocks (s : Sha) : Nat → List Nat → List Nat → List Nat
  | 0, h, _ => h
  | n + 1, h, ws => if ws.isEmpty then h else s.blocks n (s.block h (ws.take 16)) (ws.drop 16)

/-- A message padded to whole blocks. -/
def Sha.pad (s : Sha) (bs : List Byte) : List Byte :=
  let blk := 2 * s.width
  let used := bs.length + 1 + s.width / 4
  bs ++ [0x80] ++ List.replicate ((blk - used % blk) % blk) 0 ++ bytesBE (s.width / 4) (8 * bs.length)

/-- The hash value of a message, from an initial value, as words. -/
def Sha.hash (s : Sha) (h : List Nat) (bs : List Byte) : List Nat :=
  let p := s.pad bs
  let ws := s.words (p.length / (s.width / 8)) p
  s.blocks (ws.length / 16) h ws

/-- SHA-256 of a byte string, as a number with the first byte most significant. -/
def sha256 (bs : List Byte) : Nat := (sha256P.hash h256 bs).foldl (fun a w => a * 2 ^ 32 + w) 0

/-- SHA-384 of a byte string, as a number with the first byte most significant. -/
def sha384 (bs : List Byte) : Nat := ((sha384P.hash h384 bs).take 6).foldl (fun a w => a * 2 ^ 64 + w) 0

/-! ### ECDSA over P-384 -/

/-- The field prime of P-384. -/
def p384 : Nat := 2 ^ 384 - 2 ^ 128 - 2 ^ 96 + 2 ^ 32 - 1
/-- The order of the base point. -/
def n384 : Nat := 0xFFFFFFFFFFFFFFFFFFFFFFFFFFFFFFFFFFFFFFFFFFFFFFFFC7634D81F4372DDF581A0DB248B0A77AECEC196ACCC52973
/-- The coefficient b of the curve y² = x³ − 3x + b. -/
def b384 : Nat := 0xB3312FA7E23EE7E4988E056BE3F82D19181D9C6EFE8141120314088F5013875AC656398D8A2ED19D2A85C8EDD3EC2AEF
/-- X of the base point. -/
def gx384 : Nat := 0xAA87CA22BE8B05378EB1C71EF320AD746E1D3B628BA79B9859F741E082542A385502F25DBF55296C3A545E3872760AB7
/-- Y of the base point. -/
def gy384 : Nat := 0x3617DE4A96262C6F5D9E98BF9292DC29F8F41DBD289A147CE9DA3113B5F0B8C00A60B1CE1D7E819D7A431D7C90EA0E5F

/-- b^e mod m by squaring over the low `fuel` bits of e. -/
def powMod (m : Nat) : Nat → Nat → Nat → Nat
  | 0, _, _ => 1 % m
  | fuel + 1, b, e => (powMod m fuel (b * b % m) (e / 2)) * (if e % 2 = 1 then b else 1) % m

/-- The inverse modulo a prime of 384 bits. -/
def invMod (m x : Nat) : Nat := powMod m 384 (x % m) (m - 2)

/-- A point of the curve; none is the point at infinity. -/
abbrev Point := Option (Nat × Nat)

/-- The sum of two points of P-384. -/
def addPoint : Point → Point → Point
  | none, q => q
  | p, none => p
  | some (x1, y1), some (x2, y2) =>
    if x1 = x2 ∧ (y1 + y2) % p384 = 0 then none
    else
      let l := if x1 = x2 then (3 * x1 * x1 + p384 - 3) * invMod p384 (2 * y1) % p384
               else (y2 + p384 - y1) * invMod p384 (x2 + p384 - x1) % p384
      let x := (l * l + 2 * p384 - x1 - x2) % p384
      some (x, (l * (x1 + p384 - x) + p384 - y1) % p384)

/-- k times a point, over the low `fuel` bits of k. -/
def mulPoint : Nat → Nat → Point → Point
  | 0, _, _ => none
  | fuel + 1, k, p =>
    let r := mulPoint fuel (k / 2) (addPoint p p)
    if k % 2 = 1 then addPoint p r else r

/-- Whether (x, y) is a point of the curve. -/
def onCurve (x y : Nat) : Bool := x < p384 && y < p384 && (y * y) % p384 = (x * x * x + (p384 - 3) * x + b384) % p384

/-- Whether (r, s) is a signature of the message under the public key (x, y). -/
def ecdsaOk (x y : Nat) (msg : List Byte) (r s : Nat) : Bool :=
  onCurve x y && 0 < r && r < n384 && 0 < s && s < n384 &&
  (let w := invMod n384 s
   match addPoint (mulPoint 384 (sha384 msg * w % n384) (some (gx384, gy384))) (mulPoint 384 (r * w % n384) (some (x, y))) with
   | none => false
   | some (px, _) => px % n384 = r)

end Sys2Proof.Machine
end

