-- ==== Sys2Proof/Machine/Rind.lean ====
section
/-! DEFINITION. Rind (R437 to R471): the accepted set, safety inputs, speeds, the state machine with its causes, reset
pulses, the securing of the parameter set, status and registers. -/

namespace Sys2Proof.Machine

/-- Rind changed. -/
def onRind (c : Chip) (f : Rind → Rind) : Chip := { c with rind := f c.rind }

/-! ### The parameter set (R460, R461, R468) -/

/-- Word k of the accepted set; 0 while none has been accepted. -/
def rindPar (c : Chip) (k : Nat) : Word := (c.rind.accepted.getD []).getD k 0

/-- The live words: the proposal. -/
def rindProposal (c : Chip) : List Word := (List.range 14).map fun k => rawReg c (Reg.rindPgen.addr + k)

/-- The check word of a set (R461). -/
def rindCrc (ws : List Word) : Nat := crc32c (ws.flatMap fun w => bytesLE 4 w.toNat)

/-- The Akval 2 check value of a set (R461). -/
def akval (ws : List Word) : Nat := (ws.flatMap fun w => bytesBE 4 w.toNat).foldl crc16Byte 0xFFFF

/-- ACHK; 0 if no set has been accepted. -/
def achk (c : Chip) : Nat := match c.rind.accepted with | some ws => rindCrc ws | none => 0

/-- AKACC; 0 if no set has been accepted. -/
def akacc (c : Chip) : Nat := match c.rind.accepted with | some ws => akval ws | none => 0

/-- RIND_PSIi of the accepted set. -/
def rindPsi (c : Chip) (i : Nat) : Word := rindPar c (1 + i)

/-- EN of SIi. -/
def siEn (c : Chip) (i : Nat) : Bool := bit (rindPsi c i) 31

/-- The scheme in force (R464): CHECKVAL for true. -/
def rindCheckval (c : Chip) : Bool := bits (if c.rind.accepted.isSome then rindPar c 0 else rawReg c Reg.rindPgen.addr) 29 28 = 1

/-! ### Speeds (R443) -/

/-- A speed channel. -/
def rindSpd (c : Chip) (n : Nat) : RindSpd := if n = 0 then c.rind.spd0 else c.rind.spd1

/-- Whether RSn is enabled. -/
def rsEn (c : Chip) (n : Nat) : Bool := bit (rindPar c 9) (31 - n)

/-- The speed of RSn in mHz at Rind's clock `t`: 10^12 ÷ P, or by the time since the last edge once that exceeds P; 0 after
2 s without an edge. -/
def rindSpeed (c : Chip) (n t : Nat) : Nat :=
  let x := rindSpd c n
  match x.tl with
  | none => 0
  | some tl => if tl + 2000000000 ≤ t then 0 else 1000000000000 / max x.p (t - tl)

/-- The monitored speed v. -/
def rindV (c : Chip) (t : Nat) : Nat :=
  max (if rsEn c 0 then rindSpeed c 0 t else 0) (if rsEn c 1 then rindSpeed c 1 t else 0)

/-- A rising edge on RSn at Rind's clock `t`. Before the first edge there is no P: it is a free value (log entry 21). -/
def rindSpeedEdge (c : Chip) (n t : Nat) : Chip :=
  if !c.rind.on then c
  else
    let x := rindSpd c n
    let (p, c) := match x.tl with
      | some tl => (t - tl, c)
      | none => let (k, c) := drawStamp c; ((Config.freeWord k).toNat, c)
    onRind c fun r => if n = 0 then { r with spd0 := { x with p := p, tl := some t } } else { r with spd1 := { x with p := p, tl := some t } }

/-! ### Drive permit and outputs (R439, R455) -/

/-- The TE drive permit. -/
def tePermit (c : Chip) : Bool :=
  (c.sys.mode = .service && outEnable c) || (c.sys.mode = .hold && substitutes c && c.rind.state = 3)

/-- Whether the TE outputs are on; the loss of refresh also turns them off (R20). -/
def teOn (c : Chip) : Bool := (c.rind.state = 2 || c.rind.state = 3) && tePermit c && !c.fio.inert

/-- Whether the readback of TE output n is on: it follows the command, but not without FS1, which feeds the outputs (R440, R443), and
not where the last test found it to differ (R444). -/
def teRead (c : Chip) (n : Nat) : Bool := (teOn c && !c.rind.fsLow) != c.rind.teDiff.getLsbD n

/-! ### Causes and states (R445, R446) -/

/-- A safety input. -/
def rindIn (c : Chip) (i : Nat) : RindIn := mapGet RindIn.zero c.rind.inputs i

/-- A safety input changed. -/
def onIn (c : Chip) (i : Nat) (f : RindIn → RindIn) : Chip :=
  onRind c fun r => { r with inputs := mapMod RindIn.zero r.inputs i f }

/-- A cause found, with the state that it leads to: state, cause, input. -/
abbrev Cand := Nat × Nat × Nat

/-- Where a cause leads from the present state (Table: Rind causes). -/
def rindDest (c : Chip) (cause : Nat) : Option Nat :=
  let st := c.rind.state
  if st = 0 || st = 5 then none
  else if cause = 1 then (if st = 2 then some (if tePermit c then 3 else 1) else none)
  else if cause = 2 then (if st = 2 || st = 3 then some 1 else none)
  else if cause = 4 then (if st = 3 then some 4 else none)
  else if cause = 5 then (if st = 3 then some 1 else none)
  else if 6 ≤ cause && cause ≤ 11 then some 4
  else if 12 ≤ cause && cause ≤ 14 then some 5
  else if cause = 15 then some 1
  else none

/-- How severe a state is: FAILED, LOCKED, STOPPED, DECEL. -/
def severity (st : Nat) : Nat := if st = 5 then 4 else if st = 4 then 3 else if st = 1 then 2 else 1

/-- The candidate to be recorded: the most severe state, then the lower cause. -/
def worst (l : List Cand) : Option Cand :=
  l.foldl (fun m x => match m with
    | none => some x
    | some y => if severity y.1 < severity x.1 || (severity y.1 = severity x.1 && x.2.1 < y.2.1) then some x else m) none

/-- A state entered with its cause: recorded, counted from RUN, source 512. -/
def rindEnter (c : Chip) (x : Cand) : Chip :=
  let old := c.rind.state
  let t := c.rind.clk
  let v := rindV c t
  let c := onRind c fun r => { r with
    state := x.1, cause := x.2.1, input := x.2.2, still := if x.1 = 3 then 0 else r.still, td := if x.1 = 3 then t else r.td,
    vd := if x.1 = 3 then v else r.vd, faultAt := if x.1 = 4 then t else r.faultAt }
  let c := if old = 2 && x.1 ≠ 2 then bump c Reg.rindCnt0.addr 31 16 else c
  if old = x.1 then c else raise c 512 (x.1 + x.2.1 * 256)

/-- Causes with their inputs acted upon: the worst is recorded and its state entered. -/
def rindAct (c : Chip) (found : List (Nat × Nat)) (more : List Cand := []) : Chip :=
  match worst (found.filterMap (fun x => (rindDest c x.1).map fun st => (st, x.1, x.2)) ++ more) with
  | some x => rindEnter c x
  | none => c

/-- Whether an input fails its test-pulse check (R441): two pulses in a row read 1, or no pulse on its TP line for
TPMAX × 10 ms. -/
def tpFails (c : Chip) (i : Nat) : Bool :=
  (rindIn c i).tpFail ||
  decide (bits (rindPar c 0) 23 16 * 10000000 ≤ c.rind.clk - mapGet 0 c.rind.tpSeen (bits (rindPsi c i) 26 24))

/-- LOCKED causes that are present. -/
def lockedPresent (c : Chip) : List (Nat × Nat) :=
  ((List.range 8).filter fun i => siEn c i && tpFails c i).map (fun i => (6, i)) ++
  ((List.range 8).filter fun i => siEn c i && (rindIn c i).disc).map (fun i => (7, i)) ++
  (if c.rind.diff then [(8, 0xFF)] else []) ++
  ((List.range 2).filter fun n => rsEn c n && (rindSpd c n).bad).map (fun n => (9, 8 + n)) ++
  (if c.rind.fsLow then [(10, 0xFF)] else []) ++ (if c.rind.clockref then [(11, 0xFF)] else [])

/-- Demands: cause 1 or 2 and the input. -/
def rindDemands (c : Chip) : List (Nat × Nat) :=
  ((List.range 8).filter fun i => siEn c i && (rindIn c i).dem).map fun i => (bits (rindPsi c i) 30 29, i)

/-- What an evaluation found is acted upon. In LOCKED only what is new counts, and the 1 s of R453 runs from the last
presence of a LOCKED cause. -/
def rindJudge (c : Chip) (before : List (Nat × Nat)) (demands : List (Nat × Nat)) (more : List Cand := []) : Chip :=
  let now := lockedPresent c
  let c := if now.isEmpty then c else onRind c fun r => { r with faultAt := r.clk }
  rindAct c (demands ++ (if c.rind.state = 4 then now.filter fun x => !before.contains x else now)) more

/-! ### Safety inputs (R441, R442, R447) -/

/-- One sample of SIi taken into its filter at Rind's clock `t`. -/
def filterIn (c : Chip) (i t : Nat) (level : Bool) : Chip :=
  let x := rindIn c i
  let lim := bits (rindPar c 0) 15 8 * 1000000
  if level = !x.dem then onIn c i fun x => { x with level := level, since := none }
  else
    match x.since with
    | none => onIn c i fun x => { x with level := level, since := some t }
    | some s =>
      if t - s < lim then onIn c i fun x => { x with level := level }
      else
        let c := onIn c i fun x => { x with level := level, dem := !level, since := none }
        if siEn c i then raise c (513 + i) (b2n (!level)) else c

/-- The discrepancy of the pair of an even input i at Rind's clock `t` (R442). -/
def judgePair (c : Chip) (i t : Nat) : Chip :=
  if !(siEn c i && bit (rindPsi c i) 28 && i % 2 = 0) then c
  else
    let a := rindIn c i
    let b := rindIn c (i + 1)
    let lim := bits (rindPar c 0) 7 0 * 10000000
    let at_ := if a.dem = b.dem then none else some (a.discAt.getD t)
    let found := match at_ with | some s => decide (lim ≤ t - s) | none => false
    let disc := found || (a.disc && !(a.level && b.level))
    let f := fun (x : RindIn) => { x with discAt := at_, disc := disc }
    onIn (onIn c i f) (i + 1) f

/-- The evaluation every 250 µs: levels of SI0 to SI7, and the TP lines that are below 2 V or came back less than 150 µs
ago, whose inputs are ignored. STOP0 and faults act at once. -/
def safetyEval (c : Chip) (t : Nat) (si low : BitVec 8) : Chip :=
  if !c.rind.on then c
  else
    let before := lockedPresent c
    let c := onRind c fun r => { r with clk := t }
    let c := (List.range 8).foldl (fun c i =>
      if low.getLsbD (bits (rindPsi c i) 26 24) then c else filterIn c i t (si.getLsbD i)) c
    let c := [0, 2, 4, 6].foldl (fun c i => judgePair c i t) c
    rindJudge c before ((rindDemands c).filter fun x => x.1 = 2)

/-- The sample 50 µs after TP line k has fallen (R441): an input fails on two pulses in a row that read 1. -/
def tpSample (c : Chip) (k : Nat) (si : BitVec 8) : Chip :=
  if !c.rind.on then c
  else
    let before := lockedPresent c
    let c := onRind c fun r => { r with tpSeen := mapPut 0 r.tpSeen k r.clk }
    let c := ((List.range 8).filter fun i => siEn c i && bits (rindPsi c i) 26 24 = k).foldl (fun c i =>
      onIn c i fun x =>
        if si.getLsbD i then { x with badTp := x.badTp + 1, tpFail := 1 ≤ x.badTp } else { x with badTp := 0, tpFail := false }) c
    rindJudge c before []

/-! ### The cycle (R447, R450) -/

/-- The ramp limit at `el` ns after the entry to DECEL, in 10^-6 mHz (R450). -/
def rampLimit (c : Chip) (el : Nat) : Nat :=
  let top := (c.rind.vd + (rindPar c 11).toNat) * 1000000
  let tdly := bits (rindPar c 13) 15 0 * 1000000
  if el ≤ tdly then top else max (top - (rindPar c 12).toNat * (el - tdly)) ((rindPar c 10).toNat * 1000000)

/-- The deceleration check of a cycle: the chip with its standstill count, and what it leads to. -/
def decelCheck (c : Chip) (v : Nat) : Chip × List Cand :=
  if c.rind.state ≠ 3 then (c, [])
  else
    let el := c.rind.clk - c.rind.td
    if rampLimit c el < v * 1000000 then (c, [(4, 4, 0xFF)])
    else
      let still := if v ≤ (rindPar c 10).toNat then c.rind.still + 1 else 0
      let c := onRind c fun r => { r with still := still }
      if still = 3 then (c, [(1, c.rind.cause, c.rind.input)])
      else if 100000000 * bits (rindPar c 13) 31 16 ≤ el then (c, [(1, 5, 0xFF)])
      else (c, [])

/-- Whether the enabled speeds differ too much (R443), in mHz. -/
def speedsDiffer (c : Chip) (t : Nat) : Bool :=
  let a := rindSpeed c 0 t
  let b := rindSpeed c 1 t
  rsEn c 0 && rsEn c 1 && decide (800 * bits (rindPar c 9) 15 0 + max a b < 8 * (max a b - min a b))

/-- The 1 ms cycle at Rind's clock `t`: BREAK or SHORT found on RS0 and RS1, FS1 below 16.8 V. -/
def rindCycle (c : Chip) (t : Nat) (bad : BitVec 2) (fsLow : Bool) : Chip :=
  if !c.rind.on then c
  else
    let before := lockedPresent c
    let c := onRind c fun r => { r with
      clk := t, fsLow := fsLow, spd0 := { r.spd0 with bad := bad.getLsbD 0 }, spd1 := { r.spd1 with bad := bad.getLsbD 1 } }
    let at_ := if speedsDiffer c t then some (c.rind.diffAt.getD t) else none
    let held := match at_ with | some s => decide (bits (rindPar c 9) 23 16 * 10000000 ≤ t - s) | none => false
    let c := onRind c fun r => { r with diffAt := at_, diff := held }
    let (c, more) := decelCheck c (rindV c t)
    rindJudge c before (rindDemands c) more

/-! ### Reset pulses (R451 to R454) -/

/-- A reset refused with its reason (source 522). -/
def refuseReset (c : Chip) (reason : Nat) : Chip := raise (bump c Reg.rindCnt1.addr 31 16) 522 reason

/-- Entries of the change log (R466) with the Cellar records that carry them. -/
def rindLogEntry (c : Chip) (op : Nat) (checkval : Bool) (fingerprint : Nat) : Chip :=
  let seq := c.rind.logSeq + 1
  let w3 := akacc c * 65536 + op * 4096 + b2n checkval * 1024
  let e := [word seq, word c.cel.opsec, word (achk c), word w3]
  let c := onRind c fun r => { r with logSeq := seq, logFirst := some (r.logFirst.getD e), log := (e :: r.log).take 63 }
  deviceRecord (deviceRecord c 0x0F 1 seq (achk c) w3) 0x0F 2 (fingerprint % 2 ^ 32) (fingerprint / 2 ^ 32)

/-- The fingerprint of a session's certificate. -/
def fingerprintOf (c : Chip) (n : Fin 4) : Nat := match mapGet none c.sys.sessions n.val with | some s => s.fingerprint | none => 0

/-- The proposal becomes the accepted set (R463, R466), with the fingerprint of the session that issued the ACCEPT. -/
def acceptSet (c : Chip) (fingerprint : Nat) : Chip :=
  let cv := rindCheckval c
  let c := onRind c fun r => { r with accepted := some (rindProposal c), acceptAt := none, cmdres := 1 }
  let c := raise (rindLogEntry c 1 cv fingerprint) 524 (achk c)
  rindAct c [(15, 0xFF)]

/-- An ACCEPT that no reset pulse came for ends with CMDRES TIMEOUT (R465). -/
def acceptEnds (c : Chip) : Chip := onRind c fun r => { r with acceptAt := none, cmdres := 9 }

/-- An accepted fall of RST after an accepted rise, with the high time in µs as Rind measures it; none for a fall without
a rise since Rind's start (R451). A pulse later than 61 s after its write finds the ACCEPT timed out. -/
def resetPulse (c : Chip) (high : Option Nat) : Chip :=
  match c.rind.on, high with
  | true, some h =>
    if h < 100000 || 3000000 < h then refuseReset c 3
    else
      let c := match c.rind.acceptAt with
        | some (t, _) => if t + 61000000 < c.core.tick then acceptEnds c else c
        | none => c
      match c.rind.acceptAt with
      | some (_, fp) => acceptSet c fp
      | none =>
        if c.rind.state ≠ 1 && c.rind.state ≠ 4 then c
        else if !(rindDemands c).isEmpty then refuseReset c 1
        else if !(lockedPresent c).isEmpty || (c.rind.state = 4 && c.rind.clk < c.rind.faultAt + 1000000000) then refuseReset c 2
        else
          let c := onRind c fun r => { r with state := 2 }
          raise (raise (bump c Reg.rindCnt0.addr 15 0) 512 (2 + c.rind.cause * 256)) 521 2
  | _, _ => c

/-- RST has been high for 10 s. -/
def rstHigh (c : Chip) : Chip := if c.rind.on then raise c 523 else c

/-! ### Tests and diagnostics (R444, R458, R459) -/

/-- A diagnostic that fails. In START it leads to FAILED as START ends, with its cause, the least of several; INTERNAL is then status
SELFTEST. -/
def rindFail (c : Chip) (cause : Nat) : Chip :=
  if c.rind.state = 0 then
    onRind c fun r => { r with selfFail := r.selfFail || decide (cause = 13), startCause := some (min cause (r.startCause.getD cause)) }
  else rindAct c [(cause, 0xFF)]

/-- The TE outputs tested: those whose readback was not as R444 requires, on or off. -/
def teTest (c : Chip) (diff : BitVec 2) : Chip :=
  if !c.rind.on then c
  else
    let c := onRind c fun r => { r with teDiff := diff }
    if diff = 0 then c else rindFail c 12

/-- A window of the 1 kHz reference with Rind's clock count (R458); from step 7 of the power-up sequence. -/
def oscWindow (c : Chip) (count : Nat) : Chip :=
  if !c.rind.on || c.sys.step < 7 then c
  else if 15680 ≤ count && count ≤ 16320 then
    onRind c fun r => { r with
      oscGood := r.oscGood + 1, oscBad := 0, oscPassed := r.oscPassed || 2 ≤ r.oscGood, clockref := r.clockref && r.oscGood < 9 }
  else
    let c := onRind c fun r => { r with oscGood := 0, oscBad := r.oscBad + 1 }
    if 3 ≤ c.rind.oscBad then rindFail c 13 else c

/-- The reference has been absent for 100 ms. -/
def clockrefTimeout (c : Chip) : Chip :=
  if !c.rind.on || c.sys.step < 7 then c
  else
    let before := lockedPresent c
    rindJudge (onRind c fun r => { r with clockref := true, oscGood := 0 }) before []

/-- A diagnostic of Table: Rind diagnostics by its row: TE readback is TEFAULT, the supply is RSUPPLY, the rows with a
command of their own do nothing here. -/
def rindDiagnostic (c : Chip) (d : Nat) (ok : Bool) : Chip :=
  if !c.rind.on || ok then c
  else if d ≤ 4 then rindFail c 13
  else if d = 8 then rindFail c 12
  else if d = 9 then rindFail c 14
  else c

/-- The end of START (R454): whether its own checks passed. -/
def rindStartEnd (c : Chip) (ok : Bool) : Chip :=
  if !c.rind.on || c.rind.state ≠ 0 then c
  else match (if ok then c else rindFail c 13).rind.startCause with
  | some k => rindEnter (if ok then c else rindFail c 13) (5, k, 0xFF)
  | none =>
    let found := (rindDemands c ++ lockedPresent c)
    if !bit (rindPar c 0) 31 && found.isEmpty then
      raise (onRind c fun r => { r with state := 2 }) 512 (2 + c.rind.cause * 256)
    else
      match worst (found.map fun x => (if 6 ≤ x.1 then 4 else 1, x.1, x.2)) with
      | some (_, k, i) => rindEnter c (1, k, i)
      | none => rindEnter c (1, 16, 0xFF)

/-- The HOLD notice (R457). -/
def holdNotice (c : Chip) : Chip :=
  if c.rind.state ≠ 2 then c
  else if substitutes c && !bit (rindPar c 0) 30 then rindEnter c (3, 3, 0xFF)
  else rindEnter c (1, 3, 0xFF)

/-! ### Status (R462, R468, R470) -/

/-- READY (R462). While cause CLOCKREF is present the oscillator check is not passed (log entry 22). -/
def rindReady (c : Chip) : Bool :=
  c.rind.state ≠ 0 && c.rind.state ≠ 5 && c.rind.oscPassed && !c.rind.clockref && c.rind.accepted.isSome &&
  rindCrc (rindProposal c) = achk c

/-- STATUS (Table: Rind status codes). -/
def rindStatus (c : Chip) : Nat :=
  if c.rind.state = 5 then (if c.rind.selfFail then 2 else 6)
  else if c.rind.state = 0 || !c.rind.oscPassed then 1
  else if c.rind.accepted.isNone then 3
  else if rindCrc (rindProposal c) ≠ achk c then 4
  else if c.rind.clockref then 5
  else 0

/-- DEMAND and SIFAULT. -/
def demandBits (c : Chip) : Nat := ((List.range 8).filter fun i => siEn c i && (rindIn c i).dem).foldl (fun a i => a + 2 ^ i) 0
/-- SIFAULT. -/
def siFaultBits (c : Chip) : Nat :=
  ((List.range 8).filter fun i => siEn c i && (tpFails c i || (rindIn c i).disc)).foldl (fun a i => a + 2 ^ i) 0

/-- What becomes of READY: a change raises source 526; UNLOCK ends outside PROVE and MAINTENANCE and with its session
(R464). -/
def rindCheck (c : Chip) : Chip :=
  let gone (n : Fin 4) : Bool := (mapGet none c.sys.sessions n.val).isNone
  let c := match c.rind.unlock with
    | some (n, _) =>
      if gone n || (c.sys.mode ≠ .prove && c.sys.mode ≠ .maintenance) then onRind c fun r => { r with unlock := none } else c
    | none => c
  if rindReady c = c.rind.ready then c
  else
    let c := onRind c fun r => { r with ready := rindReady c }
    raise c 526 (b2n c.rind.ready + rindStatus c * 256)

/-- The 16 bytes of the status point. -/
def rindBytes (c : Chip) : List Byte :=
  let r := c.rind
  bytesLE 4 (r.state + b2n (rindReady c) * 8 + b2n (teRead c 0) * 16 + b2n (teRead c 1) * 32 + r.cause * 256 + demandBits c * 2 ^ 16 + siFaultBits c * 2 ^ 24) ++
  bytesLE 4 (rindV c r.clk) ++ bytesLE 4 (achk c) ++ bytesLE 4 (akacc c)

/-- Rind sends its status over the one-way link. -/
def rindSend (c : Chip) : Chip := if c.rind.on then onRind c fun r => { r with sent := some (rindBytes c), sentAt := c.core.tick } else c

/-- No status for 5 ms. -/
def rindSilent (c : Chip) : Chip := if c.core.tick < c.rind.sentAt + 5000 then c else onRind c fun r => { r with sent := none }

/-- Whether p is the status point. -/
def isRindPoint (c : Chip) (p : Nat) : Bool := p ≠ 0 && fieldOf c Reg.rindPnt.addr 31 16 = p

/-- Its sample. -/
def rindSample (c : Chip) : Sample :=
  ⟨.values [4, 4, 4, 4], word (b2n c.rind.sent.isSome * 2 ^ 31), c.rind.sent.getD (List.replicate 16 0), none⟩

/-! ### RIND_CMD (R463 to R465) -/

/-- Whether a writer may write RIND_CMD, RIND_ARG and RIND_PWk. -/
def rindWritable (c : Chip) (w : Writer) : Bool :=
  (c.sys.mode = .prove || c.sys.mode = .maintenance) &&
  match w with
  | .culture => false
  | .session n => match mapGet none c.sys.sessions n.val with | some s => s.priv = .maintain | none => false

/-- The 32 bytes of the password words. -/
def pwBytes (c : Chip) : List Byte := (List.range 8).flatMap fun k => bytesLE 4 (rawReg c (Reg.rindPw.addr k)).toNat

/-- Whether 32 bytes hold a password: 8 to 32 bytes in 0x21 to 0x7E, then zeros. -/
def pwValid (bs : List Byte) : Bool :=
  let p := bs.takeWhile (· ≠ 0)
  8 ≤ p.length && p.all (fun b => 0x21 ≤ b.toNat && b.toNat ≤ 0x7E) && (bs.drop p.length).all (· = 0)

/-- The salted digest of a password: SHA-256 over the salt and the bytes (log entry 23). -/
def pwDigest (salt : Nat) (bs : List Byte) : Nat := sha256 (bytesLE 4 salt ++ bs.takeWhile (· ≠ 0))

/-- The password words cleared. -/
def clearPw (c : Chip) : Chip := (List.range 8).foldl (fun c k => setReg c (Reg.rindPw.addr k) 0) c

/-- A result shown in CMDRES. -/
def cmdRes (c : Chip) (r : Nat) : Chip := onRind c fun x => { x with cmdres := r }

/-- OP 1 under PASSWORD. -/
def rindUnlock (c : Chip) (n : Fin 4) : Chip :=
  if rindCheckval c then cmdRes c 6
  else if c.rind.blockAt.isSome then cmdRes c 3
  else if pwValid (pwBytes c) && (match c.rind.digest with | some (s, d) => decide (pwDigest s (pwBytes c) = d) | none => false) then
    onRind c fun r => { r with unlock := some (n, c.core.tick), wrong := 0, cmdres := 1 }
  else
    let k := c.rind.wrong + 1
    let c := raise (bump (onRind c fun r => { r with wrong := k, cmdres := 2 }) Reg.rindCnt1.addr 15 0) 525 (5 - k)
    if k < 5 then c
    else rindLogEntry (onRind c fun r => { r with wrong := 0, blockAt := some c.cel.opsec }) 3 false (fingerprintOf c n)

/-- OP 2 (R464, R465). -/
def rindAccept (c : Chip) (n : Fin 4) : Chip :=
  let arg := (rawReg c Reg.rindArg.addr).toNat
  if rindCheckval c then
    if arg = akval (rindProposal c) then onRind c fun r => { r with acceptAt := some (c.core.tick, fingerprintOf c n), cmdres := 8 } else cmdRes c 5
  else if c.rind.unlock.isNone then cmdRes c 4
  else if arg = rindCrc (rindProposal c) then acceptSet c (fingerprintOf c n)
  else cmdRes c 5

/-- OP 3 under PASSWORD. -/
def rindSetpw (c : Chip) (n : Fin 4) : Chip :=
  if rindCheckval c then cmdRes c 6
  else if c.rind.unlock.isNone && c.rind.digest.isSome then cmdRes c 4
  else if !pwValid (pwBytes c) then cmdRes c 7
  else
    let (k, c) := drawStamp c
    let salt := (Config.freeWord k).toNat
    let c := onRind c fun r => { r with digest := some (salt, pwDigest salt (pwBytes c)), cmdres := 1 }
    rindLogEntry c 2 false (fingerprintOf c n)

/-- OP 4 under PASSWORD. -/
def rindLock (c : Chip) : Chip :=
  if rindCheckval c then cmdRes c 6 else onRind c fun r => { r with unlock := none, cmdres := 1 }

/-- A write of RIND_CMD by a writer that may: the chip, and false where it is refused with status MODE. Every write clears
the password words and is the unlocking session's last. -/
def rindCmdWrite (c : Chip) (w : Writer) (op : Nat) : Chip × Bool :=
  match w with
  | .culture => (c, false)
  | .session n =>
    if !rindWritable c w || 5 ≤ op then (c, false)
    else
      let c := match c.rind.unlock with
        | some (k, _) => if k = n then onRind c fun r => { r with unlock := some (k, c.core.tick) } else c
        | none => c
      let c := if op = 1 then rindUnlock c n else if op = 2 then rindAccept c n else if op = 3 then rindSetpw c n
               else if op = 4 then rindLock c else c
      (clearPw c, true)

/-- 60 s without a reset pulse (R465). -/
def acceptTimeout (c : Chip) : Chip :=
  match c.rind.acceptAt with
  | some (t, _) => if t + 59000000 ≤ c.core.tick then acceptEnds c else c
  | none => c

/-- A COMMIT that changes a parameter word while ACCPEND is 1 (R465). -/
def proposalChanged (c : Chip) : Chip := if c.rind.acceptAt.isSome then onRind c fun r => { r with acceptAt := none, cmdres := 10 } else c

/-- UNLOCK or a block ends after 15 min; the block counts in operating seconds, through power cycles. -/
def unlockTimeout (c : Chip) : Chip :=
  let c := match c.rind.unlock with
    | some (_, t) => if t + 840000000 ≤ c.core.tick then onRind c fun r => { r with unlock := none } else c
    | none => c
  match c.rind.blockAt with
  | some t => if t + 840 ≤ c.cel.opsec then onRind c fun r => { r with blockAt := none } else c
  | none => c

/-! ### Registers and rules (R468, R469) -/

/-- Word w of the selected entry of the change log. -/
def rindLogWord (c : Chip) (w : Nat) : Word :=
  let k := fieldOf c Reg.rindLogsel.addr 5 0
  match (if k = 0 then c.rind.logFirst else c.rind.log[k - 1]?) with
  | some e => e.getD w 0
  | none => 0

/-- What a read of a RIND register shows that is not a stored word. -/
def rindView (c : Chip) (a : Nat) : Option Word :=
  let o := a - 0x0F0000
  let r := c.rind
  if o = 0 then
    some (word (r.state * 2 ^ 29 + b2n (rindReady c) * 2 ^ 28 + b2n (teRead c 0) * 2 ^ 27 + b2n (teRead c 1) * 2 ^ 26 + b2n (tePermit c) * 2 ^ 25 +
      b2n r.unlock.isSome * 2 ^ 24 + b2n r.digest.isSome * 2 ^ 23 + b2n r.blockAt.isSome * 2 ^ 22 +
      b2n r.acceptAt.isSome * 2 ^ 21 + demandBits c * 256 + siFaultBits c))
  else if o = 3 then some (word (rindCrc (rindProposal c)))
  else if o = 4 then some (word (achk c))
  else if o = 5 then some (word (akval (rindProposal c) * 65536 + akacc c))
  else if o = 6 then some (word (rindStatus c * 2 ^ 24 + r.cause * 65536 + r.input * 256 + r.cmdres))
  else if o = 9 || o = 10 then some (word (if rsEn c (o - 9) then rindSpeed c (o - 9) r.clk else 0))
  else if 0x21 ≤ o && o ≤ 0x24 then some (rindLogWord c (o - 0x21))
  else none

/-- Whether a change of a RIND word is refused in the present mode (R469). -/
def rindModeLocked (c : Chip) (a : Nat) (old new : Word) : Bool :=
  0x0F0100 ≤ a && a ≤ 0x0F010D && old ≠ new && c.sys.mode ≠ .prove && c.sys.mode ≠ .maintenance

/-- The rule of R469 on TPSRC that depends on DIO_TPCFGt: the supply of an enabled input is on and often enough pulsed. -/
def rindSupplyRule (w : After) : List Fail :=
  (List.range 8).flatMap fun i =>
    let x := w (Reg.rindPsi.addr i)
    let tc := w (Reg.dioTpcfg0.addr + bits x 26 24)
    failIf (bit x 31 && (!bit tc 31 || bits (w Reg.rindPgen.addr) 23 16 * 10 < 2 * bits tc 20 11)) (Reg.rindPsi.addr i) 26 24

/-- The rules of COMMIT (R469). -/
def rindRules (w : After) : List Fail :=
  let g := Reg.rindPgen.addr
  let pgen := w g
  let si (i : Nat) : Word := w (Reg.rindPsi.addr i)
  let en (i : Nat) : Bool := bit (si i) 31
  let spd := w Reg.rindPspd.addr
  let tp (i : Nat) : Nat := bits (si i) 26 24
  let time := w Reg.rindPtime.addr
  let tpmax := bits pgen 23 16
  let pt := bits (w Reg.rindPnt.addr) 31 16
  failIf (2 ≤ bits pgen 29 28) g 29 28 ++
  failIf (tpmax = 0 || 200 < tpmax) g 23 16 ++ failIf (bits pgen 15 8 = 0 || 50 < bits pgen 15 8) g 15 8 ++
  failIf (bits pgen 7 0 = 0) g 7 0 ++
  ((List.range 8).flatMap fun i =>
    let a := Reg.rindPsi.addr i
    let f := bits (si i) 30 29
    let pair := bit (si i) 28
    failIf (en i && (f = 0 || f = 3)) a 30 29 ++
    failIf (pair && (i % 2 = 1 || !en (i + 1))) a 28 28 ++
    failIf (pair && i % 2 = 0 && f ≠ bits (si (i + 1)) 30 29) a 30 29 ++
    failIf (pair && i % 2 = 0 && tp i = tp (i + 1)) a 26 24) ++
  rindSupplyRule w ++
  failIf (bit spd 30 && !bit spd 31) Reg.rindPspd.addr 30 30 ++
  failIf (bit spd 31 && bit spd 30 && bits spd 23 16 = 0) Reg.rindPspd.addr 23 16 ++
  failIf (!bit spd 31 && (!bit pgen 30 || (List.range 8).any fun i => en i && bits (si i) 30 29 = 1)) Reg.rindPspd.addr 31 31 ++
  failIf (1000000 < (w Reg.rindPvstill.addr).toNat) Reg.rindPvstill.addr 31 0 ++
  failIf ((w Reg.rindPdec.addr).toNat = 0 || 10000000 < (w Reg.rindPdec.addr).toNat) Reg.rindPdec.addr 31 0 ++
  failIf (bits time 31 16 = 0 || 6000 < bits time 31 16) Reg.rindPtime.addr 31 16 ++
  failIf (10000 < bits time 15 0) Reg.rindPtime.addr 15 0 ++
  failIf (pt ≠ 0 && !ptInput w pt 16) Reg.rindPnt.addr 31 16

end Sys2Proof.Machine
end

