-- ==== Sys2Proof/Machine/Culture.lean ====
section
/-! DEFINITION. The culture image (R30 to R36, R552 to R558): its header, its sections, the checks 1 to 7 of R32, and what
Rennet places in the Vats when it loads a culture. -/

namespace Sys2Proof.Machine

/-! ### Header and signature (R30, R496) -/

/-- Whether a key of `keys` with KEYID `id` and one of the USE bits `use` verifies the signature over `signed` at `sig`: r
then s, 48 bytes big-endian each. -/
def keyVerifies (keys : List Key) (id use : Nat) (signed sig : List Byte) : Bool :=
  keys.any fun k => k.id = id && Nat.land k.use use ≠ 0 && ecdsaOk k.x k.y signed (beAt sig 0 48) (beAt sig 48 48)

/-- The 160 bytes that HDRCRC covers, with the field at `ofs` taken as 0. -/
def headZeroed (bs : List Byte) (ofs : Nat) : List Byte := overlay (bs.take 0xA0) ofs (List.replicate 4 0)

/-- Bytes from `ofs` up to `len` of them. -/
def slice (bs : List Byte) (ofs len : Nat) : List Byte := (bs.drop ofs).take len

/-- Whether bytes are all 0. -/
def zeros (bs : List Byte) : Bool := bs.all (· = 0)

/-- LENGTH of a culture image. -/
def imgLength (bs : List Byte) : Nat := leAt bs 0x14 4

/-- Check 1 of R32: MAGIC, HXVER, LENGTH; a slot is 64 MiB. -/
def cultCheck1 (bs : List Byte) : Bool :=
  0x100 ≤ bs.length && leAt bs 0 4 = 0x33435848 && leAt bs 4 2 = 3 && imgLength bs % 16 = 0 && imgLength bs = bs.length &&
  bs.length ≤ 0x4000000

/-- DIGEST as a number. -/
def imgDigest (bs : List Byte) : Nat := beAt bs 0x20 32

/-! ### Sections (R31) -/

/-- An entry of the section table. -/
structure Section where
  kind : Nat
  ofs : Nat
  size : Nat
  crc : Nat
  deriving DecidableEq, Repr

/-- The section table from `at_`; none if its end entry is missing. `n` bounds the number of entries. -/
def sections (bs : List Byte) : Nat → Nat → Option (List Section)
  | 0, _ => none
  | n + 1, at_ =>
    if bs.length < at_ + 16 then none
    else
      let k := leAt bs at_ 4
      if k = 0 then some []
      else (sections bs n (at_ + 16)).map fun r => ⟨k, leAt bs (at_ + 4) 4, leAt bs (at_ + 8) 4, leAt bs (at_ + 12) 4⟩ :: r

/-- Whether half-open ranges, each as start and length, are pairwise disjoint; an empty range meets none. -/
def disjoint : List (Nat × Nat) → Bool
  | [] => true
  | x :: xs => xs.all (fun y => x.2 = 0 || y.2 = 0 || x.1 + x.2 ≤ y.1 || y.1 + y.2 ≤ x.1) && disjoint xs

/-- Check 5 of R32, with the table. R31 says that OFFSET is a multiple of 16, and no check of R32 names one that is not: it fails
this check, whose number the record then gives. DESIGN CHOICE, log entry 114. -/
def cultCheck5 (bs : List Byte) : Option (List Section) :=
  match sections bs (bs.length / 16) 0x100 with
  | none => none
  | some t =>
    let n (k : Nat) : Nat := (t.filter fun s => s.kind = k).length
    if t.all (fun s => s.kind ≤ 6 && s.ofs % 16 = 0 && s.ofs + s.size ≤ bs.length && crc32c (slice bs s.ofs s.size) = s.crc) &&
       n 1 = 1 && n 2 = 1 && n 3 = 1 && n 4 = 1 && n 5 = 1 && n 6 ≤ 1 && disjoint (t.map fun s => (s.ofs, s.size))
    then some t else none

/-- The bytes of the section of a kind. -/
def sectBytes (bs : List Byte) (t : List Section) (kind : Nat) : List Byte :=
  match t.find? (fun s => s.kind = kind) with
  | some s => slice bs s.ofs s.size
  | none => []

/-! ### Section layouts (R552 to R556, R558) -/

/-- An entry of the TYPE section. -/
structure TypeEnt where
  type : Nat
  codeOfs : Nat
  codeLen : Nat
  constOfs : Nat
  constLen : Nat
  deriving DecidableEq, Repr

/-- An entry of the INST section. -/
structure InstEnt where
  inst : Nat
  ofs : Nat
  len : Nat
  deriving DecidableEq, Repr

/-- The sections as read. -/
structure Parsed where
  types : List TypeEnt
  data : List InstEnt
  regs : List (Nat × Word)
  /-- OWNER and calls of each chain. -/
  chains : List (Nat × List Nat)
  engines : List Nat
  code : List CodePlace
  scratch : List ScratchPart
  insts : List Inst
  consts : List (Nat × Nat)
  queues : List QueuePlace
  pages : List Nat
  cbase : Nat
  csize : Nat
  root : Nat
  deriving DecidableEq, Repr

/-- Whether the numbers rise strictly. -/
def rising : List Nat → Bool
  | [] => true
  | [_] => true
  | a :: b :: l => decide (a < b) && rising (b :: l)

/-- Whether every byte of a section that no range covers is 0. -/
def restZero (bs : List Byte) (covered : List (Nat × Nat)) : Bool :=
  bs.zipIdx.all fun x => x.1 = 0 || covered.any fun r => r.1 ≤ x.2 && x.2 < r.1 + r.2

/-- The TYPE section (R553). -/
def readTypes (bs : List Byte) : Option (List TypeEnt) :=
  let n := leAt bs 0 4
  if bs.length < 16 || n = 0 || 4096 < n || bs.length < 16 + 24 * n then none
  else
    let ts := (List.range n).map fun j =>
      let o := 16 + 24 * j
      (⟨leAt bs o 2, leAt bs (o + 4) 4, leAt bs (o + 8) 4, leAt bs (o + 12) 4, leAt bs (o + 16) 4⟩ : TypeEnt)
    let rsvd := (List.range n).all fun j => leAt bs (16 + 24 * j + 2) 2 = 0 && leAt bs (16 + 24 * j + 20) 4 = 0
    let ok (t : TypeEnt) : Bool :=
      t.type ≤ 4095 && t.codeOfs % 8 = 0 && t.codeLen % 4 = 0 && 4 ≤ t.codeLen && t.codeLen ≤ 32768 &&
      16 + 24 * n ≤ t.codeOfs && t.codeOfs + t.codeLen ≤ bs.length && t.constLen % 8 = 0 && t.constLen ≤ 1048576 &&
      (if t.constLen = 0 then t.constOfs = 0 else t.constOfs % 8 = 0 && 16 + 24 * n ≤ t.constOfs && t.constOfs + t.constLen ≤ bs.length)
    let cover := (0, 4) :: (16, 24 * n) :: ts.flatMap fun t => [(t.codeOfs, t.codeLen), (t.constOfs, t.constLen)]
    if leAt bs 4 12 = 0 && rsvd && ts.all ok && rising (ts.map (·.type)) && restZero bs cover then some ts else none

/-- The INST section (R554). -/
def readData (bs : List Byte) : Option (List InstEnt) :=
  let n := leAt bs 0 4
  if bs.length < 16 || 65536 < n || bs.length < 16 + 16 * n then none
  else
    let es := (List.range n).map fun j =>
      let o := 16 + 16 * j
      (⟨leAt bs o 4, leAt bs (o + 4) 4, leAt bs (o + 8) 4⟩ : InstEnt)
    let rsvd := (List.range n).all fun j => leAt bs (16 + 16 * j + 12) 4 = 0
    let ok (e : InstEnt) : Bool := e.ofs % 8 = 0 && e.len % 8 = 0 && e.ofs + e.len ≤ bs.length
    let cover := (0, 4) :: (16, 16 * n) :: es.map fun e => (e.ofs, e.len)
    if leAt bs 4 12 = 0 && rsvd && es.all ok && rising (es.map (·.inst)) && restZero bs cover then some es else none

/-- `n` chain entries from `o` (R555), with the offset after them. -/
def readChains (bs : List Byte) : Nat → Nat → Option (List (Nat × List Nat) × Nat)
  | 0, o => some ([], o)
  | n + 1, o =>
    let owner := leAt bs o 2
    let k := leAt bs (o + 2) 2
    let next := o + 8 + (4 * k + 7) / 8 * 8
    if bs.length < next || k = 0 || leAt bs (o + 4) 4 ≠ 0 || 512 ≤ owner || (owner < 256 && 64 ≤ owner) ||
      !zeros (slice bs (o + 8 + 4 * k) (next - (o + 8 + 4 * k))) then none
    else
      let calls := (List.range k).map fun j => leAt bs (o + 8 + 4 * j) 4
      (readChains bs n next).map fun r => ((owner, calls) :: r.1, r.2)

/-- Whether address `a` is a word of the HXK block with ST fields. -/
def hxkSt (a : Nat) : Bool :=
  0x020000 ≤ a && a < 0x040000 && (match regDef a with | some r => r.fields.any fun f => f.acc = .st && !f.rsvd | none => false)

/-- The TASK section (R555): register images and chains. -/
def readTask (bs : List Byte) : Option (List (Nat × Word) × List (Nat × List Nat)) :=
  let n := leAt bs 0 4
  let m := leAt bs 4 4
  if bs.length < 16 || 65536 < n || m = 0 || 20480 < m || bs.length < 16 + 8 * n || leAt bs 8 8 ≠ 0 then none
  else
    let rs := (List.range n).map fun j => (leAt bs (16 + 8 * j) 4, word (leAt bs (16 + 8 * j + 4) 4))
    match readChains bs m (16 + 8 * n) with
    | none => none
    | some (cs, o) =>
      let pads := o ≤ bs.length && zeros (bs.drop o)
      if rs.all (fun r => hxkSt r.1) && pads then some (rs, cs) else none

/-- The records of the PLACE table with TAG `tag` from `o`, each of `sz` bytes, with the offset after the table. -/
def placeTable (bs : List Byte) (tag sz o : Nat) : Option (List (List Byte) × Nat) :=
  let n := leAt bs (o + 4) 4
  let next := o + 8 + (sz * n + 7) / 8 * 8
  if bs.length < next || leAt bs o 4 ≠ tag || !zeros (slice bs (o + 8 + sz * n) (next - (o + 8 + sz * n))) then none
  else some ((List.range n).map fun j => slice bs (o + 8 + sz * j) sz, next)

/-- The tables of TAG 1 to 8 in order, by the record sizes of Table: PLACE tables. -/
def placeTables (bs : List Byte) : List (Nat × Nat) → Nat → Option (List (List (List Byte)) × Nat)
  | [], o => some ([], o)
  | (tag, sz) :: l, o =>
    match placeTable bs tag sz o with
    | none => none
    | some (t, o) => (placeTables bs l o).map fun r => (t :: r.1, r.2)

/-- The sections read, where they keep their layout. -/
def readCulture (bs : List Byte) (t : List Section) : Option Parsed :=
  let place := sectBytes bs t 5
  let setup := sectBytes bs t 4
  match readTypes (sectBytes bs t 1), readData (sectBytes bs t 2), readTask (sectBytes bs t 3),
        placeTables place [(1, 4), (2, 8), (3, 8), (4, 16), (5, 8), (6, 12), (7, 2), (8, 16)] 0 with
  | some ts, some ds, some (rs, cs), some ([t1, t2, t3, t4, t5, t6, t7, t8], o) =>
    let img := (t8.head?).getD []
    let clean := t1.all (fun r => leAt r 0 4 < 64) && t2.all (fun r => leAt r 2 1 < 64 && leAt r 3 1 = 0 && leAt r 4 4 % 4 = 0) &&
      t3.all (fun r => leAt r 0 1 < 64 && leAt r 1 1 < 16 && leAt r 2 2 % 8 = 0 && leAt r 4 2 % 8 = 0 && 8 ≤ leAt r 4 2 && leAt r 6 2 = 0) &&
      t4.all (fun r => leAt r 0 4 ≤ 65535 && leAt r 4 4 % 8 = 0 && 8 ≤ leAt r 8 4 && leAt r 8 4 ≤ 65536 && leAt r 8 4 % 8 = 0 &&
        bits (word (leAt r 12 4)) 11 8 = 0) &&
      t5.all (fun r => leAt r 2 2 = 0 && leAt r 4 4 % 8 = 0) &&
      t6.all (fun r => leAt r 0 2 ≤ 32511 && leAt r 2 1 < 64 && leAt r 3 1 = 0 && leAt r 4 4 < 2 ^ 21 && leAt r 8 2 < 4096 && leAt r 10 2 = 0) &&
      t7.all (fun r => bits (word (leAt r 0 2)) 13 10 = 0) &&
      t8.length = 1 && leAt img 0 4 % 4096 = 0 && leAt img 4 4 % 4096 = 0 && leAt img 8 8 = 0
    if clean && zeros (place.drop o) && setup.length = 16 && zeros (setup.drop 4) then
      some { types := ts, data := ds, regs := rs, chains := cs, engines := t1.map fun r => leAt r 0 4,
             code := t2.map fun r =>
               let ty := leAt r 0 2
               ⟨ty, leAt r 2 1, leAt r 4 4, (((ts.find? fun x => x.type = ty).map (·.codeLen)).getD 0)⟩,
             scratch := t3.map fun r => ⟨leAt r 0 1, leAt r 1 1, leAt r 2 2, leAt r 4 2⟩,
             insts := t4.map fun r =>
               let o := word (leAt r 12 4)
               ⟨leAt r 0 4, leAt r 4 4, leAt r 8 4, bits o 31 20, bits o 19 14, bits o 13 13 * 512 + bits o 12 12 * 256 + bits o 7 0⟩,
             consts := t5.map fun r => (leAt r 0 2, leAt r 4 4),
             queues := t6.map fun r => ⟨leAt r 0 2, leAt r 2 1, leAt r 4 4, leAt r 8 2⟩,
             pages := t7.map fun r => leAt r 0 2, cbase := leAt img 0 4, csize := leAt img 4 4, root := leAt setup 0 4 }
    else none
  | _, _, _, _ => none

/-! ### Code (R69, R70, R88) -/

/-- Whether a major opcode has an extension word. -/
def hasExt (w : Word) : Bool := [0x06, 0x07, 0x1C, 0x22, 0x23, 0x2C, 0x2D, 0x34, 0x35].contains (bits w 31 26)

/-- The words of a type's code. -/
def codeWords (bs : List Byte) (t : TypeEnt) : List Word := (List.range (t.codeLen / 4)).map fun j => word (leAt bs (t.codeOfs + 4 * j) 4)

/-- The words with the MINOR [12:0] of every CALL and CALLR changed by `f`. -/
def patchCalls (f : Nat → Nat) : List Word → Bool → List Word
  | [], _ => []
  | w :: ws, true => w :: patchCalls f ws false
  | w :: ws, false =>
    let m := bits w 31 26
    let w' := if m = 0x1C || m = 0x1D then setBits w 12 0 (f (bits w 12 0)) else w
    w' :: patchCalls f ws (hasExt w)

/-- The types that the CALLs and CALLRs of code name. -/
def calledTypes : List Word → Bool → List Nat
  | [], _ => []
  | _ :: ws, true => calledTypes ws false
  | w :: ws, false =>
    let m := bits w 31 26
    (if m = 0x1C || m = 0x1D then [bits w 12 0] else []) ++ calledTypes ws (hasExt w)

/-! ### Rules of the whole (R557, R33, R34) -/

/-- Whether no number occurs twice. -/
def distinct (l : List Nat) : Bool := l.eraseDups.length = l.length

/-- The storage of a culture queue: start and length. -/
def QueuePlace.area (q : QueuePlace) : Nat × Nat := (8 * q.base, (q.depth + 1) * 4 * (q.size + 1))

/-- The constant areas with their lengths. -/
def Parsed.constAreas (p : Parsed) : List (Nat × Nat × Nat) :=
  p.consts.map fun k => (k.1, k.2, (((p.types.find? fun t => t.type = k.1).map (·.constLen)).getD 0))

/-- The task code of a chain's OWNER as special register TASK shows it: they are laid out alike. -/
def Parsed.chainEngine (p : Parsed) (j : Nat) : Nat := p.engines.getD j 0

/-- Whether the Period limit of R33 holds for the register images of HXK_TCFGn: of the image that stands for `n` after the
later ones have replaced the earlier. Log entry 91: an image that leaves the task off with PERIOD 0, of a task without a
chain, states no Period. -/
def Parsed.periodOk (p : Parsed) (n : Nat) : Bool :=
  match p.regs.reverse.find? fun r => r.1 = Reg.hxkTcfg.addr n with
  | some r =>
    let per := bits r.2 17 0
    decide (1 ≤ per ∧ per ≤ 200000) || (per = 0 && !bit r.2 31 && p.chains.all fun k => k.1 ≠ n)
  | none => true

/-- Whether an instance's OWNER names a chain that the culture defines (R36, R552); the setup program's instances belong to
none. -/
def Parsed.ownerOk (p : Parsed) (i : Inst) : Bool :=
  if 512 ≤ i.task then i.task = 512 && i.engine = 0
  else p.chains.zipIdx.any fun x => x.1.1 = i.task && p.chainEngine x.2 = i.engine

/-- What the page record of page `g` must be, as the other tables place things; none where they mix things that may not
share a page (R252). -/
def Parsed.pageRecord (p : Parsed) (g : Nat) : Option Nat :=
  let hit (a : Nat × Nat) : Bool := a.2 ≠ 0 && a.1 < 4096 * (g + 1) && 4096 * g < a.1 + a.2
  let is := p.insts.filter fun i => hit (i.base, i.size)
  let qs := p.queues.any fun q => hit q.area
  let ks := (p.constAreas.any fun k => hit (k.2.1, k.2.2)) || hit (p.cbase, p.csize)
  match is with
  | i :: l => if qs || ks || !(l.all fun j => j.task = i.task) then none else some (16384 + i.task)
  | [] => if qs then (if ks then none else some 32768) else if ks then some 49152 else some 0

/-- The priorities used on an engine: those of the tasks with a chain there, by the register images, and priority 0 of E0
for the setup program. -/
def Parsed.prios (p : Parsed) (eng : Nat) : List Nat :=
  let prio (task : Nat) : Nat :=
    let a := if task < 256 then Reg.hxkTcfg.addr task else Reg.hxkVcfg.addr (task - 256)
    match (p.regs.reverse.find? fun r => r.1 = a) with
    | some r => bits r.2 28 25
    | none => 15
  (if eng = 0 then [0] else []) ++ ((p.chains.zipIdx.filter fun x => p.chainEngine x.2 = eng).map fun x => prio x.1.1)

/-- The rules of R557 with the limits of R33 and the memory rule of R34. -/
def Parsed.ok (p : Parsed) (types : List Byte) : Bool :=
  let inst (n : Nat) : Option Inst := p.insts.find? fun i => i.num = n
  let typed (t : Nat) : Option TypeEnt := p.types.find? fun x => x.type = t
  let placed (t e : Nat) : Bool := p.code.any fun k => k.type = t && k.engine = e
  let areas := (p.insts.map fun i => (i.base, i.size)) ++ (p.constAreas.map fun k => (k.2.1, k.2.2)) ++ (p.queues.map (·.area)) ++
    [(p.cbase, p.csize)]
  let engines := List.range 64
  -- memory
  disjoint areas && areas.all (fun a => a.1 + a.2 ≤ 0xF00000) &&
  -- definitions
  distinct (p.insts.map (·.num)) && p.insts.length ≤ 65536 && p.insts.all (fun i => (typed i.type).isSome) &&
  p.data.all (fun d => match inst d.inst with | some i => decide (d.len + 8 ≤ i.size) | none => false) &&
  p.code.all (fun k => (typed k.type).isSome) && distinct (p.code.map fun k => k.type * 64 + k.engine) &&
  distinct (p.consts.map (·.1)) && p.consts.all (fun k => match typed k.1 with | some t => decide (t.constLen ≠ 0) | none => false) &&
  p.types.all (fun t => t.constLen = 0 || p.consts.any fun k => k.1 = t.type) &&
  distinct (p.queues.map (·.handle)) && p.engines.length = p.chains.length &&
  -- chains
  p.chains.zipIdx.all (fun x => x.1.2.all fun n => match inst n with
    | some i => i.task = x.1.1 && i.engine = p.chainEngine x.2
    | none => false) &&
  distinct (p.chains.zipIdx.map fun x => x.1.1 * 64 + p.chainEngine x.2) &&
  (p.chains.map fun x => x.2.length).sum ≤ 65536 &&
  p.insts.all p.ownerOk && (List.range 64).all p.periodOk &&
  (match inst p.root with | some i => decide (i.task = 512) | none => false) &&
  -- code
  p.insts.all (fun i => placed i.type i.engine) &&
  p.code.all (fun k => match typed k.type with
    | some t => (calledTypes (codeWords types t) false).all fun n => placed n k.engine
    | none => false) &&
  engines.all (fun e =>
    let ks := p.code.filter fun k => k.engine = e
    let ss := p.scratch.filter fun k => k.engine = e
    disjoint (ks.map fun k => (k.ofs, k.len)) && ks.all (fun k => k.ofs + k.len ≤ 0x8000) &&
    disjoint (ss.map fun k => (k.start, k.size)) && ss.all (fun k => k.start + k.size ≤ 16384) &&
    (p.prios e).all fun r => ss.any fun k => k.prio = r) &&
  -- pages
  p.pages.length ≤ 3840 && p.pages.zipIdx.all (fun x => p.pageRecord x.2 = some x.1) &&
  areas.all fun a => a.2 = 0 || a.1 + a.2 ≤ 4096 * p.pages.length

/-! ### Checks 1 to 7 (R32) -/

/-- The first of checks 1 to 5 that fails, 0 if none does; `keys` are those installed, culture images being USE bit 1. -/
def cultChecks (keys : List Key) (bs : List Byte) : Nat :=
  if !cultCheck1 bs then 1
  else if crc32c (headZeroed bs 0x18) ≠ leAt bs 0x18 4 then 2
  else if !keyVerifies keys (leAt bs 0x1C 4) 2 (bs.take 0xA0) (slice bs 0xA0 96) then 3
  else if sha256 (bs.drop 0x100) ≠ imgDigest bs then 4
  else if (cultCheck5 bs).isNone then 5
  else 0

/-- Whether a block code names a block base (R27). -/
def blockCode (n : Nat) : Bool := n < 28 && n ≠ 3 && !(0x11 ≤ n && n ≤ 0x17)

/-- MAJOR × 256 + MINOR of a block's register map as SYS_BLKIDn shows it. -/
def blockRev (n : Nat) : Nat := if blockCode n then (Config.blkMajor n).toNat * 256 + (Config.blkMinor n).toNat else 0

/-- Check 6 (R28): the first block code whose declaration is not met. -/
def revFails (bs : List Byte) : Option Nat :=
  (List.range 28).find? fun n =>
    let d := leAt bs (0x40 + 2 * n) 2
    decide (d ≠ 0) && (decide (d / 256 ≠ blockRev n / 256) || decide (blockRev n % 256 < d % 256))

/-- Check 7, with the sections read. -/
def cultCheck7 (bs : List Byte) : Option Parsed :=
  match cultCheck5 bs with
  | none => none
  | some t =>
    match readCulture bs t with
    | none => none
    | some p => if p.ok (sectBytes bs t 1) then some p else none

/-- What the checks at a start find: the first failing check with the block code of check 6, or the culture. -/
def startChecks (keys : List Key) (bs : List Byte) : (Nat × Nat) ⊕ Parsed :=
  let n := cultChecks keys bs
  if n ≠ 0 then .inl (n, 0)
  else match revFails bs with
    | some b => .inl (6, b)
    | none => match cultCheck7 bs with
      | none => .inl (7, 0)
      | some p => .inr p

/-! ### Loading -/

/-- Layout digest (R235): instances' offset and size in ascending instance number, queues' BASE, SIZE and DEPTH in ascending handle,
page records in ascending page. -/
def layoutDigest (p : Parsed) : Nat :=
  let le (n : Nat) : List Byte := bytesLE 4 n
  let insts := p.insts.mergeSort fun i j => decide (i.num ≤ j.num)
  let queues := p.queues.mergeSort fun q r => decide (q.handle ≤ r.handle)
  sha256 ((insts.flatMap fun i => le i.base ++ le i.size) ++ (queues.flatMap fun q => le q.base ++ le q.size ++ le q.depth) ++
    p.pages.flatMap le)

/-- What Rennet keeps of a culture. -/
def cultureOf (bs : List Byte) (p : Parsed) : Culture :=
  { loaded := true, cultid := leAt bs 8 8, build := leAt bs 0x10 4, digest := imgDigest bs, layout := layoutDigest p,
    chains := p.chains.zipIdx.map fun x => ⟨x.1.1, p.chainEngine x.2, x.1.2⟩, code := p.code, scratch := p.scratch,
    insts := p.insts, consts := p.constAreas, queues := p.queues, pages := p.pages, cbase := p.cbase, csize := p.csize, root := p.root }

/-- The header of an instance (R87). Log entry 92: KBASE of a type without a constant area, of which the spec says nothing, is 0
(DESIGN CHOICE). -/
def instHeader (p : Parsed) (i : Inst) : List Byte :=
  let kbase := ((p.consts.find? fun k => k.1 = i.type).map (·.2)).getD 0
  bytesLE 4 (i.task / 512 * 2 ^ 30 + i.task / 256 % 2 * 2 ^ 29 + i.task % 256 * 2 ^ 21 + kbase / 8) ++
  bytesLE 4 (i.type * 2 ^ 20 + i.engine * 2 ^ 14 + (i.size / 8 - 1))

/-- The two event queues' descriptors (R560). -/
def eventDescs : List (Nat × Desc) :=
  [(32512, ⟨0x80600000, 0x0FF81400, 0x000C0000, descChk 0x80600000 0x0FF81400 0x000C0000⟩),
   (32513, ⟨0x807E0000, 0x3FF81401, 0x00040001, descChk 0x807E0000 0x3FF81401 0x00040001⟩)]

/-- A descriptor of ORD 0 and BASE 0 from the press: entry size in bytes, depth, consumer end. -/
def pressDesc (size depth cend : Nat) : Desc :=
  let a := word (2 ^ 31 + (size / 4 - 1) * 2 ^ 21)
  let b := word ((depth - 1) * 2 ^ 20 + 0x40002)
  let d := word cend
  ⟨a, b, d, descChk a b d⟩

/-- The descriptors that Rennet writes for the module's own queues (R167): the event queues, and the outbound queues with the
depths and sizes of R296, R337, R363 and R385. Log entry 24: what the chapters leave open, above all of Q32515. -/
def moduleDescs : List (Nat × Desc) :=
  eventDescs ++
  [(32514, pressDesc 256 4096 (0x80000 + 7 * 1024 + 32)), (32515, pressDesc 256 1024 0xC0001),
   (32516, pressDesc 40 1024 (0x80000 + 9 * 1024 + 16)), (32517, pressDesc 72 256 (0x80000 + 10 * 1024 + 8)),
   (32518, pressDesc 72 256 (0x80000 + 10 * 1024 + 9)), (32519, pressDesc 72 256 (0x80000 + 10 * 1024 + 10)),
   (32520, pressDesc 72 256 (0x80000 + 10 * 1024 + 11)), (32521, pressDesc 256 256 (0x80000 + 11 * 1024 + 64))]

/-- A Vat loaded with a culture (R30 to R36, R552 to R558): constant areas, instances with headers and marks, instruction
buffers with their CALLs patched, and the event queues; SERVING. -/
def loadPlane (old : VatPlane) (bs : List Byte) (p : Parsed) : VatPlane :=
  match cultCheck5 bs with
  | none => old
  | some t =>
    let ty := sectBytes bs t 1
    let ini := sectBytes bs t 2
    let ent (n : Nat) : Option TypeEnt := p.types.find? fun x => x.type = n
    let mem := p.consts.foldl (fun m k => match ent k.1 with
      | some e => memWrite m k.2 (slice ty e.constOfs e.constLen)
      | none => m) ([] : Memory)
    let mem := p.insts.foldl (fun m i =>
      let data := match p.data.find? fun d => d.inst = i.num with
        | some d => slice ini d.ofs d.len
        | none => []
      memWrite m i.base (instHeader p i ++ data)) mem
    let target (e n : Nat) : Nat := (((p.code.find? fun k => k.type = n && k.engine = e).map (·.ofs)).getD 0) / 4
    let ibuf := p.code.foldl (fun m k => match ent k.type with
      | some x => (patchCalls (target k.engine) (codeWords ty x) false).zipIdx.foldl
          (fun m w => mapPut 0 m (k.engine * 8192 + k.ofs / 4 + w.2) w.1) m
      | none => m) ([] : SMap Word)
    let descs := moduleDescs.foldl (fun m d => mapPut Desc.zero m d.1 d.2) old.descs
    { VatPlane.reset with
      state := .serving, mem := mem, marks := p.insts.map (·.base), ibuf := ibuf, descs := descs, time := old.time, frac := old.frac,
      soured := old.soured, realigned := old.realigned }

end Sys2Proof.Machine
end

