-- ==== Sys2Proof/Machine/Upd.lean ====
section
/-! DEFINITION. Field update (R492 to R514): slots, keys and settings, checks, delta images, loads, trials, the transfer
to the partner, and the UPD registers. -/

namespace Sys2Proof.Machine

/-- UPD changed. -/
def onUpd (c : Chip) (f : Upd → Upd) : Chip := { c with upd := f c.upd }

/-- Slot k: 0 F0, 1 F1, 2 C0, 3 C1. -/
def slotAt (c : Chip) (k : Fin 4) : Slot :=
  match k.val with
  | 0 => c.upd.slot0
  | 1 => c.upd.slot1
  | 2 => c.upd.slot2
  | _ => c.upd.slot3

/-- What the slot directory records of a slot (R493). -/
def dirEntry (s : Slot) : Nat × Nat × Nat := (s.state, s.tries, s.reason)

/-- Whether Rennet uses copy 1: the copy of the higher sequence number whose check passes (R493). -/
def usesDir1 (u : Upd) : Bool := u.dir1.whole && (!u.dir0.whole || u.dir0.seq < u.dir1.seq)

/-- The copy that Rennet uses. -/
def dirNewest (u : Upd) : DirCopy := if usesDir1 u then u.dir1 else u.dir0

/-- Power is lost while the directory is written: the check of the copy that was being written fails, and the state that held
before the write holds (R493). -/
def tearDirectory (u : Upd) : Upd :=
  if u.dir0.whole && u.dir1.whole then
    (if usesDir1 u then { u with dir1 := { u.dir1 with whole := false } } else { u with dir0 := { u.dir0 with whole := false } })
  else u

/-- A change of the directory written to the copy that is not the newest, with the next sequence number (R493). -/
def writeDirectory (u : Upd) : Upd :=
  let now := [dirEntry u.slot0, dirEntry u.slot1, dirEntry u.slot2, dirEntry u.slot3]
  let d := dirNewest u
  if now = d.slots then u
  else if usesDir1 u then { u with dir0 := ⟨d.seq + 1, now, true⟩ } else { u with dir1 := ⟨d.seq + 1, now, true⟩ }

/-- Slot k changed, and the directory with it. -/
def onSlot (c : Chip) (k : Fin 4) (f : Slot → Slot) : Chip :=
  onUpd c fun u => writeDirectory (match k.val with
    | 0 => { u with slot0 := f u.slot0 }
    | 1 => { u with slot1 := f u.slot1 }
    | 2 => { u with slot2 := f u.slot2 }
    | _ => { u with slot3 := f u.slot3 })

/-- A slot as a start finds it in the directory: one that was LOADING is EMPTY, and CHKFAIL is 0 (R494, R512). -/
def foundSlot (s : Slot) (e : Nat × Nat × Nat) : Slot :=
  if e.1 = 1 then Slot.empty else { s with state := e.1, tries := e.2.1, reason := e.2.2, chkfail := 0 }

/-- Rennet reads the directory at start-up (R493, R494). -/
def readDirectory (c : Chip) : Chip :=
  onUpd c fun u =>
    let e := fun n => (dirNewest u).slots.getD n (0, 0, 0)
    writeDirectory { u with slot0 := foundSlot u.slot0 (e 0), slot1 := foundSlot u.slot1 (e 1), slot2 := foundSlot u.slot2 (e 2),
                            slot3 := foundSlot u.slot3 (e 3) }

/-- The two slots of a kind: 1 firmware, 2 culture. -/
def kindSlots (kind : Nat) : List (Fin 4) := if kind = 1 then [0, 1] else if kind = 2 then [2, 3] else []

/-- The kind of a slot. -/
def slotKind (k : Fin 4) : Nat := if k.val < 2 then 1 else 2

/-- The slot of a kind in one of the given states. -/
def slotIn (c : Chip) (kind : Nat) (states : List Nat) : Option (Fin 4) :=
  (kindSlots kind).find? fun k => states.contains (slotAt c k).state

/-- The slot on trial. -/
def trialSlot (c : Chip) : Option (Fin 4) := ([0, 1, 2, 3] : List (Fin 4)).find? fun k => (slotAt c k).state = 4

/-! ### Settings and keys (R496, R510) -/

/-- Whether area B is in use: it is valid, and area A is not; or it is of the firmware's own SFMT, and area A is not of it or
has the lower sequence number (R510). -/
def usesB (u : Upd) : Bool :=
  match u.areaB with
  | none => false
  | some b =>
    b.whole && (match u.areaA with
      | some a => !a.whole || (b.sfmt = u.sfmt && (a.sfmt ≠ u.sfmt || a.seq < b.seq))
      | none => true)

/-- The settings area in use, the settings as delivered where none is valid. -/
def settings (c : Chip) : Settings :=
  match (if usesB c.upd then c.upd.areaB else c.upd.areaA) with
  | some s => if s.whole then s else Settings.factory
  | none => Settings.factory

/-- Settings written into the area in use. -/
def putSettings (c : Chip) (s : Settings) : Chip :=
  let s := some { s with seq := s.seq + 1, whole := true }
  onUpd c fun u => if usesB u then { u with areaB := s } else { u with areaA := s }

/-- Whether a valid area holds settings of a format. -/
def formatHeld (c : Chip) (sfmt : Nat) : Bool := [c.upd.areaA, c.upd.areaB].any fun a => a.any fun s => s.whole && s.sfmt = sfmt

/-! ### Images and checks (R495, R498) -/

/-- The bytes of a stored image. -/
def Stored.content : Stored → List Byte
  | .bytes l => l
  | .factory => Config.factoryImage
  | .none => []

/-- The version word, SFMT and ROLLBACK of a stored firmware image. -/
def fwHead (s : Stored) : Nat × Nat × Nat := (leAt s.content 8 4, leAt s.content 12 2, leAt s.content 0x10 4)

/-- The first failing check of a firmware image, 0 if all pass. The image installed at manufacture passes (log entry 20). -/
def fwChecks (c : Chip) : Stored → Nat
  | .none => 1
  | .factory => 0
  | .bytes l =>
    if l.length < 0x100 || leAt l 0 4 ≠ 0x33465848 || leAt l 4 2 ≠ 1 || imgLength l % 16 ≠ 0 || imgLength l ≠ l.length || 0x4000000 < l.length then 1
    else if crc32c (headZeroed l 0x18) ≠ leAt l 0x18 4 then 2
    else if !keyVerifies (settings c).keys (leAt l 0x1C 4) 1 (l.take 0xA0) (slice l 0xA0 96) then 3
    else if sha256 (l.drop 0x100) ≠ imgDigest l then 4
    else if Config.hwRev.toNat < leAt l 14 1 then 5
    else if leAt l 0x10 4 < (settings c).rollmin then 6
    else 0

/-- The first failing check of R498 at the end of a load. -/
def loadChecks (c : Chip) (kind : Nat) (l : List Byte) : Nat :=
  if kind = 1 then fwChecks c (.bytes l) else cultChecks (settings c).keys l

/-- What UPD_SVERk shows. -/
def slotVersion (c : Chip) (k : Fin 4) : Nat :=
  let s := slotAt c k
  if s.state = 0 then 0 else if k.val < 2 then (fwHead s.held).1 else leAt s.held.content 0x10 4

/-! ### Delta images (R499, R500) -/

/-- The operations of a delta from offset `o`: the result, or none where one may not be applied. `n` bounds their number. -/
def applyOps (base delta : List Byte) (reslen : Nat) : Nat → Nat → List Byte → Option (List Byte)
  | 0, _, _ => none
  | n + 1, o, out =>
    if delta.length < o + 8 then none
    else
      let w := leAt delta o 4
      let op := w / 2 ^ 28
      let len := w % 2 ^ 28
      let w1 := leAt delta (o + 4) 4
      if op = 0 then (if len = 0 && w1 = 0 then some out else none)
      else if reslen < out.length + len then none
      else if op = 1 then (if base.length < w1 + len then none else applyOps base delta reslen n (o + 8) (out ++ slice base w1 len))
      else if op = 2 then
        let pad := (len + 7) / 8 * 8
        if w1 ≠ 0 || delta.length < o + 8 + pad || !zeros (slice delta (o + 8 + len) (pad - len)) then none
        else applyOps base delta reslen n (o + 8 + pad) (out ++ slice delta (o + 8) len)
      else if op = 3 then (if 256 ≤ w1 then none else applyOps base delta reslen n (o + 8) (out ++ List.replicate len (BitVec.ofNat 8 w1)))
      else none

/-- A delta applied: the result, or a status code with the failing check of its header. -/
def applyDelta (c : Chip) (kind : Nat) (d : List Byte) : List Byte ⊕ (Nat × Nat) :=
  if d.length < 0x100 || leAt d 0 4 ≠ 0x33444858 || leAt d 4 2 ≠ 1 || leAt d 6 2 ≠ kind || leAt d 0x10 4 % 8 ≠ 0 || leAt d 0x10 4 ≠ d.length then .inr (0x50, 1)
  else if crc32c (headZeroed d 0x14) ≠ leAt d 0x14 4 then .inr (0x50, 2)
  else if !keyVerifies (settings c).keys (leAt d 0x18 4) kind (d.take 0xA0) (slice d 0xA0 96) then .inr (0x50, 3)
  else if sha256 (d.drop 0x100) ≠ beAt d 0x20 32 then .inr (0x50, 4)
  else
    match slotIn c kind [7] with
    | none => .inr (0x51, 0)
    | some k =>
      let base := (slotAt c k).held.content
      if leAt d 8 4 ≠ base.length || beAt d 0x40 32 ≠ sha256 base then .inr (0x51, 0)
      else
        match applyOps base d (leAt d 0xC 4) (d.length / 8) 0x100 [] with
        | none => .inr (0x50, 0)
        | some out => if out.length ≠ leAt d 0xC 4 || sha256 out ≠ beAt d 0x60 32 then .inr (0x50, 0) else .inl out

/-! ### The flash (R184, R492) -/

/-- Whether the flash can be used: its arbiter is not frozen. -/
def flashOpen (c : Chip) : Bool := !arbFrozen c (arbKey 35 .a)

/-- Decisions of arbiter 35 until requester w is granted, `n` at the most: 0 the image loader, with which Rennet reads, 1 the
update writer, with which images are loaded and deltas applied (R180, R181, R492). -/
def flashTurn (w : Nat) : Nat → Chip → Chip
  | 0, c => c
  | n + 1, c =>
    let key := arbKey 35 .a
    let (c, g) := arbDecide c key [(w, 0)] 0
    if g = some w then setArb c key { arbOf c key with holder := none } else flashTurn w n c

/-- The flash used by a requester: one request of it raised and served. -/
def flashUse (c : Chip) (w : Nat) : Chip := flashTurn w 5 c

/-- Offsets and sizes in the flash (Table: Flash layout): the directory's copies, settings areas A and B, slots F0, F1, C0 and
C1, and the bulk log, which no interface reads. -/
def flashLayout : List (Nat × Nat) :=
  [(0x00000000, 128 * 1024), (0x00020000, 128 * 1024), (0x00400000, 4 * 2 ^ 20), (0x00800000, 4 * 2 ^ 20),
   (0x01000000, 64 * 2 ^ 20), (0x05000000, 64 * 2 ^ 20), (0x09000000, 64 * 2 ^ 20), (0x0D000000, 64 * 2 ^ 20),
   (0x11000000, 3824 * 2 ^ 20)]

/-- The size of a slot's area: an image is at most that long (R498, R502). -/
def slotSize (k : Fin 4) : Nat := (flashLayout.getD (4 + k.val) (0, 0)).2

/-! ### Loads (R502, R503) -/

/-- Whether a load is owned by another than `who`. -/
def loadTaken (c : Chip) (who : Loader) : Bool := match c.upd.load with | some l => decide (l.owner ≠ who) | none => false

/-- The load is over and its slot EMPTY. -/
def dropLoad (c : Chip) : Chip :=
  match c.upd.load with
  | some l => onSlot (onUpd c fun u => { u with load := none }) l.slot fun _ => Slot.empty
  | none => c

/-- The record and source of a load that has ended (R514). -/
def loadEnded (c : Chip) (l : Load) (status chk : Nat) : Chip :=
  let w4 := l.kind + b2n l.delta * 256 + chk * 65536 + status * 2 ^ 24
  raise (deviceRecord c 0x19 1 w4 l.slot.val (slotVersion c l.slot)) 2211 w4

/-- A load ended by UPD.CANCEL, by its session's end, by an Affineur restart or by another BEGIN of its owner (R502). The record's status byte
is then one that no rule states: a free value. Log entry 66. -/
def endLoad (c : Chip) : Chip :=
  match c.upd.load with
  | some l => let (n, c) := drawStamp (dropLoad c); loadEnded c l ((Config.freeWord n).toNat % 256) 0
  | none => c

/-- UPD.BEGIN: the chip and a status. -/
def updBegin (c : Chip) (who : Loader) (kind form length : Nat) : Chip × Nat :=
  if loadTaken c who then (c, 4)
  else if (kind ≠ 1 && kind ≠ 2) || 1 < form || slotSize 0 < length then (c, 0x41)
  else if c.sys.mode = .inert then (c, 6)
  else
    let active := slotIn c kind [7]
    let dst := ((kindSlots kind).find? fun k => (slotAt c k).state ≠ 7).getD 0
    if (slotAt c dst).state = 3 || (slotAt c dst).state = 4 then (c, 6)
    else if form = 1 && active.isNone then (c, 0x51)
    else
      let dst := if active.isNone then ((kindSlots kind).head?).getD 0 else dst
      let c := flashUse (endLoad c) 1
      let c := onSlot c dst fun _ => { Slot.empty with state := 1 }
      (onUpd c fun u => { u with load := some ⟨who, kind, form = 1, length, dst, []⟩ }, 0)

/-- UPD.DATA: the chip, a status and the bytes received. -/
def updData (c : Chip) (who : Loader) (ofs : Nat) (bs : List Byte) : Chip × Nat × Nat :=
  match c.upd.load with
  | none => (c, 0x41, 0)
  | some l =>
    if l.owner ≠ who then (c, 4, l.got.length)
    else if ofs ≠ l.got.length || bs.isEmpty || 1008 < bs.length || l.length < ofs + bs.length then (c, 0x41, l.got.length)
    else (onUpd (flashUse c 1) fun u => { u with load := some { l with got := l.got ++ bs } }, 0, l.got.length + bs.length)

/-- UPD.END: the chip, a status and CHKFAIL. -/
def updEnd (c : Chip) (who : Loader) : Chip × Nat × Nat :=
  match c.upd.load with
  | none => (c, 6, 0)
  | some l =>
    if l.owner ≠ who then (c, 4, 0)
    else
      let c := flashUse c 1
      let fail (status chk : Nat) : Chip × Nat × Nat :=
        let c := onSlot (dropLoad c) l.slot fun s => { s with chkfail := chk }
        (loadEnded c l status chk, status, chk)
      if l.got.length < l.length then fail 0x50 1
      else
        match (if l.delta then applyDelta c l.kind l.got else .inl l.got) with
        | .inr (st, k) => fail st k
        | .inl img =>
          let k := loadChecks c l.kind img
          if k ≠ 0 then fail (if l.kind = 1 && k = 6 then 0x52 else 0x50) k
          else
            let st := if (slotIn c l.kind [7]).isNone then 7 else 2
            let c := onSlot (onUpd c fun u => { u with load := none }) l.slot fun _ => { Slot.empty with state := st, held := .bytes img }
            (loadEnded c l 0 0, 0, 0)

/-- UPD.CANCEL. -/
def updCancel (c : Chip) (who : Loader) : Chip × Nat := if loadTaken c who then (c, 4) else (endLoad c, 0)

/-! ### Trials (R505 to R510) -/

/-- UPD_CTL.TRIES: 3 unless EXPERT is declared (R513). -/
def updTries (c : Chip) : Nat := if expertLive c 25 then fieldOf c Reg.updCtl.addr 23 20 else 3

/-- Whether a slot of the other kind is ARMED or TRIAL. -/
def otherTrial (c : Chip) (kind : Nat) : Bool := (slotIn c (3 - kind) [3, 4]).isSome

/-- UPD.ARM. -/
def updArm (c : Chip) (kind : Nat) : Chip × Nat :=
  if kind ≠ 1 && kind ≠ 2 then (c, 0x41)
  else match slotIn c kind [2] with
    | none => (c, 6)
    | some k =>
      let sf := (fwHead (slotAt c k).held).2.1
      if otherTrial c kind then (c, 6)
      else if kind = 1 && sf < (settings c).sfmt && !formatHeld c sf then (c, 0x53)
      else (onSlot c k fun s => { s with state := 3, tries := updTries c }, 0)

/-- UPD.REVERT. -/
def updRevert (c : Chip) (kind : Nat) : Chip × Nat :=
  if kind ≠ 1 && kind ≠ 2 then (c, 0x41)
  else match slotIn c kind [6] with
    | none => (c, 6)
    | some k =>
      let h := fwHead (slotAt c k).held
      if otherTrial c kind || (slotIn c kind [3, 4]).isSome then (c, 6)
      else if kind = 1 && h.2.2 < (settings c).rollmin then (c, 0x52)
      else if kind = 1 && !formatHeld c h.2.1 then (c, 0x53)
      else (onSlot c k fun s => { s with state := 3, tries := updTries c }, 0)

/-- The conditions of R508 begin anew: no interval runs. -/
def noInterval (c : Chip) : Chip := onUpd c fun u => { u with held := 0, confok := false }

/-- A slot rejected with its reason (R507); after a firmware trial the settings of the ACTIVE firmware's format are in force
(R510). -/
def rejectSlot (c : Chip) (k : Fin 4) (reason : Nat) : Chip :=
  let c := noInterval (onSlot c k fun s => { s with state := 5, reason := reason })
  let c := match (if k.val < 2 then slotIn c 1 [7] else none) with
    | some j => onUpd c fun u => { u with sfmt := (fwHead (slotAt c j).held).2.1 }
    | none => c
  raise (deviceRecord (bump c Reg.updCnt.addr 15 0) 0x19 4 k.val reason) 2210 reason

/-- An event of R507 during a trial; reason 3 is for a firmware trial only. -/
def rejectTrial (c : Chip) (reason : Nat) : Chip :=
  match trialSlot c with
  | some k => if reason = 3 && 2 ≤ k.val then c else rejectSlot c k reason
  | none => c

/-- The trial slot confirmed (R508): `how` 0 by itself, 1 by UPD.CONFIRM. -/
def confirmSlot (c : Chip) (k : Fin 4) (how : Nat) : Chip :=
  let kind := slotKind k
  let c := match slotIn c kind [7] with | some j => onSlot c j fun s => { s with state := 6 } | none => c
  let c := onSlot c k fun s => { s with state := 7, tries := 0 }
  let rb := (fwHead (slotAt c k).held).2.2
  let c := if kind = 1 && (settings c).rollmin < rb then putSettings c { settings c with rollmin := rb } else c
  let c := noInterval c
  raise (deviceRecord (bump c Reg.updCnt.addr 31 16) 0x19 3 k.val how) 2209 k.val

/-- UPD.CONFIRM. -/
def updConfirm (c : Chip) (kind : Nat) : Chip × Nat :=
  match slotIn c kind [4] with | some k => (confirmSlot c k 1, 0) | none => (c, if kind = 1 || kind = 2 then 6 else 0x41)

/-- UPD.REJECT. -/
def updReject (c : Chip) (kind : Nat) : Chip × Nat :=
  match slotIn c kind [4] with | some k => (rejectSlot c k 5, 0) | none => (c, if kind = 1 || kind = 2 then 6 else 0x41)

/-- A firmware trial whose settings format differs from that of the area in use (R510): an older format takes the area of its
own SFMT where one is still held, and else the settings are converted into the other area. DEDUCED, log entry 110. -/
def convertSettings (c : Chip) (k : Fin 4) : Chip :=
  let new := (fwHead (slotAt c k).held).2.1
  let old := settings c
  if old.sfmt = new then c
  else if new < old.sfmt && formatHeld c new then onUpd c fun u => { u with sfmt := new }
  else
    let s := some { old with sfmt := new, seq := old.seq + 1, whole := true }
    let c := onUpd c fun u => if usesB u then { u with areaA := s, sfmt := new } else { u with areaB := s, sfmt := new }
    deviceRecord c 0x19 6 (new + old.sfmt * 65536)

/-- The ACTIVE slot of a kind as a start uses it, with the first failing check shown in CHKFAIL (R506, R512). -/
def useActive (c : Chip) (kind : Nat) (checks : Chip → Fin 4 → Nat) : Chip × Option (Fin 4) :=
  match slotIn c kind [7] with
  | some k => (onSlot (flashUse c 0) k fun s => { s with chkfail := checks c k }, some k)
  | none => (c, none)

/-- The slot that a start uses for a kind (R506); `checks` answers the first check that a slot fails at a start, 0 for none. -/
def selectSlot (c : Chip) (kind : Nat) (checks : Chip → Fin 4 → Nat) : Chip × Option (Fin 4) :=
  match slotIn c kind [3, 4] with
  | none => useActive c kind checks
  | some k =>
    if (slotAt c k).tries = 0 then useActive (rejectSlot c k 4) kind checks
    else
      let c := onSlot (flashUse c 0) k fun s => { s with state := 4, tries := s.tries - 1 }
      let c := raise (deviceRecord c 0x19 2 k.val (slotAt c k).tries) 2208 k.val
      let n := checks c k
      let c := onSlot c k fun s => { s with chkfail := n }
      if n = 0 then (noInterval (if kind = 1 then convertSettings c k else c), some k)
      else useActive (rejectSlot c k 6) kind checks

/-- Whether the conditions of R508 hold, with READY of R268 and the culture health word. -/
def confirmHolds (c : Chip) (ready : Bool) : Bool :=
  match trialSlot c with
  | none => false
  | some k =>
    let w := rawReg c Reg.updCtl.addr
    (c.sys.mode = .service || (c.sys.mode = .standby && ready && bit w 30)) && (servingVats c).length = 3 && !c.upd.soured &&
    !(2 ≤ k.val && bit w 31 && !bit c.sys.health 31) && bit w 29

/-- The management tick's judgement of the interval (R508): it begins at the first tick at which the conditions hold, and each
later tick at which they still do makes it a second longer. -/
def updTick (c : Chip) (ready : Bool) : Chip :=
  let ok := confirmHolds c ready
  onUpd c fun u => { u with confok := ok, held := if ok && u.confok then u.held + 1 else 0, soured := false }

/-- The conditions have held for CONFTIME. -/
def selfConfirm (c : Chip) : Chip :=
  match trialSlot c with
  | some k => if flashOpen c && c.upd.confok && fieldOf c Reg.updCtl.addr 15 0 ≤ c.upd.held then confirmSlot c k 0 else c
  | none => c

/-! ### Keys and the service port (R497, R504) -/

/-- UPD.KEY. -/
def updKey (c : Chip) (r : List Byte) : Chip × Nat :=
  if r.length ≠ 256 then (c, 0x41)
  else
    let s := settings c
    let id := leAt r 0 4
    let use := leAt r 4 4
    let op := leAt r 8 4
    let serial := leAt r 16 4
    let key := slice r 32 97
    let form := id ≠ 0 && use < 16 && s.serial < serial && zeros (slice r 20 12) && zeros (slice r 129 31) &&
      ((op = 1 && leAt key 0 1 = 4 && onCurve (beAt key 1 48) (beAt key 49 48)) || (op = 2 && zeros key))
    let others := s.keys.filter fun k => k.id ≠ id
    let keys := if op = 1 then others ++ [⟨id, beAt key 1 48, beAt key 49 48, use⟩] else others
    if form && keyVerifies s.keys (leAt r 12 4) 4 (r.take 160) (slice r 160 96) && keys.length ≤ 16 &&
       keys.any (fun k => k.use / 4 % 2 = 1) then
      (deviceRecord (putSettings c { s with keys := keys, serial := serial }) 0x19 5 id use op serial, 0)
    else (c, 0x50)

/-- UPD.SVCADDR. -/
def updSvcaddr (c : Chip) (p : List Byte) : Chip × Nat :=
  if p.length ≠ 8 || leAt p 4 1 < 8 || 30 < leAt p 4 1 || !zeros (p.drop 5) then (c, 0x41)
  else (putSettings c { settings c with svc := some (leAt p 0 4, leAt p 4 1) }, 0)

/-! ### The transfer to the partner (R511) -/

/-- An UPDATE frame of a kind (1 BEGIN, 2 DATA, 3 END, 8 acknowledgement) with a piece number. -/
def updFrame (kind piece : Nat) (bs : List Byte) : TxFrame := ⟨3, 11, false, 0, kind * 2 ^ 28 + piece % 2 ^ 24, bs⟩

/-- The pieces of an image. -/
def imagePieces (bs : List Byte) : Nat := (bs.length + 255) / 256

/-- Pieces from `from_` up to the 64 that may wait for an acknowledgement, BEGIN before the first and END after the last. -/
def sendPieces (c : Chip) (p : PeerTx) (from_ : Nat) : Chip :=
  let bs := (slotAt c p.slot).held.content
  let n := imagePieces bs
  let c := if from_ = 0 then queueFrame c (updFrame 1 0 (bytesLE 4 (slotKind p.slot) ++ bytesLE 4 bs.length)) else c
  let stop := min n (p.acked + 64)
  let c := (List.range (stop - from_)).foldl (fun c j => queueFrame c (updFrame 2 (from_ + j) (slice bs (256 * (from_ + j)) 256))) c
  let end_ := stop = n
  let c := if end_ then queueFrame c (updFrame 3 n []) else c
  onUpd c fun u => { u with peer := some { p with sent := stop, sentAt := c.core.tick, ended := end_ } }

/-- The partner's mode as its last HEALTH report says. -/
def partnerMode (c : Chip) : Option Nat := if within c c.ldl.healthAt 2000000 then some (fieldOf c (Reg.ldlPh.addr 0) 31 29) else none

/-- UPD.PEER. -/
def updPeer (c : Chip) (n : Fin 4) (slot : Nat) : Chip × Nat :=
  if h : slot < 4 then
    let k : Fin 4 := ⟨slot, h⟩
    if c.upd.peer.isSome then (c, 7)
    else if !([2, 3, 4, 6, 7].contains (slotAt c k).state) || partnerMode c ≠ some 4 || !linkUp c then (c, 6)
    else
      (sendPieces c ⟨k, n, 0, 0, c.core.tick, false⟩ 0, 0)
  else (c, 0x41)

/-- An acknowledgement of `n` pieces, or the last with the status of END, reaches the sender. -/
def peerAck (c : Chip) (n : Nat) (final : Option Nat) : Chip :=
  match c.upd.peer with
  | none => c
  | some p =>
    match final with
    | some st => onUpd c fun u => { u with peer := none, peerStatus := st }
    | none => if p.acked < n then sendPieces c { p with acked := n } p.sent else c

/-- Pieces not acknowledged within 10 ms are sent again. -/
def peerTimeout (c : Chip) : Chip :=
  match c.upd.peer with
  | some p => if p.sentAt + 10000 ≤ c.core.tick then sendPieces c p p.acked else c
  | none => c

/-- An UPDATE frame from the partner. What is repeated is acknowledged again. END with fewer pieces than the image has is the
partner's, whose session has ended: the load ends as UPD.END before LENGTH bytes does; END before pieces that have not arrived
is left until they are sent again. DESIGN CHOICE, log entry 66. -/
def updateFrame (c : Chip) (f : LFrame) : Chip :=
  let kind := bits f.h2 31 28
  let piece := bits f.h2 23 0
  let got (c : Chip) : Nat := match c.upd.load with | some l => l.got.length | none => 0
  let ack (c : Chip) (n : Nat) (st : Option Nat) : Chip :=
    queueFrame c (updFrame 8 n (match st with | some st => bytesLE 8 (st * 2 ^ 24) | none => []))
  if kind = 8 then peerAck c piece (if f.payload.length = 0 then none else some (leAt f.payload 3 1))
  else if c.sys.mode ≠ .maintenance || !flashOpen c then c
  else if kind = 1 then
    let (c, st) := updBegin c .partner (leAt f.payload 0 1) (leAt f.payload 1 1) (leAt f.payload 4 4)
    let c := onUpd c fun u => { u with endAck := none }
    if st = 0 then c else ack c 0 (some st)
  else if kind = 2 then
    if 256 * piece = got c then
      let (c, st, n) := updData c .partner (256 * piece) f.payload
      if st = 0 && n % 16384 = 0 then ack c (n / 256) none else c
    else if 256 * piece < got c && (piece + 1) % 64 = 0 then ack c (got c / 16384 * 64) none
    else c
  else if kind = 3 then
    match c.upd.load with
    | some l =>
      if l.owner ≠ .partner then c
      else if l.got.length < l.length && (l.length + 255) / 256 ≤ piece then c
      else
        let (c, st, _) := updEnd c .partner
        ack (onUpd c fun u => { u with endAck := some (piece, st) }) piece (some st)
    | none => match c.upd.endAck with | some (n, st) => ack c n (some st) | none => c
  else c

/-- Loads and transfers that their session, the Ladle or the mode ends (R502, R511). -/
def updCheck (c : Chip) : Chip :=
  let gone (n : Fin 4) : Bool := (mapGet none c.sys.sessions n.val).isNone
  let c := match c.upd.load with
    | some l =>
      (match l.owner with
       | .session n => if gone n then endLoad c else c
       | .partner => if !linkUp c || c.sys.mode ≠ Mode.maintenance then endLoad c else c)
    | none => c
  match c.upd.peer with
  | some p =>
    if !linkUp c || partnerMode c ≠ some 4 then onUpd c fun u => { u with peer := none }
    else if gone p.owner then onUpd (queueFrame c (updFrame 3 p.acked [])) fun u => { u with peer := none }
    else c
  | none => c

/-! ### Registers and rules (R512, R513) -/

/-- UPD_STAT. A trial shows from the start that reads the directory (R10). -/
def updStat (c : Chip) : Word :=
  let u := c.upd
  let sess : Nat := match u.load with
    | some l => (match l.owner with | .session n => n.val | .partner => 0)
    | none => (match u.peer with | some p => p.owner.val | none => 0)
  let load := if u.load.isSome then 1 else if u.peer.isSome then 3 else 0
  let left := if u.confok then fieldOf c Reg.updCtl.addr 15 0 - u.held else 0
  let trial := if c.sys.step < 2 then none else trialSlot c
  let tk := match trial with | some k => b2n (2 ≤ k.val) | none => 0
  word (load * 2 ^ 30 + (match u.load with | some l => l.kind | none => 0) * 2 ^ 28 + sess * 2 ^ 25 + b2n trial.isSome * 2 ^ 24 +
    tk * 2 ^ 23 + b2n u.confok * 2 ^ 22 + left)

/-- The version of the running firmware as it was started; before that, of the image that is ACTIVE (R512). -/
def runningVersion (c : Chip) : Nat :=
  if c.upd.running.isSome then c.upd.fwver else match slotIn c 1 [7] with | some k => slotVersion c k | none => 0

/-- UPD_SLOTk. -/
def updSlotWord (c : Chip) (k : Fin 4) : Word :=
  let s := slotAt c k
  word (s.state * 2 ^ 29 + s.tries * 2 ^ 25 + s.chkfail * 65536 + s.reason * 256)

/-- What a read of a UPD register shows that is not a stored word. -/
def updView (c : Chip) (a : Nat) : Option Word :=
  let o := a - 0x190000
  if o = 0 then some (updStat c)
  else if o = 1 then some (if expertLive c 25 then rawReg c a else setBits (rawReg c a) 23 20 3)
  else if o = 3 then some (word (settings c).rollmin)
  else if o = 4 then some (word (runningVersion c))
  else if o = 5 then some (word (settings c).sfmt)
  else if h : 0x10 ≤ o ∧ o < 0x14 then some (updSlotWord c ⟨o - 0x10, by omega⟩)
  else if h : 0x14 ≤ o ∧ o < 0x18 then some (word (slotVersion c ⟨o - 0x14, by omega⟩))
  else none

/-- The payload of UPD.INFO. -/
def updInfo (c : Chip) : List Byte :=
  bytesLE 4 (updStat c).toNat ++
  ([0, 1, 2, 3] : List (Fin 4)).flatMap (fun k => bytesLE 4 (updSlotWord c k).toNat) ++
  ([0, 1, 2, 3] : List (Fin 4)).flatMap (fun k => bytesLE 4 (slotVersion c k))

/-- The rules of COMMIT (R513). -/
def updRules (expert : Bool) (w : After) : List Fail :=
  let x := w Reg.updCtl.addr
  let t := bits x 15 0
  failIf (expert && bits x 23 20 = 0) Reg.updCtl.addr 23 20 ++ failIf (t < 10 || 3600 < t) Reg.updCtl.addr 15 0

end Sys2Proof.Machine
end

