-- ==== Sys2Proof/Machine/Vats.lean ====
section
/-! DEFINITION. The Vats as planes (R121, R137 to R148, R152, R157 to R160): sour declarations, re-curdling from its start to
the rejoin, the comparison of the time counter copies, and the VAT registers. -/

namespace Sys2Proof.Machine

/-! ### Stops in PROVE (R197) -/

/-- The module stays in PROVE: SYS_PROVE, SYS_PROVEPC, the record, and the end of a trial (R507). -/
def stopProveAs (c : Chip) (reason detail pc cultid build : Nat) : Chip :=
  let w := reason * 2 ^ 24 + detail % 65536
  let c := { c with sys := { c.sys with stopped := true, setupRun := false } }
  let c := setReg (setReg c Reg.sysProve.addr (word w)) Reg.sysProvepc.addr (word (pc % 32768))
  let c := deviceRecord c 0x00 2 w (pc % 32768) (cultid % 2 ^ 32) build
  if reason = 10 then c else rejectTrial c 1

/-- The same, for the loaded culture. -/
def stopProve (c : Chip) (reason detail : Nat) (pc : Nat := 0) : Chip :=
  stopProveAs c reason detail pc c.culture.cultid c.culture.build

/-! ### VAT_STAT -/

/-- Table: Vat states. -/
def VatState.code : VatState → Nat
  | .idle => 0
  | .serving => 1
  | .sour => 2
  | .proving => 3
  | .copying => 4
  | .waitq => 5
  | .out => 6

/-- VAT_STAT. -/
def vatStat (c : Chip) : Word :=
  word ((match c.core.recurdle with | some r => r.1.num | none => 3) * 2 ^ 26 + (servingVats c).length * 2 ^ 24 +
    (plane c .c).state.code * 256 + (plane c .b).state.code * 16 + (plane c .a).state.code)

/-- LATELIM as it acts (R158). -/
def lateLim (c : Chip) : Nat := if expertLive c 1 then fieldOf c Reg.vatCtl.addr 23 16 else 16
/-- QTRY as it acts. -/
def qTry (c : Chip) : Nat := if expertLive c 1 then fieldOf c Reg.vatCtl.addr 11 8 else 7
/-- NOAUTO. -/
def noAuto (c : Chip) : Bool := bit (rawReg c Reg.vatCtl.addr) 0

/-! ### Re-curdling (R142 to R147) -/

/-- A bank arbiter of a reset Vat starts anew with the slot table in force. -/
def resetBanks (c : Chip) (v : Vat) : Chip :=
  (List.range 32).foldl (fun c a =>
    let x := arbOf c (arbKey a v)
    setArb c (arbKey a v) { Arbiter.reset with table := x.table, staged := x.staged }) c

/-- The Vat is in PROVING, reset (R142 step 1). -/
def proveState (c : Chip) (v : Vat) : Chip :=
  let p := plane c v
  setPlane (resetBanks c v) v { VatPlane.reset with state := .proving, time := p.time, frac := p.frac, soured := p.soured }

/-- The re-curdling of a Vat in PROVING since tick `at_` goes on with a source. -/
def startRecurdle (c : Chip) (src v : Vat) (at_ : Nat) : Chip :=
  { c with core := { c.core with recurdle := some (src, v), rcStart := at_, rcLocked := false, rcTries := 0, rcFinal := false } }

/-- The Vat that waits in PROVING longest has its turn, where no other is being re-curdled and a Vat serves: the lower-lettered
SERVING Vat is its source (R142). -/
def nextRecurdle (c : Chip) : Chip :=
  match c.core.recurdle, c.core.rcNext, servingVats c with
  | none, (v, t) :: rest, src :: _ => startRecurdle { c with core := { c.core with rcNext := rest } } src v t
  | _, _, _ => c

/-- The Vat enters PROVING (R142 step 1) at once (R140, R159); while another is re-curdled or no Vat serves it waits there for
its turn. Log entry 40. -/
def beginProving (c : Chip) (v : Vat) : Chip :=
  let c := proveState c v
  nextRecurdle { c with core := { c.core with rcNext := c.core.rcNext ++ [(v, c.core.tick)] } }

/-- A re-curdling counted, and its record (R147). -/
def recordRecurdle (c : Chip) (v : Vat) (ok : Bool) : Chip :=
  let c := if ok then bump c Reg.vatRccnt.addr 31 16 else bump c Reg.vatRccnt.addr 15 0
  deviceRecord c 0x01 2 (v.num + b2n ok * 256) (rawReg c Reg.vatRclast.addr).toNat

/-- The re-curdling in progress ends (R147). VAT_RCLAST shows the attempts of one that fails too (R157). -/
def endRecurdle (c : Chip) (v : Vat) (ok : Bool) : Chip :=
  let c := if ok then c else setField c Reg.vatRclast.addr 27 24 (min 15 c.core.rcTries)
  let c := { c with core := { c.core with recurdle := none, rcFinal := false, rcLocked := false } }
  nextRecurdle (recordRecurdle c v ok)

/-- A Vat that waits in PROVING for its turn leaves it: a failed re-curdling without an attempt (R147). -/
def leaveProving (c : Chip) (v : Vat) (s : VatState) : Chip :=
  let c := setField (onPlane c v fun p => { p with state := s }) Reg.vatRclast.addr 27 24 0
  recordRecurdle { c with core := { c.core with rcNext := c.core.rcNext.filter fun e => e.1 ≠ v } } v false

/-- VAT_CAUSEn, VAT_SOURn and the record of a declaration (R137). -/
def noteCause (c : Chip) (v : Vat) (code kind : Nat) (t : Option TaskId) (item : Nat) : Chip :=
  let w := code * 2 ^ 28 + kind * 2 ^ 25 + (match t with | some t => b2n t.ev * 2 ^ 24 + t.num * 2 ^ 16 | none => 0) + item % 65536
  let c := bump (setReg c (Reg.vatCause.addr v.num) (word w)) (Reg.vatSour.addr v.num) 31 0
  deviceRecord c 0x01 1 w v.num

/-- The Vat goes to OUT from its re-curdling, with a cause (R143, R147). -/
def recurdleFails (c : Chip) (v : Vat) (code : Nat) : Chip :=
  let c := onPlane (noteCause c v code 7 none 0) v fun p => { p with state := .out }
  endRecurdle c v false

/-- RECURDLE_PLL_LOCK (R142 step 2). -/
def pllLock (c : Chip) : Chip :=
  match c.core.recurdle with
  | some (_, v) => if (plane c v).state = .proving then { c with core := { c.core with rcLocked := true } } else c
  | none => c

/-- SELF_PROOF_DONE (R142 step 3): COPYING, with dirty-page tracking in the source started anew, or OUT with cause PROOF. -/
def selfProofDone (c : Chip) (ok : Bool) : Chip :=
  match c.core.recurdle with
  | some (s, v) =>
    if (plane c v).state ≠ .proving ∨ !c.core.rcLocked then c
    else if ok then onPlane (onPlane c s fun p => { p with dirty := [] }) v fun p => { p with state := .copying }
    else recurdleFails c v 11
  | none => c

/-- The live descriptors, as the configuration port rewrites them in a re-curdled Vat (R166). -/
def liveDescs (c : Chip) : SMap Desc :=
  (regsIn c.regs Reg.whyCtl.base (Reg.whyCtl.base + 0x1FFFF)).foldl (fun m e =>
    let q := (e.1 - Reg.whyCtl.base) / 4
    mapPut Desc.zero m q (liveDesc c q)) []

/-- What the copy brings from the source: instruction buffers, memory with header marks, the event dispatcher's state and
the dynamic state of the queues. -/
def copyPlane (c : Chip) (s : VatPlane) (d : VatPlane) : VatPlane :=
  { d with mem := s.mem, marks := s.marks, ibuf := s.ibuf, pending := s.pending, queues := s.queues, seq := s.seq,
           descs := liveDescs c, ldirty := s.ldirty }

/-- A bank of a Vat is frozen, which stops the copies of a re-curdling (R184). -/
def banksFrozen (c : Chip) (v : Vat) : Bool := (List.range 32).any fun a => arbFrozen c (arbKey a v)

/-- COPY_PASS_DONE (R142 steps 4 to 6): with 64 KiB or less left dirty the state becomes WAITQ, in which each further pass
takes the pages dirtied meanwhile. -/
def copyPassDone (c : Chip) : Chip :=
  match c.core.recurdle with
  | some (s, v) =>
    if banksFrozen c s || banksFrozen c v then c else
    let left := pageBytes (plane c s).dirty
    let c' := onPlane c v fun p => copyPlane c (plane c s) p
    match (plane c v).state with
    | .copying =>
      if left ≤ 65536 then onPlane c' v fun p => { p with state := .waitq }
      else onPlane c' s fun p => { p with dirty := [] }
    | .waitq => if c.core.rcFinal then c else onPlane c' s fun p => { p with dirty := [] }
    | _ => c
  | none => c

/-- An attempt at a quiet point has failed (R143). -/
def attemptFails (c : Chip) (v : Vat) : Chip :=
  let n := c.core.rcTries + 1
  let c := { c with core := { c.core with rcTries := n, rcFinal := false } }
  if c.core.rcQtry ≤ n then recurdleFails c v 13 else c

/-- The final copy starts at a quiet point (R142 step 7), or the attempt is abandoned for its dirty volume. The attempt runs under
the QTRY of its start (R158). -/
def startFinal (c : Chip) : Chip :=
  match c.core.recurdle with
  | some (s, v) =>
    if (plane c v).state ≠ .waitq ∨ c.core.rcFinal then c
    else
      let c := { c with core := { c.core with rcQtry := qTry c } }
      if 65536 < pageBytes (plane c s).dirty then attemptFails c v
      else { c with core := { c.core with rcFinal := true } }
  | none => c

/-- An event curd close falls before the final copy ends: the attempt is abandoned (R143). -/
def abandonFinal (c : Chip) : Chip :=
  match c.core.recurdle with
  | some (_, v) => if c.core.rcFinal then attemptFails c v else c
  | none => c

/-- The cycle state of a task as the rejoining Vat takes it: the curds of the past, nothing in progress. -/
def quietAct (a : Act) : Act :=
  { a with own := none, posted := false, sets := Tri.all none, running := [], computing := false, image := Image.empty }

/-- FINAL_COPY_DONE (R142 step 8): the Vat takes the source's state and serves; its time counter copy is aligned with the
median of the other two, its event controller copy set to theirs (R224), its copy of the charge controller to CHG_OUT (R237). -/
def finalDone (c : Chip) : Chip :=
  match c.core.recurdle with
  | some (s, v) =>
    if !c.core.rcFinal ∨ (plane c v).state ≠ .waitq ∨ banksFrozen c s ∨ banksFrozen c v then c
    else
      let others := (allVats.filter (· ≠ v)).map fun u => (plane c u).time
      let t := others.sum / 2
      let k := match agreedCopy c with | some (k, _) => k | none => c.evc.get s
      let sp := plane c s
      let c := onPlane c v fun p =>
        { copyPlane c sp p with
          state := .serving
          time := t
          frac := 0
          realigned := []
          acts := mapMapVals Act.empty sp.acts fun _ a => quietAct a }
      let tries := c.core.rcTries + 1
      let us := min (2 ^ 24 - 1) (c.core.tick - c.core.rcStart)
      let c := onLdl c fun l => { l with chgOut := l.chgOut.set v (chgOn c) }
      let c := setReg { c with evc := c.evc.set v k } Reg.vatRclast.addr (word (min 15 tries * 2 ^ 24 + us))
      endRecurdle (raiseMax c Reg.vatRcmax.addr 23 0 us) v true
  | none => c

/-! ### Sour declarations (R137 to R140, R147 to R149) -/

/-- The state that a halted Vat takes next (R140). -/
def afterSour (c : Chip) (v : Vat) (code : Nat) : Chip :=
  if (10 ≤ code && code ≤ 13) || allVats.any (fun u => u ≠ v && decide ((plane c u).state = .out)) then
    onPlane c v fun p => { p with state := .out }
  else if c.sys.mode = .prove ∨ noAuto c then c
  else beginProving c v

/-- A Vat declared sour in PROVE (R148): the culture is loaded once more, from step 10; the second time the module stays. -/
def sourInProve (c : Chip) (v : Vat) (code : Nat) : Chip :=
  if c.sys.mode ≠ .prove ∨ c.sys.stopped then c
  else if c.sys.proveSour = 0 then
    { c with sys := { c.sys with proveSour := 1, step := 9, setupRun := false } }
  else stopProve { c with sys := { c.sys with proveSour := c.sys.proveSour + 1 } } 4 (v.num * 4096 + code)

/-- Whether another Vat has been declared sour in the same cycle (R150). -/
def sameCycle (c : Chip) (v : Vat) (t : Option TaskId) : Bool :=
  let from_ := match t with | some t => (taskSt c t).curdTick | none => c.core.tick
  allVats.any fun u => u ≠ v && (match (plane c u).soured with | s :: _ => decide (from_ ≤ s) | [] => false)

/-- A Vat declared sour: halted with its Ladle lane (R138, R248), recorded, its next state taken, and HOLD asked for where fewer
than two Vats serve. -/
def declareSour (c : Chip) (v : Vat) (code kind : Nat) (t : Option TaskId) (item : Nat) : Chip :=
  let p := plane c v
  if p.state = .sour then bump c (Reg.vatSour.addr v.num) 31 0
  else if p.state ≠ .serving then c
  else
    let recent := p.soured.filter fun s => decide (c.core.tick ≤ s + 10000000)
    let code := if 2 ≤ recent.length then 12 else code
    let c := laneDown (setPlane c v { p with state := .sour, soured := c.core.tick :: recent }) v true
    let c := noteCause { c with upd := { c.upd with soured := true } } v code kind t item
    let c := match c.core.recurdle with
      | some (s, u) => if s = v then endRecurdle (onPlane c u fun p => { p with state := .sour }) u false else c
      | none => c
    let c := sourInProve (afterSour c v code) v code
    if (servingVats c).length < 2 ∧ (c.sys.mode = .service ∨ c.sys.mode = .standby ∨ c.sys.mode = .maintenance) then
      todoHold c 7 (if sameCycle c v t then 5 else 4) t
    else c

/-! ### Two Vats (R149) -/

/-- KIND and ITEM of VAT_CAUSEn for the first item in which two images differ; none where they agree in every item. -/
def diffItem (a b : Image) : Option (Nat × Nat) :=
  match a.points.find? fun e => mapGet none b.points e.1 ≠ e.2 with
  | some e => some (0, e.1)
  | none =>
    if a.points ≠ b.points then some (0, 0)
    else if a.logs ≠ b.logs ∨ a.logsLost ≠ b.logsLost then some (2, 0)
    else if a.raises ≠ b.raises ∨ a.hset ≠ b.hset then some (3, 0)
    else if a.pres ≠ b.pres then some (5, 0)
    else none

/-- The Vats that take part in the task's present cycle: SERVING, and their curd is that of the cycle. -/
def participants (c : Chip) (t : TaskId) : List Vat :=
  (servingVats c).filter fun v => (actOf (plane c v) t).tick = (taskSt c t).curdTick

/-- Whether a task's cycle has no result and the images of the two Vats that take part are both complete: they differ. -/
def imagesDiffer (c : Chip) (t : TaskId) : Bool :=
  let st := taskSt c t
  st.active && st.formed && st.press.result.isNone &&
    match (participants c t).map fun v => st.press.images.get v with
    | [some a, some b] => (diffItem a b).isSome
    | _ => false

/-- A declaration leaves two Vats whose images of a cycle are complete and disagree: cause PAIRDIFF. -/
def pairDiffs (c : Chip) : Chip :=
  (c.tasks.map (·.1)).foldl (fun c k => let t := TaskId.ofCode k; if imagesDiffer c t then todoHold c 7 2 (some t) else c) c

/-! ### VAT_CMD (R159) -/

/-- Whether VAT_CMD is accepted in the present mode. -/
def vatCmdMode (c : Chip) : Bool := c.sys.mode = .standby || c.sys.mode = .service || c.sys.mode = .maintenance

/-- VAT_CMD OP 1: accepted with all three Vats SERVING (R159), and for the Vat that is being re-curdled or waits for it, which goes
to OUT (R147). DESIGN CHOICE, log entry 90: R159 alone would refuse the second. -/
def vatTakeOut (c : Chip) (v : Vat) : Chip × Bool :=
  if !vatCmdMode c then (c, false)
  else if (servingVats c).length = 3 then (todoSour c v 10 7 none 0, true)
  else if c.core.recurdle.any (·.2 = v) then (recurdleFails c v 10, true)
  else if c.core.rcNext.any (·.1 = v) then
    (leaveProving (noteCause c v 10 7 none 0) v .out, true)
  else (c, false)

/-- VAT_CMD OP 2: accepted for a Vat that is SOUR or OUT, with no other being re-curdled. -/
def vatRecurdle (c : Chip) (v : Vat) : Chip × Bool :=
  let st := (plane c v).state
  let busy := allVats.any fun u => u ≠ v && (3 ≤ (plane c u).state.code && (plane c u).state.code ≤ 5)
  if vatCmdMode c && (st = .sour || st = .out) && !busy then (beginProving c v, true) else (c, false)

/-! ### The time counter copies (R152) -/

/-- The median of the three copies with their fractions, in units of 2^−32 ns. -/
def medianClock (c : Chip) : Nat := (median3 (clockOf c.vats.a) (clockOf c.vats.b) (clockOf c.vats.c)).toNat

/-- A copy set to the median, counted; the third time within 1 s its Vat is sour. -/
def realign (c : Chip) (v : Vat) (m : Nat) : Chip :=
  let recent := ((plane c v).realigned.filter fun s => decide (c.core.tick ≤ s + 1000000)).take 2
  let c := onPlane c v fun p => { setClock p m with realigned := c.core.tick :: recent }
  let c := match v with
    | .a => bump c Reg.vatTreal.addr 7 0
    | .b => bump c Reg.vatTreal.addr 15 8
    | .c => bump c Reg.vatTreal.addr 23 16
  if 2 ≤ recent.length ∧ serving c v then todoSour c v 7 7 none 0 else c

/-- A copy trimmed towards the median: by all that it is off, at most by `lim`. Log entry 81. -/
def trim (c : Chip) (v : Vat) (m lim : Nat) : Chip :=
  onPlane c v fun p => setClock p (clockOf p + max (-(lim : Int)) (min lim ((m : Int) - clockOf p)))

/-- The copies compared at a tick: one more than 40 ns from the median is set to it, any other is trimmed towards it by up to
400 ppm of what the counter has advanced in the tick. -/
def compareTimes (c : Chip) (adv : Nat) : Chip :=
  let m := medianClock c
  allVats.foldl (fun c v =>
    if 40 * 2 ^ 32 < ((clockOf (plane c v) : Int) - m).natAbs then realign c v m else trim c v m (adv * 400 / 1000000)) c

/-! ### Registers -/

/-- What a read of a VAT register shows that is not a stored word. -/
def vatView (c : Chip) (a : Nat) : Option Word :=
  if a = Reg.vatStat.addr then some (vatStat c)
  else if a = Reg.vatCtl.addr && !expertLive c 1 then some (setBits (setBits (rawReg c a) 23 16 16) 11 8 7)
  else none

end Sys2Proof.Machine
end

