-- ==== Sys2Proof/Machine/Curd.lean ====
section
/-! DEFINITION. The curd (R39 to R45, R122 to R129, R225 to R228): the latch of every kind of input, the exchange of sample
sets, the agreement by data kind, and the dispatch of chains; the event dispatcher and event curd instants. -/

namespace Sys2Proof.Machine

/-! ### The latch (R122, R165) -/

/-- The sample of one point as Vat v latches it at its own time: the binding that names the point says how; a point that
no binding names has VALID 0 and all-zero content (R66). -/
def latchPoint (c : Chip) (v : Vat) (t : TaskId) (time pt : Nat) : Chip × Sample :=
  match groupOfPoint c pt, spdOfPoint c pt, alpOfPoint c pt, subOfPoint c pt, inboxOfPoint c pt with
  | some g, _, _, _, _ => (c, groupSample c v g)
  | _, some n, _, _, _ => (c, spdSample c v n)
  | _, _, some n, _, _ => (c, alpSample c v n)
  | _, _, _, some m, _ => (c, pdSample c v m pt t time)
  | _, _, _, _, some i => mdLatch c v i pt c.core.tick
  | _, _, _, _, _ =>
    match sinkOfPoint c pt, rxOfPoint c pt, canStatusOf c pt, winOfPoint c pt, capOfPoint c pt with
    | some j, _, _, _, _ => (c, sinkSample c v j pt time)
    | _, some (p, q), _, _, _ => canLatch c v p q pt time
    | _, _, some p, _, _ => (c, canStatusSample c p)
    | _, _, _, some w, _ => winLatch c v w pt time
    | _, _, _, _, some n => (c, capSample c v n)
    | _, _, _, _, _ =>
      if pt ≠ 0 && fieldOf c Reg.dioRbpnt.addr 31 16 = pt then (c, readbackSample c v)
      else if isRindPoint c pt then (c, rindSample c)
      else if isTimePoint c pt then (c, timeSample c)
      else if pt ≠ 0 && fieldOf c Reg.mvbStspnt.addr 31 16 = pt then (c, mvbStatusSample c)
      else (c, ⟨.bits, 0, List.replicate (ptSize c pt) 0, none⟩)

/-- The HGET items (Table: HGET items). -/
def hgetItems (c : Chip) : List Word :=
  let mask (p : Vat → Bool) : Nat := b2n (p .a) + 2 * b2n (p .b) + 4 * b2n (p .c)
  let cur (v : Vat) : Bool := 3 ≤ (plane c v).state.code && (plane c v).state.code ≤ 5
  [word c.sys.mode.code,
   word (4 * b2n (inCharge c) + 2 * b2n c.ldl.posb + b2n (paired c && linkUp c)),
   word (epoch c),
   word (16 * mask cur + mask (serving c)),
   c.sys.health]

/-- Vat v latches its sample set for a task, with the event record it holds. -/
def latchVat (c : Chip) (t : TaskId) (record : List Byte) (v : Vat) : Chip :=
  let time := (plane c v).time
  let c := mvbLatchTake (pdLatchTake c v t time) v t time
  let (c, pts) := (taskPoints c false t).foldl (fun (r : Chip × SMap (Option Sample)) pt =>
    let (c, s) := latchPoint r.1 v t time pt
    (c, mapPut none r.2 pt (some s))) (c, [])
  let items := hgetItems c
  onPlane c v fun p =>
    let a := actOf p t
    setAct p t { a with own := some ⟨c.core.tick, time, record, pts⟩, posted := false, sets := Tri.all none, hgetNext := items }

/-- What the blocks do once the Vats have latched a task's inputs. -/
def afterLatch (c : Chip) (t : TaskId) : Chip :=
  let time := now c
  spdAfterLatch (mdAfterLatch (canAfterLatch (mvbAfterLatch (pdAfterLatch (ptpAfterLatch c t) t time) t time) t) t) t

/-- The tasks form curds (R187, R191, R265, R518): in SERVICE until they are stopped, in STANDBY, and under TST_CTL.CRUN. -/
def curdsRun (c : Chip) : Bool :=
  (c.sys.mode = .service && !curdsStopped c) || c.sys.mode = .standby || testRuns c

/-- The entry of several words that an address belongs to, where it applies per entry at a curd instant (R302, R389): the
address and the lowest bit of its POINT. -/
def entryPoint (a : Nat) : Option (Nat × Nat) :=
  if Reg.ethPcom.base ≤ a && a < Reg.ethScom.base + 4 * 8192 then some (a - a % 4 + 3, 16)
  else if Reg.ethMdcom.base ≤ a && a < Reg.ethMdcom.base + 64 then some (a - a % 4 + 1, 0)
  else if Reg.brgWctl.base ≤ a && a < Reg.brgWctl.base + 256 then some (a - a % 4 + 2, 16)
  else none

/-- The tasks, by code, that own an entry before or after its change: those of its point. -/
def entryOwners (c : Chip) (a : Nat) : List Nat :=
  match entryPoint a with
  | none => []
  | some (p, l) =>
    let ws := rawReg c p :: (match mapGet none c.sys.pend p with | some w => [w] | none => [])
    (ws.map fun w => bits w (l + 15) l).filterMap fun pt => if bit (ptEntry c pt) 31 then some (bits (ptEntry c pt) 29 21) else none

/-- What a change of a task's words does beside their new values (R67): a periodic task newly enabled starts 100 µs later at the
earliest, an event task with the first event curd instant after the change and with no record from before it, and records of a
source that an event task no longer has are not delivered to it. -/
def taskApplied (c : Chip) (t : TaskId) (old : Word) : Chip :=
  let new := taskCfg c t
  let on := !bit old 31 && bit new 31
  let c := if on then setTask c t { taskSt c t with start := c.core.tick + (if t.ev then 1 else 100) } else c
  match t with
  | .event v =>
    if bits old 11 0 = bits new 11 0 && !on then c
    else { c with vats := c.vats.map fun p => { p with pending := mapErase p.pending v.val } }
  | _ => c

/-- The task's previous cycle in a Vat that has not delivered its image: from the next curd instant it goes on beside the new
one. -/
def setAside (p : VatPlane) (t : TaskId) : VatPlane :=
  let a := actOf p t
  setAct
    { p with
      oldActs := mapPut Act.empty p.oldActs t.code a
      ctxs := p.ctxs.map fun e => if e.2.on ∧ e.2.task = t then (e.1, { e.2 with old := true }) else e
      engines := p.engines.map fun e => (e.1, { e.2 with waiting := e.2.waiting.map fun d => if d.task = t then { d with old := true } else d }) }
    t { a with running := [], computing := false }

/-- The Vats that still owe the press their image of the cycle before (R133) set it aside. -/
def setAsideOwing (c : Chip) (t : TaskId) : Chip :=
  let x := (taskSt c t).press
  allVats.foldl (fun c v => if x.owing.get v && x.held.isSome then onPlane c v fun p => setAside p t else c) c

/-- A cycle or activation begins at the present tick with the sets of the Vats listed. Entries of the task that wait for its
curd instant become live first. -/
def beginCycle (c : Chip) (t : TaskId) (len : Nat) (vs : List (Vat × List Byte)) : Chip :=
  let c := applyPend c fun a => (entryOwners c a).contains t.code
  let c := setAsideOwing c t
  let st := taskSt c t
  let c := setTask c t { st with active := true, formed := false, curdTick := c.core.tick, commitTick := c.core.tick + len,
                                 ownCommit := c.core.tick + len, overrun := false,
                                 guard := prGuard c, bndwait := bndWait c, lateLim := lateLim c, passed := false, lone := false,
                                 excOld := st.excRec, excRec := [] }
  let c := countLate c t (now c)
  afterLatch (vs.foldl (fun c x => latchVat c t x.2 x.1) c) t

/-- CURD_INSTANT (R39): the tick is aligned for the task, and its previous cycle has committed. -/
def curdInstant (c : Chip) (n : Fin 64) : Chip :=
  let t := TaskId.periodic n
  let st := taskSt c t
  if curdsRun c && taskEn c t && aligned c n c.core.tick && !st.active && st.start ≤ c.core.tick then
    beginCycle c t (taskPeriod c n) ((servingVats c).map fun v => (v, []))
  else c

/-! ### The event dispatcher (R225 to R227) -/

/-- PDEPTH as it acts. -/
def pDepth (c : Chip) : Nat := if expertLive c 5 then fieldOf c Reg.evcXctl.addr 6 0 else 16

/-- Two records merged (R226). -/
def mergeRec (old new : List Byte) : List Byte :=
  let a := word (leAt old 0 4)
  let b := word (leAt new 0 4)
  let n := bits a 31 24 + bits b 31 24
  let sat := bit a 23 || bit b 23 || decide (255 ≤ n)
  bytesLE 4 (min 255 n * 2 ^ 24 + b2n sat * 2 ^ 23 + b2n (bit b 22) * 2 ^ 22 + bits b 11 0) ++ (new.drop 4).take 4 ++
    (old.drop 8).take 4 ++ (new.drop 12).take 4

/-- The enabled event task of a source. -/
def taskOfSource (c : Chip) (s : Nat) : Option (Fin 256) :=
  (List.finRange 256).find? fun v => taskEn c (.event v) && bits (taskCfg c (.event v)) 11 0 = s

/-- The dispatcher of Vat v takes the head record of its copy of Q32513 (R225); nothing where the instance's descriptor fails its
check (R166; log entry 84). -/
def dispatcherRecord (c : Chip) (v : Vat) : Chip :=
  let p := plane c v
  match (if wheyRuns p && (descOf p 32513).ok then visible p 32513 else []) with
  | [] => c
  | e :: _ =>
    let x := queueOf p 32513
    let c := setPlane c v (setQueue p 32513 ((x.takeHead (descOf p 32513).depth).giveBack 1))
    let count := decide (v = shownVat c)
    match taskOfSource c (bits (word (leAt e.bytes 0 4)) 11 0) with
    | none => if count then bump c Reg.evcNotask.addr 31 0 else c
    | some k =>
      let l := mapGet [] (plane c v).pending k.val
      let put (c : Chip) (l : List (List Byte)) : Chip := onPlane c v fun p => { p with pending := mapPut [] p.pending k.val l }
      if l.length < pDepth c then put c (l ++ [padTo 16 e.bytes])
      else
        let c := put c (l.dropLast ++ [mergeRec (l.getLast?.getD []) (padTo 16 e.bytes)])
        if count then bump c Reg.evcMerge.addr 31 0 else c

/-- The event curd instant of a record (R227): not before the tick from which the task forms curds (R67, R263). -/
def eventInstant (c : Chip) (t : TaskId) (r : List Byte) : Nat :=
  max (max (extendTick c (leAt r 4 4) + 2) ((taskSt c t).lastCommit + 1)) (taskSt c t).start

/-- The SERVING Vats whose head record has its event curd instant at the present tick, with the record. -/
def eventDue (c : Chip) (v : Fin 256) : List (Vat × List Byte) :=
  (servingVats c).filterMap fun u =>
    match mapGet [] (plane c u).pending v.val with
    | r :: _ => if eventInstant c (.event v) r = c.core.tick then some (u, r) else none
    | [] => none

/-- The head record removed from the lists of the Vats that take part. -/
def takeHeads (c : Chip) (v : Fin 256) (vs : List (Vat × List Byte)) : Chip :=
  vs.foldl (fun c x => onPlane c x.1 fun p => { p with pending := mapPut [] p.pending v.val ((mapGet [] p.pending v.val).drop 1) }) c

/-- EVENT_CURD_INSTANT (R227): the SERVING Vats whose head record has its instant now take part; a standby keeps its
record until END removes it (R258). A Vat that starts alone is one Vat's fault (R128, R137; log entry 88): its record is gone, it has
no set but its own, and the other Vats go on. -/
def eventCurdInstant (c : Chip) (v : Fin 256) : Chip :=
  let t := TaskId.event v
  let vs := eventDue c v
  if curdsRun c && taskEn c t && !(taskSt c t).active then
    let c' := if c.sys.mode = .standby then c else takeHeads c v vs
    match vs with
    | [] => c
    | [x] =>
      match (servingVats c).length with
      | 3 => todoSour c' x.1 3 7 (some t) 0
      | 2 => todoHold c' 7 3 (some t)
      | _ => beginCycle c' t (taskDl c v) vs
    | _ => beginCycle c' t (taskDl c v) vs
  else c

/-! ### The exchange (R124, R125) -/

/-- A set posted by Vat `src` has crossed whole to Vat `dst`; `ok` is its header check. -/
def setArrival (c : Chip) (src dst : Vat) (t : TaskId) (ok : Bool) : Chip :=
  let st := taskSt c t
  let a := actOf (plane c src) t
  if src = dst ∨ !serving c src ∨ !serving c dst ∨ !st.active ∨ st.formed ∨ a.posted ∨ !ok then c
  else match a.own with
    | some s =>
      if s.tick = st.curdTick then onPlane c dst fun p => let b := actOf p t; setAct p t { b with sets := b.sets.set src (some s) } else c
    | none => c

/-- POST_DEADLINE (R125): posting that has not finished by 2.0 µs stops, and the partial set is discarded. -/
def postDeadline (c : Chip) (v : Vat) (t : TaskId) : Chip :=
  let st := taskSt c t
  let crossed := allVats.any fun u => u ≠ v && ((actOf (plane c u) t).sets.get v).isSome
  if st.active ∧ !st.formed ∧ st.curdTick + 2 ≤ c.core.tick ∧ !crossed then
    onPlane c v fun p => setAct p t { actOf p t with posted := true }
  else c

/-! ### Agreement by data kind (R128) -/

/-- An agreed point: its value, whether a bit differed between the sets, how many curds in a row one has under the two-set
rule, and frames given VALID 0. -/
structure Agreed where
  val : PointVal
  differed : Bool
  run : Nat
  bad : Nat
  deriving DecidableEq, Repr

/-- A status word with PAIR. -/
def withPair (w : Word) (b : Bool) : Word := setBits w 30 30 (b2n b)

/-- A status word with VALID. -/
def withValid (w : Word) (b : Bool) : Word := setBits w 31 31 (b2n b)

/-- Byte strings combined byte by byte. -/
def zip3 (f : Byte → Byte → Byte → Byte) (a b d : List Byte) : List Byte :=
  List.zipWith (fun x (y : Byte × Byte) => f x y.1 y.2) a (List.zip b d)

/-- The two-set rule of one bit string: bits that differ take the previous value. -/
def twoBits {n : Nat} (a b prev : BitVec n) : BitVec n := let m := a ^^^ b; (a &&& ~~~m) ||| (prev &&& m)

/-- Bit points. -/
def agreeBits (prev : PointVal) (run : Nat) (ss : List Sample) : Agreed :=
  match ss with
  | [a, b, d] =>
    ⟨⟨withPair (maj3 a.status b.status d.status) false, zip3 maj3 a.bytes b.bytes d.bytes⟩,
      decide (a.bytes ≠ b.bytes ∨ a.bytes ≠ d.bytes), 0, 0⟩
  | [a, b] =>
    let diff := decide (a.bytes ≠ b.bytes)
    let run := if diff then run + 1 else 0
    let st := twoBits a.status b.status prev.status
    ⟨⟨withPair (withValid st (bit st 31 && run < 4)) true, zip3 twoBits a.bytes b.bytes (padTo a.bytes.length prev.bytes)⟩, diff, run, 0⟩
  | _ => ⟨prev, false, 0, 0⟩

/-- Little-endian signed values of the widths given. -/
def valuesOf : List Nat → List Byte → List Int
  | [], _ => []
  | w :: ws, bs => signed (8 * w) (leAt bs 0 w) :: valuesOf ws (bs.drop w)

/-- Values back to bytes. -/
def valueBytes : List Nat → List Int → List Byte
  | w :: ws, x :: xs => bytesLE w (unsigned (8 * w) x) ++ valueBytes ws xs
  | _, _ => []

/-- The status that the value rules give, from the first value of each set. -/
def valueStatus (ss : List (Int × Word)) : Word :=
  match ss with
  | [a, b, d] =>
    let m := median3 a.1 b.1 d.1
    withPair (if a.1 = m then a.2 else if b.1 = m then b.2 else d.2) false
  | [a, b] => withPair (a.2 ||| b.2) true
  | _ => 0

/-- The values that the rules give. -/
def agreeInts (vs : List (List Int)) : List Int :=
  match vs with
  | [a, b, d] => List.zipWith (fun x (y : Int × Int) => median3 x y.1 y.2) a (List.zip b d)
  | [a, b] => List.zipWith (fun x y => (x + y) / 2) a b
  | _ => []

/-- Value points. -/
def agreeValues (ws : List Nat) (ss : List Sample) : Agreed :=
  let vs := ss.map fun s => valuesOf ws s.bytes
  let st := valueStatus (ss.map fun s => ((valuesOf ws s.bytes).getD 0 0, s.status))
  let n := match ss with | s :: _ => s.bytes.length | [] => 0
  ⟨⟨st, padTo n (valueBytes ws (agreeInts vs))⟩, false, 0, 0⟩

/-- A word of the copies held: the majority, or none where there is none. -/
def majWord (ws : List (List Byte)) : Option (List Byte) :=
  match ws with
  | [a, b, d] => if a = b ∨ a = d then some a else if b = d then some b else none
  | [a, b] => if a = b then some a else none
  | _ => none

/-- The content of copies of a frame, word by word; the Boolean says that every word has a majority. A word without one is
open. -/
def majContent (open_ : Nat → Byte) (n : Nat) (cs : List (List Byte)) : List Byte × Bool :=
  let ws := (List.range ((n + 3) / 4)).map fun j => majWord (cs.map fun c => (c.drop (4 * j)).take 4)
  ((ws.zipIdx.map fun x => match x.1 with
    | some w => w
    | none => (List.range (min 4 (n - 4 * x.2))).map fun i => open_ (4 * x.2 + i)).flatten, ws.all (·.isSome))

/-- A frame as each set holds it, with its receive timestamp: the copies that agree on one, at least two of them, or with
two sets both and identical. -/
def frameCopies (total : Nat) (fs : List (Option (Nat × List Byte))) : Option (List (List Byte)) :=
  let held := fs.filterMap id
  let same (s : Nat) : List (List Byte) := (held.filter fun f => f.1 = s).map (·.2)
  match held.find? fun f => 2 ≤ (same f.1).length with
  | none => none
  | some f => let cs := same f.1; if total = 2 ∧ (majWord cs).isNone then none else some cs

/-- Frame points. -/
def agreeFrame (open_ : Nat → Byte) (ss : List Sample) : Agreed :=
  let pair := decide (ss.length = 2)
  let n := match ss with | s :: _ => s.bytes.length | [] => 0
  let st := match ss with | s :: _ => s.status | [] => 0
  match frameCopies ss.length (ss.map fun s => s.stamp.map fun t => (t, s.bytes)) with
  | none =>
    let bs := if ss.any (fun s => s.stamp.isSome) then (List.range n).map open_ else List.replicate n 0
    ⟨⟨withPair (withValid st false) pair, bs⟩, false, 0, 1⟩
  | some cs =>
    let (bs, ok) := majContent open_ n cs
    let st := match ss.find? fun s => s.stamp.isSome && cs.contains s.bytes with | some s => s.status | none => st
    ⟨⟨withPair (withValid st (bit st 31 && ok)) pair, bs⟩, false, 0, b2n (!ok)⟩

/-- Stream points (R360): word 0 as a value, each slot as a frame stamped by its first 8 bytes. -/
def agreeStream (open_ : Nat → Byte) (size : Nat) (ss : List Sample) : Agreed :=
  let head := agreeValues [4, 4] (ss.map fun s => { s with bytes := s.bytes.take 8 })
  let n := leAt head.val.bytes 0 4 % 256
  let len := match ss with | s :: _ => s.bytes.length | [] => 0
  let slots := (List.range n).map fun i =>
    let cut (s : Sample) : Option (Nat × List Byte) :=
      if i < leAt s.bytes 0 4 % 256 then let b := (s.bytes.drop (8 + size * i)).take size; some (leAt b 0 8, b) else none
    match frameCopies ss.length (ss.map cut) with
    | none => ((List.range size).map fun j => open_ (8 + size * i + j), false)
    | some cs => majContent (fun j => open_ (8 + size * i + j)) size cs
  let bad := (slots.filter fun s => !s.2).length
  let st := head.val.status
  ⟨⟨withValid st (bit st 31 && bad = 0), padTo len (bytesLE 4 n ++ bytesLE 4 0 ++ (slots.map (·.1)).flatten)⟩, false, 0, bad⟩

/-- A point agreed from the samples of two or three sets. -/
def agreePoint (open_ : Nat → Byte) (prev : PointVal) (run : Nat) (ss : List Sample) : Agreed :=
  match ss with
  | [] => ⟨prev, false, 0, 0⟩
  | s :: _ => match s.kind with
    | .bits => agreeBits prev run ss
    | .values ws => agreeValues ws ss
    | .frame => agreeFrame open_ ss
    | .stream size => agreeStream open_ size ss

/-- The time value of the curd instant. -/
def agreeTime (ts : List Nat) : Nat :=
  match ts with
  | [a, b, d] => (median3 a b d).toNat
  | [a, b] => min a b
  | a :: _ => a
  | [] => 0

/-- An event record agreed: held by at least two sets, its fields by majority and its arrival counter the median; with two
sets identical fields and the lower counter. A word held with three different values has no majority, and the spec names no value
for it: DESIGN CHOICE, that of the lowest-lettered copy (log entry 89). -/
def agreeRecord (total : Nat) (rs : List (List Byte)) : Option (List Byte) :=
  let held := rs.filter fun r => !r.isEmpty
  let cnt := held.map fun r => (leAt r 3 1 : Int)
  let count := match cnt with | [a, b, d] => median3 a b d | [a, b] => min a b | _ => 0
  let field (r : List Byte) (j : Nat) : List Byte := if j = 0 then r.take 3 else (r.drop (4 * j)).take 4
  let ws := (List.range 4).map fun j => majWord (held.map fun r => field r j)
  match held with
  | [] => none
  | [_] => none
  | r :: _ =>
    if total = 2 ∧ ws.any (·.isNone) then none
    else
      let w (j : Nat) : List Byte := ((ws.getD j none)).getD (field r j)
      some (w 0 ++ bytesLE 1 count.toNat ++ w 1 ++ w 2 ++ w 3)

/-! ### Curd close (R125 to R129) and the dispatch (R45, R57) -/

/-- The sets that Vat v holds for the present cycle, with their Vats. -/
def heldSets (c : Chip) (v : Vat) (t : TaskId) : List (Vat × SampleSet) :=
  let a := actOf (plane c v) t
  let tick := (taskSt c t).curdTick
  allVats.filterMap fun u =>
    if !serving c u then none
    else match (if u = v then a.own else a.sets.get u) with
      | some s => if s.tick = tick then some (u, s) else none
      | none => none

/-- The point as a set holds it. -/
def sampleIn (c : Chip) (s : SampleSet) (pt : Nat) : Sample :=
  (mapGet none s.points pt).getD ⟨.bits, 0, List.replicate (ptSize c pt) 0, none⟩

/-- The agreed points of a task from the sets held. -/
def agreeAll (c : Chip) (stamp : Nat) (a : Act) (t : TaskId) (ss : List SampleSet) : List (Nat × Agreed) :=
  (taskPoints c false t).map fun pt =>
    let prev := (mapGet none a.curd pt).getD ⟨0, List.replicate (ptSize c pt) 0⟩
    (pt, agreePoint (fun i => Config.openByte stamp (pt * 65536 + i)) prev (mapGet 0 a.differ pt) (ss.map fun s => sampleIn c s pt))

/-- The chains of a task. -/
def chainsOf (c : Chip) (t : TaskId) : List Chain := c.culture.chains.filter fun k => k.task = t.code

/-- PRES (R127). -/
def presOf (us : List (Vat × SampleSet)) : Nat := (us.map fun u => 2 ^ u.1.num).sum

/-- Vat v forms its curd from the sets it holds. -/
def formCurd (c : Chip) (stamp : Nat) (t : TaskId) (compute : Bool) (v : Vat) : Chip :=
  let us := heldSets c v t
  let ss := us.map (·.2)
  let a := actOf (plane c v) t
  let ag := agreeAll c stamp a t ss
  let st := taskSt c t
  let time := agreeTime (ss.map (·.time))
  let commit := time + (st.commitTick - st.curdTick) * 1000
  let run := if compute then (chainsOf c t).map (·.engine) else []
  onPlane c v fun p =>
    setAct p t
      { a with
        curd := ag.foldl (fun m x => mapPut none m x.1 (some x.2.val)) []
        differ := ag.foldl (fun m x => mapPut 0 m x.1 x.2.run) []
        record := (agreeRecord ss.length (ss.map (·.record))).getD []
        curdTime := time
        commitTime := commit
        pressTime := commit - st.guard * 1000
        tick := st.curdTick
        hget := a.hgetNext
        running := run
        computing := !run.isEmpty
        image := { Image.empty with pres := presOf us } }

/-- What VAT_XDIS counts of a curd (R129), as the lowest-lettered Vat that forms it sees it. -/
def countDiffers (c : Chip) (stamp : Nat) (t : TaskId) (v : Vat) : Chip :=
  let ag := agreeAll c stamp (actOf (plane c v) t) t ((heldSets c v t).map (·.2))
  let c := if ag.any fun x => x.2.differed then bump c Reg.vatXdis.addr 31 16 else c
  bumpBy c Reg.vatXdis.addr 15 0 ((ag.map fun x => x.2.bad).sum)

/-- The chains of a task dispatched in a Vat (R45); what is undefined in the scratch of each is drawn under one stamp for all Vats
(R75). -/
def dispatchTask (c : Chip) (stamp : Nat) (t : TaskId) (v : Vat) : Chip :=
  (chainsOf c t).foldl (fun c k =>
    dispatchChain c v k.engine ⟨t, false, taskPrio c t, k.calls, (taskSt c t).tflag, 64 * stamp + k.engine⟩) c

/-- Vats declared sour at curd close: one whose set is absent in both other SERVING Vats, or that cannot form a curd while
the others do; with two Vats SERVING an absent set is cause PAIRMISS (R137, R149). -/
def judgeSets (c : Chip) (t : TaskId) (forming : List Vat) : Chip :=
  let vs := servingVats c
  let absent (v : Vat) : Bool := (vs.filter (· ≠ v)).all fun u => !((heldSets c u t).map (·.1)).contains v
  if vs.length = 3 then
    vs.foldl (fun c v => if absent v || !forming.contains v then todoSour c v 3 7 (some t) 0 else c) c
  else if vs.length = 2 ∧ forming.length < 2 then todoHold c 7 3 (some t)
  else c

/-- Another task whose curd instant fell on the same tick, whose curd is not closed yet, and whose chains come first (R45): the
more urgent one, and at equal priority the lower task code. -/
def closesFirst (c : Chip) (t : TaskId) : Bool :=
  c.tasks.any fun e =>
    let u := TaskId.ofCode e.1
    e.2.active && !e.2.formed && e.2.curdTick = (taskSt c t).curdTick && e.1 ≠ t.code &&
      (taskPrio c u < taskPrio c t || (taskPrio c u = taskPrio c t && e.1 < t.code))

/-- CURD_CLOSE: 3 µs after the curd instant each SERVING Vat forms the curd; in a module that computes the chains are
dispatched, of tasks with one curd instant in the order of R45; a standby keeps the curd for the two-set rule, and its cycle lasts
to its commit instant without computing (R260). -/
def curdClose (c : Chip) (t : TaskId) : Chip :=
  let st := taskSt c t
  if !st.active ∨ st.formed ∨ c.core.tick < st.curdTick + 3 ∨ closesFirst c t then c
  else
    let (stamp, c) := drawStamp c
    let c := if t.ev then abandonFinal c else c
    let forming := (servingVats c).filter fun v => 2 ≤ (heldSets c v t).length
    let compute := c.sys.mode ≠ .standby
    let c := judgeSets c t forming
    let c := if compute then c else countTest c ((servingVats c).all fun u => (heldSets c u t).length = (servingVats c).length)
    match forming with
    | [] => setTask c t { st with active := false }
    | v0 :: _ =>
      let c := countDiffers c stamp t v0
      let c := forming.foldl (fun c v => formCurd c stamp t compute v) c
      let agreed := !t.ev || !(actOf (plane c v0) t).record.isEmpty
      if !compute ∨ !agreed then
        let c := forming.foldl (fun c v => onPlane c v fun p => let a := actOf p t; setAct p t { a with running := [], computing := false }) c
        setTask c t { st with active := agreed, formed := agreed }
      else
        let c := setTask c t { st with formed := true, closeAt := now c, press := { st.press with images := Tri.all none
                                                                                                  result := none
                                                                                                  closed := false } }
        let (scratch, c) := drawStamp c
        let c := forming.foldl (fun c v => dispatchTask c scratch t v) c
        setTask c t { taskSt c t with tflag := false }

end Sys2Proof.Machine
end

