-- ==== Sys2Proof/Machine/TimeStep.lean ====
section
/-! DEFINITION. A step of the time counter (R313, R314): the three copies, the timestamps and capture times that move with them,
and the record of it. -/

namespace Sys2Proof.Machine

/-- An entry whose first 8 bytes are a receive timestamp, with the step added to it. -/
def stepEntry (s : Int) (bs : List Byte) : List Byte := bytesLE 8 (stepTime s (leAt bs 0 8)) ++ bs.drop 8

/-- Whether the entries of an inbound queue begin with a receive timestamp (R164): those of ETH, MVB, CAN and BRG; and of an inbox
queue, the first entry of each request (R299). -/
def stampedQueue (d : Desc) : Bool :=
  d.inbound && ((endType d.pend = 2 && [0x07, 0x09, 0x0A, 0x0B].contains (bits (word d.pend) 17 10)) ||
    (3 * 2 ^ 18 + 16 ≤ d.pend && d.pend ≤ 3 * 2 ^ 18 + 31))

/-- Whether an entry of a stamped queue begins with a timestamp. -/
def stampedEntry (d : Desc) (e : Entry) : Bool := endType d.pend = 2 || e.part = 0

/-- A queue with a step added to its timestamps. -/
def stepQueue (s : Int) (d : Desc) (x : Queue) : Queue :=
  let f (e : Entry) : Entry := if stampedEntry d e then { e with bytes := stepEntry s e.bytes } else e
  { x with entries := x.entries.map f, transit := x.transit.map f }

/-- The inbound queues of a Vat with a step added to their timestamps, in the queue and in its storage. -/
def stepPlaneQueues (s : Int) (p : VatPlane) : VatPlane :=
  (p.queues.map (·.1)).foldl (fun p q =>
    let d := descOf p q
    if !stampedQueue d then p
    else
      let x := stepQueue s d (queueOf p q)
      let p := setQueue p q x
      (x.entries.zipIdx).foldl (fun p e =>
        let a := entryAddr d (x.head + e.2)
        touch { p with mem := memWrite p.mem a (e.1.bytes.take 8) } (pagesOf a 8)) p) p

/-- What the curd latch and the capture units hold, with a step added. -/
def stepHeld (s : Int) (c : Chip) : Chip :=
  let one (o : Option (List Byte)) : Option (List Byte) := o.map (stepEntry s)
  { c with
    eth := { c.eth with
      held := c.eth.held.map fun m => m.map fun e => (e.1, e.2.map fun h => { h with stamp := stepTime s h.stamp })
      metas := c.eth.metas.map fun m => { m with stamp := stepTime s m.stamp }
      topoAt := stepTime s c.eth.topoAt }
    mvb := { c.mvb with
      held := c.mvb.held.map fun m => m.map fun e => (e.1, one e.2)
      lastJoin := c.mvb.lastJoin.map fun j => (j.1, stepTime s j.2) }
    brg := { c.brg with held := c.brg.held.map fun m => m.map fun e => (e.1, one e.2) }
    ptp := { c.ptp with caps := c.ptp.caps.map fun m => m.map fun e => (e.1, { e.2 with time := stepTime s e.2.time }) } }

/-- A signed number held to 62 bits. -/
def sat62 (s : Int) : Int := max (-(2 ^ 61 - 1)) (min (2 ^ 61 - 1) s)

/-- The counter stepped by `s`: all three copies at once, the timestamps with them, the record, the count, source 1026 and
PTP_LSTEP. HXK_TICK does not change. -/
def applyStep (c : Chip) (s : Int) : Chip :=
  let old := now c
  let r := unsigned 62 (sat62 s)
  let c := deviceRecord c 0x08 1 (r % 2 ^ 32) (r / 2 ^ 32 + c.ptp.src % 4 * 2 ^ 30) (old % 2 ^ 32) (old / 2 ^ 32)
  let c := { c with vats := c.vats.map fun p => stepPlaneQueues s (setClock p (clockOf p + s * 2 ^ 32)) }
  let c := stepHeld s c
  let dom (d : Dom) : Dom := { d with cur := d.cur + s }
  let c := onPtp c fun p => { p with step := none, lastStep := s, stepped := true, from_ := stepTime s p.from_, d0 := dom p.d0, d1 := dom p.d1 }
  raise (bump c Reg.ptpCnt.addr 31 20) 1026 (unsigned 32 (sat31 (s.tdiv 1000)))

/-- A step that waits is applied. -/
def stepNow (c : Chip) : Chip :=
  match c.ptp.step with
  | some s => applyStep c s
  | none => c

/-- At a fast-plane tick a step that waits is applied where no quiet point is needed (R314): outside SERVICE and STANDBY. -/
def stepAtTick (c : Chip) : Chip :=
  if c.sys.mode = .service ∨ c.sys.mode = .standby then c else stepNow c

end Sys2Proof.Machine
end

