-- ==== Sys2Proof/Machine/Quiet.lean ====
section
/-! DEFINITION. Quiet windows (R59, R61), the quiet point (R143, R262) and everything that waits for one: descriptor changes
(R169), the point table (R66), PDEPTH (R232), the final copy of a re-curdling, a step of the time counter (R314), the end of a
full copy (R259). -/

namespace Sys2Proof.Machine

/-! ### Windows -/

/-- Some task is in its compute phase in some SERVING Vat. -/
def anyComputing (c : Chip) : Bool :=
  (servingVats c).any fun v =>
    let p := plane c v
    p.acts.any (fun e => e.2.computing) || p.oldActs.any fun e => e.2.computing

/-- The windows are measured while tasks run: in SERVICE and under TST_CTL.CRUN. -/
def quietMeasured (c : Chip) : Bool := curdsRun c && c.sys.mode ≠ .standby

/-- The beginnings and ends of quiet windows, with GAPMAX (HXK_QSTAT). The measurement begins with the tasks. -/
def quietCheck (c : Chip) : Chip :=
  let k := c.core
  if !quietMeasured c then
    { c with core := { k with quietSince := none, quietEnd := 0, missFrom := k.tick } }
  else match k.quietSince, anyComputing c with
    | none, false => { c with core := { k with quietSince := some k.tick } }
    | some s, true =>
      let c := { c with core := { k with quietSince := none } }
      if k.tick < s + 20 then c
      else
        let c := if k.quietEnd = 0 then c else raiseMax c Reg.hxkQstat.addr 23 0 (k.tick - k.quietEnd)
        { c with core := { c.core with quietEnd := k.tick, missFrom := k.tick } }
    | _, _ => c

/-- QUIET_MISS (R61): 10 ms have passed since the end of the last quiet window of at least 20 µs, and no such window is in
progress. -/
def quietMiss (c : Chip) : Chip :=
  let k := c.core
  let inWindow := match k.quietSince with | some s => decide (s + 20 ≤ k.tick) | none => false
  if quietMeasured c ∧ k.missFrom + 10000 ≤ k.tick ∧ !inWindow then
    bump { c with core := { k with missFrom := k.missFrom + 10000 } } Reg.hxkQmiss.addr 31 0
  else c

/-! ### The quiet point -/

/-- A curd close of periodic task n falls within the next 20 µs. -/
def closeSoon (c : Chip) (n : Fin 64) : Bool :=
  let st := taskSt c (.periodic n)
  let t := c.core.tick
  (st.active && !st.formed) ||
    (taskEn c (.periodic n) && (List.range 18).any (fun i =>
      aligned c n (t + i) && decide (st.start ≤ t + i) && (!st.active || decide (st.commitTick ≤ t + i))))

/-- In STANDBY: the press close of a cycle or activation in progress, at which its END is sent, falls within the next 20 µs
(R253, R262). -/
def endSoon (c : Chip) (t : TaskId) : Bool :=
  let st := taskSt c t
  st.active && decide (c.core.tick + st.guard ≤ st.commitTick ∧ st.commitTick ≤ c.core.tick + 20 + st.guard)

/-- The present tick is a quiet point: no task computes, and no periodic curd close falls within the next 20 µs. Where no
task forms curds every tick is one (R143). -/
def isQuiet (c : Chip) : Bool := !curdsRun c || (!anyComputing c && (List.finRange 64).all fun n => !closeSoon c n)

/-- The quiet point of a re-curdling: in STANDBY an instant at which no END is due within the next 20 µs (R262); an application of
R254 is one command. -/
def recurdleQuiet (c : Chip) : Bool :=
  if c.sys.mode = .standby then (enabledTasks c).all fun t => !endSoon c t else isQuiet c

/-- Entries that queue q holds: in the Vat shown, or in its one copy, with those in transit and those that the press holds. The
spec does not say how the three copies of a queue count when a change of descriptor discards them: one copy, that of the Vat
shown, counts (DESIGN CHOICE, log entry 95). -/
def heldEntries (c : Chip) (q : Nat) : Nat :=
  let n (x : Queue) : Nat := x.entries.length + x.transit.length + x.held.length
  n (queueOf (plane c (shownVat c)) q) + n (devQueue c q)

/-- Committed descriptors become live (R166, R169): the port writes each with its CHK into the three instances, and a queue
that changed starts from empty, what it held counted in ARB_WDROP. -/
def applyWhy (c : Chip) : Chip :=
  let lo := Reg.whyCtl.base
  let sel (a : Nat) : Bool := lo ≤ a && a < lo + 4 * 32512
  let qs := ((c.sys.pend.filter fun e => sel e.1).map fun e => (e.1 - lo) / 4).eraseDups
  let before := qs.map fun q => (q, liveDesc c q)
  let c := applyPend c sel
  before.foldl (fun c x =>
    let (q, old) := x
    let d := liveDesc c q
    if d = old then c
    else
      let c := bumpBy c Reg.arbWdrop.addr 31 0 (heldEntries c q)
      let renew (p : VatPlane) : VatPlane :=
        if wheyRuns p then setQueue { p with descs := mapPut Desc.zero p.descs q d } q Queue.empty else p
      setDevQueue { c with vats := c.vats.map renew } q Queue.empty) c

/-- Whether an address is a word of the point table. -/
def isPt (a : Nat) : Bool := Reg.hxkPt.base ≤ a && a < Reg.hxkPt.base + 65536

/-- The point table becomes live, all points together (R66). -/
def applyPoints (c : Chip) : Chip := applyPend c isPt

/-- A change of PDEPTH becomes live, with the pending lists emptied (R232). -/
def applyPdepth (c : Chip) : Chip :=
  if (mapGet none c.sys.pend Reg.evcXctl.addr).isNone then c
  else
    let was := pDepth c
    let c := applyPend c fun a => a = Reg.evcXctl.addr
    if pDepth c = was then c else { c with vats := c.vats.map fun p => { p with pending := [] } }

/-- HANDOVER_TICK (R265). -/
def handoverTick (c : Chip) (next : Nat) : Chip := handoverAt c next (isQuiet c)

/-- The time unit goes past the step of the present tick: the copies are compared and trimmed, once a tick, before any compare
unit is evaluated or PPS edge made (R322). -/
def unitTick (c : Chip) : Chip :=
  if c.ptp.acted = c.core.tick + 1 then c
  else compareTimes (onPtp c fun p => { p with acted := c.core.tick + 1 }) c.ptp.adv

/-- A step that waits is applied, while nothing later of the tick's order has been done (R314, R322). -/
def stepInTick (c : Chip) : Chip := if c.ptp.acted = c.core.tick + 1 then c else stepNow c

/-- TIME_STEP_APPLY: outside SERVICE and STANDBY no quiet point is needed. -/
def timeStepApply (c : Chip) : Chip := if c.sys.mode = .service ∨ c.sys.mode = .standby then c else stepInTick c

/-- QUIET_POINT (R143, R262). -/
def quietPoint (c : Chip) : Chip :=
  let quiet := isQuiet c
  let c := if quiet then applyPdepth (applyPoints (applyWhy c)) else c
  let c := if recurdleQuiet c then stepInTick (startFinal c) else c
  if quiet then finishFull c else c

end Sys2Proof.Machine
end

