-- ==== Sys2Proof/Machine/View.lean ====
section
/-! DEFINITION. What a read of a register of the configuration space shows (R6, R11, R209): the stored live word, or what
other state gives. A read has its effects in `Machine/Regs.lean`. -/

namespace Sys2Proof.Machine

/-! ### SYS (R209) and HXK (R62) -/

/-- PEND (R206): a word of an OK COMMIT, or a slot table, is not live yet. -/
def commitPending (c : Chip) : Bool := !c.sys.pend.isEmpty || c.arbs.any fun e => e.2.staged.isSome

/-- SYS_IDENT (R2). -/
def sysIdentWord : Word := word (0x0C78 * 2 ^ 16 + Config.hwRev.toNat * 256 + b2n Config.variantE)

/-- SYS_MODE. -/
def sysModeWord (c : Chip) : Word :=
  word (b2n c.sys.rngReady * 2 ^ 31 + c.sys.prev.code * 2 ^ 24 + c.sys.cause * 2 ^ 16 + c.sys.mode.code)

/-- SYS_CMTST. -/
def sysCmtst (c : Chip) : Word :=
  let (o, n) : Nat × Nat := match c.sys.owner with
    | .none => (0, 0)
    | .culture => (1, 0)
    | .session n => (2, n.val)
  word (b2n (commitPending c) * 2 ^ 31 + o * 2 ^ 29 + n * 2 ^ 24 + c.sys.commits % 65536)

/-- SYS_BLKIDn (R27). -/
def sysBlkid (c : Chip) (n : Nat) : Word :=
  if n = 3 ∨ (17 ≤ n ∧ n < 24) then 0
  else word (n * 2 ^ 24 + (Config.blkMajor n).toNat * 2 ^ 16 + (Config.blkMinor n).toNat * 256 + b2n (expertLive c n))

/-- A register that a read of another latches: what was latched, 0 before (R62, R178, R301, R323, R468, R489, R528). -/
def latched (c : Chip) (a : Nat) : Word := mapGet 0 c.sys.latches a

/-- SYS registers that are not stored words. -/
def sysView (c : Chip) (a : Nat) : Option Word :=
  if a = Reg.sysIdent.addr then some sysIdentWord
  else if a = Reg.sysMode.addr then some (sysModeWord c)
  else if a = Reg.sysCmtst.addr then some (sysCmtst c)
  else if Reg.sysBlkid.covers a then some (sysBlkid c (a - Reg.sysBlkid.base))
  else none

/-- HXK_TSTATn and HXK_VSTATv. -/
def taskStat (c : Chip) (t : TaskId) : Word :=
  let x := taskSt c t
  let run := 2 ≤ ((servingVats c).filter fun v => (actOf (plane c v) t).computing).length
  word (b2n run * 2 ^ 31 + b2n x.ovrLast * 2 ^ 30 + min 255 x.ovrSeq * 2 ^ 16 + x.cycles % 65536)

/-- The displacement of the tick against the time value (R38). -/
def tickOfs (c : Chip) : Word := BitVec.ofInt 32 ((now c : Int) - 1000 * c.core.tick)

/-- HXK registers that are not stored words. -/
def hxkView (c : Chip) (a : Nat) : Option Word :=
  let o := a - 0x020000
  if o = 0 then some (word c.core.tick)
  else if o = 1 || o = 2 then some (latched c a)
  else if o = 0x10 then some (setBits (rawReg c a) 31 31 (b2n c.core.quietSince.isSome))
  else if 0x1000 ≤ o && o < 0x1200 && o % 8 = 2 then some (taskStat c (TaskId.ofCode ((o - 0x1000) / 8)))
  else if 0x2000 ≤ o && o < 0x2400 && o % 4 = 2 then some (taskStat c (TaskId.ofCode (256 + (o - 0x2000) / 4)))
  else none

/-! ### WHY and ARB (R167, R178, R186) -/

/-- WHY_CHKq. -/
def whyView (c : Chip) (a : Nat) : Option Word :=
  let o := a - 0x100000
  if o % 4 = 3 then some (liveDesc c (o / 4)).chk else none

/-- The queue that ARB_WQSEL selects, as its registers show it: of one copy, or of the Vat shown (R178). -/
def shownQueue (c : Chip) : Desc × Queue :=
  let q := fieldOf c Reg.arbWqsel.addr 14 0
  let d := liveDesc c q
  (d, if endType d.cend = 1 || endType d.cend = 0 then queueOf (plane c (shownVat c)) q else devQueue c q)

/-- ARB_WQST0 to ARB_WQST2. -/
def wqst (c : Chip) (k : Nat) : Word :=
  let (d, x) := shownQueue c
  match k with
  | 0 => word (x.entries.length * 2 ^ 19 + (if d.en then d.depth - x.spent else 0) * 2 ^ 6)
  | 1 => word (x.deferred * 2 ^ 19 + x.head * 2 ^ 7 +
      b2n (x.waitP || !x.held.isEmpty || mdWaits c (fieldOf c Reg.arbWqsel.addr 14 0)) * 2 ^ 6 + b2n x.waitC * 2 ^ 5)
  | _ => word x.drop

/-- ARB registers that are not stored words. -/
def arbView (c : Chip) (a : Nat) : Option Word :=
  let o := a - 0x040000
  if o < 36 * 256 then
    (if o % 256 = 1 then some (arbStat c (o / 256))
     else if o % 256 = 2 then some (arbWmax c (o / 256))
     else if 8 ≤ o % 256 && o % 256 < 16 then some (rankWord c a)
     else none)
  else if o = 0x3001 then some (wqst c 0)
  else if o = 0x3002 then some (latched c a)
  else if o = 0x3003 then some (match c.sys.dropLatch with | some l => word l.shown | none => wqst c 2)
  else none

/-! ### EVC, LDL, ETH, CEL and TST -/

/-- LDL registers that are not stored words. -/
def ldlView (c : Chip) (a : Nat) : Option Word :=
  if a = Reg.ldlStat.addr then some (ldlStat c (outEnable c))
  else if a = Reg.ldlVol.addr then some (setBits (rawReg c a) 15 0 (min 65535 (backlog c / 1024)))
  else if Reg.ldlPh.covers a then some (if within c c.ldl.healthAt 2000000 then rawReg c a else 0)
  else none

/-- ETH registers that are not stored words. -/
def ethView (c : Chip) (a : Nat) : Option Word :=
  let o := a - 0x070000
  if o = 0 then some (ethStat c)
  else if 0x14 ≤ o && o < 0x18 then some (ethPortStat c (o - 0x14))
  else if o = 0x21 then some (ethPt c 0)
  else if 0x22 ≤ o && o ≤ 0x24 then some (latched c a)
  else if 0x1000 ≤ o && o < 0x2000 && o % 4 = 1 then some (ethRst c ((o - 0x1000) / 4))
  else if 0x1000 ≤ o && o < 0x2000 && o % 4 = 2 then some (ethRepo c ((o - 0x1000) / 4))
  else none

/-- CEL registers that are not stored words. -/
def celView (c : Chip) (a : Nat) : Option Word :=
  match a - 0x180000 with
  | 0 => some (celStat c)
  | 2 => some (word c.cel.newest)
  | 3 => some (latched c a)
  | 4 => some (latched c a)
  | 5 => some (latched c a)
  | 6 => some (word c.cel.opsec)
  | 7 => some (word c.cel.pwrcyc)
  | _ => none

/-- TST registers that are not stored words. -/
def tstView (c : Chip) (a : Nat) : Option Word :=
  let t := c.tst
  match a - 0x1A0000 with
  | 0 => some (word (t.state * 2 ^ 30 + b2n (testRuns c) * 2 ^ 29 + t.session * 2 ^ 26 + t.testid * 2 ^ 16 + t.result * 256))
  | 4 => some (word t.bits)
  | 5 => some (latched c a)
  | 6 => some (word (min (2 ^ 32 - 1) t.errs))
  | _ => none

/-! ### Every block -/

/-- What a read of an assigned address shows. Words of WO fields read 0 (R6); expert fields of a block without EXPERT read
their derived values (R202). -/
def regView (c : Chip) (a : Nat) : Word :=
  let shown : Option Word := match a / 65536 with
    | 0 => sysView c a
    | 1 => if Reg.vatCtl.addr = a || Reg.vatStat.addr = a then vatView c a else none
    | 2 => hxkView c a
    | 4 => arbView c a
    | 5 => if Reg.evcSrc.covers a then some (srcWord c (a - Reg.evcSrc.base)) else none
    | 6 => ldlView c a
    | 7 => ethView c a
    | 8 => if a = Reg.ptpNowh.addr || a = Reg.ptpLsteph.addr then some (latched c a) else ptpView c a
    | 9 => mvbView c a
    | 10 => canView c a
    | 11 => brgView c a
    | 12 => fioView c a
    | 13 => fioView c a
    | 14 => alpView c a
    | 15 => if 0x0F0022 ≤ a && a ≤ 0x0F0024 then some (latched c a) else rindView c a
    | 24 => celView c a
    | 25 => updView c a
    | 26 => tstView c a
    | 27 => pwrView c a
    | b => if 16 ≤ b && b < 24 then whyView c a else none
  shown.getD (rawReg c a)

end Sys2Proof.Machine
end

