-- ==== Sys2Proof/Machine/Apply.lean ====
section
/-! DEFINITION. How committed words become live (R205 to R207): each block's boundary, and what a change brings about beside
the new value. -/

namespace Sys2Proof.Machine

/-- The block of an address (R22): the point table belongs to HXK, and WHY has eight codes. -/
def blockOf (a : Nat) : Nat := let b := a / 65536; if b = 3 then 2 else if 16 ≤ b ∧ b < 24 then 16 else b

/-- Modes in which every committed word becomes live within 1 ms, at no boundary (R205). -/
def atOnce (c : Chip) : Bool := c.sys.mode ≠ .service && c.sys.mode ≠ .standby

/-! ### What a change brings about -/

/-- LDL_CTL.PAIR: the Ladle is taken into use, or sends only idle blocks (R234, Table: LDL_CTL). -/
def pairChanged (c : Chip) (old : Word) : Chip :=
  if bit old 31 = paired c then c
  else if !paired c then onLdl (linkLost c (2 ≤ c.ldl.sync)) fun l => { l with sync := 0 }
  else if linkUp c then exchangeIdent (onLdl c fun l => { l with sync := 2, seqRx := none })
  else onLdl c fun l => { l with sync := 1 }

/-- ETH_RCFGr.DECL in SERVICE: the role is assumed or released, and an announcement follows (R302). -/
def declChanged (c : Chip) (r : Nat) (old : Word) : Chip :=
  let new := bit (rawReg c (Reg.ethRcfg.addr r)) 31
  if bit old 31 = new then c
  else if !inCharge c then (if new then declareRole c r else c)
  else announce (if new then assumeRole c r else setRole c r { roleOf c r with held := false, known := false })

/-- The consequences of a changed word of any block but SYS, WHY and the point table. -/
def wordHook (c : Chip) (a : Nat) (old : Word) : Chip :=
  let d := old ^^^ rawReg c a
  if Reg.hxkTcfg.covers a then taskApplied c (TaskId.ofCode ((a - Reg.hxkTcfg.base) / 8)) old
  else if Reg.hxkVcfg.covers a then taskApplied c (TaskId.ofCode (256 + (a - Reg.hxkVcfg.base) / 4)) old
  else if Reg.evcSrc.covers a then (if bit d 31 && bit old 31 then dropCounts c (a - Reg.evcSrc.base) else c)
  else if a = Reg.evcXctl.addr then
    (if bits d 6 0 = 0 then c else { c with vats := c.vats.map fun p => { p with pending := [] } })
  else if a = Reg.ldlCtl.addr then pairChanged c old
  else if Reg.ethPcfg.covers a || Reg.ethPcfgCn.covers a then
    (if d &&& 0xF8000000 = 0 || d = 0x80000000 && bit (rawReg c a) 31 then c else linkChange c (Fin.ofNat 4 (a - Reg.ethPcfg.base)) false false)
  else if Reg.ethRcfg.covers a then declChanged c ((a - Reg.ethRcfg.base) / 4) old
  else if a = Reg.ptpDcfg0.addr then (if d = 0 then c else chooseSource (domRestart c 0))
  else if a = Reg.ptpDcfg1.addr then (if d = 0 then c else chooseSource (domRestart c 1))
  else if Reg.mvbPcfg.covers a || Reg.mvbPpnt.covers a then (if d = 0 then c else onMvb c fun m => { m with tableAt := some c.core.tick })
  else if Reg.canCtl.covers a then
    let p := (a - Reg.canCtl.base) / 1024
    let c := onCan c p fun x => { x with term := bit (rawReg c a) 26 }
    let timed := !expertLive c 10 && decide (d &&& 0x003E0000 ≠ 0)
    autoRecover (if d &&& 0xC0000000 = 0 && !timed then c else canApplied c p true false) p
  else if Reg.canArbtim.covers a || Reg.canFdtim.covers a then (if d = 0 || !expertLive c 10 then c else canApplied c ((a - Reg.canCtl.base) / 1024) true false)
  else if Reg.canRefctl.covers a then (if bit d 31 && !bit old 31 then canApplied c ((a - Reg.canCtl.base) / 1024) false true else c)
  else if Reg.spdCfg.covers a then
    (if d &&& 0xF0000000 = 0 then c
     else
       let n := a - Reg.spdCfg.base
       let c := spdApplied (spdApplied c n) (spdBase c n)
       if bit d 29 && n % 2 = 0 then spdApplied c (n + 1) else c)
  else if Reg.dioDicfg.covers a then
    (if bits d 31 16 = 0 then c else onFio c fun x => { x with debAt := mapPut 0 x.debAt (a - Reg.dioDicfg.base) (c.core.tick + 1) })
  else if Reg.alpCfg.covers a then alpApplied c ((a - Reg.alpCfg.base) / 8) old false
  else if a = Reg.alpXctl.addr then
    (if bit d 0 then (List.range 32).foldl (fun c n => alpApplied c n (alpCfg c n) true) c else c)
  else if Reg.rindPgen.addr ≤ a && a ≤ Reg.rindPtime.addr then (if d = 0 then c else proposalChanged c)
  else if a = Reg.updCtl.addr then (if bits d 15 0 = 0 then c else { c with upd := { c.upd with held := 0 } })
  else c

/-! ### SYS_EXPERT (R202) -/

/-- Words whose derived value is computed from other words, and so is not what they hold. -/
def computedExpert : List Nat :=
  [Reg.mvbDctl.addr, Reg.mvbActl.addr] ++ (List.range 4).flatMap fun p => [Reg.canArbtim.addr p, Reg.canFdtim.addr p]

/-- The expert fields of a word at their derived values: those of the Reset column (R158, R185, R231 ...). -/
def derivedWord (a : Nat) (w : Word) : Word :=
  match regDef a with
  | none => w
  | some r => r.fields.foldl (fun w f => if f.expert then setBits w f.msb f.lsb f.reset else w) w

/-- Slot tables return to FREE, with whatever waited for its wrap. -/
def slotsFree (c : Chip) : Chip := { c with arbs := c.arbs.map fun e => (e.1, { e.2 with table := [], staged := none }) }

/-- EXPERT taken back for block b: its expert fields return to their derived values. -/
def expertOff (c : Chip) (b : Nat) : Chip :=
  let as := (c.regs.map (·.1)).filter fun a => blockOf a = b
  let c := as.foldl (fun c a =>
    let old := rawReg c a
    wordHook (setReg c a (derivedWord a old)) a old) c
  if b = 4 then slotsFree c else c

/-- SYS_EXPERT becomes live: a block newly declared starts from the values that its expert fields showed, and a controller whose bit
timing changes with it starts anew (R373). -/
def applyExpert (c : Chip) (new : Word) : Chip :=
  let before := c
  let old := rawReg c Reg.sysExpert.addr
  let shown := (computedExpert.filter fun a => bit new (blockOf a) && !bit old (blockOf a)).map fun a => (a, regView c a)
  let c := setReg c Reg.sysExpert.addr new
  let c := shown.foldl (fun c e => setReg c e.1 e.2) c
  let was := (List.range 4).map fun p => (p, canTiming before p)
  let c := (List.range 28).foldl (fun c b => if bit old b && !bit new b then expertOff c b else c) c
  was.foldl (fun c e => if canTiming c e.1 = e.2 then c else canApplied c e.1 true false) c

/-- SYS words become live at once, SYS_EXPERT only in PROVE and MAINTENANCE (Table: Application of committed words). -/
def applySys (c : Chip) : Chip :=
  let a := Reg.sysExpert.addr
  let c := applyPend c fun x => blockOf x = 0 && x ≠ a
  match mapGet none c.sys.pend a with
  | some w => if c.sys.mode = .prove ∨ c.sys.mode = .maintenance then
      applyExpert { c with sys := { c.sys with pend := mapErase c.sys.pend a } } w else c
  | none => c

/-! ### Slot tables (R183) -/

/-- Committed slot words join the tables that wait for the wrap of their arbiters. -/
def stageSlots (c : Chip) : Chip :=
  let mine := c.sys.pend.filter fun e => Reg.arbSlot.covers e.1
  let as := (mine.map fun e => (e.1 - 0x040000) / 256).eraseDups
  let c := as.foldl (fun c a =>
    let keys := if a < 32 then allVats.map (arbKey a) else [arbKey a .a]
    keys.foldl (fun c k =>
      let x := arbOf c k
      let t := (mine.filter fun e => (e.1 - 0x040000) / 256 = a).foldl
        (fun t e => mapPut 0x80808080 t (e.1 % 256 - 0x40) (e.2.getD 0)) x.table
      setArb c k { x with staged := some t }) c) c
  { c with sys := { c.sys with pend := c.sys.pend.filter fun e => !Reg.arbSlot.covers e.1 } }

/-- Slot tables that wait become live without a wrap. -/
def slotsNow (c : Chip) : Chip :=
  c.arbs.foldl (fun c e => match e.2.staged with
    | some t => slotsLive (setArb c e.1 { arbOf c e.1 with table := t, staged := none }) (arbNum e.1) t
    | none => c) c

/-! ### Due words -/

/-- The task whose configuration an HXK word belongs to. -/
def taskOfWord (a : Nat) : Option TaskId :=
  if Reg.hxkTcfg.base ≤ a && a < Reg.hxkTcfg.base + 512 then some (TaskId.ofCode ((a - Reg.hxkTcfg.base) / 8))
  else if Reg.hxkVcfg.base ≤ a && a < Reg.hxkVcfg.base + 1024 then some (TaskId.ofCode (256 + (a - Reg.hxkVcfg.base) / 4))
  else none

/-- The unit number of a task in COMMIT_APPLY: Tn is n, Vv is 64 + v. -/
def taskUnit : TaskId → Nat
  | .periodic n => n.val
  | .event v => 64 + v.val
  | .setup => 511

/-- No task that forms curds owns the point of an output word, before or after its change. -/
def outputFree (c : Chip) (a : Nat) : Bool :=
  let ws := rawReg c a :: (match mapGet none c.sys.pend a with | some w => [w] | none => [])
  !curdsRun c || ws.all fun w =>
    let e := ptEntry c (bits w 31 16)
    !(bit e 31 && bit e 30 && taskEn c (TaskId.ofCode (bits e 29 21)))

/-- Whether a committed word is due in STANDBY or SERVICE outside the boundaries that other commands bring: a quiet point
(WHY, the point table, PDEPTH), a wrap, a task's commit or curd instant, the macro-cycle and the management tick. -/
def due (c : Chip) (n a : Nat) : Bool :=
  match blockOf a with
  | 2 => if isPt a then false
         else match taskOfWord a with
           | some t => decide (taskUnit t = n) && !(taskSt c t).active
           | none => true
  | 5 => decide (a ≠ Reg.evcXctl.addr)
  | 7 => (entryOwners c a).all fun t => !curdsRun c || !taskEn c (TaskId.ofCode t)
  | 9 => !mvbScheduled a
  | 11 => (entryOwners c a).all fun t => !curdsRun c || !taskEn c (TaskId.ofCode t)
  | 12 => if Reg.dioDocfg.covers a then outputFree c a
          else if Reg.dioTpcfg0.addr ≤ a && a < Reg.dioTpcfg0.addr + 8 then decide (now c % 1000000 < 1000) else true
  | 14 => if Reg.alpOpnt.covers a then outputFree c a else true
  | 16 => false
  | 24 => false
  | 25 => false
  | 27 => false
  | _ => true

/-- Words of `sel` become live, each with its consequences. -/
def applyWords (c : Chip) (sel : Nat → Bool) : Chip :=
  let olds := (c.sys.pend.filter fun e => sel e.1).map fun e => (e.1, rawReg c e.1)
  olds.foldl (fun c e => wordHook c e.1 e.2) (applyPend c sel)

/-- Words of blocks that apply at a management tick: CEL, UPD and PWR (R490, R513, R550). -/
def applyManagement (c : Chip) : Chip := applyWords c fun a => blockOf a = 24 || blockOf a = 25 || blockOf a = 27

/-- Every committed word becomes live (R191, R205, R208). -/
def applyAll (c : Chip) : Chip :=
  let c := applySys c
  let c := applyWhy (applyPoints c)
  slotsNow (applyWords c fun a => blockOf a ≠ 0)

/-- COMMIT_APPLY: the words of block `b` that are due become live, of HXK those of unit `n`; SYS words go before. -/
def commitApply (c : Chip) (b n : Nat) : Chip :=
  let b := blockOf (b * 65536)
  let c := applySys c
  if b = 0 then c
  else if atOnce c then
    if b = 16 then applyWhy c
    else if b = 4 then slotsNow c
    else applyWords (if b = 2 then applyPoints c else c) fun a => blockOf a = b
  else applyWords c fun a => blockOf a = b && due c n a

end Sys2Proof.Machine
end

