-- ==== Sys2Proof/Machine/Modes.lean ====
section
/-! DEFINITION. The six modes and their transitions (R187 to R193), what leaving and entering a mode does (R191, R517). -/

namespace Sys2Proof.Machine

/-- The SYS block changed. -/
def onSys (c : Chip) (f : Sys → Sys) : Chip := { c with sys := f c.sys }

/-! ### Stopping (R191, R517) -/

/-- Whether a context goes on to its next call boundary when its cycle is ended: it is the one its engine runs, and does not stand
at a boundary. A wait is none (R98, R191). -/
def runsOn (p : VatPlane) (key : Nat) (x : Ctx) : Bool := x.on && !x.atBnd && (engOf p (key / 16)).cur = some (key % 16)

/-- A Vat's chains as R191 ends them: issued stores reach memory, chains that stand at a call boundary or have not started end at
once, and those that run or wait stop at their next call boundary. Log entry 35. -/
def stopPlane (p : VatPlane) : VatPlane :=
  let d := p.engines.foldl (fun p e => drainAll p e.1) p
  let on := p.ctxs.filter fun e => runsOn p e.1 e.2
  let kept (k : Nat) : Bool := on.any fun e => e.1 = k
  { d with
    ctxs := on.map fun e => (e.1, { e.2 with old := true, stop := true })
    engines := on.map fun e => (e.1 / 16, { Engine.idle with cur := some (e.1 % 16), last := (engOf p (e.1 / 16)).last })
    oldActs := []
    reqs := p.reqs.filter fun e => kept e.1
    owed := p.owed.filter fun e => kept e.1
    early := p.early.filter fun e => kept e.1
    acts := mapMapVals Act.empty p.acts fun _ a => quietAct a }

/-- A task's cycle in progress commits nothing. -/
def stopTask (x : TaskSt) : TaskSt :=
  { x with active := false, formed := false, overrun := false, passed := false, lone := false, tflag := false, press := PressTask.empty }

/-- A context of some Vat is still there to receive what the port answers at a key. -/
def answerable (c : Chip) (key : Nat) : Bool := allVats.any fun v => (ctxOf (plane c v) (key / 16) (key % 16)).on

/-- Curds stop for every task; the cycles in progress end and commit nothing (R191). Commands on their way to the field lanes are
gone with them, and answers of the configuration port to chains that have ended. -/
def stopTasks (c : Chip) : Chip :=
  let c := { c with vats := c.vats.map stopPlane, tasks := mapMapVals TaskSt.empty c.tasks fun _ x => stopTask x }
  let c := onFio c fun f => { f with
    tx := Tri.all []
    lanes := f.lanes.map fun l => { l with pend := [] }
    outs := f.lanes.map fun l => l.cmd }
  onSys c fun s => { s with replies := s.replies.filter fun e => answerable c e.1
                            noise := s.noise.filter (answerable c)
                            checking := s.checking.filter (answerable c)
                            setupRun := false }

/-- Staging owned by the culture is discarded, and its broken mark cleared (R191, R216). -/
def discardCulture (c : Chip) : Chip :=
  let c := onSys c fun s => { s with broken := false }
  if c.sys.owner = .culture then ranksDefault (onSys c fun s => { s with owner := .none, staged := [] }) else c

/-- A test that runs ends ABORTED (R516): what its end does, with its result. -/
def testResult (c : Chip) (result : Nat) : Chip :=
  let t := c.tst
  let ms := (c.core.tick - t.from_) / 1000
  let c := { c with tst := { t with state := 2, result := result } }
  let c := if result = 1 then bump c Reg.tstCnt.addr 31 16 else bump c Reg.tstCnt.addr 15 0
  let c := if t.testid = 1 then setReg c (Reg.tstLbk.addr t.target) 0 else c
  let c := raise c 2240 (t.testid + result * 256)
  deviceRecord c 0x1A 0x01 (t.testid + result * 256 + t.target * 65536 + t.depth * 2 ^ 24) (t.bits % 2 ^ 32) (min (2 ^ 32 - 1) t.errs) ms

/-- ABORTED, where a test runs. -/
def abortTest (c : Chip) : Chip := if c.tst.state = 1 then testResult c 4 else c

/-- On leaving MAINTENANCE, and at an Affineur restart (R517, R518). -/
def clearTests (c : Chip) : Chip :=
  let c := (List.range 15).foldl (fun c n => setReg c (Reg.tstLbk.addr n) 0) c
  let ran := testRuns c
  let c := bypassRelay { c with tst := { c.tst with depths := [] } } c.eth.switchBad
  let c := setReg (setReg (setReg c Reg.tstOuten.addr 0) Reg.tstAouten.addr 0) Reg.tstCtl.addr 0
  if ran then stopTasks c else c

/-- FREEZE of every arbiter set to 0 (R184). -/
def thaw (c : Chip) : Chip := (List.range 36).foldl (fun c a => setReg c (Reg.arbCtl.addr a) 0) c

/-! ### One transition (R189) -/

/-- Whether Table: Mode transitions has the transition with its cause. -/
def allowed (old new : Mode) (cause : Nat) : Bool :=
  match old, new with
  | .inert, .prove => decide (cause = 2)
  | .prove, .service => decide (cause = 3)
  | .prove, .standby => decide (cause = 3)
  | .standby, .service => decide (cause = 5)
  | .service, .standby => decide (cause = 6 ∨ cause = 4)
  | .service, .hold => [7, 8, 9, 4, 10].contains cause
  | .standby, .hold => [7, 8, 9, 4, 10].contains cause
  | .prove, .hold => decide (cause = 9)
  | .maintenance, .hold => decide (cause = 9 ∨ cause = 7)
  | .service, .maintenance => decide (cause = 4)
  | .standby, .maintenance => decide (cause = 4)
  | .hold, .maintenance => decide (cause = 4)
  | .prove, .maintenance => decide (cause = 4)
  | .hold, .prove => decide (cause = 4)
  | .maintenance, .prove => decide (cause = 4)
  | .hold, .standby => decide (cause = 4)
  | _, .inert => decide (cause ≤ 1)
  | _, _ => false

/-- What is done on leaving the present mode. -/
def leaveMode (c : Chip) (new : Mode) : Chip :=
  match c.sys.mode with
  | .service =>
    let c := if c.tst.testid = 6 then abortTest c else c
    let c := discardCulture (applyAll (stopTasks c))
    let c := releaseRoles (setChg (onLdl c fun l => { l with handover := none }) false)
    if new = .standby then c else evcLeave c
  | .standby =>
    let c := discardCulture (applyAll (stopTasks c))
    if new = .service then c else evcLeave c
  | .prove => stopTasks c
  | .maintenance => thaw (clearTests (abortTest c))
  | _ => c

/-- The mode changes: SYS_MODE and the record. -/
def setMode (c : Chip) (new : Mode) (cause : Nat) : Chip :=
  let old := c.sys.mode
  let c := onSys c fun s => { s with mode := new, prev := old, cause := cause }
  deviceRecord c 0x00 0x01 (cause * 2 ^ 24 + old.code * 256 + new.code)

/-- SYNC at the entry to STANDBY: a copy of the primary is asked for where the partner has shown that its layout is ours; without
its IDENT the module stays as it is (R258, R270). Log entry 85. -/
def standbySync (l : Ldl) : Ldl :=
  if l.sync = 0 ∨ l.sync = 1 ∨ l.sync = 6 ∨ l.sync = 7 ∨ (l.sync = 2 ∧ l.ident.isNone) then l
  else { l with sync := 3, wantSync := match l.wantSync with | some r => some r | none => some 1 }

/-- What is done on entering a mode; `gave` says that the module has relinquished charge to its partner on the way (R191). In
HOLD, that the mode was entered from SERVICE and that no partner is in charge is judged at the entry, where a partner that
charge was relinquished to counts as one; that none is TOGGLING is judged at every tick as well (`substitutes`; log entry 94,
DESIGN CHOICE). -/
def enterEffects (c : Chip) (old : Mode) (cause : Nat) (gave : Bool) : Chip :=
  match c.sys.mode with
  | .service =>
    let c := if old = .standby then c else mvbEnter (evcEnter c)
    canEnterService (assumeRoles (enterCharge c (decide (old = .standby))))
  | .standby =>
    let c := if old = .service then c else mvbEnter (evcEnter c)
    onLdl c standbySync
  | .hold =>
    let c := onSys c fun s => { s with holdSub := decide (old = .service) && !gave && decide (c.ldl.chgIn ≠ .toggling) }
    let c := if cause = 7 then deviceRecord c 0x01 0x03 (rawReg c Reg.vatHold.addr).toNat (vatStat c).toNat else c
    rejectTrial (holdNotice c) 2
  | .prove =>
    let c := onSys c fun s => { s with stopped := false, proveSour := 0, setupEnd := 0, setupCommitted := false, step := min s.step 9 }
    let c := setReg c Reg.updCtl.addr (regReset Reg.updCtl.addr)
    { c with core := { c.core with pressFault := false }, fio := { c.fio with lpTries := 0 } }
  | _ => c

/-- Whether the module is giving charge away on its way out of SERVICE (R191, R265, R266). -/
def leaving (c : Chip) : Bool := c.ldl.handover.any (·.begun)

/-- A transition of Table: Mode transitions, whole; the source of time is chosen again (R310), and triggers that came while the
module was leaving SERVICE follow (R190). -/
def enterMode (c : Chip) (new : Mode) (cause : Nat) : Chip :=
  let old := c.sys.mode
  let gave := leaving c
  let c := setMode (leaveMode c new) new cause
  let c := enterEffects (if old = .service then announce c else c) old cause gave
  let c := if c.sys.affUp then chooseSource c else c
  { c with core := { c.core with todo := c.core.todo ++ c.core.later, later := [] } }

/-- A trigger that comes while the module leaves SERVICE waits until it has (R190). -/
def putOff (c : Chip) (t : Todo) : Chip := { c with core := { c.core with later := c.core.later ++ [t] } }

/-- A transition asked for: refused where the table has none (R189), put off where the module first relinquishes charge
(R191) and while it does so. -/
def requestMode (c : Chip) (new : Mode) (cause : Nat) : Chip :=
  if leaving c then putOff c (.mode new cause)
  else if !allowed c.sys.mode new cause then c
  else if c.sys.mode = .service && (new = .hold || new = .maintenance) && mustRelinquish c then
    beginLeaving c ⟨c.core.tick, 0, true, false, new, cause⟩
  else enterMode c new cause

/-- HOLD asked for by the module, with its code in VAT_HOLD where it has one (R149, R160, R189). Where the module first
relinquishes charge (R150), the spec does not say whether VAT_HOLD takes the cause at the cause instant or at the entry to HOLD, at
most 1 ms later: at the cause instant (DESIGN CHOICE, log entry 113). -/
def requestHold (c : Chip) (cause code : Nat) (t : Option TaskId) : Chip :=
  if leaving c then putOff c (.hold cause code t)
  else if !allowed c.sys.mode .hold cause then c
  else
    let c := if code = 0 then c
      else setReg c Reg.vatHold.addr (word (code * 2 ^ 28 + (match t with | some t => t.num * 2 ^ 16 + b2n t.ev * 2 ^ 15 | none => 0)))
    requestMode c .hold cause

/-! ### The consequences of a step -/

/-- A test VATOUT during which another Vat than its target is declared sour ends at once with FAIL (R522). -/
def vatoutSour (c : Chip) (v : Vat) : Chip :=
  if c.tst.state = 1 && c.tst.testid = 2 && c.tst.target ≠ v.num && !serving c v then testResult c 2 else c

/-- One consequence carried out. -/
def runTodo (c : Chip) : Todo → Chip
  | .sour v code kind t item => pairDiffs (vatoutSour (declareSour c v code kind t item) v)
  | .hold cause code t => requestHold c cause code t
  | .mode m cause => if allowed c.sys.mode m cause then enterMode c m cause else c

/-- Consequences in order, then those that they bring in turn; a declaration can bring HOLD, and nothing goes deeper than
`n`. -/
def runTodos : Nat → Chip → Chip
  | 0, c => { c with core := { c.core with todo := [] } }
  | n + 1, c =>
    match c.core.todo with
    | [] => c
    | ts => runTodos n (ts.foldl runTodo { c with core := { c.core with todo := [] } })

end Sys2Proof.Machine
end

