-- ==== Sys2Proof/Machine/Setup.lean ====
section
/-! DEFINITION. What every command ends with: the consequences it has put off, the end of the setup program (R195, R196), and
what units conclude from a changed mode, partner or configuration. -/

namespace Sys2Proof.Machine

/-! ### The end of the setup program -/

/-- The setup program has ended in the module (R196 conditions 3 and 4): step 11, or the stop. -/
def endSetup (c : Chip) (how : Nat) (exc : Nat × Nat) : Chip :=
  let c := onSys c fun s => { s with setupRun := false, setupEnd := how }
  match how with
  | 1 =>
    if !c.sys.setupCommitted then stopProve c 7 0
    else if !c.sys.staged.isEmpty then stopProve c 7 1
    else onSys c fun s => { s with step := 11 }
  | 2 => stopProve c 5 (exc.1 * 256) exc.2
  | _ => stopProve c 6 0

/-- A Vat's setup program that is over its time limit stops at its next call boundary (R195). -/
def setupStop (c : Chip) (v : Vat) : Chip :=
  let p := plane c v
  let x := ctxOf p 0 0
  let on := x.on && decide (x.task = .setup)
  if p.setupEnd ≠ 4 ∨ (on ∧ !x.atBnd) then c
  else onPlane (if on then endChain c v 0 0 else c) v fun p => { p with setupEnd := 3, setupExc := (0, 0) }

/-- How a Vat's run of the setup program ended. -/
def setupOf (c : Chip) (v : Vat) : Nat × (Nat × Nat) := let p := plane c v; (p.setupEnd, p.setupExc)

/-- The end of the setup program: judged once every SERVING Vat's run has ended. A Vat whose run ended otherwise than that
of the lowest-lettered Vat with which another agrees is declared sour for its engine E0 (R24, R148). -/
def setupCheck (c : Chip) : Chip :=
  if !c.sys.setupRun then c
  else
    let vs := servingVats c
    let c := vs.foldl setupStop c
    if vs.isEmpty || vs.any fun v => (plane c v).setupEnd = 0 ∨ (plane c v).setupEnd = 4 then c
    else
      let good := match vs.find? fun v => vs.any fun u => u ≠ v && setupOf c u = setupOf c v with
        | some v => v
        | none => vs.headD .a
      match vs.filter fun v => setupOf c v ≠ setupOf c good with
      | [] => endSetup c (setupOf c good).1 (setupOf c good).2
      | bad => bad.foldl (fun c v => todoSour c v 1 6 (some .setup) 0) c

/-! ### Rind's proof observation (R520, R523, R526) -/

/-- The response time that RINDPROOF allows, in µs: SFILT + 2 ms. -/
def proofLimit (c : Chip) : Nat := 1000 * (bits (rindPar c 0) 15 8 + 2)

/-- The unit that a safety input belongs to: the even input of its pair, or itself. -/
def proofUnit (c : Chip) (i : Nat) : Nat := if i < 8 && i % 2 = 1 && bit (rindPsi c (i - 1)) 28 then i - 1 else i

/-- The steps of R523 as Rind's new state moves them: STOPPED out of RUN or DECEL with a demand's input recorded and both TE outputs
read off, or LOCKED with cause SENSOR and its channel, begins those of a unit. -/
def proofState (c : Chip) (p : Proof) : Proof :=
  let r := c.rind
  let off := !teRead c 0 && !teRead c 1
  if p.lastState = r.state then p
  else
    let p' := { p with lastState := r.state }
    if r.state = 1 && (p.lastState = 2 || p.lastState = 3) && (r.cause = 1 || r.cause = 2) && r.input < 8 && off then
      { p' with unit := some (proofUnit c r.input), step := 1 }
    else if r.state = 4 && r.cause = 9 && (r.input = 8 || r.input = 9) then { p' with unit := some r.input, step := 1 }
    else if r.state = 3 then p'
    else { p' with unit := none, step := 0 }

/-- RINDPROOF observes Rind's status: the steps of the unit under way, the inputs that demand in RUN or in those steps, how long each
demand went unanswered in RUN, and each new state with its record. -/
def proofObserve (c : Chip) : Chip :=
  if c.tst.state ≠ 1 ∨ c.tst.testid ≠ 6 then c
  else
    let old := c.tst.proof
    let p := proofState c old
    let t := c.core.tick
    let dem := (rindDemands c).map (·.2)
    let counts (i : Nat) : Bool := c.rind.state = 2 || p.unit = some (proofUnit c i)
    let seen := (dem.filter counts).foldl (fun (m : BitVec 10) i => m ||| 1#10 <<< i) p.seen
    let seen := match p.unit with | some u => if 8 ≤ u then seen ||| 1#10 <<< u else seen | none => seen
    let late := p.waits.any fun w => decide (w.2 + proofLimit c < t)
    let waits := if c.rind.state = 2 then dem.map fun i => (i, ((p.waits.find? fun w => w.1 = i).map (·.2)).getD t) else []
    let c' := { c with tst := { c.tst with proof := { p with seen := seen, late := p.late || late, waits := waits } } }
    if old.lastState = c.rind.state then c' else deviceRecord c' 0x1A 0x02 (leAt (rindBytes c) 0 4)

/-- A test VATOUT sees its Vat SERVING again within 100 ms of OP 2 (R520). -/
def vatoutObserve (c : Chip) : Chip :=
  match c.tst.vatBack with
  | some t =>
    let v : Vat := if c.tst.target = 0 then .a else if c.tst.target = 1 then .b else .c
    if c.tst.state = 1 ∧ c.tst.testid = 2 ∧ serving c v ∧ c.core.tick ≤ t + 100000 then { c with tst := { c.tst with vatOk := true } } else c
  | none => c

/-- What RINDPROOF sees of a reset pulse, from the state before it: one refused with reason 1 while the unit's contact is open is a step
of R523, and so is the return to RUN, which ends the unit's steps once those before it have been confirmed. -/
def proofReset (before c : Chip) : Chip :=
  let p := before.tst.proof
  let put (q : Proof) : Chip := { c with tst := { c.tst with proof := q } }
  if before.tst.state ≠ 1 ∨ before.tst.testid ≠ 6 then c
  else match p.unit with
  | none => c
  | some u =>
    let open_ := (rindDemands before).any fun x => decide (proofUnit before x.2 = u)
    if c.rind.state = 2 then
      (if (if u < 8 then p.step = 2 else p.step = 1) then put { p with done := p.done ||| 1#10 <<< u } else c)
    else if before.rind.state = 1 && open_ && p.step = 1 then put { p with step := 2 }
    else c

/-- Whether the proof sequence has been seen whole: every enabled input seen demanding, every enabled input or pair and every enabled
channel taken through the steps of R523, and each demand answered in time. -/
def rindProved (c : Chip) : Bool :=
  let p := c.tst.proof
  !p.late && (List.range 8).all (fun i => !siEn c i || (p.seen.getLsbD i && p.done.getLsbD (proofUnit c i))) &&
    (List.range 2).all (fun n => !rsEn c n || p.done.getLsbD (8 + n)) && p.waits.all fun w => decide (c.core.tick ≤ w.2 + proofLimit c)

/-! ### Settling -/

/-- What each unit concludes from the mode, the partner, the gate and the configuration as they now are. -/
def unitChecks (c : Chip) : Chip :=
  vatoutObserve (proofObserve (updCheck (rindCheck (brgCheck (canCheck (mvbAdminCheck (alpDrive (alpCheck (fioCheck c)))))))))

/-- The consequences of a command that can move the mode, the gate or a unit. -/
def settleAll (c : Chip) : Chip :=
  let c := runTodos 8 c
  let c := runTodos 8 (setupCheck c)
  quietCheck (runTodos 8 (unitChecks c))

/-- The consequences of any other command: what units conclude is judged again only where it has put something off. -/
def settle (c : Chip) : Chip :=
  let c := setupCheck c
  match c.core.todo with
  | [] => quietCheck c
  | _ => settleAll c

end Sys2Proof.Machine
end

