-- ==== Sys2Proof/Machine/Alu.lean ====
section
/-! DEFINITION. The integer, immediate, special-register, compare, branch, call and control instructions of the
opcode table (R74, R76 to R81, R86 to R89). -/

namespace Sys2Proof.Machine

/-! ### Integer functions (Table: Integer functions, R79) -/

/-- What an integer function gives: unassigned, division by 0, or a result with C and V. -/
inductive AluRes (n : Nat) where
  | illegal
  | divzero
  | ok (o : AluOut n)

/-- Leading zeros of a word, 0 to 32. -/
def clz32 (a : Word) : Nat := if a = 0 then 32 else 31 - Nat.log2 a.toNat

/-- Trailing zeros of a word, 0 to 32. -/
def ctz32 (a : Word) : Nat := ((List.range 32).find? (fun j => a.getLsbD j)).getD 32

/-- Set bits of a word. -/
def popc32 (a : Word) : Nat := ((List.range 32).filter (fun j => a.getLsbD j)).length

/-- The functions that ALU and ALU64 share, at either width. The shift amount has been taken from gb (R79). -/
def aluBoth {n : Nat} (func : Nat) (a b : BitVec n) (sh : Nat) (cin : Bool) : Option (AluOut n) :=
  match func with
  | 0x00 => some (addOut a b false)
  | 0x01 => some (addOut a b cin)
  | 0x02 => some (subOut a b false)
  | 0x03 => some (subOut a b cin)
  | 0x04 => some (plainOut (a &&& b))
  | 0x05 => some (plainOut (a ||| b))
  | 0x06 => some (plainOut (a ^^^ b))
  | 0x07 => some (plainOut (a &&& ~~~b))
  | 0x08 => some (plainOut (a <<< sh))
  | 0x09 => some (plainOut (a >>> sh))
  | 0x0A => some (plainOut (a.sshiftRight sh))
  | 0x10 => some (plainOut (a * b))
  | 0x18 => some (plainOut (if a.slt b then a else b))
  | 0x19 => some (plainOut (if a.slt b then b else a))
  | 0x1A => some (plainOut (if a.ult b then a else b))
  | 0x1B => some (plainOut (if a.ult b then b else a))
  | 0x20 => some (plainOut a)
  | 0x21 => some (plainOut (~~~a))
  | 0x22 => some ⟨-a, false, decide (a = BitVec.intMin n)⟩
  | _ => none

/-- The most negative word divided by −1 (R79). -/
def divOvf (a b : Word) : Bool := decide (a = BitVec.intMin 32) && decide (b = -1)

/-- The 32-bit integer functions. -/
def alu32 (func : Nat) (a b : Word) (cin : Bool) : AluRes 32 :=
  match aluBoth func a b (b.toNat % 32) cin with
  | some o => .ok o
  | none =>
    match func with
    | 0x0B => .ok (plainOut (a.rotateLeft (b.toNat % 32)))
    | 0x0C => .ok (plainOut (a.rotateRight (b.toNat % 32)))
    | 0x11 => .ok (plainOut (BitVec.ofInt 32 (a.toInt * b.toInt / 2 ^ 32)))
    | 0x12 => .ok (plainOut (BitVec.ofNat 32 (a.toNat * b.toNat / 2 ^ 32)))
    | 0x14 => if b = 0 then .divzero else .ok ⟨BitVec.ofInt 32 (a.toInt.tdiv b.toInt), false, divOvf a b⟩
    | 0x15 => if b = 0 then .divzero else .ok (plainOut (a / b))
    | 0x16 => if b = 0 then .divzero else .ok ⟨BitVec.ofInt 32 (a.toInt.tmod b.toInt), false, divOvf a b⟩
    | 0x17 => if b = 0 then .divzero else .ok (plainOut (a % b))
    | 0x1C => .ok (satOut (a.toInt + b.toInt))
    | 0x1D => .ok (satOut (a.toInt - b.toInt))
    | 0x23 => .ok ⟨if a.msb then -a else a, false, decide (a = BitVec.intMin 32)⟩
    | 0x24 => .ok (plainOut (BitVec.ofNat 32 (clz32 a)))
    | 0x25 => .ok (plainOut (BitVec.ofNat 32 (ctz32 a)))
    | 0x26 => .ok (plainOut (BitVec.ofNat 32 (popc32 a)))
    | 0x28 => .ok (plainOut ((a.truncate 8).signExtend 32))
    | 0x29 => .ok (plainOut ((a.truncate 16).signExtend 32))
    | 0x2A => .ok (plainOut ((a.truncate 8).zeroExtend 32))
    | 0x2B => .ok (plainOut ((a.truncate 16).zeroExtend 32))
    | _ => .illegal

/-- Whether a function takes one operand, so that B must be 0. -/
def aluUnary (func : Nat) : Bool := 0x20 ≤ func

/-- Whether ALU64 takes its second operand from a single register: the shifts. -/
def aluShift (func : Nat) : Bool := func = 0x08 || func = 0x09 || func = 0x0A

/-- ALU (0x00): gd := ga op gb, flags with F = 1 (R77, R78). -/
def aluOp (c : Chip) (e : Eng) (w : Enc) : Chip :=
  let func := mbits w 12 6
  issue c e 4 false (mbits w 5 0 ≠ 0 || (aluUnary func && w.b ≠ 0)) fun _ x =>
    match alu32 func (rd x w.a) (rd x w.b) x.s.c with
    | .illegal => .exc .illegal
    | .divzero => .exc .divzero
    | .ok o =>
      let x := if w.minor.getLsbD 13 then { x with s := setZncv x.s o } else x
      .done c (adv (wr x w.d o.r) 4)

/-- ALU64 (0x08): the same on pairs; a shift takes its amount from the single register gb [5:0] (R78, R79). -/
def alu64Op (c : Chip) (e : Eng) (w : Enc) : Chip :=
  let func := mbits w 12 6
  let odd := !evenReg w.d || !evenReg w.a || (!aluShift func && !evenReg w.b)
  issue c e 4 false (mbits w 5 0 ≠ 0 || (aluUnary func && w.b ≠ 0) || odd) fun _ x =>
    match aluBoth func (rdPair x w.a) (rdPair x w.b) ((rd x w.b).toNat % 64) x.s.c with
    | none => .exc .illegal
    | some o =>
      let x := if w.minor.getLsbD 13 then { x with s := setZncv x.s o } else x
      .done c (adv (wrPair x w.d o.r) 4)

/-- An immediate form: gd := f ga MINOR, B unused, no flag (R80). -/
def immOp (c : Chip) (e : Eng) (w : Enc) (illegal : Bool) (f : Word → Word) : Chip :=
  issue c e 4 false (w.b ≠ 0 || illegal) fun _ x => .done c (adv (wr x w.d (f (rd x w.a))) 4)

/-- SHI's shift by kind and amount (R80). -/
def shiKind (kind n : Nat) (a : Word) : Word :=
  match kind with
  | 0 => a <<< n
  | 1 => a >>> n
  | 2 => a.sshiftRight n
  | _ => a.rotateRight n

/-- ALU. -/
def execAlu (e : Eng) (w : Enc) (s : State) : Host.Outcome State Fault Refusal := s.run fun c => settle (aluOp c e w)
/-- ALU64. -/
def execAlu64 (e : Eng) (w : Enc) (s : State) : Host.Outcome State Fault Refusal := s.run fun c => settle (alu64Op c e w)
/-- ADDI (R80). -/
def execAddi (e : Eng) (w : Enc) (s : State) : Host.Outcome State Fault Refusal :=
  s.run fun c => settle (immOp c e w false fun a => a + w.minor.signExtend 32)
/-- ANDI (R80). -/
def execAndi (e : Eng) (w : Enc) (s : State) : Host.Outcome State Fault Refusal :=
  s.run fun c => settle (immOp c e w false fun a => a &&& w.minor.zeroExtend 32)
/-- ORI (R80). -/
def execOri (e : Eng) (w : Enc) (s : State) : Host.Outcome State Fault Refusal :=
  s.run fun c => settle (immOp c e w false fun a => a ||| w.minor.zeroExtend 32)
/-- XORI (R80). -/
def execXori (e : Eng) (w : Enc) (s : State) : Host.Outcome State Fault Refusal :=
  s.run fun c => settle (immOp c e w false fun a => a ^^^ w.minor.zeroExtend 32)
/-- SHI (R80): MINOR [11:5] is RSVD. -/
def execShi (e : Eng) (w : Enc) (s : State) : Host.Outcome State Fault Refusal :=
  s.run fun c => settle (immOp c e w (mbits w 11 5 ≠ 0) (shiKind (mbits w 13 12) (mbits w 4 0)))
/-- MOVI (R80): MINOR, A and B are 0. -/
def execMovi (e : Eng) (w : Enc) (x : Word) (s : State) : Host.Outcome State Fault Refusal :=
  s.run fun c => settle (issue c e 8 false (w.minor ≠ 0 || w.a ≠ 0 || w.b ≠ 0) fun _ k => .done c (adv (wr k w.d x) 8))
/-- SETQ (R80): MINOR, D, A and B are 0, and so is extension word [31:15]. -/
def execSetq (e : Eng) (w : Enc) (x : Word) (s : State) : Host.Outcome State Fault Refusal :=
  s.run fun c => settle (issue c e 8 false (w.minor ≠ 0 || w.d ≠ 0 || w.a ≠ 0 || w.b ≠ 0 || bits x 31 15 ≠ 0) fun _ k =>
    .done c (adv { k with q := BitVec.ofNat 15 (bits x 14 0) } 8))

/-! ### Special registers (R74) -/

/-- The value of a special register (Table: Special registers). -/
def sprRead (eng prio : Nat) (x : Ctx) (n : Nat) : Word :=
  match n with
  | 0 => word x.i
  | 1 => word x.k
  | 2 => x.q.zeroExtend 32
  | 3 => word x.p
  | 4 => x.s.word
  | 5 => word eng
  | 6 => word x.task.code
  | 7 => word prio
  | _ => x.bnd

/-- SPR (0x09): MINOR [13:10] selects MFS or MTS, MINOR [3:0] the register. -/
def sprOp (c : Chip) (e : Eng) (w : Enc) : Chip :=
  let op := mbits w 13 10
  let n := mbits w 3 0
  let bad := mbits w 9 4 ≠ 0 || w.b ≠ 0 || 8 < n || 1 < op ||
    (if op = 0 then decide (w.a ≠ 0) else decide (w.d ≠ 0) || !(n = 2 || n = 4))
  issue c e 4 false bad fun r x =>
    if op = 0 then .done c (adv (wr x w.d (sprRead e.num.val r x n)) 4)
    else if n = 2 then .done c (adv { x with q := (rd x w.a).truncate 15 } 4)
    else .done c (adv { x with s := x.s.write (rd x w.a) } 4)

/-- MFS. -/
def execMfs (e : Eng) (w : Enc) (s : State) : Host.Outcome State Fault Refusal := s.run fun c => settle (sprOp c e w)
/-- MTS. -/
def execMts (e : Eng) (w : Enc) (s : State) : Host.Outcome State Fault Refusal := s.run fun c => settle (sprOp c e w)

/-! ### Compares, branches and selects (R81, R86) -/

/-- CMP: the flags as SUB would set them, on registers or with W = 1 on pairs (R81). -/
def execCmp (e : Eng) (w : Enc) (s : State) : Host.Outcome State Fault Refusal :=
  s.run fun c => settle <|
    let wide := w.minor.getLsbD 13
    issue c e 4 false (mbits w 12 0 ≠ 0 || w.d ≠ 0 || (wide && (!evenReg w.a || !evenReg w.b))) fun _ x =>
      let s := if wide then setZncv x.s (subOut (rdPair x w.a) (rdPair x w.b) false)
               else setZncv x.s (subOut (rd x w.a) (rd x w.b) false)
      .done c (adv { x with s := s } 4)
/-- CMPI: ga compared with MINOR sign-extended (R81). -/
def execCmpi (e : Eng) (w : Enc) (s : State) : Host.Outcome State Fault Refusal :=
  s.run fun c => settle <| issue c e 4 false (w.d ≠ 0 || w.b ≠ 0) fun _ x =>
    .done c (adv { x with s := setZncv x.s (subOut (rd x w.a) (w.minor.signExtend 32) false) } 4)

/-- The target of a branch, p + 4 × MINOR signed; none outside 0x0000 to 0x7FFC (R86). -/
def branchTarget (p : Nat) (w : Enc) : Option Nat :=
  let t : Int := p + 4 * msigned w
  if 0 ≤ t ∧ t ≤ 0x7FFC then some t.toNat else none

/-- BR (R86). -/
def execBr (e : Eng) (w : Enc) (s : State) : Host.Outcome State Fault Refusal :=
  s.run fun c => settle <| issue c e 4 (w.d = 0xF) (w.a ≠ 0 || w.b ≠ 0) fun _ x =>
    match branchTarget x.p w with
    | none => .exc .illegal
    | some t => .done c (if cond w.d.toNat x.s then { x with p := t } else adv x 4)
/-- SEL (R86): MINOR [9:0] is RSVD. -/
def execSel (e : Eng) (w : Enc) (s : State) : Host.Outcome State Fault Refusal :=
  s.run fun c => settle <| issue c e 4 false (mbits w 9 0 ≠ 0) fun _ x =>
    .done c (adv (wr x w.d (if cond (mbits w 13 10) x.s then rd x w.a else rd x w.b)) 4)
/-- DBNZ (R86). -/
def execDbnz (e : Eng) (w : Enc) (s : State) : Host.Outcome State Fault Refusal :=
  s.run fun c => settle <| issue c e 4 false (w.a ≠ 0 || w.b ≠ 0) fun _ x =>
    match branchTarget x.p w with
    | none => .exc .illegal
    | some t =>
      let v := rd x w.d - 1
      .done c (if v ≠ 0 then { wr x w.d v with p := t } else adv (wr x w.d v) 4)

/-! ### Calls and control (R88, R89) -/

/-- CALL and CALLR: the checks of R88 in the order of R115, then the new frame. -/
def callOp (c : Chip) (e : Eng) (w : Enc) (len : Nat) (illegal : Bool) (baseOf : Ctx → Nat) : Chip :=
  issue c e len false (illegal || w.minor.getLsbD 13) fun _ x =>
    let base := baseOf x
    let p := plane c e.vat
    let h0 := memWord p base
    let h1 := memWord p (base + 4)
    if base % 8 ≠ 0 || !p.marks.contains base then .exc .protect
    else if bankFrozen c e.vat base 8 then .stall
    else if 16 ≤ x.frames.length then .exc .calldepth
    else if bits h1 19 14 ≠ e.num.val ∨ b2n (bit h0 30) * 512 + b2n (bit h0 29) * 256 + bits h0 28 21 ≠ x.task.code then .exc .owner
    else .boundary c { x with frames := ⟨some (x.p + len), x.p, x.i, x.k, none⟩ :: x.frames,
                              i := base, k := 8 * bits h0 20 0, p := 4 * mbits w 12 0 }

/-- CALL (R88): extension word [31:24] must be 0. -/
def execCall (e : Eng) (w : Enc) (x : Word) (s : State) : Host.Outcome State Fault Refusal :=
  s.run fun c => settle (callOp c e w 8 (w.d ≠ 0 || w.a ≠ 0 || w.b ≠ 0 || bits x 31 24 ≠ 0) fun _ => bits x 23 0)
/-- CALLR (R88). -/
def execCallr (e : Eng) (w : Enc) (s : State) : Host.Outcome State Fault Refusal :=
  s.run fun c => settle (callOp c e w 4 (w.d ≠ 0 || w.b ≠ 0) fun x => (rd x w.a).toNat)

/-- The end of the setup program by HALT or RET noted in its Vat (R195). -/
def noteSetupEnd (c : Chip) (v : Vat) (x : Ctx) : Chip :=
  if x.task = .setup then onPlane c v (fun p => if p.setupEnd = 0 then { p with setupEnd := 1 } else p) else c

/-- RET (R88): from frame 1 the dispatcher calls the next top-level block, itself a boundary, or the chain ends, its boundary
counter increased by the RET. -/
def retBody (c : Chip) (e : Eng) (r : Nat) (x : Ctx) : Effect :=
  match x.frames with
  | [] => .stop c
  | f :: rest =>
    match rest, f.ret with
    | _ :: _, some r => .boundary c { x with i := f.i, k := f.k, p := r, frames := rest }
    | _, _ =>
      match x.calls with
      | [] => .stop (onPlane (noteSetupEnd c e.vat x) e.vat fun p => setCtx p e.num.val r { x with bnd := x.bnd + 1 })
      | n :: ns => .boundary c (dispatcherCall c.culture (plane c e.vat) e.num.val
          { x with i := f.i, k := f.k, frames := [], calls := ns } n)

/-- CTL (0x1E): MINOR [13:12] selects RET, HND, NOP or HALT (Table: CTL operations). -/
def ctlOp (c : Chip) (e : Eng) (w : Enc) : Chip :=
  let op := mbits w 13 12
  let ofs := mbits w 11 0
  issue c e 4 (op = 0 || op = 3) (w.d ≠ 0 || w.a ≠ 0 || w.b ≠ 0 || (op ≠ 1 && ofs ≠ 0)) fun r x =>
    match op with
    | 0 => retBody c e r x
    | 1 =>
      if 0x7FFC < x.p + 4 * ofs then .exc .illegal
      else match x.frames with
        | [] => .done c (adv x 4)
        | f :: rest => .done c (adv { x with frames := { f with handler := if ofs = 0 then none else some (x.p + 4 * ofs) } :: rest } 4)
    | 2 => .done c (adv x 4)
    | _ => .stop (noteSetupEnd c e.vat x)

/-- RET. -/
def execRet (e : Eng) (w : Enc) (s : State) : Host.Outcome State Fault Refusal := s.run fun c => settle (ctlOp c e w)
/-- HND. -/
def execHnd (e : Eng) (w : Enc) (s : State) : Host.Outcome State Fault Refusal := s.run fun c => settle (ctlOp c e w)
/-- NOP. -/
def execNop (e : Eng) (w : Enc) (s : State) : Host.Outcome State Fault Refusal := s.run fun c => settle (ctlOp c e w)
/-- HALT. -/
def execHalt (e : Eng) (w : Enc) (s : State) : Host.Outcome State Fault Refusal := s.run fun c => settle (ctlOp c e w)

/-- EXCEPTION_RERAISE: a context that runs again after a frame removal raises the exception at the caller's call
(R116 step 2). -/
def reraiseOp (c : Chip) (e : Eng) : Chip :=
  let p := plane c e.vat
  match (engOf p e.num.val).cur with
  | none => c
  | some r =>
    let x := ctxOf p e.num.val r
    match x.exc with
    | none => c
    | some ex => if p.state = .serving ∧ x.on ∧ !stoppedAt (engOf p e.num.val) x then takeException c e.vat e.num.val r ex else c

/-- EXCEPTION_RERAISE. -/
def execExceptionReraise (e : Eng) (s : State) : Host.Outcome State Fault Refusal := s.run fun c => settle (reraiseOp c e)

end Sys2Proof.Machine
end

