-- ==== Sys2Proof/Machine/Mem.lean ====
section
/-! DEFINITION. The load, store, copy and checksum instructions and the draining of the store buffer (R90 to R93,
R114, R559). -/

namespace Sys2Proof.Machine

/-- The fields of Table: Load and store minor code, and the checks that make an access ILLEGAL: B is unused, A is
unused without IX, SX goes with a byte or halfword load only, space 3 is none, and a doubleword names a pair. -/
def lsIllegal (w : Enc) (store : Bool) : Bool :=
  let sz := mbits w 13 12
  w.b ≠ 0 || (w.minor.getLsbD 8 = false && w.a ≠ 0) || (w.minor.getLsbD 11 && (store || 2 ≤ sz)) || mbits w 10 9 = 3 ||
    (sz = 3 && !evenReg w.d)

/-- The offset of an access: OFS in units of the access size or the extension word, plus ga with IX (R91). -/
def lsOffset (w : Enc) (x : Ctx) (ext : Option Word) : Nat :=
  (match ext with | none => mbits w 7 0 * 2 ^ mbits w 13 12 | some y => bits y 23 0) +
    (if w.minor.getLsbD 8 then (rd x w.a).toNat else 0)

/-- The window of an access and its checks, ALIGN before PROTECT (R90, R91, R115). -/
def lsCheck (cu : Culture) (p : VatPlane) (eng prio : Nat) (x : Ctx) (sp off n : Nat) (store : Bool) : Except Xc Window :=
  match window cu p eng prio x sp store with
  | none => .error .illegal
  | some win =>
    if (win.base + off) % n ≠ 0 then .error .align
    else if 2 ^ 32 ≤ off || !win.holds off n then .error .protect
    else .ok win

/-- A loaded value, sign-extended with SX (Table: Load and store minor code). -/
def loadValue (w : Enc) (bs : List Byte) : Word :=
  let v := natLE bs
  match mbits w 13 12, w.minor.getLsbD 11 with
  | 0, true => (BitVec.ofNat 8 v).signExtend 32
  | 1, true => (BitVec.ofNat 16 v).signExtend 32
  | _, _ => word v

/-- LD and LDX (R91, R92). -/
def loadOp (c : Chip) (e : Eng) (w : Enc) (len : Nat) (illegal : Bool) (ext : Option Word) : Chip :=
  issue c e len false (illegal || lsIllegal w false) fun r x =>
    let p := plane c e.vat
    let n := 2 ^ mbits w 13 12
    let off := lsOffset w x ext
    match lsCheck c.culture p e.num.val r x (mbits w 10 9) off n false with
    | .error k => .exc k
    | .ok win =>
      if spaceFrozen c e.vat e.num.val win off n false then .stall else
      let bs := readSpace p e.num.val x win off n
      .done c (adv (if n = 8 then wrPair x w.d (BitVec.ofNat 64 (natLE bs)) else wr x w.d (loadValue w bs)) len)

/-- The store buffer is full, and the bank of its oldest entry is frozen: a store waits for room (R184, R559). -/
def storeStalls (c : Chip) (e : Eng) : Bool :=
  match (engOf (plane c e.vat) e.num.val).stbuf with
  | [] => false
  | (a, bs) :: rest => decide (7 ≤ rest.length) && bankFrozen c e.vat a bs.length

/-- ST and STX (R91, R559). -/
def storeOp (c : Chip) (e : Eng) (w : Enc) (len : Nat) (illegal : Bool) (ext : Option Word) : Chip :=
  issue c e len false (illegal || lsIllegal w true) fun r x =>
    let p := plane c e.vat
    let n := 2 ^ mbits w 13 12
    let off := lsOffset w x ext
    match lsCheck c.culture p e.num.val r x (mbits w 10 9) off n true with
    | .error k => .exc k
    | .ok win =>
      if !win.scratch && storeStalls c e then .stall else
      let (p, x) := storeSpace p e.num.val x win off (bytesLE n (if n = 8 then (rdPair x w.d).toNat else (rd x w.d).toNat))
      .done (setPlane c e.vat p) (adv x len)

/-- LD. -/
def execLd (e : Eng) (w : Enc) (s : State) : Host.Outcome State Fault Refusal := s.run fun c => settle (loadOp c e w 4 false none)
/-- ST. -/
def execSt (e : Eng) (w : Enc) (s : State) : Host.Outcome State Fault Refusal := s.run fun c => settle (storeOp c e w 4 false none)
/-- LDX: OFS and extension word [31:24] must be 0. -/
def execLdx (e : Eng) (w : Enc) (x : Word) (s : State) : Host.Outcome State Fault Refusal :=
  s.run fun c => settle (loadOp c e w 8 (mbits w 7 0 ≠ 0 || bits x 31 24 ≠ 0) (some x))
/-- STX: OFS and extension word [31:24] must be 0. -/
def execStx (e : Eng) (w : Enc) (x : Word) (s : State) : Host.Outcome State Fault Refusal :=
  s.run fun c => settle (storeOp c e w 8 (mbits w 7 0 ≠ 0 || bits x 31 24 ≠ 0) (some x))

/-- A range of `n` bytes of a space, or none where R90 raises PROTECT; an empty range is never refused. -/
def range? (cu : Culture) (p : VatPlane) (eng prio : Nat) (x : Ctx) (sp off n : Nat) (store : Bool) : Option Window :=
  match window cu p eng prio x sp store with
  | none => none
  | some win => if win.holds off n then some win else none

/-- COPY (R93): both ranges are checked before any byte moves. -/
def copyOp (c : Chip) (e : Eng) (w : Enc) : Chip :=
  issue c e 4 false (mbits w 9 0 ≠ 0 || mbits w 13 12 = 3 || mbits w 11 10 = 3) fun r x =>
    let p := plane c e.vat
    let n := (rd x w.b).toNat
    if 4096 < n then .exc .illegal
    else
      match range? c.culture p e.num.val r x (mbits w 13 12) (rd x w.a).toNat n false,
            range? c.culture p e.num.val r x (mbits w 11 10) (rd x w.d).toNat n true with
      | some src, some dst =>
        if n = 0 then .done c (adv x 4)
        else if spaceFrozen c e.vat e.num.val src (rd x w.a).toNat n false || spaceFrozen c e.vat e.num.val dst (rd x w.d).toNat n true then .stall
        else
          let (p, x) := blockSpace p e.num.val x dst (rd x w.d).toNat (readSpace p e.num.val x src (rd x w.a).toNat n)
          .done (setPlane c e.vat p) (adv x 4)
      | _, _ => .exc .protect

/-- COPY. -/
def execCopy (e : Eng) (w : Enc) (s : State) : Host.Outcome State Fault Refusal := s.run fun c => settle (copyOp c e w)

/-- CRC (R114): REGF [13], SPACE [12:11], FIRST [10], LAST [9]. In the register form B and SPACE are unused. -/
def crcOp (c : Chip) (e : Eng) (w : Enc) : Chip :=
  let regf := w.minor.getLsbD 13
  let sp := mbits w 12 11
  issue c e 4 false (mbits w 8 0 ≠ 0 || (if regf then w.b ≠ 0 || sp ≠ 0 else sp = 3)) fun r x =>
    let p := plane c e.vat
    let n := if regf then 4 else (rd x w.b).toNat
    let src : Except Xc (Option (List Byte)) :=
      if regf then .ok (some (bytesLE 4 (rd x w.a).toNat))
      else if 4096 < n then .error .illegal
      else match range? c.culture p e.num.val r x sp (rd x w.a).toNat n false with
        | none => .error .protect
        | some win => .ok (if spaceFrozen c e.vat e.num.val win (rd x w.a).toNat n false then none
            else some (readSpace p e.num.val x win (rd x w.a).toNat n))
    match src with
    | .error k => .exc k
    | .ok none => .stall
    | .ok (some bs) =>
      let st := if w.minor.getLsbD 10 then 0xFFFFFFFF else (rd x w.d).toNat
      let st := crcBytes st bs
      .done c (adv (wr x w.d (word (if w.minor.getLsbD 9 then Nat.xor st 0xFFFFFFFF else st))) 4)

/-- CRC. -/
def execCrc (e : Eng) (w : Enc) (s : State) : Host.Outcome State Fault Refusal := s.run fun c => settle (crcOp c e w)

/-- Whether the oldest entry of an engine's store buffer goes to a bank that is frozen. -/
def drainFrozen (c : Chip) (e : Eng) : Bool :=
  match (engOf (plane c e.vat) e.num.val).stbuf with
  | [] => false
  | (a, bs) :: _ => bankFrozen c e.vat a bs.length

/-- STORE_BUFFER_DRAIN (R559): the oldest entry of the engine's store buffer is written to its bank, unless that is frozen. -/
def execStoreBufferDrain (e : Eng) (s : State) : Host.Outcome State Fault Refusal :=
  s.run fun c => settle (if serving c e.vat && !drainFrozen c e then onPlane c e.vat fun p => drainOne p e.num.val else c)

end Sys2Proof.Machine
end

