-- ==== Sys2Proof/Machine/QueueOps.lean ====
section
/-! DEFINITION. The queue instructions PUSH, POP, PEEK, CREDIT and FENCE, the ends of their waits, and the arrival
of Whey messages (R52, R94 to R98, R170 to R175). -/

namespace Sys2Proof.Machine

/-- The end code that a context holds (Table: End code, TYPE 0). -/
def ctxEndOf (x : Ctx) (eng : Nat) : Nat := ctxEnd x.task.code eng

/-- The checks of R94 that give ILLEGAL for PUSH, POP and PEEK. -/
def qIllegal (op : QOp) (w : Enc) (su : Bool) : Bool :=
  let mem := w.minor.getLsbD 13
  mbits w 6 0 ≠ 0 || (w.minor.getLsbD 7 && op ≠ .pop) || (su && mbits w 10 8 ≠ 0) ||
    (if mem then w.d ≠ 0 || mbits w 12 11 = 3 else w.a ≠ 0 || mbits w 12 11 ≠ 0) || (op ≠ .peek && w.b ≠ 0)

/-- The checks of R95 and R90 in the order of R115: an odd pair (8-byte register form) is ILLEGAL, a range outside
the window PROTECT, and the cases of R95 QUEUE. The entry size is known once the descriptor passes its check. -/
def qCheck (c : Chip) (e : Eng) (prio : Nat) (x : Ctx) (op : QOp) (w : Enc) : Option Xc :=
  let p := plane c e.vat
  let d := descOf p x.q.toNat
  let mem := w.minor.getLsbD 13
  let endOk := (match op with | .push => d.pend | _ => d.cend) = ctxEndOf x e.num.val
  if d.ok && !mem && d.size = 8 && !evenReg w.d then some .illegal
  else if d.ok && mem && (range? c.culture p e.num.val prio x (mbits w 12 11) (rd x w.a).toNat d.size (op ≠ .push)).isNone then
    some .protect
  else if !d.ok || !d.culture || !endOk || (!mem && d.size ≠ 4 && d.size ≠ 8) then some .queue
  else if op = .peek && d.depth ≤ (rd x w.b).toNat then some .queue
  else none

/-- The entry that PUSH takes from registers or memory. -/
def qSource (c : Chip) (e : Eng) (prio : Nat) (x : Ctx) (w : Enc) (d : Desc) : List Byte :=
  let p := plane c e.vat
  if w.minor.getLsbD 13 then
    match range? c.culture p e.num.val prio x (mbits w 12 11) (rd x w.a).toNat d.size false with
    | some win => readSpace p e.num.val x win (rd x w.a).toNat d.size
    | none => []
  else if d.size = 8 then bytesLE 8 (rdPair x w.d).toNat else bytesLE 4 (rd x w.d).toNat

/-- An entry written to registers or memory by POP or PEEK. -/
def qDest (c : Chip) (e : Eng) (prio : Nat) (x : Ctx) (w : Enc) (d : Desc) (bs : List Byte) : Chip × Ctx :=
  let p := plane c e.vat
  if w.minor.getLsbD 13 then
    match range? c.culture p e.num.val prio x (mbits w 12 11) (rd x w.a).toNat d.size true with
    | some win =>
      let (p, x) := blockSpace p e.num.val x win (rd x w.a).toNat bs
      (setPlane c e.vat p, x)
    | none => (c, x)
  else if d.size = 8 then (c, wrPair x w.d (BitVec.ofNat 64 (natLE bs)))
  else (c, wr x w.d (word (natLE bs)))

/-- Whether the operation needs a bank that is frozen (R184): that of its memory form's range, or for POP and PEEK that of the
entry's storage. -/
def qFrozen (c : Chip) (e : Eng) (prio : Nat) (x : Ctx) (op : QOp) (w : Enc) : Bool :=
  let p := plane c e.vat
  let q := x.q.toNat
  let d := descOf p q
  (w.minor.getLsbD 13 &&
    (match range? c.culture p e.num.val prio x (mbits w 12 11) (rd x w.a).toNat d.size (op ≠ .push) with
     | some win => spaceFrozen c e.vat e.num.val win (rd x w.a).toNat d.size (op ≠ .push)
     | none => false)) ||
  (op ≠ .push && bankFrozen c e.vat (entryAddr d ((queueOf p q).head + (if op = .peek then (rd x w.b).toNat else 0))) d.size)

/-- The queue operation itself, where its credit or entry is there; none where it waits (R95). -/
def qAttempt (c : Chip) (e : Eng) (prio : Nat) (x : Ctx) (op : QOp) (w : Enc) : Option (Chip × Ctx) :=
  let p := plane c e.vat
  let q := x.q.toNat
  let d := descOf p q
  let y := queueOf p q
  match op with
  | .push =>
    if d.depth ≤ y.spent then none
    else
      let en : Entry := ⟨qSource c e prio x w d, p.seq, c.core.tick, 0, 0⟩
      some (setPlane c e.vat { setQueue p q { y.append en with waitP := false } with seq := p.seq + 1 }, x)
  | .pop =>
    match visible p q with
    | [] => none
    | en :: _ =>
      let y := { y.takeHead d.depth with waitC := false }
      let y := if w.minor.getLsbD 7 then { y with deferred := y.deferred + 1 } else y.giveBack 1
      some (qDest (setPlane c e.vat (setQueue p q y)) e prio x w d en.bytes)
  | .peek =>
    match (visible p q)[(rd x w.b).toNat]? with
    | none => none
    | some en => some (qDest (setPlane c e.vat (setQueue p q { y with waitC := false })) e prio x w d en.bytes)

/-- The wait flags of a queue (Table: ARB_WQST1). -/
def qWaitFlag (c : Chip) (v : Vat) (q : Nat) (op : QOp) (on : Bool) : Chip :=
  onPlane c v fun p =>
    let y := queueOf p q
    setQueue p q (match op with | .push => { y with waitP := on } | _ => { y with waitC := on })

/-- PUSH, POP and PEEK: all checks first, then the operation or its wait. -/
def queueOp (c : Chip) (e : Eng) (op : QOp) (w : Enc) : Chip :=
  issue c e 4 false (qIllegal op w (match running c e with | some (_, x) => x.task = .setup | none => false)) fun r x =>
    match qCheck c e r x op w with
    | some k => .exc k
    | none =>
      match qAttempt c e r x op w with
      | some (c', x') => if qFrozen c e r x op w then .stall else .done c' (adv x' 4)
      | none => .wait (qWaitFlag c e.vat x.q.toNat op true) { x with wait := .queue op w 0 }

/-- PUSH. -/
def execPush (e : Eng) (w : Enc) (s : State) : Host.Outcome State Fault Refusal := s.run fun c => settle (queueOp c e .push w)
/-- POP. -/
def execPop (e : Eng) (w : Enc) (s : State) : Host.Outcome State Fault Refusal := s.run fun c => settle (queueOp c e .pop w)
/-- PEEK. -/
def execPeek (e : Eng) (w : Enc) (s : State) : Host.Outcome State Fault Refusal := s.run fun c => settle (queueOp c e .peek w)

/-- CREDIT (R95): MINOR, D and B are 0. -/
def execCredit (e : Eng) (w : Enc) (s : State) : Host.Outcome State Fault Refusal :=
  s.run fun c => settle <| issue c e 4 false (w.minor ≠ 0 || w.d ≠ 0 || w.b ≠ 0) fun _ x =>
    let p := plane c e.vat
    let q := x.q.toNat
    let d := descOf p q
    let y := queueOf p q
    let n := (rd x w.a).toNat
    if !d.ok || !d.culture || d.cend ≠ ctxEndOf x e.num.val || y.deferred < n then .exc .queue
    else .done (setPlane c e.vat (setQueue p q { (y.giveBack n) with deferred := y.deferred - n })) (adv x 4)

/-- The context that an engine runs and that waits, of a SERVING Vat. -/
def waitingCtx (c : Chip) (e : Eng) : Option (Nat × Ctx) :=
  let p := plane c e.vat
  match (engOf p e.num.val).cur with
  | none => none
  | some r =>
    let x := ctxOf p e.num.val r
    if p.state = .serving ∧ x.on ∧ x.wait ≠ .none then some (r, x) else none

/-- QUEUE_WAIT_END (R52): a waiting PUSH, POP or PEEK completes where its credit or entry is there. The wait reports
of the engine end with the wait. -/
def queueWaitEnd (c : Chip) (e : Eng) : Chip :=
  match waitingCtx c e with
  | some (r, x) =>
    match x.wait with
    | .queue op w _ =>
      match qAttempt c e r x op w with
      | some (c', x') =>
        if qFrozen c e r x op w then c
        else onPlane c' e.vat fun p =>
          let p := finishWait p e.num.val r x' 4
          setEng p e.num.val { engOf p e.num.val with qreports := Tri.all none, qpostAt := none }
      | none => c
    | _ => c
  | none => c

/-- QUEUE_WAIT_END. -/
def execQueueWaitEnd (e : Eng) (s : State) : Host.Outcome State Fault Refusal := s.run fun c => settle (queueWaitEnd c e)

/-- Whether the earlier pushes of an end have reached their queues, and its returned credits their producers (R97). -/
def fenceDone (p : VatPlane) (endc : Nat) : Bool :=
  p.queues.all fun k =>
    let d := descOf p k.1
    (d.pend ≠ endc || k.2.transit.isEmpty) && (d.cend ≠ endc || k.2.back = 0)

/-- FENCE: MINOR and all register fields 0 (R97). -/
def execFence (e : Eng) (w : Enc) (s : State) : Host.Outcome State Fault Refusal :=
  s.run fun c => settle <| issue c e 4 false (w.minor ≠ 0 || w.d ≠ 0 || w.a ≠ 0 || w.b ≠ 0) fun _ x =>
    if fenceDone (plane c e.vat) (ctxEndOf x e.num.val) then .done c (adv x 4) else .wait c { x with wait := .fence }

/-- FENCE_COMPLETE (R97). -/
def fenceComplete (c : Chip) (e : Eng) : Chip :=
  match waitingCtx c e with
  | some (r, x) =>
    if x.wait = .fence && fenceDone (plane c e.vat) (ctxEndOf x e.num.val) then
      onPlane c e.vat fun p => finishWait p e.num.val r x 4
    else c
  | none => c

/-- FENCE_COMPLETE. -/
def execFenceComplete (e : Eng) (s : State) : Host.Outcome State Fault Refusal := s.run fun c => settle (fenceComplete c e)

/-- TRANSFER_MESSAGE (R171, R173): the oldest entry in transit of a queue of Vat `v`, or of a queue of one copy,
reaches its consumer; `ok` is the header check. -/
def execTransferMessage (v : Option Vat) (q : Nat) (ok : Bool) (s : State) : Host.Outcome State Fault Refusal :=
  s.run fun c => settle (match v with | some v => transferVat c v q ok | none => transferDev c q ok)

/-- CREDIT_MESSAGE (R171, R173): `n` credits, 1 to 16, reach the producer; an Affineur channel that waits for them appends (R175). -/
def execCreditMessage (v : Option Vat) (q n : Nat) (ok : Bool) (s : State) : Host.Outcome State Fault Refusal :=
  s.run fun c => settle (if n = 0 ∨ 16 < n then c else mdFeed (match v with | some v => creditVat c v q n ok | none => creditDev c q n ok))

end Sys2Proof.Machine
end

