-- ==== Sys2Proof/Machine/Image.lean ====
section
/-! DEFINITION. The curd and press-image instructions, time and events, the configuration instructions as the engine
issues them, the recorder and health instructions and NOISE (R99 to R113), and the ends of their waits. -/

namespace Sys2Proof.Machine

/-! ### Curd and press image (R100, R101) -/

/-- The agreed value of a point in a task's curd; one that the curd does not list has status 0 and all-zero content. -/
def curdPoint (c : Chip) (a : Act) (pt : Nat) : PointVal :=
  match mapGet none a.curd pt with
  | some v => v
  | none => ⟨0, List.replicate (ptSize c pt) 0⟩

/-- The bytes of a press point of the present cycle, before it is written those of the last commit (R42). -/
def imagePoint (c : Chip) (a : Act) (pt : Nat) : List Byte :=
  match mapGet none a.image.points pt with
  | some bs => bs
  | none => padTo (ptSize c pt) ((mapGet none c.core.committed pt).getD [])

/-- The layout checks of IN and OUT (R71, R72, R100). -/
def imgIllegal (w : Enc) (x : Word) (out : Bool) : Bool :=
  let form := mbits w 13 12
  let sp := mbits w 11 10
  mbits w 9 0 ≠ 0 || (if form = 2 then w.d ≠ 0 || sp = 3 else w.a ≠ 0 || w.b ≠ 0 || sp ≠ 0) || (form = 1 && !evenReg w.d) ||
    (form = 3 && (out || bits x 31 16 ≠ 0))

/-- The checks of IN and OUT that follow ILLEGAL: ALIGN, PROTECT of the range in SPACE, IMAGE (R90, R101). -/
def imgCheck (c : Chip) (e : Eng) (prio : Nat) (k : Ctx) (w : Enc) (x : Word) (out : Bool) : Option Xc :=
  let form := mbits w 13 12
  let ofs := bits x 31 16
  let pt := bits x 15 0
  let n := match form with | 0 => 4 | 1 => 8 | 2 => (rd k w.b).toNat | _ => 0
  if form < 2 && ofs % n ≠ 0 then some .align
  else if form = 2 && (range? c.culture (plane c e.vat) e.num.val prio k (mbits w 11 10) (rd k w.a).toNat n (!out)).isNone then
    some .protect
  else if k.task = .setup || !ptBelongs c pt out k.task || (n ≠ 0 && ptSize c pt < ofs + n) then some .image
  else none

/-- IN (R100, R101). -/
def inOp (c : Chip) (e : Eng) (w : Enc) (x : Word) : Chip :=
  issue c e 8 false (imgIllegal w x false) fun r k =>
    match imgCheck c e r k w x false with
    | some ex => .exc ex
    | none =>
      let p := plane c e.vat
      let v := curdPoint c (ctxAct p k) (bits x 15 0)
      let take (n : Nat) : List Byte := (v.bytes.drop (bits x 31 16)).take n
      match mbits w 13 12 with
      | 0 => .done c (adv (wr k w.d (word (natLE (take 4)))) 8)
      | 1 => .done c (adv (wrPair k w.d (BitVec.ofNat 64 (natLE (take 8)))) 8)
      | 2 =>
        let n := (rd k w.b).toNat
        match range? c.culture p e.num.val r k (mbits w 11 10) (rd k w.a).toNat n true with
        | none => .exc .protect
        | some win =>
          if n = 0 then .done c (adv k 8)
          else if spaceFrozen c e.vat e.num.val win (rd k w.a).toNat n true then .stall
          else
            let (p, k) := blockSpace p e.num.val k win (rd k w.a).toNat (take n)
            .done (setPlane c e.vat p) (adv k 8)
      | _ => .done c (adv (wr k w.d v.status) 8)

/-- Bytes written to a press point of the present cycle. -/
def writeImage (c : Chip) (v : Vat) (k : Ctx) (pt ofs : Nat) (bs : List Byte) : Chip :=
  onPlane c v fun p =>
    let a := ctxAct p k
    setCtxAct p k { a with image := { a.image with points := mapPut none a.image.points pt (some (overlay (imagePoint c a pt) ofs bs)) } }

/-- OUT (R100, R101). -/
def outOp (c : Chip) (e : Eng) (w : Enc) (x : Word) : Chip :=
  issue c e 8 false (imgIllegal w x true) fun r k =>
    match imgCheck c e r k w x true with
    | some ex => .exc ex
    | none =>
      let put (bs : List Byte) : Effect := .done (writeImage c e.vat k (bits x 15 0) (bits x 31 16) bs) (adv k 8)
      match mbits w 13 12 with
      | 0 => put (bytesLE 4 (rd k w.d).toNat)
      | 1 => put (bytesLE 8 (rdPair k w.d).toNat)
      | _ =>
        let p := plane c e.vat
        let n := (rd k w.b).toNat
        match range? c.culture p e.num.val r k (mbits w 11 10) (rd k w.a).toNat n false with
        | none => .exc .protect
        | some win =>
          if n = 0 then .done c (adv k 8)
          else if spaceFrozen c e.vat e.num.val win (rd k w.a).toNat n false then .stall
          else put (readSpace p e.num.val k win (rd k w.a).toNat n)

/-- IN. -/
def execInPoint (e : Eng) (w : Enc) (x : Word) (s : State) : Host.Outcome State Fault Refusal := s.run fun c => settle (inOp c e w x)
/-- OUT. -/
def execOutPoint (e : Eng) (w : Enc) (x : Word) (s : State) : Host.Outcome State Fault Refusal := s.run fun c => settle (outOp c e w x)

/-- EVR (R102): the agreed event record to offset ga of a space. -/
def execEvr (e : Eng) (w : Enc) (s : State) : Host.Outcome State Fault Refusal :=
  s.run fun c => settle <| issue c e 4 false (mbits w 11 0 ≠ 0 || w.d ≠ 0 || w.b ≠ 0 || mbits w 13 12 = 3) fun r k =>
    let p := plane c e.vat
    match range? c.culture p e.num.val r k (mbits w 13 12) (rd k w.a).toNat 16 true with
    | none => .exc .protect
    | some win =>
      if !k.task.ev then .exc .image
      else if spaceFrozen c e.vat e.num.val win (rd k w.a).toNat 16 true then .stall
      else
        let (p, k) := blockSpace p e.num.val k win (rd k w.a).toNat (padTo 16 (ctxAct p k).record)
        .done (setPlane c e.vat p) (adv k 4)

/-! ### Time and events (R103 to R105) -/

/-- TIME (R103): an agreed instant of the cycle to a pair. -/
def execTime (e : Eng) (w : Enc) (s : State) : Host.Outcome State Fault Refusal :=
  s.run fun c => settle <| issue c e 4 false (mbits w 11 0 ≠ 0 || w.a ≠ 0 || w.b ≠ 0 || !evenReg w.d) fun _ k =>
    if k.task = .setup then .exc .time
    else
      let a := ctxAct (plane c e.vat) k
      let v := match mbits w 13 12 with
        | 0 => a.curdTime
        | 1 => a.commitTime
        | 2 => a.tick
        | _ => a.pressTime
      .done c (adv (wrPair k w.d (BitVec.ofNat 64 v)) 4)

/-- WAITT (R104): judged against the agreed instants, then a wait for the Vat's own counter. -/
def execWaitt (e : Eng) (w : Enc) (s : State) : Host.Outcome State Fault Refusal :=
  s.run fun c => settle <| issue c e 4 false (w.minor ≠ 0 || w.d ≠ 0 || w.b ≠ 0 || !evenReg w.a) fun _ k =>
    let p := plane c e.vat
    let a := ctxAct p k
    let t := (rdPair k w.a).toNat
    if k.task = .setup then
      if t ≤ p.time then .done c (adv k 4) else .wait c { k with wait := .time t }
    else if t ≤ a.curdTime then .done c (adv k 4)
    else if a.pressTime ≤ t then .exc .time
    else if t ≤ p.time then .done c (adv k 4)
    else .wait c { k with wait := .time t }

/-- WAITT_COMPLETE (R104): the Vat's own time counter has reached the target. -/
def waittComplete (c : Chip) (e : Eng) : Chip :=
  match waitingCtx c e with
  | some (r, k) =>
    match k.wait with
    | .time t => if t ≤ (plane c e.vat).time then onPlane c e.vat fun p => finishWait p e.num.val r k 4 else c
    | _ => c
  | none => c

/-- WAITT_COMPLETE. -/
def execWaittComplete (e : Eng) (s : State) : Host.Outcome State Fault Refusal := s.run fun c => settle (waittComplete c e)

/-- The image of a context's cycle changed. -/
def onImage (c : Chip) (v : Vat) (k : Ctx) (f : Image → Image) : Chip :=
  onPlane c v fun p => let a := ctxAct p k; setCtxAct p k { a with image := f a.image }

/-- RAISE (R105). -/
def execRaise (e : Eng) (w : Enc) (s : State) : Host.Outcome State Fault Refusal :=
  s.run fun c => settle <| issue c e 4 false (mbits w 13 6 ≠ 0 || w.d ≠ 0 || w.a ≠ 0 || w.b ≠ 0) fun _ k =>
    if k.task = .setup then .exc .image
    else .done (onImage c e.vat k fun i => { i with raises := i.raises ||| (1 <<< mbits w 5 0) }) (adv k 4)

/-! ### Requests to the press during the cycle (R24, R106 to R113) -/

/-- A context completed with the words of a reply: the pair gets both, a single register the first. -/
def applyReply (k : Ctx) (d : BitVec 4) (pair : Bool) (ws : List Word) : Ctx :=
  if pair then wr (wr k d (ws.getD 0 0)) (d ||| 1) (ws.getD 1 0) else wr k d (ws.getD 0 0)

/-- What a context that issues a request finds (R24, R25): nothing of it yet, so that it is posted; the port has acted
on the same request already, with the reply or without; or the port has acted on a different one. -/
inductive Posted
  | posted (p : VatPlane)
  | met (p : VatPlane) (reply : Option (List Word))
  | differs (p : VatPlane)

/-- A request issued by a context of the cycle of curd tick `t`: posted in program order, or held against those of that cycle that the
port has acted on. -/
def postReq (p : VatPlane) (key t : Nat) (q : Req) : Posted :=
  match (mapGet [] p.owed key).filter fun o => o.1 = t with
  | [] => .posted { p with reqs := mapPut [] p.reqs key (mapGet [] p.reqs key ++ [q]) }
  | o :: _ =>
    let p := { p with owed := mapPut [] p.owed key ((mapGet [] p.owed key).erase o) }
    if o.2 = q then
      match q, mapGet [] p.early key with
      | .log _, _ => .met p none
      | .hset _, _ => .met p none
      | _, [] => .met p none
      | _, r :: rs => .met { p with early := mapPut [] p.early key rs } (some r)
    else .differs p

/-- A request that waits for its reply (CFG.SET, CFG.GET, COMMIT, ABORT, NOISE). -/
def requestWait (c : Chip) (e : Eng) (r : Nat) (k : Ctx) (q : Req) (d : BitVec 4) (pair : Bool) (len : Nat) (wt : Wait) : Effect :=
  match postReq (plane c e.vat) (ctxKey e.num.val r) (ctxAct (plane c e.vat) k).tick q with
  | .posted p => .wait (setPlane c e.vat p) { k with wait := wt }
  | .met p (some ws) => .done (setPlane c e.vat p) (adv (applyReply k d pair ws) len)
  | .met p none => .wait (setPlane c e.vat p) { k with wait := wt }
  | .differs p => .wait (todoSour (setPlane c e.vat p) e.vat 1 q.kind (some k.task) 0) { k with wait := wt }

/-- A request that waits for nothing: LOG and HSET of the setup program (R110, R111). -/
def requestGo (c : Chip) (e : Eng) (r : Nat) (k : Ctx) (q : Req) : Effect :=
  match postReq (plane c e.vat) (ctxKey e.num.val r) (ctxAct (plane c e.vat) k).tick q with
  | .posted p => .done (setPlane c e.vat p) (adv k 4)
  | .met p _ => .done (setPlane c e.vat p) (adv k 4)
  | .differs p => .done (todoSour (setPlane c e.vat p) e.vat 1 q.kind (some k.task) 0) (adv k 4)

/-- The address of CFG.SET and CFG.GET: extension word [23:0], plus gb with IDX (R106). -/
def cfgAddr (k : Ctx) (w : Enc) (x : Word) : Nat := bits x 23 0 + (if w.minor.getLsbD 13 then (rd k w.b).toNat else 0)

/-- CFG.SET (R106). -/
def execCfgSet (e : Eng) (w : Enc) (x : Word) (s : State) : Host.Outcome State Fault Refusal :=
  s.run fun c => settle <| issue c e 8 false (mbits w 12 0 ≠ 0 || (!w.minor.getLsbD 13 && w.b ≠ 0) || bits x 31 24 ≠ 0) fun r k =>
    requestWait c e r k (.set (cfgAddr k w x) (rd k w.a)) w.d false 8 (.cfg w.d false 8)
/-- CFG.GET (R106): the staging read with STG = 1. -/
def execCfgGet (e : Eng) (w : Enc) (x : Word) (s : State) : Host.Outcome State Fault Refusal :=
  s.run fun c => settle <| issue c e 8 false
      (mbits w 11 0 ≠ 0 || (!w.minor.getLsbD 13 && w.b ≠ 0) || w.a ≠ 0 || bits x 31 24 ≠ 0 || !evenReg w.d) fun r k =>
    requestWait c e r k (.get (cfgAddr k w x) (w.minor.getLsbD 12)) w.d true 8 (.cfg w.d true 8)
/-- COMMIT (R106, R109). -/
def execCommit (e : Eng) (w : Enc) (s : State) : Host.Outcome State Fault Refusal :=
  s.run fun c => settle <| issue c e 4 false (w.minor ≠ 0 || w.a ≠ 0 || w.b ≠ 0 || !evenReg w.d) fun r k =>
    requestWait c e r k .commit w.d true 4 (.cfg w.d true 4)
/-- ABORT (R106, R109). -/
def execAbort (e : Eng) (w : Enc) (s : State) : Host.Outcome State Fault Refusal :=
  s.run fun c => settle <| issue c e 4 false (w.minor ≠ 0 || w.a ≠ 0 || w.b ≠ 0) fun r k =>
    requestWait c e r k .abort w.d false 4 (.cfg w.d false 4)
/-- NOISE (R112). -/
def execNoise (e : Eng) (w : Enc) (s : State) : Host.Outcome State Fault Refusal :=
  s.run fun c => settle <| issue c e 4 false (w.minor ≠ 0 || w.a ≠ 0 || w.b ≠ 0 || !evenReg w.d) fun r k =>
    requestWait c e r k .noise w.d true 4 (.noise w.d)

/-- A LOG request entered into the list of its image: ascending engine, then program order (log entry 10). -/
def addLog (l : List (Nat × LogReq)) (eng : Nat) (r : LogReq) : List (Nat × LogReq) :=
  l.takeWhile (fun e => e.1 ≤ eng) ++ (eng, r) :: l.dropWhile (fun e => e.1 ≤ eng)

/-- LOG (R110). -/
def execLog (e : Eng) (w : Enc) (s : State) : Host.Outcome State Fault Refusal :=
  s.run fun c => settle <| issue c e 4 false (mbits w 11 0 ≠ 0 || w.d ≠ 0 || mbits w 13 12 = 3) fun r k =>
    let p := plane c e.vat
    match range? c.culture p e.num.val r k (mbits w 13 12) (rd k w.b).toNat 16 false with
    | none => .exc .protect
    | some win =>
      let l : LogReq := ⟨bits (rd k w.a) 15 0, readSpace p e.num.val k win (rd k w.b).toNat 16⟩
      if spaceFrozen c e.vat e.num.val win (rd k w.b).toNat 16 false then .stall
      else if k.task = .setup then requestGo c e r k (.log l)
      else .done (onImage c e.vat k fun i => { i with logs := addLog i.logs e.num.val l }) (adv k 4)

/-- HEALTH (R111), operation HSET for MINOR [13:12] = 0, HGET for 1; 2 and 3 are ILLEGAL. -/
def healthOp (c : Chip) (e : Eng) (w : Enc) : Chip :=
  let op := mbits w 13 12
  issue c e 4 false (mbits w 11 4 ≠ 0 || w.b ≠ 0 || 2 ≤ op ||
      (if op = 0 then w.d ≠ 0 || mbits w 3 0 ≠ 0 else w.a ≠ 0 || 5 ≤ mbits w 3 0)) fun r k =>
    if op = 0 then
      if k.task = .setup then requestGo c e r k (.hset (rd k w.a))
      else .done (onImage c e.vat k fun i => { i with hset := mapPut none i.hset e.num.val (some (rd k w.a)) }) (adv k 4)
    else
      let items := if k.task = .setup then c.sys.setupHget else (ctxAct (plane c e.vat) k).hget
      .done c (adv (wr k w.d (items.getD (mbits w 3 0) 0)) 4)

/-- HSET. -/
def execHset (e : Eng) (w : Enc) (s : State) : Host.Outcome State Fault Refusal := s.run fun c => settle (healthOp c e w)
/-- HGET. -/
def execHget (e : Eng) (w : Enc) (s : State) : Host.Outcome State Fault Refusal := s.run fun c => settle (healthOp c e w)

/-! ### Replies of the port (R25, R109, R112) -/

/-- A reply delivered to one Vat: it completes the context that waits for it, or is kept for a Vat that has not issued
the request yet. A Vat that is not SERVING receives nothing. -/
def deliverReply (c : Chip) (v : Vat) (eng prio : Nat) (ws : List Word) : Chip :=
  let p := plane c v
  if p.state ≠ .serving then c
  else
    let key := ctxKey eng prio
    let k := ctxOf p eng prio
    let early := setPlane c v { p with early := mapPut [] p.early key (mapGet [] p.early key ++ [ws]) }
    match mapGet [] p.owed key, k.wait with
    | [], .cfg d pair len => setPlane c v (finishWait p eng prio (applyReply k d pair ws) len)
    | [], .noise d => setPlane c v (finishWait p eng prio (applyReply k d true ws) 4)
    | _, _ => early

/-- A reply delivered to all three Vats. -/
def deliverAll (c : Chip) (eng prio : Nat) (ws : List Word) : Chip :=
  allVats.foldl (fun c v => deliverReply c v eng prio ws) c

/-- The next random value and status (R112, R113): OK with a fresh value, NOT_READY or FAILED with 0. -/
def noiseWords (c : Chip) : Chip × List Word :=
  if c.sys.rngFailed then (c, [0, 2])
  else if !c.sys.rngReady then (c, [0, 1])
  else let (n, c) := drawStamp c; (c, [Config.noise n, 0])

/-- NOISE_REPLY (R112): the oldest NOISE request on which the press agreed receives its value. -/
def noiseReply (c : Chip) : Chip :=
  match c.sys.noise with
  | [] => c
  | key :: rest =>
    let (c, ws) := noiseWords { c with sys := { c.sys with noise := rest } }
    deliverAll c (key / 16) (key % 16) ws

/-- NOISE_REPLY. -/
def execNoiseReply (s : State) : Host.Outcome State Fault Refusal := s.run fun c => settle (noiseReply c)

end Sys2Proof.Machine
end

