-- ==== Sys2Proof/Machine/Staging.lean ====
section
/-! DEFINITION. Staging and COMMIT (R199 to R208, R216): the rules that a COMMIT checks over the words as they would stand,
and what COMMIT, ABORT and STG.BREAK do. -/

namespace Sys2Proof.Machine

/-! ### The words after the commit (R203) -/

/-- The words that a commit of staging would make live: expert fields of a block that would have no EXPERT keep their derived
values (R202). -/
def committedWords (c : Chip) : SMap (Option Word) :=
  let x := match mapGet none c.sys.staged Reg.sysExpert.addr with
    | some w => w
    | none => rawReg c Reg.sysExpert.addr
  c.sys.staged.map fun e =>
    (e.1, e.2.map fun w => if blockOf e.1 < 28 && bit x (blockOf e.1) then w else derivedWord e.1 w)

/-- The chip with every staged word live, for the rules to look at. -/
def afterCommit (c : Chip) : Chip :=
  let old := rawReg c Reg.sysExpert.addr
  let new := (mapGet none c.sys.staged Reg.sysExpert.addr).getD old
  let gone (a : Nat) : Bool := blockOf a < 28 && bit old (blockOf a) && !bit new (blockOf a)
  let c := ((c.regs.map (·.1)).filter gone).foldl (fun c a => setReg c a (derivedWord a (rawReg c a))) c
  (committedWords c).foldl (fun c e => match e.2 with | some w => setReg c e.1 w | none => c) c

/-! ### HXK (R64, R66) -/

/-- Whether the culture has a chain of a task (R64). -/
def hasChain (c : Chip) (t : TaskId) : Bool := c.culture.chains.any fun k => k.task = t.code

/-- The rules of both kinds of task on the first word of an entry. R64 does not say which field a COMMIT names for an enabled task
without a chain, nor for OVRACT 1 with OVRLIM 0: they are EN and OVRLIM (DESIGN CHOICE, log entry 18). -/
def taskRules (c : Chip) (t : TaskId) (a : Nat) : List Fail :=
  let w := rawReg c a
  failIf (bit w 31 && !hasChain c t) a 31 31 ++ failIf (bits w 30 29 = 3) a 30 29 ++
    failIf (bits w 30 29 = 1 && bits w 24 21 = 0) a 24 21

/-- Periodic tasks: PERIOD and PHASE. -/
def periodicRules (c : Chip) (n : Fin 64) : List Fail :=
  let a := Reg.hxkTcfg.addr n.val
  let w := rawReg c a
  taskRules c (.periodic n) a ++
    (if !bit w 31 then [] else
      failIf (bits w 17 0 = 0 || 200000 < bits w 17 0) a 17 0 ++
        failIf (bits w 17 0 * 50 ≤ taskPhase c n) (Reg.hxkTphase.addr n.val) 23 0)

/-- Event tasks: the deadline, and the source that no lower-numbered task names (R204). -/
def eventRules (c : Chip) (v : Fin 256) : List Fail :=
  let a := Reg.hxkVcfg.addr v.val
  let w := rawReg c a
  let d := taskDl c v
  taskRules c (.event v) a ++
    (if !bit w 31 then [] else
      failIf (d < 10 || 10000 < d || d < prGuard c + 8) (Reg.hxkVdl.addr v.val) 13 0 ++
        failIf ((List.range v.val).any fun u =>
          let x := rawReg c (Reg.hxkVcfg.addr u)
          bit x 31 && bits x 11 0 = bits w 11 0) a 11 0)

/-- The enabled points, ascending. -/
def enabledPoints (c : Chip) : List Nat :=
  ((regsIn c.regs Reg.hxkPt.base (Reg.hxkPt.base + 65535)).map (fun e => e.1 - Reg.hxkPt.base)).filter fun p => bit (ptEntry c p) 31

/-- A binding field's POINT, where it binds one: a register without an enable field binds no point with 0 (R65). -/
def boundPoint (c : Chip) (a : Nat) : List Nat := let p := bits (rawReg c a) 31 16; if p = 0 then [] else [p]

/-- The points that input bindings name, once per binding (R66). -/
def inputBindings (c : Chip) : List Nat :=
  (subscriptions c).map (fun m => bits (rawReg c (Reg.ethSpnt.addr m)) 31 16) ++
  (inboxes c).map (fun i => bits (rawReg c (Reg.ethMdctl.addr i)) 15 0) ++
  ((List.range 8).filter fun n => bit (rawReg c (Reg.ptpCapctl.addr n)) 31).map (fun n => bits (rawReg c (Reg.ptpCappnt.addr n)) 31 16) ++
  boundPoint c Reg.ptpTspnt.addr ++
  ((mvbPorts c).filter fun j => !bit (mvbCfg c j) 30).map (mvbPoint c) ++ boundPoint c Reg.mvbStspnt.addr ++
  ((List.range 4).flatMap fun p => boundPoint c (Reg.canRxpnt.addr p 0) ++ boundPoint c (Reg.canRxpnt.addr p 1) ++
    boundPoint c (Reg.canStspnt.addr p)) ++
  (windows c 1 ++ windows c 2).map (winPoint c) ++
  ((List.range 8).filter fun g => bit (rawReg c (Reg.dioGcfg.addr g)) 15).map (fun g => bits (rawReg c (Reg.dioGcfg.addr g)) 31 16) ++
  boundPoint c Reg.dioRbpnt.addr ++
  ((List.range 8).filter fun n => bit (spdCfg c n) 31 && spdBase c n = n).map (fun n => bits (rawReg c (Reg.spdPnt.addr n)) 31 16) ++
  ((List.range 32).flatMap fun n => boundPoint c (Reg.alpPnt.addr n)) ++ boundPoint c Reg.rindPnt.addr

/-- The rules of R66 on the point table. -/
def pointRules (c : Chip) : List Fail :=
  let ps := enabledPoints c
  let named := inputBindings c
  let own := ps.flatMap fun p =>
    let e := ptEntry c p
    let t := TaskId.ofCode (bits e 29 21)
    let known := bit e 29 || bits e 28 21 < 64
    failIf (!known || !taskEn c t || !hasChain c t) (Reg.hxkPt.addr p) 28 21 ++
      failIf (!bit e 30 && 2 ≤ (named.filter (· = p)).length) (Reg.hxkPt.addr p) 30 30
  let sum := (ps.map fun p => if bit (ptEntry c p) 30 then 2 * ptSize c p else ptSize c p).sum
  own ++ (match ps.getLast? with
    | some p => failIf (c.culture.csize < sum) (Reg.hxkPt.addr p) 10 0
    | none => [])

/-- The rules of HXK (R64, R66). -/
def hxkRules (c : Chip) : List Fail :=
  let x := rawReg c Reg.hxkXctl.addr
  (List.finRange 64).flatMap (periodicRules c) ++ (List.finRange 256).flatMap (eventRules c) ++ pointRules c ++
    failIf (bits x 15 8 = 0 || 8 < bits x 15 8) Reg.hxkXctl.addr 15 8 ++
    failIf (bits x 3 0 < 2 || 8 < bits x 3 0) Reg.hxkXctl.addr 3 0

/-! ### VAT (R126, R134, R158) -/

/-- The bytes of a task's sample set, with its header (R124). -/
def setLength (c : Chip) (t : TaskId) : Nat := 16 + ((taskPoints c false t).map (ptSize c)).sum

/-- Two periodic tasks have curd instants on a common tick: their phases agree modulo the divisor that their periods share. -/
def shareTick (c : Chip) (m n : Fin 64) : Bool :=
  decide ((taskPhase c m : Int) % Nat.gcd (taskPeriod c m) (taskPeriod c n) = (taskPhase c n : Int) % Nat.gcd (taskPeriod c m) (taskPeriod c n))

/-- The largest sum over one tick: tasks that share ticks two by two share one all together. -/
def largestSum (c : Chip) : Nat → List (Fin 64) → Nat
  | 0, _ => 0
  | _, [] => 0
  | k + 1, n :: ns =>
    let with_ := setLength c (.periodic n) + largestSum c k (ns.filter (shareTick c n))
    if ns.all (shareTick c n) then with_ else max with_ (largestSum c k ns)

/-- VAT_XSIZE.BYTES (R126). -/
def setVolume (c : Chip) : Nat :=
  largestSum c 64 ((List.finRange 64).filter fun n => taskEn c (.periodic n)) +
    (((List.finRange 256).filter fun v => taskEn c (.event v)).map fun v => setLength c (.event v)).sum

/-- The bytes that the press compares for a task from press close to commit (R134). -/
def pressVolume (c : Chip) (t : TaskId) : Nat := 200 + ((taskPoints c true t).map (ptSize c)).sum

/-- The rules of VAT. -/
def vatRules (c : Chip) : List Fail :=
  let w := rawReg c Reg.vatCtl.addr
  let tasks := (List.finRange 64).map TaskId.periodic ++ (List.finRange 256).map TaskId.event
  failIf (bits w 23 16 < 4 || 64 < bits w 23 16) Reg.vatCtl.addr 23 16 ++
    failIf (bits w 11 8 = 0 || 8 < bits w 11 8) Reg.vatCtl.addr 11 8 ++
    failIf (8192 < setVolume c) Reg.vatXsize.addr 13 0 ++
    failIf (tasks.any fun t => decide (6400 * prGuard c < pressVolume c t + 3200)) Reg.hxkXctl.addr 3 0

/-! ### WHY (R163, R168) -/

/-- Ports that produce into queues, by block (Table: End code, R224, R292, R339, R360, R382). -/
def producerPort (block port : Nat) : Bool :=
  (block = 7 && port < 32) || (block = 5 && port < 2) || (block = 9 && port < 16) || (block = 10 && port < 8) || (block = 11 && port < 64)

/-- Ports that consume from queues, by block. -/
def consumerPort (block port : Nat) : Bool :=
  (block = 7 && port = 32) || (block = 9 && port = 16) || (block = 10 && 8 ≤ port && port < 12) || (block = 11 && port = 64)

/-- Largest depth and entry size of a queue stored in its consuming block: those of the module's own queue there (log entry
24). -/
def portLimits (cend : Nat) : Nat × Nat :=
  match moduleDescs.find? fun d => d.2.cend = cend with
  | some d => (d.2.depth, d.2.size)
  | none => (0, 0)

/-- An end code as its TYPE lays it out: reserved bits, and what it names (R162, R168). -/
def endOk (c : Chip) (consumer : Bool) (e : Nat) : Bool :=
  let x := word e
  match endType e with
  | 0 =>
    bits x 7 6 = 0 &&
      (if bit x 17 then bits x 16 8 = 0 && bits x 5 0 = 0
       else c.culture.chains.any fun k => k.task = bits x 16 8 && k.engine = bits x 5 0)
  | 1 => bits x 17 2 = 0 && (if consumer then bits x 1 0 ≤ 1 else bits x 1 0 = 2)
  | 2 => if consumer then consumerPort (bits x 17 10) (bits x 9 0) else producerPort (bits x 17 10) (bits x 9 0)
  | _ => bits x 17 8 = 0

/-- Whether Table: Queue kinds has the combination. -/
def kindOk (p q : Nat) : Bool :=
  [(0, 0), (2, 1), (3, 1), (1, 2), (1, 3), (2, 2), (3, 2), (3, 3), (2, 3)].contains (endType p, endType q)

/-- Whether two areas of (base, length) meet. -/
def areasMeet (a b : Nat × Nat) : Bool := a.1 < b.1 + b.2 && b.1 < a.1 + a.2

/-- The storage of a queue in Vat memory; none where it lies in its consumer. -/
def vatStorage (d : Desc) : Option (Nat × Nat) := if endType d.cend ≤ 1 then some (d.base, d.depth * d.size) else none

/-- The points that an inbound queue feeds, by its producer end. -/
def fedPoints (c : Chip) (pend : Nat) : List Nat :=
  let port := pend % 1024
  match endType pend, pend / 1024 % 256 with
  | 2, 7 => ((subscriptions c).filter fun m => bits (rawReg c (Reg.ethSpnt.addr m)) 15 11 = port).map fun m => bits (rawReg c (Reg.ethSpnt.addr m)) 31 16
  | 2, 9 => ((mvbPorts c).filter fun j => !bit (mvbCfg c j) 30 && bits (mvbCfg c j) 19 16 = port).map (mvbPoint c)
  | 2, 10 => boundPoint c (Reg.canRxpnt.addr (port / 2) (port % 2))
  | 2, 11 => ((windows c 1 ++ windows c 2).filter (· = port)).map (winPoint c)
  | 3, _ => ((inboxes c).filter fun i => pend % 256 = 16 + i).map fun i => bits (rawReg c (Reg.ethMdctl.addr i)) 15 0
  | _, _ => []

/-- Where BASE is broken: storage in Vat memory outside the culture's memory or over other storage, of which the
higher-numbered queue is named (R204); storage in a consumer with a BASE or beyond the block's limits; a culture queue unlike its
place (R31). -/
def baseBroken (c : Chip) (qs : List Nat) (q : Nat) (d : Desc) : Bool :=
  let place := c.culture.queues.find? fun x => x.handle = q
  let size := bits d.ctl 26 21
  match vatStorage d with
  | some a =>
    decide (0xF00000 < a.1 + a.2) || c.culture.insts.any (fun i => areasMeet a (i.base, i.size)) ||
      c.culture.consts.any (fun k => areasMeet a k.2) ||
      (qs.filter (· < q)).any (fun r => match vatStorage (liveDesc c r) with | some b => areasMeet a b | none => false) ||
      (endType d.cend = 0 && (match place with
        | some x => x.base * 8 ≠ d.base || x.size ≠ size || x.depth + 1 ≠ d.depth
        | none => true))
  | none =>
    d.base ≠ 0 || (endType d.cend = 2 && (let l := portLimits d.cend; l.1 < d.depth || l.2 < d.size))

/-- The rules of one enabled queue. -/
def queueRules (c : Chip) (qs : List Nat) (q : Nat) : List Fail :=
  let d := liveDesc c q
  let ctl := Reg.whyCtl.addr q
  let prod := Reg.whyProd.addr q
  let cons := Reg.whyCons.addr q
  let before := (qs.filter (· < q)).map (liveDesc c)
  let points := fedPoints c d.pend
  let twice := d.inbound && before.any fun r => r.inbound && (fedPoints c r.pend).any points.contains
  let tasks := (points.map fun p => bits (ptEntry c p) 29 21).eraseDups
  failIf (!kindOk d.pend d.cend || (d.inbound && (twice || 1 < tasks.length))) cons 19 0 ++
    failIf (!endOk c false d.pend) prod 19 0 ++ failIf (!endOk c true d.cend) cons 19 0 ++
    failIf (baseBroken c qs q d) ctl 20 0 ++
    failIf (d.ord = 3 || (d.ord = 2 && endType d.pend ≠ 1 && endType d.pend ≠ 2)) ctl 30 29 ++
    failIf (d.evt = 3 || (d.evt ≠ 0 && endType d.pend = 0)) ctl 28 27 ++
    failIf (d.evt ≠ 0 && (d.evsrc < 3072 || 4031 < d.evsrc || before.any fun r => r.evt ≠ 0 && r.evsrc = d.evsrc)) cons 31 20

/-- The rules of WHY over the culture's queues (R167). -/
def whyRules (c : Chip) : List Fail := let qs := (enabledQueues c).filter (· < 32512); qs.flatMap (queueRules c qs)

/-- Whether an enabled inbound queue is produced by a port. -/
def inboundOf (c : Chip) (block port : Nat) : Option Desc :=
  ((enabledQueues c).map (liveDesc c)).find? fun d => d.inbound && d.pend = portEnd block port

/-! ### ARB, EVC, LDL, ETH, CEL and SYS -/

/-- The slot fields of a word that break R185, where EXPERT is declared. -/
def slotRules (c : Chip) (a : Nat) : List Fail :=
  let arb := (a - 0x040000) / 256
  let w := rawReg c a
  (List.range 4).flatMap fun k =>
    let b := bits w (8 * k + 7) (8 * k)
    failIf (b ≠ 0x80 && (63 < b || !hasReq arb b || (arb < 32 && b = 63))) a (8 * k + 7) (8 * k)

/-- The rules of ARB. -/
def arbRules (c : Chip) : List Fail :=
  if !expertLive c 4 then []
  else (((regsIn c.regs 0x040000 0x0423FF).map (·.1)).filter Reg.arbSlot.covers).flatMap (slotRules c)

/-- The rules of EVC (R231). Level sources are the digital inputs (R219, R230). -/
def evcRules (c : Chip) : List Fail :=
  let src (a : Nat) : List Fail :=
    let s := a - Reg.evcSrc.base
    let w := rawReg c a
    failIf (bit w 31 && !srcExists s) a 31 31 ++
      failIf (bits w 3 2 = 3 || (bits w 3 2 ≠ 0 && 64 ≤ s)) a 3 2 ++ failIf (bit w 31 && bits w 1 0 = 0) a 1 0
  let pd := fieldOf c Reg.evcXctl.addr 6 0
  ((List.range 64).flatMap fun g => failIf (holdoff c g = 0) (Reg.evcGrp.addr g) 15 0) ++
    ((regsIn c.regs Reg.evcSrc.base (Reg.evcSrc.base + 4095)).map (·.1)).flatMap src ++
    failIf (pd = 0 || 64 < pd) Reg.evcXctl.addr 6 0

/-- The rules of LDL (R272). -/
def ldlRules (w : After) : List Fail :=
  let x := w Reg.ldlCtl.addr
  failIf (bits x 23 16 < 2 || 50 < bits x 23 16) Reg.ldlCtl.addr 23 16 ++
    failIf (bits x 7 0 < 4 || 32 < bits x 7 0) Reg.ldlCtl.addr 7 0

/-- The rules of the ports and of the block's own words (R302). -/
def ethPortRules (w : After) : List Fail :=
  let port (p : Nat) : List Fail :=
    let a := Reg.ethPcfg.base + p
    let f := bits (w a) 28 27
    failIf (f = 3 || (f = 1 && 2 ≤ p) || (f = 2 && p < 2)) a 28 27 ++ failIf (bit (w a) 26 && p < 2) a 26 26 ++
      failIf (bit (w a) 25 && 2 ≤ p) a 25 25
  let ctl := w Reg.ethCtl.addr
  let pre := bits (w Reg.ethNet.addr) 7 0
  (List.range 4).flatMap port ++
    failIf (bit ctl 31 && !((List.range 2).any fun p => bits (w (Reg.ethPcfg.base + p)) 28 27 = 1)) Reg.ethCtl.addr 31 31 ++
    failIf (bits ctl 30 24 = 0) Reg.ethCtl.addr 30 24 ++ failIf (bits ctl 23 16 = 0 || 100 < bits ctl 23 16) Reg.ethCtl.addr 23 16 ++
    failIf (pre < 8 || 30 < pre) Reg.ethNet.addr 7 0

/-- The data length of a publication or subscription: LEN without the tag. -/
def dataLen (len : Nat) (tag : Bool) : Nat := if tag then len - 16 else len

/-- The rules of an enabled publication. -/
def pubRules (w : After) (n : Nat) : List Fail :=
  let a := Reg.ethPctl.addr n
  let pa := Reg.ethPpnt.addr n
  let x := w a
  let len := bits (w pa) 10 0
  let tag := bit x 30
  failIf (bits x 25 18 = 0) a 25 18 ++ failIf (1432 < len || (tag && len < 16)) pa 10 0 ++ failIf (bit x 29 && !tag) a 29 29 ++
    failIf (!ptPress w (bits (w pa) 31 16) ((dataLen len tag + 7) / 8 * 8)) pa 31 16

/-- The rules of an enabled subscription; `before` are the enabled ones of lower number. -/
def subRules (c : Chip) (before : List Nat) (m : Nat) : List Fail :=
  let w := rawReg c
  let a := Reg.ethSctl.addr m
  let pa := Reg.ethSpnt.addr m
  let x := w a
  let len := bits (w pa) 10 0
  let tag := bit x 30
  failIf (bits x 25 10 = 0) a 25 10 ++ failIf (bit x 29 && !tag) a 29 29 ++ failIf (1432 < len || (tag && len < 16)) pa 10 0 ++
    failIf (before.any fun k => w (Reg.ethScom.addr k) = w (Reg.ethScom.addr m) &&
      (bit (w (Reg.ethSctl.addr k)) 30 != tag || bits (w (Reg.ethSpnt.addr k)) 10 0 ≠ len)) (Reg.ethScom.addr m) 31 0 ++
    failIf (!ptInput w (bits (w pa) 31 16) ((16 + dataLen len tag + 7) / 8 * 8)) pa 31 16 ++
    failIf (inboundOf c 7 (bits (w pa) 15 11)).isNone pa 15 11

/-- The rules of an enabled inbox (R299, R300). -/
def inboxRules (w : After) (i : Nat) : List Fail :=
  let a := Reg.ethMdctl.addr i
  let x := w a
  let slots := bits x 30 28 + 1
  failIf (!bit (w (Reg.ethRcfg.addr (bits x 25 16))) 31) a 25 16 ++ failIf (!ptInput w (bits x 15 0) (1040 * slots)) a 15 0 ++
    failIf (!ptPress w (bits (w (Reg.ethMdrp.addr i)) 31 16) (1032 * slots)) (Reg.ethMdrp.addr i) 31 16

/-- The rules of ETH. -/
def ethRules (c : Chip) : List Fail :=
  let subs := subscriptions c
  ethPortRules (rawReg c) ++ (publications c).flatMap (pubRules (rawReg c)) ++
    subs.flatMap (fun m => subRules c (subs.filter (· < m)) m) ++ (inboxes c).flatMap (inboxRules (rawReg c))

/-- The rule of CEL (R490). -/
def celRules (w : After) : List Fail := failIf (bits (w Reg.celCtl.addr) 15 0 = 0) Reg.celCtl.addr 15 0

/-- The rule of SYS (Table: SYS_EXPERT register map). -/
def sysRules (w : After) : List Fail :=
  let x := w Reg.sysExpert.addr
  failIf ([0, 3, 16, 17, 18, 19, 20, 21, 22, 23].any (bit x ·)) Reg.sysExpert.addr 27 0

/-! ### Every rule -/

/-- The rules of one block over the chip as it would stand. -/
def blockRules (c : Chip) (b : Nat) : List Fail :=
  let w := rawReg c
  let x := expertLive c b
  let inq (block port : Nat) : Bool := (inboundOf c block port).isSome
  match b with
  | 0 => sysRules w
  | 1 => vatRules c
  | 2 => hxkRules c
  | 4 => arbRules c
  | 5 => evcRules c
  | 6 => ldlRules w
  | 7 => ethRules c
  | 8 => ptpRules w
  | 9 => mvbRules ((regsIn c.regs 0x090000 0x09FFFF).map (·.1)) x inq w
  | 10 => (List.range 4).flatMap fun p => canRulesOf x (fun k =>
      (inboundOf c 10 k).map fun d => (bits d.ctl 26 21, d.depth, ptTask w (bits (w (Reg.canRxpnt.addr (k / 2) (k % 2))) 31 16))) w p
  | 11 => brgRules x (fun n => match inboundOf c 11 n with | some d => d.ord = 1 && d.size = 256 && d.depth ≤ 16 | none => false) w
  | 12 => dioRules x w
  | 13 => spdRules x w
  | 14 => alpRules w
  | 15 => rindRules w
  | 16 => whyRules c
  | 24 => celRules w
  | 25 => updRules x w
  | 27 => pwrRules x w
  | _ => []

/-- Reserved bits set in a staged word (R9), each as the RSVD field that it breaks. -/
def rsvdFails (c : Chip) : List Fail :=
  c.sys.staged.flatMap fun e =>
    match e.2, regDef e.1 with
    | some w, some r => r.fields.flatMap fun f => failIf (f.rsvd && bits w f.msb f.lsb ≠ 0) e.1 f.msb f.lsb
    | _, _ => []

/-- Blocks whose registers bind input points (R66). -/
def bindingBlocks : List Nat := [7, 8, 9, 10, 11, 12, 13, 14, 15]

/-- The blocks whose rules a commit checks (R203): those touched, and VAT, whose rules depend on most others
(R66, R126, R134). -/
def checkedBlocks (c : Chip) : List Nat :=
  let t := (c.sys.staged.map fun e => blockOf e.1).eraseDups
  (List.range 28).filter fun b =>
    t.contains b || (b = 1 && (t.contains 2 || t.any bindingBlocks.contains))

/-- The blocks whose fields the rules of an untouched block depend on (R203): the points that a binding names, the inbound queues
that feed it, the bindings and points that a queue's producer feeds (R168), the ports that PTP names (R324), and the test supplies
that RIND names (R469). -/
def ruleDeps (b : Nat) : List Nat :=
  match b with
  | 7 => [2, 16]
  | 8 => [2, 7]
  | 9 => [2, 16]
  | 10 => [2, 16]
  | 11 => [2, 16]
  | 12 => [2]
  | 13 => [2]
  | 14 => [2]
  | 15 => [2]
  | 16 => [2, 7, 9, 10, 11]
  | _ => []

/-- Rules of untouched blocks that the commit would break (R203): those that depend on a touched block and that the words as they
stand keep. -/
def acrossFails (c n : Chip) : List Fail :=
  let t := (c.sys.staged.map fun e => blockOf e.1).eraseDups
  ((List.range 17).filter fun b => !t.contains b && (ruleDeps b).any t.contains).flatMap fun b =>
    let old := blockRules c b
    (blockRules n b).filter fun f => !old.contains f

/-- HXK is not touched and a binding block is: R66 alone is checked again. -/
def pointsChecked (c : Chip) : Bool :=
  let t := (c.sys.staged.map fun e => blockOf e.1).eraseDups
  !t.contains 2 && t.any fun b => b = 1 || bindingBlocks.contains b

/-- RIND is not touched and DIO is: the one rule of R469 that depends on it is checked again. -/
def supplyChecked (c : Chip) : Bool :=
  let t := (c.sys.staged.map fun e => blockOf e.1).eraseDups
  !t.contains 15 && t.contains 12

/-- Every broken rule. -/
def commitFails (c : Chip) : List Fail :=
  let n := afterCommit c
  rsvdFails c ++ (checkedBlocks c).flatMap (blockRules n) ++ (if pointsChecked c then pointRules n else []) ++ acrossFails c n ++
    (if supplyChecked c then rindSupplyRule (rawReg n) else [])

/-- The field that is named (R204): of the lowest address, and there the one with the highest bit. -/
def namedFail : List Fail → Option Fail
  | [] => none
  | f :: fs => match namedFail fs with
    | none => some f
    | some g => if g.1 < f.1 || (g.1 = f.1 && f.2.1 ≤ g.2.1) then some g else some f

/-! ### COMMIT, ABORT and STG.BREAK -/

/-- The owner that a writer is. -/
def ownerOf : Writer → Owner
  | .culture => .culture
  | .session n => .session n

/-- Staging is owned by another writer (R199), or the culture's staging is marked broken (R216). -/
def notOwner (c : Chip) (who : Writer) : Bool :=
  (c.sys.owner ≠ .none && c.sys.owner ≠ ownerOf who) || (who = .culture && c.sys.broken)

/-- Host ST writes and COMMIT are refused (R212). -/
def hostLocked (c : Chip) (who : Writer) : Bool :=
  who ≠ .culture && (c.sys.mode = .service || c.sys.mode = .standby) && !bit (rawReg c Reg.sysCtl.addr) 1

/-- The status word of R106. An indexed address above 0xFF_FFFF, whose ADDR the spec does not state, is shown modulo 2^24 (DESIGN
CHOICE, log entry 98). -/
def statusWord (code a : Nat) : Word := word (code * 2 ^ 24 + a % 2 ^ 24)

/-- A COMMIT that does not return OK (R204): its status and field bits stand in SYS_CMTERR and SYS_CMTBIT. -/
def commitFailed (c : Chip) (code a bits_ : Nat) : Chip × List Word :=
  let w := statusWord code a
  (setReg (setReg c Reg.sysCmterr.addr w) Reg.sysCmtbit.addr (word bits_), [w, word bits_])

/-- COMMIT (R106, R203 to R206, R212, R216). -/
def commitStaging (c : Chip) (who : Writer) : Chip × List Word :=
  if commitPending c then commitFailed c 7 0 0
  else if hostLocked c who then commitFailed c 6 0 0
  else if notOwner c who then commitFailed c 4 0 0
  else match namedFail (commitFails c) with
    | some (a, msb, lsb) => commitFailed c 5 a (msb * 256 + lsb)
    | none =>
      let c := noteSetChange c (committedWords c)
      let sum := if c.sys.staged.isEmpty then fieldOf c Reg.vatXsize.addr 13 0 else setVolume (afterCommit c)
      let c := onSys c fun s => { s with
        pend := committedWords c
        staged := []
        owner := .none
        commits := s.commits + 1
        setupCommitted := s.setupCommitted || (who = .culture && s.setupRun) }
      (setField (stageSlots c) Reg.vatXsize.addr 13 0 sum, [0, 0])

/-- The culture's COMMIT is checked by the Affineur, and its reply follows (R109, R208). -/
def commitAsked (c : Chip) (key : Nat) : Chip := onSys c fun s => { s with checking := s.checking ++ [key] }

/-- ABORT (R109, R216). -/
def abortStaging (c : Chip) (who : Writer) : Chip × List Word :=
  if c.sys.owner ≠ .none && c.sys.owner ≠ ownerOf who then (c, [statusWord 4 0])
  else (ranksDefault (onSys c fun s => { s with owner := .none, staged := [], broken := if who = .culture then false else s.broken }), [0])

/-- STG.BREAK by a session (R216). -/
def breakStaging (c : Chip) (n : Fin 4) : Chip × Word :=
  if c.sys.mode ≠ .prove ∧ c.sys.mode ≠ .hold ∧ c.sys.mode ≠ .maintenance then (c, statusWord 6 0)
  else
    let fp := match mapGet none c.sys.sessions n.val with | some s => s.fingerprint | none => 0
    let drop (c : Chip) : Chip := ranksDefault (onSys c fun s => { s with owner := .none, staged := [] })
    let note (c : Chip) (owner : Nat) : Chip := deviceRecord c 0x00 0x03 owner (fp % 2 ^ 32) (fp / 2 ^ 32)
    match c.sys.owner with
    | .none => (c, 0)
    | .culture => (note (onSys (drop c) fun s => { s with broken := true }) 1, 0)
    | .session m => if m = n then (drop c, 0) else (note (drop c) (2 + 4 * m.val), 0)

end Sys2Proof.Machine
end

