-- ==== Sys2Proof/Machine/Health.lean ====
section
/-! DEFINITION. The health report (R267) and READY (R268). -/

namespace Sys2Proof.Machine

/-- Bit 28 of word 3: no self-test of R261 has failed in the last 10 s. -/
def testsClean (c : Chip) : Bool := !within c c.ldl.testBadAt 10000000

/-- Bit 27 of word 3: the field I/O unit is healthy, with no refresh loss in the last 10 s and no wrong vote in the last test of the
output stages (R408). -/
def fieldHealthy (c : Chip) : Bool := 8 ≤ c.sys.step && domainOk c 6 && !within c c.fio.lossAt 10000000 && c.fio.stageBad = 0

/-- READY of the module itself (R268). -/
def ready (c : Chip) : Bool :=
  c.sys.mode = .standby && testsClean c && fieldHealthy c && rindReady c && 2 ≤ (servingVats c).length &&
    epoch c < 0xFFFFFFFF && (c.ldl.sync = 4 || takeAny c)

/-- Word 0 without the report number, and words 1 to 3. -/
def healthHead (c : Chip) : List Word :=
  [word (c.sys.mode.code * 2 ^ 29 + b2n c.ldl.posb * 2 ^ 28 + b2n (chgOn c) * 2 ^ 27 + c.ldl.sync * 2 ^ 24),
   rawReg c Reg.ldlEpoch.addr,
   word (bits (vatStat c) 10 0),
   word (b2n (ready c) * 2 ^ 31 + b2n (c.ldl.sync = 4) * 2 ^ 30 + b2n ((servingVats c).length = 3) * 2 ^ 29 +
     b2n (testsClean c) * 2 ^ 28 + b2n (fieldHealthy c) * 2 ^ 27 + b2n (rindReady c) * 2 ^ 26 +
     b2n (upCount c.ldl.rxUp = 3 && upCount c.ldl.txUp = 3) * 2 ^ 25 + b2n (suppliesOk c) * 2 ^ 24)]

/-- The highest region temperature in units of 0.1 °C. -/
def hottestRegion (c : Chip) : Int :=
  let t (n : Nat) : Int := signed 16 (fieldOf c (Reg.pwrTemp.addr n) 15 0)
  max (t 0) (max (t 1) (t 2))

/-- Words 4 to 15. -/
def healthTail (c : Chip) : List Word :=
  let l := c.ldl
  [word c.culture.cultid, word (c.culture.cultid / 2 ^ 32), word c.culture.build,
   word (natLE (bytesBE 4 (c.culture.layout / 2 ^ 224))),
   word (runningVersion c), word c.cel.opsec,
   word (min 65535 l.testsOk * 2 ^ 16 + min 65535 l.testsBad),
   word (min 255 l.outvotedLast.c * 2 ^ 16 + min 255 l.outvotedLast.b * 256 + min 255 l.outvotedLast.a),
   word (fieldOf c Reg.pwrVin.addr 31 16 * 2 ^ 16 + signed16 (hottestRegion c)), c.sys.health, word (c.sys.cause * 2 ^ 24), 0]

/-- A HEALTH frame queued with the next report number. -/
def healthSend (c : Chip) : Chip :=
  if !paired c || !linkUp c then c
  else
    let n := (c.ldl.report + 1) % 65536
    let c := onLdl c fun l => { l with report := n, healthSent := healthHead c }
    let ws := match healthHead c with
      | w :: ws => (w ||| word n) :: ws ++ healthTail c
      | [] => []
    queueFrame c ⟨2, 7, false, 0, epoch c, ws.flatMap fun w => bytesLE 4 w.toNat⟩

/-- A HEALTH frame where words 0 to 3 have changed since the last one. -/
def healthCheck (c : Chip) : Chip := if healthHead c = c.ldl.healthSent then c else healthSend c

end Sys2Proof.Machine
end

