-- ==== Sys2Proof/Machine/Start.lean ====
section
/-! DEFINITION. Power-on, reset and the power-up sequence (R10, R194 to R198, R246, R430), the load of a culture (R32, R68,
R506), the Affineur's restart (R16, R208), the two ticks (R38, R217) and what the module does about a supply domain (R19). -/

namespace Sys2Proof.Machine

/-! ### Reset -/

/-- The module held in reset: everything at its reset value but what lasts: the Cellar's slots, OPSEC and PWRCYC, the MRAM
values of R474, the image store and settings, Rind's non-volatile memory, the termination relays and the position pin. -/
def resetChip (c : Chip) : Chip :=
  let b := setReg Chip.reset Reg.ldlEpoch.addr (rawReg c Reg.ldlEpoch.addr)
  let r := c.rind
  let b := match r.accepted with
    | some ws => ws.zipIdx.foldl (fun b (x : Word × Nat) => setReg b (Reg.rindPgen.addr + x.2) x.1) b
    | none => b
  celLatch { b with
    cel := { Cel.reset with
             slots := c.cel.slots
             newest := c.cel.newest
             oldest := c.cel.oldest
             clearing := c.cel.clearing
             cwrap := c.cel.cwrap
             seqEnd := c.cel.seqEnd
             opsec := c.cel.opsec
             pwrcyc := c.cel.pwrcyc }
    ldl := { Ldl.reset with posb := c.ldl.posb }
    eth := { Eth.reset with storedEpochs := c.eth.storedEpochs }
    ptp := { Ptp.reset with stored := c.ptp.stored }
    can := c.can.filterMap fun (e : Nat × CanCtl) => if e.2.term then some (e.1, { CanCtl.reset with term := true }) else none
    rind := { Rind.reset with
              accepted := r.accepted
              digest := r.digest
              logFirst := r.logFirst
              log := r.log
              logSeq := r.logSeq
              wrong := r.wrong
              blockAt := r.blockAt }
    upd := { Upd.reset with
             dir0 := c.upd.dir0
             dir1 := c.upd.dir1
             slot0 := { c.upd.slot0 with chkfail := 0 }
             slot1 := { c.upd.slot1 with chkfail := 0 }
             slot2 := { c.upd.slot2 with chkfail := 0 }
             slot3 := { c.upd.slot3 with chkfail := 0 }
             areaA := c.upd.areaA
             areaB := c.upd.areaB
             sfmt := c.upd.sfmt }
    free := c.free }

/-- The sequence begins at its reference (R194 step 1): the mode is INERT, and Rind starts on its own supply. SYS_MODE shows
PREV and CAUSE at their reset values (R10), where R189 would have it show the transition to INERT; the record has that
transition. DESIGN CHOICE, log entry 93. -/
def beginSequence (c : Chip) (old : Mode) (cause : Nat) : Chip :=
  let c := resetChip c
  let c := onSys { c with rind := { c.rind with on := true } } fun s => { s with step := 1 }
  deviceRecord c 0x00 0x01 (cause * 2 ^ 24 + old.code * 256)

/-- Power is lost without hold-up. Where a record was waiting for the MRAM port, the loss may cut it short: it reads as KIND 0,
and so does the record that it was replacing (R481). It may cut a write of the slot directory too (R493). Whether it does is a
free value, log entry 110. -/
def powerLost (c : Chip) : Chip :=
  let (n, c) := drawStamp c
  let w := Config.freeWord n
  let writing := c.cel.ready && !c.cel.seqEnd && !(c.cel.devBuf.isEmpty && c.cel.culBuf.isEmpty)
  let c := if writing && bit w 0 then { c with cel := { c.cel with slots := mapErase c.cel.slots (slotOf (c.cel.newest + 1)) } } else c
  if bit w 1 then onUpd c tearDirectory else c

/-- POWER_ON: the intermediate bus comes within tolerance, and the coding pin is read (R233). In a module that was running it had
been lost without hold-up; the orderly power-down runs to its end first (R534). DESIGN CHOICE, log entry 110. -/
def powerOn (c : Chip) : Chip :=
  if c.pwr.downAt.isSome then c
  else
    let c := if c.sys.step = 0 then c else powerLost c
    beginSequence { c with ldl := { c.ldl with posb := Config.positionB } } .inert 0

/-- A Rind that is FAILED stays so: a power cycle of the module alone ends that state (R445). -/
def keepFailed (r : Rind) (c : Chip) : Chip :=
  if r.state = 5 then
    onRind c fun x => { x with state := 5, cause := r.cause, input := r.input, selfFail := r.selfFail, teDiff := r.teDiff, oscPassed := r.oscPassed }
  else c

/-- SYS_CMD OP 7 (R210): records waiting are written, and the sequence runs from its reference. A running test is ABORTED
(R516). -/
def moduleReset (c : Chip) : Chip :=
  let c := abortTest c
  keepFailed c.rind (beginSequence (if c.cel.ready then flushRecords c else c) c.sys.mode 1)

/-- POWER_DOWN_END (R533 steps 3 and 4): a running test is ABORTED (R516), the Cellar's buffers are written, OPSEC with them, and
everything is held in reset. -/
def powerDownEnd (c : Chip) : Chip :=
  if c.pwr.downAt.isNone then c
  else
    let c := deviceRecord (abortTest c) 0x00 0x01 (c.sys.mode.code * 256)
    resetChip (if c.cel.ready then flushRecords c else c)

/-! ### Steps 2 to 9 -/

/-- A test number that no rule states. -/
def freeTest (c : Chip) : Chip × Nat := let (n, c) := drawStamp c; (c, (Config.freeWord n).toNat % 4096)

/-- The live descriptors of the module's own queues as Rennet writes them (R167). -/
def writeModuleDescs (c : Chip) : Chip :=
  moduleDescs.foldl (fun c d =>
    setReg (setReg (setReg c (Reg.whyCtl.addr d.1) d.2.ctl) (Reg.whyProd.addr d.1) d.2.prod) (Reg.whyCons.addr d.1) d.2.cons) c

/-- RENNET_START (steps 2 and 3): PROVE, the descriptors of the module's queues, the firmware image selected (R506), the random
source started; the settings in use give the service port its address (R504). -/
def rennetStart (c : Chip) (romOk : Bool) : Chip :=
  if c.sys.mode ≠ .inert ∨ c.sys.step ≠ 1 ∨ !flashOpen c then c
  else
    let c := enterMode (writeModuleDescs c) .prove 2
    let c := onSys c fun s => { s with step := 3, affUp := true }
    if !romOk then let (c, n) := freeTest c; stopProve c 1 n
    else
      let (c, k) := selectSlot (readDirectory c) 1 fun c k => fwChecks c (slotAt c k).held
      let c := match k with
        | some k => onUpd c fun u => { u with running := some k, fwver := slotVersion c k, sfmt := (fwHead (slotAt c k).held).2.1 }
        | none => c
      onUpd c fun u => { u with svcPort := (settings c).svc.getD defaultSvc }

/-- A session begins, of the lowest free number; none beyond four (R213). -/
def openSession (c : Chip) (priv : Priv) (fingerprint : BitVec 64) : Chip :=
  match (List.finRange 4).find? fun n => (mapGet none c.sys.sessions n.val).isNone with
  | none => c
  | some n =>
    onSys c fun s => { s with sessions := mapPut none s.sessions n.val (some
      { priv := priv, fingerprint := fingerprint.toNat, lastSeq := none, reply := none, sent := none, heard := c.core.tick, snap := none }) }

/-- RNG_READY (R113; step 4): handshakes that have waited for it go on (R213). -/
def rngReady (c : Chip) : Chip :=
  if c.sys.step < 3 then c
  else
    let hs := c.sys.waiting
    let c := onSys c fun s => { s with rngReady := true, rngFailed := false, step := if s.step = 3 then 4 else s.step, waiting := [] }
    hs.foldl (fun c h => openSession c h.1 h.2) c

/-- RNG_TEST_FAIL (R113): 0 the repetition count test, 1 the adaptive proportion test. Before the source has been ready the
count of samples only begins anew. R113 does not say whether a failure of a source that is FAILED already writes a further
record: it writes none. DESIGN CHOICE, log entry 45. -/
def rngTestFail (c : Chip) (test : Fin 2) : Chip :=
  if !c.sys.rngReady then c
  else deviceRecord (onSys c fun s => { s with rngReady := false, rngFailed := true }) 0x00 0x05 (2 ^ test.val)

/-- AFFINEUR_SELF_PROOF_DONE (step 5): PWRCYC and the Cellar's scan (R476, R482), or the stop. -/
def affineurProof (c : Chip) (fail : Option (BitVec 12)) : Chip :=
  if c.sys.mode ≠ .prove ∨ c.sys.stopped ∨ (c.sys.step ≠ 3 ∧ c.sys.step ≠ 4) then c
  else match fail with
    | some n => stopProve c 1 n.toNat
    | none => onSys (celLatch <| cellarScan { c with cel := { c.cel with pwrcyc := satAdd 0xFFFFFF c.cel.pwrcyc 1 } }) fun s => { s with step := 5 }

/-- VAT_START_PROOF_DONE (steps 6 and 7): the Vats are IDLE, the time unit starts at the stored value (R307) and HXK_TICK is
set from it (R38); or the stop, by Vat or 3 for the press. -/
def vatProof (c : Chip) (fail : Option (Fin 4 × BitVec 12)) : Chip :=
  if c.sys.mode ≠ .prove ∨ c.sys.stopped ∨ c.sys.step ≠ 5 then c
  else match fail with
    | some (p, n) => stopProve c 1 ((p.val + 1) * 4096 + n.toNat)
    | none =>
      let t := c.ptp.stored
      let c := setTick { c with vats := c.vats.map fun _ => { VatPlane.reset with time := t, descs := liveDescs c } } (t / 1000)
      let c := onPtp { c with core := { c.core with carry := t % 1000 * 2 ^ 32 } } fun p => { p with from_ := t }
      onSys c fun s => { s with step := 7 }

/-- FIELD_UNIT_SELF_TEST_DONE (step 8): refresh frames start on the three lanes. -/
def fieldProof (c : Chip) (fail : Option (BitVec 12)) : Chip :=
  if c.sys.mode ≠ .prove ∨ c.sys.stopped ∨ c.sys.step ≠ 7 then c
  else match fail with
    | some n => stopProve c 1 (5 * 4096 + n.toNat)
    | none =>
      let c := onFio c fun f => { f with lanes := f.lanes.map fun l => { l with fresh := some c.core.tick } }
      onSys c fun s => { s with step := 8 }

/-- BYPASS_RELAY: the relay follows its causes (R276); in the power-up sequence it is step 9, at which the ports receive. -/
def bypass (c : Chip) (switchBad : Bool) : Chip :=
  bypassRelay (if c.sys.mode = .prove ∧ !c.sys.stopped ∧ c.sys.step = 8 then onSys c fun s => { s with step := 9 } else c) switchBad

/-! ### Step 10: the culture -/

/-- The first check of R32 that a culture's slot fails at a start, 0 for none. -/
def cultureFails (c : Chip) (k : Fin 4) : Nat :=
  match startChecks (settings c).keys (slotAt c k).held.content with
  | .inr _ => 0
  | .inl (n, _) => n

/-- Whether some culture slot holds an image that passes check 1 of R32 (R198). -/
def anyCulture (c : Chip) : Bool :=
  (kindSlots 2).any fun k => (slotAt c k).state ≠ 0 && (slotAt c k).state ≠ 1 && cultCheck1 (slotAt c k).held.content

/-- The Vats take the culture, the TASK images fill HXK staging, and the setup program starts on E0 (R68, R558). Event records
that wait for the Affineur in Q32512 stay (R229). The spec does not say whether the culture health word outlives a load: it
starts at 0 (DESIGN CHOICE, log entry 96). Nor does R216 say whether a load clears the culture's broken mark: every load does,
that of R148 too (DESIGN CHOICE, log entry 29). With the Ladle up the module sends its new digests (R234, R270). -/
def loadCulture (c : Chip) (k : Fin 4) (bs : List Byte) (p : Parsed) : Chip :=
  let cu := cultureOf bs p
  let ds := liveDescs c
  let load (v : VatPlane) : VatPlane := if v.state = .out then v else loadPlane { v with descs := ds } bs p
  let c := { c with
    vats := c.vats.map load
    culture := cu
    tasks := []
    devq := c.devq.filter fun e => e.1 = 32512
    core := { c.core with recurdle := none, rcNext := [], rcFinal := false, rcLocked := false, committed := [], pressFault := false } }
  let c := onUpd (onLdl c fun l => { l with applied := [], rxbuf := [] }) fun u => { u with culture := some k }
  let c := onEth c fun e => { e with released := [], pubCount := [] }
  let c := onFio c fun f => { f with outs := f.lanes.map fun l => l.cmd, tx := Tri.all [] }
  let c := onSys c fun s => { s with health := 0 }
  let c := onSys c fun s =>
    { s with
      owner := .culture
      staged := p.regs.foldl (fun m r => mapPut none m r.1 (some r.2)) []
      broken := false
      replies := []
      noise := []
      checking := []
      setupRun := true
      setupEnd := 0
      setupStart := now c
      setupHget := hgetItems c
      setupCommitted := false
      step := 10 }
  let c := if paired c && linkUp c then exchangeIdent c else c
  let (stamp, c) := drawStamp c
  (servingVats c).foldl (fun c v => dispatchChain c v 0 ⟨.setup, false, 0, [p.root], false, stamp⟩) c

/-- CULTURE_LOAD (step 10): a culture is selected (R506), checked (R32) and loaded, or the module stays in PROVE. -/
def cultureLoad (c : Chip) : Chip :=
  if c.sys.mode ≠ .prove ∨ c.sys.stopped ∨ c.sys.step ≠ 9 ∨ !c.sys.affUp ∨ !flashOpen c then c
  else
    let (c, k) := selectSlot c 2 cultureFails
    match k with
    | none => stopProveAs c 2 0 0 0 0
    | some k =>
      let bs := (slotAt c k).held.content
      match startChecks (settings c).keys bs with
      | .inr p => loadCulture c k bs p
      | .inl (n, b) =>
        if n = 1 ∧ !anyCulture c then stopProveAs c 2 0 0 0 0
        else stopProveAs c 3 (n * 256 + b) 0 (leAt bs 8 8) (leAt bs 0x10 4)

/-- SETUP_TIME_LIMIT (R195): the setup program has run for 3.0 s on the time counter. -/
def setupTimeLimit (c : Chip) : Chip :=
  if !c.sys.setupRun ∨ now c < c.sys.setupStart + 3000000000 then c
  else (servingVats c).foldl (fun c v => onPlane c v fun p => if p.setupEnd = 0 then { p with setupEnd := 4 } else p) c

/-! ### Steps 12 to 14 -/

/-- The lowest-numbered set bit of a channel mask. -/
def lowestBit (m : BitVec 32) : Nat := ((List.range 32).find? fun n => m.getLsbD n).getD 0

/-- One attempt of a loop proof: the first judges every channel, a repeat those that failed. -/
def proofAttempt (c : Chip) (res : List (Fin 32 × BitVec 32 × Int)) : Chip :=
  let n := c.fio.lpTries
  let c := judgeProof (if n = 0 then onFio c fun f => { f with lpFail := 0 } else c) (0 < n) res
  onFio c fun f => { f with lpTries := n + 1, lpAt := c.core.tick }

/-- Whether a proof has ended: no channel fails any longer, or four attempts have been made. -/
def proofOver (c : Chip) : Bool := c.fio.lpFail = 0 || 4 ≤ c.fio.lpTries

/-- Whether the test LPROOF runs its proof (R520). -/
def lproofRuns (c : Chip) : Bool := c.sys.mode = .maintenance && c.tst.state = 1 && c.tst.testid = 4 && !c.tst.loopDone

/-- LOOP_PROOF_ATTEMPT (R430; step 12): an attempt with the averages it found. A channel that fails is attempted up to four
times, 0.5 s apart, at step 12 and in the test LPROOF. In HOLD and MAINTENANCE the measurement that every channel repeats once per
management tick is kept and judged without any further effect. -/
def loopProof (c : Chip) (res : List (Fin 32 × BitVec 32 × Int)) : Chip :=
  let waits := 0 < c.fio.lpTries ∧ c.core.tick < c.fio.lpAt + 500000
  if lproofRuns c then
    (if waits then c
     else
       let c := proofAttempt c res
       if proofOver c then { onFio c (fun f => { f with lpTries := 0 }) with tst := { c.tst with loopDone := true } } else c)
  else if c.sys.mode = .hold ∨ c.sys.mode = .maintenance then
    (if c.fio.lpDue then judgeProof (onFio c fun f => { f with lpDue := false }) false res else c)
  else if c.sys.mode ≠ .prove ∨ c.sys.stopped ∨ c.sys.step ≠ 11 ∨ waits then c
  else
    let c := proofAttempt c res
    if c.fio.lpFail = 0 then
      let c := onLdl (onFio c fun f => { f with lpTries := 0 }) fun l =>
        { l with watchAt := some c.core.tick, watchTog := decide (l.chgIn = .toggling) }
      onSys c fun s => { s with step := 12 }
    else if 4 ≤ c.fio.lpTries then stopProve (onFio c fun f => { f with lpTries := 0 }) 8 (lowestBit c.fio.lpFail)
    else c

/-- The 10 ms of the partner watch have passed (step 13). -/
def watchOver (c : Chip) : Bool := match c.ldl.watchAt with | some t => decide (t + 10000 ≤ c.core.tick) | none => false

/-- PARTNER_WATCH_END (steps 13 and 14; R196, R246): what the conditions still leave, and then STANDBY with a partner that has
been TOGGLING in the watch, SERVICE without. -/
def partnerWatchEnd (c : Chip) : Chip :=
  if c.sys.mode ≠ .prove ∨ c.sys.stopped ∨ c.sys.step ≠ 12 ∨ !watchOver c then c
  else
    let c := applyAll c
    let tog := c.ldl.watchTog
    if !rindReady c then stopProve c 9 (rindStatus c * 256 + c.rind.cause)
    else
      let top := epochFull c
      let c := if decide (epoch c = 0xFFFFFFFF) || (top && !tog) then raise c 1927 (epoch c) else c
      if top && !tog then stopProve c 11 0
      else
        let c := onSys c fun s => { s with step := 14 }
        let c := (enabledTasks c).foldl (fun c t => setTask c t { taskSt c t with start := max (taskSt c t).start (c.core.tick + 100) }) c
        if tog then enterMode c .standby 3
        else enterMode (setField c Reg.ldlTklast.addr 31 28 4) .service 3

/-! ### What some commands do beside their block -/

/-- TAKEOVER (R263): 3 ms after the partner's last edge and last valid frame, a standby that may takes charge. -/
def takeover (c : Chip) : Chip :=
  if c.sys.mode = .standby && c.ldl.chgIn = .silent && !framesArrive c && canTake c then takeCharge c 1 else c

/-- AFFINEUR_EVENT_RECORD (R229): the Affineur takes the head of Q32512 and offers it as a device record. -/
def affineurRecord (c : Chip) : Chip :=
  if !c.sys.affUp then c
  else match takeDev c 32512 with
    | none => c
    | some (bs, c) => deviceRecord c 0x05 0x01 (leAt bs 0 4) (leAt bs 4 4) (leAt bs 8 4) (leAt bs 12 4)

/-- RECORD_OFFER (R478 to R480): a record of the module's own or of a culture, offered to its buffer. -/
def recordOffer (c : Chip) (culture : Bool) (block code task : Nat) (data : List Byte) : Chip :=
  offerRecord c { seq := 0, kind := if culture then 2 else 1, block := if culture then 0 else block, rep := 0, opsec := 0, pwrcyc := 0,
                  code := code, task := if culture then task else 0, data := padTo 16 data }

/-- RESET_PULSE (R446), which RINDPROOF observes where its high time makes it one (R520). -/
def resetWithProof (c : Chip) (high : Option Nat) : Chip :=
  let valid := match high with | some h => decide (100000 ≤ h ∧ h ≤ 3000000) | none => false
  if valid then proofReset c (resetPulse c high) else resetPulse c high

/-! ### The Affineur's restart (R16, R208, R213) -/

/-- Staging discarded, without an owner. -/
def dropStaging (c : Chip) : Chip := ranksDefault (onSys c fun s => { s with owner := .none, staged := [] })

/-- A session ends (R199, R213, R370, R464, R516): its staging is discarded, its test aborted, the password words cleared,
its monitor lock released. -/
def endSession (c : Chip) (n : Fin 4) : Chip :=
  if (mapGet none c.sys.sessions n.val).isNone then c
  else
    let c := if c.sys.owner = .session n then dropStaging c else c
    let c := if c.tst.session = n.val then abortTest c else c
    onSys (monSessionEnd (clearPw c) (some n)) fun s => { s with sessions := mapPut none s.sessions n.val none }

/-- AFFINEUR_RESTART: tests, sessions and loads end (R502), a firmware trial is rejected, and time runs in holdover. -/
def affineurRestart (c : Chip) : Chip :=
  if c.sys.step < 2 ∨ !c.sys.affUp then c
  else
    let c := clearTests (abortTest c)
    let c := (List.finRange 4).foldl endSession c
    let c := rejectTrial (onUpd (endLoad (monSessionEnd c none)) fun u => { u with peer := none }) 3
    let c := chooseSource (domRestart (domRestart c 0) 1)
    onSys c fun s => { s with affUp := false, waiting := [] }

/-- AFFINEUR_RESTART_DONE: a COMMIT that was being checked returns BUSY (R208); those behind it are checked next. -/
def affineurRestartDone (c : Chip) : Chip :=
  if c.sys.step < 2 ∨ c.sys.affUp then c
  else
    let c := onSys c fun s => { s with affUp := true }
    match c.sys.checking with
    | [] => c
    | k :: ks =>
      let w := word (7 * 2 ^ 24)
      onSys (setReg (setReg c Reg.sysCmterr.addr w) Reg.sysCmtbit.addr 0) fun s =>
        { s with checking := ks, replies := mapPut [] s.replies k ((mapGet [] s.replies k) ++ [[w, 0]]) }

/-! ### The two ticks (R38, R217) -/

/-- What the counter advances from one tick to the next, in units of 2^−32 ns: as many increments as bring it 1000 ns past
where the last tick was due (R38, R304). -/
def tickAdvance (c : Chip) : Nat := (1000 * 2 ^ 32 - c.core.carry + inc c - 1) / inc c * inc c

/-- The three copies advance by one tick, each with the drift of its own clock in ns, and HXK_TICK with them. -/
def advanceTime (c : Chip) (drift : Tri Int) : Chip :=
  let adv := tickAdvance c
  let c := onPtp c fun p => { p with from_ := now c, adv := adv }
  let c := allVats.foldl (fun c v => onPlane c v fun p => setClock p (clockOf p + adv + drift.get v * 2 ^ 32)) c
  { c with core := { c.core with tick := c.core.tick + 1, carry := c.core.carry + adv - 1000 * 2 ^ 32 } }

/-- FAST_PLANE_TICK: the tick that ends is closed for the event controller and the time unit; HXK_TICK advances with the three
copies of the time counter; then what is judged at every tick, the time unit's part in the order of R322. A written SLEW has ended after 1.21 s (R305). Log entry 81. -/
def fastPlaneTick (c : Chip) (drift : Tri Int) : Chip :=
  if c.sys.step < 7 then c
  else
    let c := unitTick (evcTick c)
    let c := slewEnd (stepAtTick (advanceTime (applyDepths (brgNext 64 c)) drift))
    let c := ladleTick (chargeDecision c)
    if c.sys.affUp then healthCheck c else c

/-- MANAGEMENT_TICK: words found failing by the scrub are reloaded (R155), supplies and temperatures measured, the time and
the Cellar ticked, the health report sent, the trial judged, management configuration applied. -/
def managementTick (c : Chip) (m : Mgmt) : Chip :=
  if c.sys.step < 7 ∨ !c.sys.affUp then c
  else
    let c := m.scrub.foldl (fun c a => deviceRecord c 0x00 0x04 a.toNat) c
    let c := cellarTick (ptpTick (pwrTick c m))
    let c := onFio (laneVoteTick c) fun f => { f with lpDue := true }
    applyManagement (updTick (healthSend c) (ready c))

/-! ### Supply domains and Vat faults (R16, R19, R137) -/

/-- A Vat whose supply or clock fails: declared sour where it serves; a re-curdling of it ends. With its supply its region's
copy of the charge controller stops (R237). -/
def vatFault (c : Chip) (v : Vat) (code : Nat) : Chip :=
  let c := if code = 8 then onLdl c fun l => { l with chgOut := l.chgOut.set v false } else c
  let c := match c.core.recurdle with
    | some (_, u) => if u = v then endRecurdle (onPlane c v fun p => { p with state := .sour }) v false else c
    | none => c
  let c := if c.core.rcNext.any (·.1 = v) then leaveProving c v .sour else c
  todoSour c v code 7 none 0

/-- SUPPLY_DOMAIN_FAULT: a supply of domain d as its monitor has seen it, judged by the fault limit; a fault of Rind's is recorded
once Rind has removed torque (R551). -/
def supplyFault (c : Chip) (d : Fin 8) (x : SupplySeen) : Chip :=
  if !powered c || !domainFails d.val x then c
  else
    let mv := x.mv
    let c := if d.val = 7 && c.rind.on then rindFail c 14 else c
    let c := domainFault c d mv
    match d.val with
    | 0 => powerDownBegin c (fieldOf c Reg.pwrVin.addr 31 16)
    | 1 => vatFault c .a 8
    | 2 => vatFault c .b 8
    | 3 => vatFault c .c 8
    | 4 => affineurRestart c
    | 5 => todoHold c 9 0 none
    | 6 => onFio c fun f => { f with inert := true }
    | _ => c

/-! ### Standby self-tests (R261) -/

/-- STANDBY_SELF_TEST: the kind (0 engines, 1 page digests, 2 the press comparator) and the Vats that fail; a press half that
fails, shown as any Vat, takes the module to HOLD (R136). -/
def standbyTest (c : Chip) (kind : Fin 3) (bad : Tri Bool) : Chip :=
  if c.sys.mode ≠ .standby then c
  else
    let vs := allVats.filter fun v => bad.get v
    let c := countTest c vs.isEmpty
    if kind.val = 2 then
      (if vs.isEmpty then c else todoHold { c with core := { c.core with pressFault := true } } 7 6 none)
    else vs.foldl (fun c v => todoSour c v 1 (if kind.val = 0 then 6 else 7) none 0) c

end Sys2Proof.Machine
end

