-- ==== Sys2Proof/Machine/Regs.lean ====
section
/-! DEFINITION. The configuration port (R6 to R11, R23 to R26, R106 to R109, R199 to R202, R210 to R213): how it judges a write
and a read of any address, what each does, and the requests of the Vats that reach it through the press. -/

namespace Sys2Proof.Machine

/-! ### Who asks -/

/-- The privilege of a writer; none for a session that does not exist. The culture is not a session. -/
def privOf (c : Chip) : Writer → Option Priv
  | .culture => none
  | .session n => (mapGet none c.sys.sessions n.val).map (·.priv)

/-- Whether a writer can reach the port: the module is not held in reset, and a session is open. -/
def reaches (c : Chip) (who : Writer) : Bool :=
  c.sys.mode ≠ .inert && (match who with | .culture => true | .session _ => c.sys.affUp && (privOf c who).isSome)

/-- A session with MAINTAIN privilege. -/
def isMaintain (c : Chip) (who : Writer) : Bool := privOf c who = some .maintain

/-! ### The present value and the new one -/

/-- Bits of the fields that satisfy `p`. -/
def maskWhere (r : RegDef) (p : Field → Bool) : Word := (r.fields.filter p).foldl (fun m f => m ||| fieldMask f.msb f.lsb) 0

/-- Fields whose value staging holds. -/
def stMask (r : RegDef) : Word := maskWhere r fun f => f.acc = .st

/-- The word that a writer has staged at `a`, if it has touched it (R200). -/
def ownStaged (c : Chip) (who : Writer) (a : Nat) : Option Word :=
  if c.sys.owner = ownerOf who then mapGet none c.sys.staged a else none

/-- A live read of a word, with its WO fields at 0 (R6). -/
def liveRead (c : Chip) (r : RegDef) (a : Nat) : Word := regView c a &&& ~~~maskWhere r fun f => f.acc = .wo

/-- The staging read (R201), and what a write leaves of the bits that it does not cover (R215). -/
def stagedRead (c : Chip) (r : RegDef) (who : Writer) (a : Nat) : Word :=
  match ownStaged c who a with
  | some w => (liveRead c r a &&& ~~~stMask r) ||| (w &&& stMask r)
  | none => liveRead c r a

/-- Whether EXPERT is declared for the block of `a` in the live SYS_EXPERT or in the writer's own staging of it (R202). -/
def expertFor (c : Chip) (who : Writer) (a : Nat) : Bool :=
  let b := blockOf a
  expertLive c b || (b < 28 && match ownStaged c who Reg.sysExpert.addr with | some w => bit w b | none => false)

/-- Whether a write of `new` over `old` would change an expert field that a write can change. -/
def changesExpert (r : RegDef) (old new : Word) : Bool :=
  r.fields.any fun f => f.expert && (f.acc = .st || f.acc = .rw) && bits old f.msb f.lsb ≠ bits new f.msb f.lsb

/-- Whether the word has a field that a write can change (R6, R167): no word of a module queue has. -/
def writable (r : RegDef) (a : Nat) : Bool :=
  r.fields.any (fun f => !f.rsvd && (f.acc = .rw || f.acc = .wo || f.acc = .w1c || f.acc = .st)) && !(blockOf a = 16 && 32512 ≤ (a - 0x100000) / 4)

/-- Fields of an event source's word that are RO: EN and TGT of the sources of 2048 to 2303 that exist (Table: EVC_SRCs). -/
def fixedMask (a : Nat) : Word :=
  if Reg.evcSrc.covers a && srcModule (a - Reg.evcSrc.base) && srcExists (a - Reg.evcSrc.base) then 0x80000003 else 0

/-! ### Writes that a mode refuses -/

/-- The deepest loopback of interface n (Table: Loopback depths). -/
def deepest (n : Nat) : Nat := [3, 3, 3, 3, 2, 2, 2, 2, 2, 1, 3, 2, 3, 1, 3].getD n 0

/-- Whether a depth is provided, and for REMOTE the partner in MAINTENANCE with PAIR = 1 (Table: Loopback depths). -/
def depthOk (c : Chip) (n d : Nat) : Bool :=
  d ≤ deepest n && (n ≠ 10 || d ≠ 3 || (paired c && within c c.ldl.healthAt 2000000 && bits (rawReg c (Reg.ldlPh.addr 0)) 31 29 = 4))

/-- A TST write that is refused with MODE (R515, R518, R519). -/
def tstLocked (c : Chip) (who : Writer) (a : Nat) (new : Word) : Bool :=
  c.sys.mode ≠ .maintenance || !isMaintain c who || (a = Reg.tstCtl.addr && bit new 31 && !c.culture.loaded) ||
    (Reg.tstLbk.covers a && !depthOk c (a - Reg.tstLbk.base) (bits new 2 0))

/-- A LOOP test uses the interface of a TST_LBKn (R527). -/
def loopBusy (c : Chip) (a : Nat) : Bool :=
  Reg.tstLbk.covers a && c.tst.state = 1 && c.tst.testid = 1 && c.tst.target = a - Reg.tstLbk.base

/-- Whether the present mode refuses a write of `new` over `old` at `a` (R106, code MODE; commands answer for themselves). -/
def modeLocked (c : Chip) (who : Writer) (r : RegDef) (a : Nat) (st : Bool) (old new : Word) : Bool :=
  let shut := c.sys.mode ≠ .prove && c.sys.mode ≠ .maintenance
  (st && hostLocked c who) || (a = Reg.sysExpert.addr && shut) ||
    (match blockOf a with
     | 4 => Reg.arbCtl.covers a && bit new 31 && c.sys.mode ≠ .maintenance
     | 6 => a = Reg.ldlCtl.addr && shut && (bit old 31 != bit new 31)
     | 8 => Reg.ptpFreql.addr ≤ a && a ≤ Reg.ptpSlew.addr && !ptpManual c
     | 9 => mvbModeLocked c a old new
     | 10 => canModeLocked c a old new
     | 11 => brgModeLocked c a old new
     | 12 => dioModeLocked c a old new
     | 14 => alpModeLocked c a old new
     | 15 => rindModeLocked c a old new || (r.fields.any (fun f => f.acc = .wo && !f.rsvd) && !rindWritable c who)
     | 26 => tstLocked c who a new
     | _ => false)

/-! ### Commands written to WO registers (R210, R159, R272, R345, R365, R463) -/

/-- The mode that follows a trigger that waits (R190). -/
def afterTrigger (m : Mode) : Todo → Mode
  | .mode n cause => if allowed m n cause then n else m
  | .hold cause _ _ => if allowed m .hold cause then .hold else m
  | .sour .. => m

/-- The mode that a command is judged against (R190): the present one, or while the module leaves SERVICE the one that results
from the transition begun and the triggers that wait behind it. -/
def nextMode (c : Chip) : Mode :=
  match c.ldl.handover with
  | some h => if h.begun then c.core.later.foldl afterTrigger h.mode else c.sys.mode
  | none => c.sys.mode

/-- SYS_CMD: the new state and the status (R189, R210). `h` is the handover tick that the primary chooses under OP 6. Every OP but 1
is for MAINTAIN sessions only; the culture, which has no privilege, receives MODE. -/
def sysCommand (c : Chip) (who : Writer) (x : Word) (h : Nat) : Chip × Nat :=
  let op := bits x 31 28
  let mode := nextMode c
  let go (m : Mode) (cause : Nat) : Chip × Nat := if !allowed mode m cause then (c, 6) else (requestMode c m cause, 0)
  if bits x 15 0 ≠ 0xC4E5 || 8 ≤ op then (c, 6)
  else if op = 1 then go .hold (if who = .culture then 10 else 4)
  else if who = .culture then (c, 6)
  else if !isMaintain c who then (c, 0x40)
  else match op with
    | 0 => (c, 0)
    | 2 => if mode = .hold then go .prove 4 else (c, 6)
    | 3 => go .maintenance 4
    | 4 => if mode = .maintenance then go .prove 4 else (c, 6)
    | 5 => if mode = .hold && c.ldl.chgIn = .toggling then go .standby 4 else (c, 6)
    | 6 => if c.sys.mode = .service && partnerReady c && c.ldl.handover.isNone then (startHandover c h, 0) else (c, 6)
    | _ => (moduleReset c, 0)

/-- VAT_CMD (R159). -/
def vatCommand (c : Chip) (x : Word) : Chip × Nat :=
  let v : Option Vat := match bits x 1 0 with
    | 0 => some .a
    | 1 => some .b
    | 2 => some .c
    | _ => none
  let done (r : Chip × Bool) : Chip × Nat := if r.2 then (r.1, 0) else (c, 6)
  match bits x 31 28, v with
  | 0, some _ => if vatCmdMode c then (c, 0) else (c, 6)
  | 1, some v => done (vatTakeOut c v)
  | 2, some v => done (vatRecurdle c v)
  | _, _ => (c, 6)

/-- LDL_CMD (R272). -/
def ldlCommand (c : Chip) (x : Word) : Chip × Nat :=
  if c.sys.mode ≠ .standby ∧ c.sys.mode ≠ .service ∧ c.sys.mode ≠ .maintenance then (c, 6)
  else match bits x 31 28 with
    | 0 => (c, 0)
    | 1 => (resync c, 0)
    | 2 => (linkReset c, 0)
    | _ => (c, 6)

/-- A write of the WO fields of a command register. -/
def commandWrite (c : Chip) (who : Writer) (a : Nat) (x : Word) (h : Nat) : Chip × Nat :=
  let done (r : Chip × Bool) : Chip × Nat := if r.2 then (r.1, 0) else (c, 6)
  if a = Reg.sysCmd.addr then sysCommand c who x h
  else if a = Reg.vatCmd.addr then vatCommand c x
  else if a = Reg.ldlCmd.addr then ldlCommand c x
  else if a = Reg.mvbAsel.addr then done (aselWrite c x)
  else if Reg.canCmd.covers a then done (canCmdWrite c ((a - Reg.canCmd.base) / 1024) x)
  else if a = Reg.rindCmd.addr then done (rindCmdWrite c who (bits x 31 28))
  else (setReg c a x, 0)

/-! ### The write -/

/-- The effects of a written RW or W1C word beside its value (R305, R319, R518). -/
def writeHook (c : Chip) (a : Nat) (old : Word) : Chip :=
  if 0x080100 ≤ a && a < 0x080140 then cmpWritten c ((a - 0x080100) / 4)
  else if a = Reg.tstCtl.addr then
    (if bit (rawReg c a) 31 = bit old 31 then c
     else if bit old 31 then stopTasks c
     else (enabledTasks c).foldl (fun c t => setTask c t { taskSt c t with start := max (taskSt c t).start (c.core.tick + 100) }) c)
  else c

/-- A write that nothing refuses (R107): ST fields are staged and their writer owns staging (a TSP write
whose MASK covers none of them stages nothing, R214), RW fields take their value, W1C bits written 1 are cleared, WO
fields act. -/
def writeWord (c : Chip) (who : Writer) (r : RegDef) (a : Nat) (old new : Word) (w1 : Word) (h : Nat) (staging : Bool) : Chip × Nat :=
  let st := stMask r &&& ~~~fixedMask a
  let rw := maskWhere r fun f => f.acc = .rw && !f.rsvd
  let w1c := maskWhere r fun f => f.acc = .w1c && !f.rsvd
  let wo := maskWhere r fun f => f.acc = .wo && !f.rsvd
  if (r.fields.any fun f => f.acc = .st) && !staging then (c, 0)
  else if r.fields.any fun f => f.acc = .st then
    (onSys c fun s => { s with owner := ownerOf who, staged := mapPut none s.staged a (some ((old &&& ~~~st) ||| (new &&& st))) }, 0)
  else if wo ≠ 0 then commandWrite c who a (new &&& wo) h
  else if a = Reg.ptpFreql.addr then (onPtp c fun p => { p with freqlHeld := some new }, 0)
  else if a = Reg.ptpFreqh.addr then (writeFreqh c new, 0)
  else if a = Reg.ptpSlew.addr then (setSlew c (signed 32 new.toNat), 0)
  else
    let was := rawReg c a
    let c := setReg c a (((was &&& ~~~rw) ||| (new &&& rw)) &&& ~~~(w1 &&& w1c))
    (writeHook c a was, 0)

/-- Whether a word's WO fields act for a session of OPERATE privilege, which adds to READ the RW writes and SYS_CMD OP 1 alone
(R213): SYS_CMD judges its own, LDL_CMD names the privilege (R272), RIND and TST answer MODE (R464, R515). -/
def operateActs (r : RegDef) (a : Nat) : Bool :=
  !(r.fields.any fun f => f.acc = .wo && !f.rsvd) || a = Reg.sysCmd.addr || a = Reg.ldlCmd.addr || blockOf a = 15 || blockOf a = 26

/-- A write of the bits of `mask` at address `a` (R106, R213, R215): UNMAPPED and READONLY come first and are counted, then
PRIV, EXPERT, MODE, OWNER. `h` is used by SYS_CMD OP 6 alone. A W1C word takes the privilege of an RW word (log entry 97). -/
def portWrite (c : Chip) (who : Writer) (a : Nat) (x : Word) (mask : Word := 0xFFFFFFFF) (h : Nat := 0) : Chip × Nat :=
  match (if a < 2 ^ 24 then regDef a else none) with
  | none => (bump c Reg.sysCfgerr.addr 31 16, 1)
  | some r =>
    if !writable r a then (bump c Reg.sysCfgerr.addr 15 0, 2)
    else
      let st := mask &&& stMask r ≠ 0
      let priv := privOf c who
      let old := stagedRead c r who a
      let new := (old &&& ~~~mask) ||| (x &&& mask)
      if priv = some .read || (priv = some .operate && (st || !operateActs r a)) then (c, 0x40)
      else if !expertFor c who a && changesExpert r old new then (c, 3)
      else if c.sys.mode = .inert || modeLocked c who r a st old new then (c, 6)
      else if st && notOwner c who then (c, 4)
      else if loopBusy c a then (c, 7)
      else writeWord c who r a old new (x &&& mask) h st

/-! ### The read -/

/-- The registers that a read of `a` latches, with what they then show (R62, R178, R301, R323, R468, R489, R528). -/
def latchedBy (c : Chip) (a : Nat) : List (Nat × Word) :=
  if a = Reg.hxkTickl.addr then [(Reg.hxkTickh.addr, word (c.core.tick / 2 ^ 32)), (Reg.hxkTickofs.addr, tickOfs c)]
  else if a = Reg.arbWqst0.addr then [(Reg.arbWqst1.addr, wqst c 1)]
  else if a = Reg.ethPt0.addr then [(Reg.ethPt1.addr, ethPt c 1), (Reg.ethPt2.addr, ethPt c 2), (Reg.ethPt3.addr, ethPt c 3)]
  else if a = Reg.ptpNowl.addr then [(Reg.ptpNowh.addr, word (now c / 2 ^ 32))]
  else if a = Reg.ptpLstepl.addr then [(Reg.ptpLsteph.addr, word (unsigned 64 c.ptp.lastStep / 2 ^ 32))]
  else if a = Reg.celNewl.addr then celFound c
  else if a = Reg.rindLog.addr then (List.range 3).map fun k => (Reg.rindLog.addr + 1 + k, rindLogWord c (k + 1))
  else if a = Reg.tstBitsl.addr then [(Reg.tstBitsh.addr, word (c.tst.bits / 2 ^ 32))]
  else []

/-- What a read of ARB_WQST0 latches for ARB_WQST2: DROP of every instance of the selected queue (R178). -/
def dropsOf (c : Chip) : DropLatch :=
  let q := fieldOf c Reg.arbWqsel.addr 14 0
  ⟨q, c.vats.map fun p => (queueOf p q).drop, (devQueue c q).drop, (shownQueue c).2.drop⟩

/-- A read of ARB_WQST2 clears the DROP count that it returned, in every instance of that queue: what the read of ARB_WQST0
latched, and without one since the last such read the count as it stands. Drops after the latch stay to be read (R7, R178). -/
def clearDrop (c : Chip) : Chip :=
  let l := c.sys.dropLatch.getD (dropsOf c)
  let less (x : Queue) (n : Nat) : Queue := { x with drop := x.drop - n }
  let c := allVats.foldl (fun c v => onPlane c v fun p => setQueue p l.queue (less (queueOf p l.queue) (l.vats.get v))) c
  onSys (setDevQueue c l.queue (less (devQueue c l.queue) l.dev)) fun s => { s with dropLatch := none }

/-- The effects of a read (R7): what it latches, and RC fields cleared. -/
def readEffects (c : Chip) (r : RegDef) (a : Nat) : Chip :=
  let ls := latchedBy c a
  let c := onSys c fun s =>
    { s with latches := ls.foldl (fun m e => mapPut 0 m e.1 e.2) s.latches
             dropLatch := if a = Reg.arbWqst0.addr then some (dropsOf c) else s.dropLatch }
  if a = Reg.arbWqst2.addr then clearDrop c
  else if 0x040000 ≤ a && a < 0x042400 && a % 256 = 2 then arbWmaxRead c ((a - 0x040000) / 256)
  else
    let rc := maskWhere r fun f => f.acc = .rc && !f.rsvd
    if rc = 0 then c else setReg c a (rawReg c a &&& ~~~rc)

/-- A read of address `a`, with `stg` the staging read: the value and the status (R11, R23, R201). -/
def portRead (c : Chip) (who : Writer) (a : Nat) (stg : Bool) : Chip × Word × Nat :=
  match (if a < 2 ^ 24 then regDef a else none) with
  | none => (bump c Reg.sysCfgerr.addr 31 16, 0, 1)
  | some r =>
    if stg && c.sys.owner ≠ .none && c.sys.owner ≠ ownerOf who then (c, 0, 4)
    else if Reg.canMon.covers a then
      let o := a - Reg.canMon.base
      let (c, v) := monRead c (o / 1024) (o % 1024) who
      (c, v, 0)
    else (readEffects c r a, if stg then stagedRead c r who a else liveRead c r a, 0)

/-! ### Commands that read or write one register -/

/-- A write as a command of its own: what the port answers stands in `answer`. -/
def writeCommand (c : Chip) (who : Writer) (a : Nat) (x : Word) (h : Nat := 0) : Chip :=
  if !reaches c who then c
  else let (c, code) := portWrite c who a x 0xFFFFFFFF h; onSys c fun s => { s with answer := [statusWord code a] }

/-- A read as a command of its own. -/
def readCommand (c : Chip) (who : Writer) (a : Nat) : Chip :=
  if !reaches c who then c
  else let (c, v, code) := portRead c who a false; onSys c fun s => { s with answer := [statusWord code a, v] }

/-! ### Requests of the Vats (R24, R25, R108) -/

/-- The port acts on an agreed request of a context. -/
def portAct (c : Chip) (key : Nat) (q : Req) : Chip :=
  let reply (c : Chip) (ws : List Word) : Chip := onSys c fun s => { s with replies := mapPut [] s.replies key (mapGet [] s.replies key ++ [ws]) }
  match q with
  | .set a x => let (c, code) := portWrite c .culture a x; reply c [statusWord code a]
  | .get a stg => let (c, v, code) := portRead c .culture a stg; reply c [v, statusWord code a]
  | .commit => commitAsked c key
  | .abort => let (c, ws) := abortStaging c .culture; reply c ws
  | .noise => onSys c fun s => { s with noise := s.noise ++ [key] }
  | .log l => cultureRecord c 512 l
  | .hset w => onSys c fun s => { s with health := w }

/-- The first request of a context that a Vat has issued and the port has not acted on. -/
def headReq (c : Chip) (key : Nat) (v : Vat) : Option Req := (mapGet [] (plane c v).reqs key).head?

/-- The task and the cycle, by its curd tick, of the context at a key in a Vat. -/
def cycleOf (c : Chip) (key : Nat) (v : Vat) : TaskId × Nat :=
  let p := plane c v
  let x := ctxOf p (key / 16) (key % 16)
  (x.task, (ctxAct p x).tick)

/-- Whether a Vat's chain of a cycle has ended on the engine of a key: it issues nothing more in that cycle. -/
def cycleOver (c : Chip) (key : Nat) (t : TaskId × Nat) (v : Vat) : Bool :=
  let p := plane c v
  let x := ctxOf p (key / 16) (key % 16)
  if t.1 = .setup ∨ (x.on && x.stop && x.task = t.1) then !x.on
  else !([actOf p t.1, mapGet Act.empty p.oldActs t.1.code].any fun a => a.tick = t.2 && a.running.contains (key / 16))

/-- The press has found two Vats in agreement on a request of a cycle: each Vat's share of it. A Vat that issued it has it taken, one
that issued a different one or whose chain has ended without it is sour unless the cycle itself has been ended, one that has issued none yet owes it (R24, R191). -/
def takeRequest (key : Nat) (q : Req) (t : TaskId × Nat) (stopped : Bool) (c : Chip) (v : Vat) : Chip :=
  let p := plane c v
  let rest := { p with reqs := mapPut [] p.reqs key (mapGet [] p.reqs key).tail }
  match headReq c key v with
  | none =>
    if cycleOver c key t v then (if stopped then c else todoSour c v 1 q.kind (some t.1) 0)
    else setPlane c v { p with owed := mapPut [] p.owed key (mapGet [] p.owed key ++ [(t.2, q)]) }
  | some r => if r = q then setPlane c v rest else todoSour (setPlane c v rest) v 1 r.kind (some t.1) 0

/-- Whether the cycle of the context at a key has been ended in a Vat (R191). -/
def cycleStopped (c : Chip) (key : Nat) (v : Vat) : Bool := (ctxOf (plane c v) (key / 16) (key % 16)).stop

/-- CFG_PORT_REQUEST: the requests of the context of engine n at a priority meet at the press. Where two Vats have ended the cycle
without a request that the third has issued, the third is sour; where no two agree, HOLD (R24, R133, R149). In a cycle that has
been ended (R191) nobody is sour for that: a chain whose request no second Vat issues ends where it waits. Log entry 35. -/
def portRequest (c : Chip) (n : Fin 64) (prio : Fin 16) : Chip :=
  let key := ctxKey n.val prio.val
  let vs := servingVats c
  let askers := vs.filter fun v => (headReq c key v).isSome
  let heads := vs.filterMap (headReq c key)
  match heads.find? fun q => 2 ≤ (heads.filter (· = q)).length with
  | some q =>
    let t := cycleOf c key ((vs.find? fun v => headReq c key v = some q).getD .a)
    portAct (vs.foldl (takeRequest key q t (vs.any (cycleStopped c key))) c) key q
  | none =>
    match askers with
    | [] => c
    | v :: _ =>
      let t := cycleOf c key v
      let done := (vs.filter fun u => !askers.contains u && cycleOver c key t u).length
      if askers.any (cycleStopped c key) then
        (if askers.length + done < vs.length then c else askers.foldl (fun c u => endChain c u n.val prio.val) c)
      else if 2 ≤ done then askers.foldl (fun c u => todoSour c u 1 (((headReq c key u).map (·.kind)).getD 1) (some t.1) 0) c
      else if askers.length + done = 3 then todoHold c 7 1 (some t.1)
      else if askers.length + done = 2 && vs.length = 2 then todoHold c 7 2 (some t.1)
      else c

/-- CFG_REPLY: the oldest reply on its way reaches the Vats, or a COMMIT has been checked (R25, R109). -/
def portReply (c : Chip) : Chip :=
  match c.sys.replies with
  | (key, ws :: rest) :: _ =>
    let c := onSys c fun s => { s with replies := mapPut [] s.replies key rest }
    deliverAll c (key / 16) (key % 16) ws
  | _ =>
    match c.sys.checking with
    | key :: rest =>
      if !c.sys.affUp then c
      else
        let (c, ws) := commitStaging (onSys c fun s => { s with checking := rest }) .culture
        deliverAll c (key / 16) (key % 16) ws
    | [] => c

end Sys2Proof.Machine
end

