-- ==== Sys2Proof/Machine/ExecBus.lean ====
section
/-! DEFINITION. The commands of MVB (R325 to R351), of the CAN ports (R352 to R373) and of the legacy rack port (R374 to R389). -/

namespace Sys2Proof.Machine

/-! ### MVB -/

/-- MASTER_FRAME_RECEIVE (R339). -/
def execMasterFrameReceive (fc : BitVec 4) (addr : BitVec 12) (start : Nat) (va vb : Bool) (s : State) : Host.Outcome State Fault Refusal :=
  s.run fun c => settle (masterFrame c fc.toNat addr.toNat start va vb)

/-- SLAVE_FRAME_RECEIVE (R334). -/
def execSlaveFrameReceive (f : MvbSlave) (s : State) : Host.Outcome State Fault Refusal :=
  s.run fun c => settle (slaveFrame c f)

/-- MVB_SILENCE (R331). -/
def execMvbSilence (s : State) : Host.Outcome State Fault Refusal := s.run fun c => settle (mvbSilence c)

/-- BASIC_PERIOD (R343). -/
def execBasicPeriod (s : State) : Host.Outcome State Fault Refusal := s.run fun c => settle (basicPeriod c)

/-- MVB_SLOT_END (R343). -/
def execMvbSlotEnd (s : State) : Host.Outcome State Fault Refusal := s.run fun c => settle (mvbSlotEnd c)

/-- MACRO_CYCLE_BOUNDARY (R345). -/
def execMacroCycleBoundary (s : State) : Host.Outcome State Fault Refusal := s.run fun c => settle (macroBoundary c)

/-- MVB_ASEL_WRITE (R345). -/
def execMvbAselWrite (w : Writer) (x : Word) (s : State) : Host.Outcome State Fault Refusal :=
  s.run fun c => settleAll (writeCommand c w Reg.mvbAsel.addr x)

/-- MVB_SOURCE_ENTRY (R337). -/
def execMvbSourceEntry (s : State) : Host.Outcome State Fault Refusal := s.run fun c => settle (mvbSourceEntry c)

/-! ### CAN -/

/-- CAN_FRAME_RECEIVE (R357). -/
def execCanFrameReceive (p : Fin 4) (f : CanRx) (s : State) : Host.Outcome State Fault Refusal :=
  s.run fun c => settle (canReceive c p.val f)

/-- CAN_STORE_FILL (R363). -/
def execCanStoreFill (p : Fin 4) (s : State) : Host.Outcome State Fault Refusal := s.run fun c => settle (storeFill c p.val)

/-- CAN_BUS_IDLE (R364). -/
def execCanBusIdle (p : Fin 4) (s : State) : Host.Outcome State Fault Refusal := s.run fun c => settle (busIdle c p.val)

/-- CAN_TX_SUCCESS (R364). -/
def execCanTxSuccess (p : Fin 4) (sof : Nat) (s : State) : Host.Outcome State Fault Refusal :=
  s.run fun c => settle (txSuccess c p.val sof)

/-- CAN_ARB_LOST (R364). -/
def execCanArbLost (p : Fin 4) (s : State) : Host.Outcome State Fault Refusal := s.run fun c => settle (arbLost c p.val)

/-- CAN_TX_ERROR (R364). -/
def execCanTxError (p : Fin 4) (counts : Bool) (s : State) : Host.Outcome State Fault Refusal :=
  s.run fun c => settle (txError c p.val counts)

/-- CAN_RECOVERY_DONE (R365). -/
def execCanRecoveryDone (p : Fin 4) (s : State) : Host.Outcome State Fault Refusal :=
  s.run fun c => settle (recoveryDone c p.val)

/-- REFERENCE_INSTANT (R369). -/
def execReferenceInstant (p : Fin 4) (s : State) : Host.Outcome State Fault Refusal :=
  s.run fun c => settle (referenceInstant c p.val)

/-- CAN_CMD_RECOVER (R365). -/
def execCanCmdRecover (w : Writer) (p : Fin 4) (s : State) : Host.Outcome State Fault Refusal :=
  s.run fun c => settleAll (writeCommand c w (Reg.canCmd.addr p.val) 0x10000000)

/-- CAN_CMD_FLUSH (R364). -/
def execCanCmdFlush (w : Writer) (p : Fin 4) (s : State) : Host.Outcome State Fault Refusal :=
  s.run fun c => settleAll (writeCommand c w (Reg.canCmd.addr p.val) 0x20000000)

/-- CAN_MON_READ (R370). -/
def execCanMonRead (w : Writer) (p : Fin 4) (k : Fin 20) (s : State) : Host.Outcome State Fault Refusal :=
  s.run fun c => settleAll (readCommand c w (Reg.canMon.addr p.val k.val))

/-- MONITOR_LOCK_TIMEOUT (R370). -/
def execMonitorLockTimeout (p : Fin 4) (s : State) : Host.Outcome State Fault Refusal :=
  s.run fun c => settle (monTimeout c p.val)

/-! ### Legacy rack -/

/-- OUTPUT_WINDOW_WRITE (R385). -/
def execOutputWindowWrite (s : State) : Host.Outcome State Fault Refusal := s.run fun c => settle (outputWrite c)

/-- INPUT_WINDOW_READ (R381). -/
def execInputWindowRead (n : Fin 64) (s : State) : Host.Outcome State Fault Refusal := s.run fun c => settle (inputRead c n.val)

/-- RACK_MASTER_WRITE (R382): the transaction of the master in a slot, with its address-phase word. -/
def execRackMasterWrite (slot : Fin 16) (addr : Word) (ts : Nat) (ad : List Word) (s : State) : Host.Outcome State Fault Refusal :=
  s.run fun c => settle (masterWrite c slot.val addr ts ad)

/-- RACK_BREQ (R379). -/
def execRackBreq (lines : BitVec 16) (s : State) : Host.Outcome State Fault Refusal := s.run fun c => settle (rackBreq c lines)

/-- RACK_WAIT_LIMIT (R378). -/
def execRackWaitLimit (n : Fin 64) (x : RdyWait) (s : State) : Host.Outcome State Fault Refusal :=
  s.run fun c => settle (rackWaitLimit c n.val x.clocks x.ts)

/-- RACK_BACKOFF (R378). -/
def execRackBackoff (n : Fin 64) (words : List Word) (ts : Nat) (s : State) : Host.Outcome State Fault Refusal :=
  s.run fun c => settle (rackBackoff c n.val words ts)

/-- BACKOFF_REPEAT (R378). -/
def execBackoffRepeat (n : Fin 64) (s : State) : Host.Outcome State Fault Refusal :=
  s.run fun c => settle (backoffRepeat c n.val)

/-- RACK_TRANSFER_END (R383). -/
def execRackTransferEnd (n : Fin 64) (res : Fin 8) (ts : Nat) (ad : List Word) (s : State) : Host.Outcome State Fault Refusal :=
  s.run fun c => settle (transferEnd c n.val res.val ts ad)

/-- SIDEBAND_CHANGE (R387). -/
def execSidebandChange (irq pres : BitVec 16) (sysfail : Bool) (s : State) : Host.Outcome State Fault Refusal :=
  s.run fun c => settle (sidebandChange c irq pres sysfail)

end Sys2Proof.Machine
end

