-- ==== Sys2Proof/Machine/ExecEth.lean ====
section
/-! DEFINITION. The commands of the train Ethernet (R276 to R303) and of network time (R305 to R323). -/

namespace Sys2Proof.Machine

/-! ### Train Ethernet -/

/-- PD_FRAME_RECEIVE (R291). -/
def execPdFrameReceive (f : PdFrame) (s : State) : Host.Outcome State Fault Refusal := s.run fun c => settle (pdReceive c f)

/-- ANNOUNCEMENT_RECEIVE (R286). -/
def execAnnouncementReceive (f : PdFrame) (s : State) : Host.Outcome State Fault Refusal :=
  s.run fun c => settle (announcementReceive c f)

/-- ANNOUNCEMENT_SEND (R285). -/
def execAnnouncementSend (s : State) : Host.Outcome State Fault Refusal := s.run fun c => settle (announceDue c)

/-- MD_REQUEST_RECEIVE (R298). -/
def execMdRequestReceive (m : MdMsg) (s : State) : Host.Outcome State Fault Refusal := s.run fun c => settle (mdRequest c m)

/-- MD_REPLY_SEND (R300). -/
def execMdReplySend (s : State) : Host.Outcome State Fault Refusal := s.run fun c => settle (mdReplySend c)

/-- MD_SESSION_TIMEOUT (R300). -/
def execMdSessionTimeout (handle : Nat) (s : State) : Host.Outcome State Fault Refusal :=
  s.run fun c => settle (mdTimeout c handle)

/-- TTDP_TOPOLOGY_CHANGE (R279). -/
def execTtdpTopologyChange (s : State) : Host.Outcome State Fault Refusal := s.run fun c => settle (topologyChange c)

/-- INAUGURATION_COMPLETE (R278, R279, R281), with the module's train-wide address and the train network directory. -/
def execInaugurationComplete (x : Inauguration) (s : State) : Host.Outcome State Fault Refusal :=
  s.run fun c => settle (inaugurationDone c x.topo x.own x.dir)

/-- PARTNER_AGEING (R282). -/
def execPartnerAgeing (i : Fin 4096) (s : State) : Host.Outcome State Fault Refusal :=
  s.run fun c => settle (partnerAgeing c i.val)

/-- ROLE_AGEING (R283). -/
def execRoleAgeing (r : Fin 1024) (s : State) : Host.Outcome State Fault Refusal := s.run fun c => settle (roleAgeing c r.val)

/-- LINK_CHANGE (R303). -/
def execLinkChange (p : Fin 4) (up giga : Bool) (s : State) : Host.Outcome State Fault Refusal :=
  s.run fun c => settle (linkChange c p up giga)

/-- BYPASS_RELAY (R276). -/
def execBypassRelay (switchBad : Bool) (s : State) : Host.Outcome State Fault Refusal :=
  s.run fun c => settleAll (bypass c switchBad)

/-- PD_TELEGRAM_SEND (R296). -/
def execPdTelegramSend (s : State) : Host.Outcome State Fault Refusal := s.run fun c => settle (pdSend c)

/-! ### Network time -/

/-- PTP_MESSAGE_RECEIVE (R309). -/
def execPtpMessageReceive (m : PtpMsg) (s : State) : Host.Outcome State Fault Refusal := s.run fun c => settle (ptpReceive c m)

/-- DOMAIN_LOSS (R309). -/
def execDomainLoss (d : Fin 2) (s : State) : Host.Outcome State Fault Refusal := s.run fun c => settle (domainLoss c d.val)

/-- TIME_STEP_APPLY (R314). -/
def execTimeStepApply (s : State) : Host.Outcome State Fault Refusal := s.run fun c => settleAll (timeStepApply c)

/-- SLEW_EXPIRY (R305). -/
def execSlewExpiry (s : State) : Host.Outcome State Fault Refusal := s.run fun c => settle (slewExpiry c)

/-- HOLDOVER_TIMEOUT (R316). -/
def execHoldoverTimeout (s : State) : Host.Outcome State Fault Refusal := s.run fun c => settle (holdoverTimeout c)

/-- LADLE_TIME_LOSS (R315). -/
def execLadleTimeLoss (s : State) : Host.Outcome State Fault Refusal := s.run fun c => settle (ladleTimeLoss c)

/-- COMPARE_FIRE (R319). -/
def execCompareFire (n : Fin 16) (s : State) : Host.Outcome State Fault Refusal := s.run fun c => settleAll (compareFire (unitTick c) n.val)

/-- PPS_OUTPUT_EDGE (R317). -/
def execPpsOutputEdge (s : State) : Host.Outcome State Fault Refusal := s.run fun c => settleAll (ppsOut (unitTick c))

/-- PPS_INPUT_EDGE (R318). -/
def execPpsInputEdge (t : Nat) (s : State) : Host.Outcome State Fault Refusal := s.run fun c => settle (ppsIn c t)

/-- CAPTURE_EDGE (R320). -/
def execCaptureEdge (n : Fin 8) (rising : Bool) (t : Tri (Option Nat)) (s : State) : Host.Outcome State Fault Refusal :=
  s.run fun c => settle (captureEdge c n.val rising t)

/-- PTP_FREQH_WRITE (R305). -/
def execPtpFreqhWrite (w : Writer) (x : Word) (s : State) : Host.Outcome State Fault Refusal :=
  s.run fun c => settleAll (writeCommand c w Reg.ptpFreqh.addr x)

/-- PTP_SLEW_WRITE (R305). -/
def execPtpSlewWrite (w : Writer) (x : Word) (s : State) : Host.Outcome State Fault Refusal :=
  s.run fun c => settleAll (writeCommand c w Reg.ptpSlew.addr x)

end Sys2Proof.Machine
end

