-- ==== Sys2Proof/Machine/ExecEvc.lean ====
section
/-! DEFINITION. The commands of event delivery (R219 to R229) and of the Cellar (R478 to R488). -/

namespace Sys2Proof.Machine

/-- EVENT_ARRIVAL (R219). -/
def execEventArrival (x : Signal) (va vb vc : Bool) (s : State) : Host.Outcome State Fault Refusal :=
  s.run fun c => settle (eventArrival c x.source.val x.info ⟨va, vb, vc⟩)

/-- HOLDOFF_EXPIRY (R221). -/
def execHoldoffExpiry (g : Fin 64) (x : Fin 2) (s : State) : Host.Outcome State Fault Refusal :=
  s.run fun c => settle (holdoffExpiry c g.val x.val)

/-- EVENT_EMIT_DELAYED (R222). -/
def execEventEmitDelayed (n : Fin 4096) (x : Fin 2) (s : State) : Host.Outcome State Fault Refusal :=
  s.run fun c => settle (delayedEmission c n.val x.val)

/-- DISPATCHER_RECORD (R225). -/
def execDispatcherRecord (v : Vat) (s : State) : Host.Outcome State Fault Refusal :=
  s.run fun c => settle (dispatcherRecord c v)

/-- AFFINEUR_EVENT_RECORD (R229). -/
def execAffineurEventRecord (s : State) : Host.Outcome State Fault Refusal := s.run fun c => settle (affineurRecord c)

/-- RECORD_OFFER (R478). -/
def execRecordOffer (culture : Bool) (block : Fin 64) (code : Fin 256) (task : Fin 1024) (data : List (BitVec 8)) (s : State) : Host.Outcome State Fault Refusal :=
  s.run fun c => settle (recordOffer c culture block.val code.val task.val data)

/-- RECORD_WRITE (R481). -/
def execRecordWrite (culture : Bool) (s : State) : Host.Outcome State Fault Refusal :=
  s.run fun c => settle (recordWrite c culture)

/-- CLEAR_SLOT_WRITE (R488). -/
def execClearSlotWrite (s : State) : Host.Outcome State Fault Refusal := s.run fun c => settle (clearSlot c)

end Sys2Proof.Machine
end

