-- ==== Sys2Proof/Machine/ExecFio.lean ====
section
/-! DEFINITION. The commands of the field lanes, digital inputs and outputs, speed inputs and analog channels (R390 to R436). -/

namespace Sys2Proof.Machine

/-! ### Field lanes -/

/-- INPUT_FRAME (R391). -/
def execInputFrame (v : Vat) (x : LaneFrame) (s : State) : Host.Outcome State Fault Refusal :=
  s.run fun c => settleAll (inputFrame c v x.ok x.seq)

/-- COMMAND_FRAME (R392). -/
def execCommandFrame (v : Vat) (x : LaneFrame) (s : State) : Host.Outcome State Fault Refusal :=
  s.run fun c => settleAll (commandFrame c v x.ok x.seq)

/-- REFRESH_FRAME (R20). -/
def execRefreshFrame (v : Vat) (x : LaneFrame) (s : State) : Host.Outcome State Fault Refusal :=
  s.run fun c => settleAll (refreshFrame c v x.ok x.seq)

/-- REFRESH_LOSS (R20). -/
def execRefreshLoss (s : State) : Host.Outcome State Fault Refusal := s.run fun c => settleAll (refreshLoss c)

/-- FIELD_LANE_REFRESH_TIMEOUT (R392). -/
def execFieldLaneRefreshTimeout (v : Vat) (s : State) : Host.Outcome State Fault Refusal :=
  s.run fun c => settleAll (laneTimeout c v)

/-- OUTPUT_APPLY (R402). -/
def execOutputApply (s : State) : Host.Outcome State Fault Refusal := s.run fun c => settleAll (outputApply c)

/-! ### Digital -/

/-- DEBOUNCE_ACCEPT (R394). -/
def execDebounceAccept (v : Vat) (n : Fin 64) (x : Lasting RawInput) (s : State) : Host.Outcome State Fault Refusal :=
  s.run fun c => settleAll (debounceAccept c v n.val x.sign x.run)

/-- TEST_PULSE (R396). -/
def execTestPulse (t : Fin 8) (s : State) : Host.Outcome State Fault Refusal := s.run fun c => settleAll (testPulse c t.val)

/-- TEST_PULSE_SAMPLE (R397). -/
def execTestPulseSample (t : Fin 8) (raw : Tri (BitVec 64)) (rbOk : Bool) (s : State) : Host.Outcome State Fault Refusal :=
  s.run fun c => settleAll (testPulseSample c t.val raw rbOk)

/-- TEST_PULSE_CURRENT_LIMIT (R398). -/
def execTestPulseCurrentLimit (x : Lasting (Fin 8)) (s : State) : Host.Outcome State Fault Refusal :=
  s.run fun c => settleAll (testPulseLimit c x.sign.val x.run)

/-- OUTPUT_OVERLOAD (R404). -/
def execOutputOverload (x : Overload) (s : State) : Host.Outcome State Fault Refusal :=
  s.run fun c => settleAll (outputOverload c x.output.val x.run x.hot)

/-- FAULT_CLEAR (R404). -/
def execFaultClear (n : Fin 36) (s : State) : Host.Outcome State Fault Refusal := s.run fun c => settleAll (faultClear c n.val)

/-- READBACK_CHECK (R405). -/
def execReadbackCheck (n : Fin 32) (rb : Tri Bool) (s : State) : Host.Outcome State Fault Refusal :=
  s.run fun c => settleAll (readbackCheck c n.val rb)

/-- OPEN_DETECT (R405). -/
def execOpenDetect (n : Fin 32) (x : Lasting Bool) (s : State) : Host.Outcome State Fault Refusal :=
  s.run fun c => settleAll (openDetect c n.val x.sign x.run)

/-- OUTPUT_STAGE_TEST (R408). -/
def execOutputStageTest (bad : BitVec 36) (s : State) : Host.Outcome State Fault Refusal :=
  s.run fun c => settleAll (stageTest c bad)

/-- FIELD_SUPPLY_CHANGE (R399). -/
def execFieldSupplyChange (f : Fin 4) (volt curr : Nat) (s : State) : Host.Outcome State Fault Refusal :=
  s.run fun c => settleAll (fieldSupply c f.val volt curr)

/-! ### Speed -/

/-- SPEED_EDGE (R411). -/
def execSpeedEdge (n : Fin 8) (rising both : Bool) (x : Lasting (Tri (Option Nat))) (s : State) : Host.Outcome State Fault Refusal :=
  s.run fun c => settleAll (speedEdge c n.val rising both x.sign x.run)

/-- STILL_TIMEOUT (R411). -/
def execStillTimeout (n : Fin 8) (s : State) : Host.Outcome State Fault Refusal :=
  s.run fun c => settleAll (stillTimeout c n.val)

/-- SPEED_SENSOR_FAULT (R409). -/
def execSpeedSensorFault (n : Fin 8) (brk : Tri Bool) (x : Lasting (Tri Bool)) (s : State) : Host.Outcome State Fault Refusal :=
  s.run fun c => settleAll (sensorFault c n.val brk x.sign x.run)

/-! ### Analog -/

/-- CONVERSION_END (R424). -/
def execConversionEnd (n : Fin 32) (x : BitVec 32) (opened : Bool) (s : State) : Host.Outcome State Fault Refusal :=
  s.run fun c => settleAll (conversionEnd c n.val x.toInt opened)

/-- OUTERR_TIMER (R432). -/
def execOuterrTimer (n : Fin 32) (s : State) : Host.Outcome State Fault Refusal :=
  s.run fun c => settleAll (outerrTimer c n.val)

/-- COLD_JUNCTION_CHANGE (R436). -/
def execColdJunctionChange (j : Fin 4) (sound : Bool) (temp : Int) (s : State) : Host.Outcome State Fault Refusal :=
  s.run fun c => settleAll (coldJunction c j.val sound temp)

end Sys2Proof.Machine
end

