-- ==== Sys2Proof/Machine/Standby.lean ====
section
/-! DEFINITION. A standby applies what the primary copies to it (R254, R258, R259): the cycle that an END closes, and the end of a
full copy; the press images reach the field I/O unit behind the closed enable. -/

namespace Sys2Proof.Machine

/-- A task's press image as applied is put on the field lanes, for a commit tick (R239, R254), and into the MVB source buffers
(R330). -/
def loadTask (c : Chip) (t : TaskId) (commit : Nat) : Chip :=
  mvbLoad ((servingVats c).foldl (fun c v =>
    sendCommand c v (taskPatch c t (fun pt => (mapGet none c.core.committed pt).getD []) commit)) c) t

/-- SYNC ends the full copy: the standby is SYNCED, and the press images it holds reach the field I/O unit (R259). -/
def syncFrame (c : Chip) (_ : LFrame) : Chip :=
  if c.sys.mode = .standby ∧ c.ldl.sync = 3 then
    let c := (enabledTasks c).foldl (fun c t => loadTask c t c.core.tick) c
    raise (onLdl c fun l => { l with sync := 4, rxbuf := [] }) 1923 (epoch c)
  else c

/-- END (R254): the epoch that it carries is known in every mode (R241); in a SYNCED standby the cycle is applied if all its frames have arrived, else SYNC becomes STALE. `bad` is a Vat that
applies the press image differently. -/
def endFrame (c : Chip) (f : LFrame) (bad : Option Vat) : Chip :=
  let w (n : Nat) : Nat := leAt f.payload (4 * n) 4
  let c := learnEpoch c (w 1)
  if c.sys.mode ≠ .standby ∨ c.ldl.sync ≠ 4 then c
  else
    let t := lfTask f
    let fs := mapGet [] c.ldl.rxbuf t.code
    let c := onLdl c fun l => { l with rxbuf := mapPut [] l.rxbuf t.code [] }
    if fs.length ≠ w 0 then becomeStale c
    else
      let c := fs.foldl applyFrame c
      let st := taskSt c t
      let commit := (nearTick c f.h2.toNat).toNat
      let c := setTask c t { st with cycles := w 3 % 65536, lastCommit := commit, ovrLast := bit (word (w 3)) 31,
                                     tflag := bit (word (w 3)) 31 }
      let c := loadTask c t commit
      let c := onLdl c fun l => { l with applied := mapPut 0 l.applied t.code ((nearTick c (w 2)).toNat + 1) }
      let c := match t with | .event v => dropPending c v (w 4) (w 5) | _ => c
      match bad with
      | some v => todoSour c v 1 0 (some t) 0
      | none => c

end Sys2Proof.Machine
end

