-- ==== Sys2Proof/Machine/ExecLdl.lean ====
section
/-! DEFINITION. The commands of the charge pair and of the Ladle (R238 to R272). -/

namespace Sys2Proof.Machine

/-! ### The charge line -/

/-- CHG_IN_EDGE (R238). -/
def execChgInEdge (us : Nat) (s : State) : Host.Outcome State Fault Refusal := s.run fun c => settleAll (chgInEdge c us)

/-- TOGGLING_LOST (R238). -/
def execTogglingLost (s : State) : Host.Outcome State Fault Refusal := s.run fun c => settleAll (togglingLost c)

/-- PARTNER_SILENT (R238). -/
def execPartnerSilent (s : State) : Host.Outcome State Fault Refusal := s.run fun c => settleAll (partnerSilent c)

/-- TAKEOVER (R263). -/
def execTakeover (s : State) : Host.Outcome State Fault Refusal := s.run fun c => settleAll (takeover (partnerSilent c))

/-- HANDOVER_TICK (R265). -/
def execHandoverTick (next : Nat) (s : State) : Host.Outcome State Fault Refusal :=
  s.run fun c => settleAll (handoverTick c next)

/-- RELINQUISH_END (R266). -/
def execRelinquishEnd (s : State) : Host.Outcome State Fault Refusal := s.run fun c => settleAll (relinquishEnd c)

/-! ### The link -/

/-- LADLE_LANE_UP (R248). -/
def execLadleLaneUp (lane : Vat) (tx : Bool) (s : State) : Host.Outcome State Fault Refusal :=
  s.run fun c => settleAll (laneUp c lane tx)

/-- LADLE_LANE_DOWN (R248). -/
def execLadleLaneDown (lane : Vat) (tx : Bool) (s : State) : Host.Outcome State Fault Refusal :=
  s.run fun c => settleAll (laneDown c lane tx)

/-- LADLE_SLOT (R249). -/
def execLadleSlot (s : State) : Host.Outcome State Fault Refusal := s.run fun c => settleAll (ladleSlot c)

/-- LDL_CMD_RESYNC (R272). -/
def execLdlCmdResync (w : Writer) (s : State) : Host.Outcome State Fault Refusal :=
  s.run fun c => settleAll (writeCommand c w Reg.ldlCmd.addr 0x10000000)

/-- LDL_CMD_LINKRESET (R272). -/
def execLdlCmdLinkreset (w : Writer) (s : State) : Host.Outcome State Fault Refusal :=
  s.run fun c => settleAll (writeCommand c w Reg.ldlCmd.addr 0x20000000)

/-- STANDBY_SELF_TEST (R261). -/
def execStandbySelfTest (kind : Fin 3) (bad : Tri Bool) (s : State) : Host.Outcome State Fault Refusal :=
  s.run fun c => settleAll (standbyTest c kind bad)

/-! ### Frames -/

/-- STATE_FRAME (R254). -/
def execStateFrame (f : Lanes) (s : State) : Host.Outcome State Fault Refusal :=
  s.run fun c => settleAll (onFrame c f 1 stateFrame)

/-- QSTATE_FRAME (R254). -/
def execQstateFrame (f : Lanes) (s : State) : Host.Outcome State Fault Refusal :=
  s.run fun c => settleAll (onFrame c f 2 stateFrame)

/-- PRESS_FRAME (R254). -/
def execPressFrame (f : Lanes) (s : State) : Host.Outcome State Fault Refusal :=
  s.run fun c => settleAll (onFrame c f 3 stateFrame)

/-- END_FRAME (R254). -/
def execEndFrame (f : Lanes) (bad : Option Vat) (s : State) : Host.Outcome State Fault Refusal :=
  s.run fun c => settleAll (onFrame c f 4 fun c x => endFrame c x bad)

/-- FULL_FRAME (R259). -/
def execFullFrame (f : Lanes) (s : State) : Host.Outcome State Fault Refusal :=
  s.run fun c => settleAll (onFrame c f 5 fullFrame)

/-- SYNC_FRAME (R259). -/
def execSyncFrame (f : Lanes) (s : State) : Host.Outcome State Fault Refusal :=
  s.run fun c => settleAll (onFrame c f 6 syncFrame)

/-- HEALTH_FRAME (R267). -/
def execHealthFrame (f : Lanes) (s : State) : Host.Outcome State Fault Refusal :=
  s.run fun c => settleAll (onFrame c f 7 healthFrame)

/-- HANDOVER_FRAME (R265). -/
def execHandoverFrame (f : Lanes) (s : State) : Host.Outcome State Fault Refusal :=
  s.run fun c => settleAll (onFrame c f 8 handoverFrame)

/-- FINAL_FRAME (R243). -/
def execFinalFrame (f : Lanes) (s : State) : Host.Outcome State Fault Refusal :=
  s.run fun c => settleAll (onFrame c f 9 finalFrame)

/-- TIME_FRAME (R315). -/
def execTimeFrame (f : Lanes) (trip : Option Nat) (s : State) : Host.Outcome State Fault Refusal :=
  s.run fun c => settleAll (onFrame c f 10 fun c x => timeFrame c x trip)

/-- UPDATE_FRAME (R511). -/
def execUpdateFrame (f : Lanes) (s : State) : Host.Outcome State Fault Refusal :=
  s.run fun c => settleAll (onFrame c f 11 updateFrame)

/-- AFF_FRAME (R250). -/
def execAffFrame (f : Lanes) (s : State) : Host.Outcome State Fault Refusal :=
  s.run fun c => settleAll (onFrame c f 12 affFrame)

/-- SYNCREQ_FRAME (R259). -/
def execSyncreqFrame (f : Lanes) (s : State) : Host.Outcome State Fault Refusal :=
  s.run fun c => settleAll (onFrame c f 13 syncReq)

/-- IDENT_FRAME (R234). -/
def execIdentFrame (f : Lanes) (s : State) : Host.Outcome State Fault Refusal :=
  s.run fun c => settleAll (onFrame c f 14 identFrame)

/-- LADLE_RESERVED_TYPE (R250). -/
def execLadleReservedType (f : Lanes) (s : State) : Host.Outcome State Fault Refusal :=
  s.run fun c => settleAll (reservedFrame c f)

end Sys2Proof.Machine
end

