-- ==== Sys2Proof/Machine/ExecRind.lean ====
section
/-! DEFINITION. The commands of Rind (R437 to R471) and of power (R529 to R551). -/

namespace Sys2Proof.Machine

/-! ### Rind -/

/-- RIND_CYCLE (R447). -/
def execRindCycle (t : Nat) (bad : BitVec 2) (fsLow : Bool) (s : State) : Host.Outcome State Fault Refusal :=
  s.run fun c => settleAll (rindCycle c t bad fsLow)

/-- SAFETY_INPUT_EVAL (R441). -/
def execSafetyInputEval (t : Nat) (si low : BitVec 8) (s : State) : Host.Outcome State Fault Refusal :=
  s.run fun c => settleAll (safetyEval c t si low)

/-- RIND_TP_SAMPLE (R441). -/
def execRindTpSample (k : Fin 8) (si : BitVec 8) (s : State) : Host.Outcome State Fault Refusal :=
  s.run fun c => settleAll (tpSample c k.val si)

/-- RIND_SPEED_EDGE (R443). -/
def execRindSpeedEdge (n : Fin 2) (t : Nat) (s : State) : Host.Outcome State Fault Refusal :=
  s.run fun c => settleAll (rindSpeedEdge c n.val t)

/-- RESET_PULSE (R451). -/
def execResetPulse (high : Option Nat) (s : State) : Host.Outcome State Fault Refusal :=
  s.run fun c => settleAll (resetWithProof c high)

/-- RST_HIGH_10S (R451). -/
def execRstHigh10s (s : State) : Host.Outcome State Fault Refusal := s.run fun c => settleAll (rstHigh c)

/-- TE_TEST (R444). -/
def execTeTest (diff : BitVec 2) (s : State) : Host.Outcome State Fault Refusal := s.run fun c => settleAll (teTest c diff)

/-- OSCILLATOR_WINDOW (R458). -/
def execOscillatorWindow (count : Nat) (s : State) : Host.Outcome State Fault Refusal :=
  s.run fun c => settleAll (oscWindow c count)

/-- CLOCKREF_TIMEOUT (R458). -/
def execClockrefTimeout (s : State) : Host.Outcome State Fault Refusal := s.run fun c => settleAll (clockrefTimeout c)

/-- RIND_DIAGNOSTIC (R459). -/
def execRindDiagnostic (d : Fin 10) (ok : Bool) (s : State) : Host.Outcome State Fault Refusal :=
  s.run fun c => settleAll (rindDiagnostic c d.val ok)

/-- RIND_START_END (R454). -/
def execRindStartEnd (ok : Bool) (s : State) : Host.Outcome State Fault Refusal := s.run fun c => settleAll (rindStartEnd c ok)

/-- RIND_STATUS_SEND (R470). -/
def execRindStatusSend (s : State) : Host.Outcome State Fault Refusal := s.run fun c => settleAll (rindSend c)

/-- RIND_STATUS_TIMEOUT (R470). -/
def execRindStatusTimeout (s : State) : Host.Outcome State Fault Refusal := s.run fun c => settleAll (rindSilent c)

/-- RIND_UNLOCK (R464). -/
def execRindUnlock (n : Fin 4) (s : State) : Host.Outcome State Fault Refusal :=
  s.run fun c => settleAll (writeCommand c (.session n) Reg.rindCmd.addr 0x10000000)

/-- RIND_ACCEPT (R465). -/
def execRindAccept (n : Fin 4) (s : State) : Host.Outcome State Fault Refusal :=
  s.run fun c => settleAll (writeCommand c (.session n) Reg.rindCmd.addr 0x20000000)

/-- RIND_SETPW (R464). -/
def execRindSetpw (n : Fin 4) (s : State) : Host.Outcome State Fault Refusal :=
  s.run fun c => settleAll (writeCommand c (.session n) Reg.rindCmd.addr 0x30000000)

/-- RIND_LOCK (R464). -/
def execRindLock (n : Fin 4) (s : State) : Host.Outcome State Fault Refusal :=
  s.run fun c => settleAll (writeCommand c (.session n) Reg.rindCmd.addr 0x40000000)

/-- ACCEPT_TIMEOUT (R465). -/
def execAcceptTimeout (s : State) : Host.Outcome State Fault Refusal := s.run fun c => settleAll (acceptTimeout c)

/-- UNLOCK_TIMEOUT (R464). -/
def execUnlockTimeout (s : State) : Host.Outcome State Fault Refusal := s.run fun c => settleAll (unlockTimeout c)

/-! ### Power -/

/-- INTERRUPTION_DETECT (R532). -/
def execInterruptionDetect (x : Lasting Nat) (s : State) : Host.Outcome State Fault Refusal :=
  s.run fun c => settleAll (interruptionDetect c x.sign x.run)

/-- INTERRUPTION_END (R532). -/
def execInterruptionEnd (lowest : Nat) (s : State) : Host.Outcome State Fault Refusal :=
  s.run fun c => settleAll (interruptionEnd c lowest)

/-- INTERRUPTION_TIMEOUT (R532). -/
def execInterruptionTimeout (s : State) : Host.Outcome State Fault Refusal := s.run fun c => settleAll (interruptionTimeout c)

/-- POWER_DOWN_END (R533). -/
def execPowerDownEnd (s : State) : Host.Outcome State Fault Refusal := s.run fun c => settleAll (powerDownEnd c)

/-- INPUT_OVERVOLTAGE (R530). -/
def execInputOvervoltage (x : Lasting Nat) (s : State) : Host.Outcome State Fault Refusal :=
  s.run fun c => settleAll (inputOvervoltage c x.sign x.run)

/-- INPUT_SWITCH_CLOSE (R530). -/
def execInputSwitchClose (highest : Nat) (s : State) : Host.Outcome State Fault Refusal :=
  s.run fun c => settleAll (inputSwitchClose c highest)

/-- STORE_MEASURE (R535). -/
def execStoreMeasure (cap hup : Nat) (s : State) : Host.Outcome State Fault Refusal :=
  s.run fun c => settleAll (storeMeasure c cap hup)

/-- BASEPLATE_WARNING (R547). -/
def execBaseplateWarning (t : Int) (s : State) : Host.Outcome State Fault Refusal := s.run fun c => settleAll (baseplate c t)

/-- REGION_TEMP_DIFF (R154). -/
def execRegionTempDiff (t : Tri Int) (s : State) : Host.Outcome State Fault Refusal :=
  s.run fun c => settleAll (regionTemps c t)

end Sys2Proof.Machine
end

