-- ==== Sys2Proof/Machine/ExecSys.lean ====
section
/-! DEFINITION. The commands of start-up, modes and the configuration port (R194 to R217). -/

namespace Sys2Proof.Machine

/-! ### Start-up -/

/-- POWER_ON (R194). -/
def execPowerOn (s : State) : Host.Outcome State Fault Refusal := s.run fun c => settleAll (powerOn c)

/-- RENNET_START (R194). -/
def execRennetStart (romOk : Bool) (s : State) : Host.Outcome State Fault Refusal :=
  s.run fun c => settleAll (rennetStart c romOk)

/-- RNG_READY (R113). -/
def execRngReady (s : State) : Host.Outcome State Fault Refusal := s.run fun c => settleAll (rngReady c)

/-- RNG_TEST_FAIL (R113). -/
def execRngTestFail (test : Fin 2) (s : State) : Host.Outcome State Fault Refusal :=
  s.run fun c => settleAll (rngTestFail c test)

/-- AFFINEUR_SELF_PROOF_DONE (R194). -/
def execAffineurSelfProofDone (fail : Option (BitVec 12)) (s : State) : Host.Outcome State Fault Refusal :=
  s.run fun c => settleAll (affineurProof c fail)

/-- VAT_START_PROOF_DONE (R194). -/
def execVatStartProofDone (fail : Option (Fin 4 × BitVec 12)) (s : State) : Host.Outcome State Fault Refusal :=
  s.run fun c => settleAll (vatProof c fail)

/-- FIELD_UNIT_SELF_TEST_DONE (R194). -/
def execFieldUnitSelfTestDone (fail : Option (BitVec 12)) (s : State) : Host.Outcome State Fault Refusal :=
  s.run fun c => settleAll (fieldProof c fail)

/-- CULTURE_LOAD (R32). -/
def execCultureLoad (s : State) : Host.Outcome State Fault Refusal := s.run fun c => settleAll (cultureLoad c)

/-- SETUP_TIME_LIMIT (R195). -/
def execSetupTimeLimit (s : State) : Host.Outcome State Fault Refusal := s.run fun c => settleAll (setupTimeLimit c)

/-- LOOP_PROOF_ATTEMPT (R430). -/
def execLoopProofAttempt (res : List (Fin 32 × BitVec 32 × Int)) (s : State) : Host.Outcome State Fault Refusal :=
  s.run fun c => settleAll (loopProof c res)

/-- PARTNER_WATCH_END (R246). -/
def execPartnerWatchEnd (s : State) : Host.Outcome State Fault Refusal := s.run fun c => settleAll (partnerWatchEnd c)

/-- AFFINEUR_RESTART (R16). -/
def execAffineurRestart (s : State) : Host.Outcome State Fault Refusal := s.run fun c => settleAll (affineurRestart c)

/-- AFFINEUR_RESTART_DONE (R208). -/
def execAffineurRestartDone (s : State) : Host.Outcome State Fault Refusal := s.run fun c => settleAll (affineurRestartDone c)

/-! ### Ticks -/

/-- FAST_PLANE_TICK (R38). -/
def execFastPlaneTick (drift : Tri Int) (s : State) : Host.Outcome State Fault Refusal :=
  s.run fun c => settleAll (fastPlaneTick c drift)

/-- MANAGEMENT_TICK (R217). -/
def execManagementTick (m : Mgmt) (s : State) : Host.Outcome State Fault Refusal :=
  s.run fun c => settleAll (managementTick c m)

/-! ### SYS_CMD -/

/-- SYS_CMD_HOLD (R210). -/
def execSysCmdHold (w : Writer) (key : BitVec 16) (s : State) : Host.Outcome State Fault Refusal :=
  s.run fun c => settleAll (writeCommand c w Reg.sysCmd.addr (word (1 * 2 ^ 28 + key.toNat)))

/-- SYS_CMD_RESTART (R210). -/
def execSysCmdRestart (w : Writer) (key : BitVec 16) (s : State) : Host.Outcome State Fault Refusal :=
  s.run fun c => settleAll (writeCommand c w Reg.sysCmd.addr (word (2 * 2 ^ 28 + key.toNat)))

/-- SYS_CMD_MAINT (R210). -/
def execSysCmdMaint (w : Writer) (key : BitVec 16) (s : State) : Host.Outcome State Fault Refusal :=
  s.run fun c => settleAll (writeCommand c w Reg.sysCmd.addr (word (3 * 2 ^ 28 + key.toNat)))

/-- SYS_CMD_EXIT (R210). -/
def execSysCmdExit (w : Writer) (key : BitVec 16) (s : State) : Host.Outcome State Fault Refusal :=
  s.run fun c => settleAll (writeCommand c w Reg.sysCmd.addr (word (4 * 2 ^ 28 + key.toNat)))

/-- SYS_CMD_REJOIN (R210). -/
def execSysCmdRejoin (w : Writer) (key : BitVec 16) (s : State) : Host.Outcome State Fault Refusal :=
  s.run fun c => settleAll (writeCommand c w Reg.sysCmd.addr (word (5 * 2 ^ 28 + key.toNat)))

/-- SYS_CMD_HANDOVER (R265). -/
def execSysCmdHandover (w : Writer) (key : BitVec 16) (h : Nat) (s : State) : Host.Outcome State Fault Refusal :=
  s.run fun c => settleAll (writeCommand c w Reg.sysCmd.addr (word (6 * 2 ^ 28 + key.toNat)) h)

/-- SYS_CMD_RESET (R210). -/
def execSysCmdReset (w : Writer) (key : BitVec 16) (s : State) : Host.Outcome State Fault Refusal :=
  s.run fun c => settleAll (writeCommand c w Reg.sysCmd.addr (word (7 * 2 ^ 28 + key.toNat)))

/-! ### Committed words -/

/-- COMMIT_APPLY (R205). -/
def execCommitApply (block : Fin 28) (n : Fin 512) (s : State) : Host.Outcome State Fault Refusal :=
  s.run fun c => settleAll (commitApply c block.val n.val)

/-! ### Registers -/

/-- REGISTER_WRITE (R6). -/
def execRegisterWrite (w : Writer) (addr : BitVec 24) (x : Word) (s : State) : Host.Outcome State Fault Refusal :=
  s.run fun c => settleAll (writeCommand c w addr.toNat x)

/-- RC_READ (R7). -/
def execRcRead (w : Writer) (addr : BitVec 24) (s : State) : Host.Outcome State Fault Refusal :=
  s.run fun c => settleAll (readCommand c w addr.toNat)

/-- HXK_TICKL_READ (R62). -/
def execHxkTicklRead (w : Writer) (s : State) : Host.Outcome State Fault Refusal :=
  s.run fun c => settleAll (readCommand c w Reg.hxkTickl.addr)

/-- ARB_WQST0_READ (R178). -/
def execArbWqst0Read (w : Writer) (s : State) : Host.Outcome State Fault Refusal :=
  s.run fun c => settleAll (readCommand c w Reg.arbWqst0.addr)

/-- ARB_WQST2_READ (R178). -/
def execArbWqst2Read (w : Writer) (s : State) : Host.Outcome State Fault Refusal :=
  s.run fun c => settleAll (readCommand c w Reg.arbWqst2.addr)

/-- ETH_PT0_READ (R301). -/
def execEthPt0Read (w : Writer) (s : State) : Host.Outcome State Fault Refusal :=
  s.run fun c => settleAll (readCommand c w Reg.ethPt0.addr)

/-- PTP_NOWL_READ (R323). -/
def execPtpNowlRead (w : Writer) (s : State) : Host.Outcome State Fault Refusal :=
  s.run fun c => settleAll (readCommand c w Reg.ptpNowl.addr)

/-- PTP_LSTEPL_READ (R323). -/
def execPtpLsteplRead (w : Writer) (s : State) : Host.Outcome State Fault Refusal :=
  s.run fun c => settleAll (readCommand c w Reg.ptpLstepl.addr)

/-- CEL_NEWL_READ (R489). -/
def execCelNewlRead (w : Writer) (s : State) : Host.Outcome State Fault Refusal :=
  s.run fun c => settleAll (readCommand c w Reg.celNewl.addr)

/-- RIND_LOG0_READ (R468). -/
def execRindLog0Read (w : Writer) (s : State) : Host.Outcome State Fault Refusal :=
  s.run fun c => settleAll (readCommand c w Reg.rindLog.addr)

/-- TST_BITSL_READ (R528). -/
def execTstBitslRead (w : Writer) (s : State) : Host.Outcome State Fault Refusal :=
  s.run fun c => settleAll (readCommand c w Reg.tstBitsl.addr)

end Sys2Proof.Machine
end

