-- ==== Sys2Proof/Machine/Bound.lean ====
section
/-! DEFINITION. Boundary agreement (R46 to R49) and the agreement that ends a queue wait (R96): the posts and reports between
the same-numbered engines of the Vats. -/

namespace Sys2Proof.Machine

/-! ### Boundary agreement -/

/-- The later of two boundary counters, by signed 32-bit difference. -/
def laterCount (a b : Word) : Word := if 0 ≤ (a - b).toInt then a else b

/-- The largest of the counts held. -/
def largestCount (l : List Word) : Option Word :=
  match l with
  | [] => none
  | a :: r => some (r.foldl laterCount a)

/-- The engine takes m from the counts it holds, and switches at once where it stands there (R48 steps 3 to 5). -/
def takeGoal (c : Chip) (v : Vat) (eng : Nat) : Chip :=
  let p := plane c v
  let g := engOf p eng
  match g.cur, largestCount (allVats.filterMap fun u => g.reports.get u) with
  | some r, some m =>
    let x := ctxOf p eng r
    if x.atBnd ∧ x.bnd = m then switchUrgent c v eng
    else setPlane c v (setEng p eng { g with goal := some m })
  | _, _ => c

/-- Once it holds the counts of all SERVING Vats the engine takes m. -/
def tryGoal (c : Chip) (v : Vat) (eng : Nat) : Chip :=
  let g := engOf (plane c v) eng
  if g.goal.isNone ∧ (servingVats c).all (fun u => (g.reports.get u).isSome) then takeGoal c v eng else c

/-- BNDWAIT has run since an engine posted at tick `at_`, for a context's task (R49, R96). -/
def bndExpired (c : Chip) (t : TaskId) (at_ : Option Nat) : Bool :=
  match at_ with
  | some s => decide (s + bndWaitOf c t ≤ c.core.tick)
  | none => false

/-- BOUNDARY_REACHED: an engine with an urgent chain stands at a call boundary, the removal of a frame among them (R46). At the
first it posts its count (R48 steps 1 and 2); where it stands at m it switches. -/
def boundaryReached (c : Chip) (e : Eng) : Chip :=
  let p := plane c e.vat
  let g := engOf p e.num.val
  match g.cur, g.urgent with
  | some r, some _ =>
    let x := ctxOf p e.num.val r
    if !serving c e.vat ∨ !x.on ∨ !x.atBnd ∨ x.wait ≠ .none then c
    else match g.reports.get e.vat, g.goal with
      | none, _ => tryGoal (setPlane c e.vat (setEng p e.num.val { g with reports := g.reports.set e.vat (some x.bnd), postAt := some c.core.tick })) e.vat e.num.val
      | some _, some m => if x.bnd = m then switchUrgent c e.vat e.num.val else c
      | some _, none => c
  | _, _ => c

/-- Another Vat than `dst` holds, for the agreement of engine n in progress, another count of Vat `src` than the one that reaches
`dst`, or `src` itself has posted another: the count differs (R137 cause 5; log entry 87). -/
def boundDiffers (c : Chip) (src dst : Vat) (n : Nat) (count : Word) : Bool :=
  allVats.any fun u => u ≠ dst && (match (engOf (plane c u) n).reports.get src with | some x => decide (x ≠ count) | none => false)

/-- BOUNDARY_REPORT_ARRIVAL: the count that engine n of Vat `src` has posted reaches the same engine of Vat `dst`. -/
def boundaryReport (c : Chip) (src dst : Vat) (n : Nat) (count : Word) : Chip :=
  let p := plane c dst
  let g := engOf p n
  if src = dst ∨ !serving c src ∨ !serving c dst ∨ g.urgent.isNone then c
  else
    let c := if boundDiffers c src dst n count then todoSour c src 5 6 (g.cur.map fun r => (ctxOf p n r).task) n else c
    tryGoal (setPlane c dst (setEng p n { g with reports := g.reports.set src (some count) })) dst n

/-- BNDWAIT_TIMEOUT (R49): the count of Vat `missing` has not come within BNDWAIT of the engine's own post; m is taken from the
two held, and that Vat is sour. -/
def bndwaitTimeout (c : Chip) (e : Eng) (missing : Vat) : Chip :=
  let g := engOf (plane c e.vat) e.num.val
  match g.cur with
  | none => c
  | some r =>
    let t := (ctxOf (plane c e.vat) e.num.val r).task
    if !serving c e.vat ∨ !serving c missing ∨ g.urgent.isNone ∨ (g.reports.get e.vat).isNone ∨ (g.reports.get missing).isSome ∨
        !bndExpired c t g.postAt then c
    else todoSour (takeGoal c e.vat e.num.val) missing 5 6 (some t) e.num.val

/-! ### Wait reports -/

/-- Whether the press close that a limited wait has passed last is its WLIM-th. -/
def waitDue (x : Ctx) : Bool :=
  match x.wait with
  | .queue _ w n => mbits w 10 8 ≠ 0 && decide (mbits w 10 8 = n)
  | _ => false

/-- The wait of a context ends by agreement: s.Q is 1 and no entry or credit moves. -/
def endLimited (c : Chip) (v : Vat) (eng prio : Nat) (x : Ctx) : Chip :=
  let op := match x.wait with | .queue op _ _ => op | _ => .push
  onPlane (qWaitFlag c v x.q.toNat op false) v fun p =>
    setEng (finishWait p eng prio { x with s := { x.s with q := true } } 4) eng { engOf p eng with qreports := Tri.all none, qpostAt := none }

/-- The wait of Vat u's context ends with the others', where it still waits at the boundary counter and p that they agree on (R96),
whichever press close is its own WLIM-th. -/
def endAgreed (eng : Nat) (agreed : Word × Nat) (c : Chip) (u : Vat) : Chip :=
  match (engOf (plane c u) eng).cur with
  | none => c
  | some r =>
    let x := ctxOf (plane c u) eng r
    match x.wait with
    | .queue _ w _ => if x.on ∧ mbits w 10 8 ≠ 0 ∧ (x.bnd, x.p) = agreed then endLimited c u eng r x else c
    | _ => c

/-- The reports that engine n of Vat v holds are judged: with two that agree the wait ends in each Vat whose report is one of
them, and a SERVING Vat whose report differs or is missing is sour; with fewer the wait goes on, and is not judged again. -/
def judgeWait (c : Chip) (v : Vat) (eng : Nat) (x : Ctx) : Chip :=
  let g := engOf (plane c v) eng
  let held := (servingVats c).filterMap fun u => g.qreports.get u
  match held.find? fun r => 2 ≤ (held.filter (· = r)).length with
  | none => onPlane c v fun p => setEng p eng { g with qreports := Tri.all none, qpostAt := none }
  | some r =>
    let (mine, others) := (servingVats c).partition fun u => g.qreports.get u = some r
    let c := mine.foldl (endAgreed eng r) c
    others.foldl (fun c u => todoSour c u 6 6 (some x.task) eng) c

/-- WAIT_REPORT_ARRIVAL: the boundary counter and p that engine n of Vat `src` posted reach the same engine of Vat `dst`. -/
def waitReport (c : Chip) (src dst : Vat) (n : Fin 64) (count : Word) (at_ : Nat) : Chip :=
  if src = dst ∨ !serving c src then c
  else match waitingCtx c ⟨dst, n⟩ with
    | some (_, x) =>
      let g := engOf (plane c dst) n.val
      if (g.qreports.get dst).isNone then c
      else
        let c := onPlane c dst fun p => setEng p n.val { g with qreports := g.qreports.set src (some (count, at_)) }
        let g := engOf (plane c dst) n.val
        if waitDue x ∧ (servingVats c).all (fun u => (g.qreports.get u).isSome) then judgeWait c dst n.val x else c
    | none => c

/-- WAIT_REPORT_TIMEOUT: the report of Vat `missing` has not come within BNDWAIT of the engine's own. -/
def waitReportTimeout (c : Chip) (e : Eng) (missing : Vat) : Chip :=
  match waitingCtx c e with
  | some (_, x) =>
    let g := engOf (plane c e.vat) e.num.val
    if waitDue x ∧ (g.qreports.get e.vat).isSome ∧ (g.qreports.get missing).isNone ∧ bndExpired c x.task g.qpostAt then
      judgeWait c e.vat e.num.val x
    else c
  | none => c

end Sys2Proof.Machine
end

