-- ==== Sys2Proof/Machine/Press.lean ====
section
/-! DEFINITION. The press (R40, R42, R43, R55 to R58, R67, R110, R111, R130 to R136, R141): a Vat's complete image, press close,
the overrun and its action, the commit with its releases, and the limit up to which an image is awaited. -/

namespace Sys2Proof.Machine

/-! ### Comparison -/

/-- An image as the press compares it: every press point of the task with the bytes in effect (R42), the first 8 LOG
requests and the number of further ones (R110), the last HSET. -/
def pressItems (c : Chip) (t : TaskId) (a : Act) : Image :=
  { points := (taskPoints c true t).foldl (fun m pt => mapPut none m pt (some (imagePoint c a pt))) []
    logs := (a.image.logs.take 8).map fun l => (0, l.2)
    logsLost := a.image.logs.length - 8
    raises := a.image.raises
    hset := match a.image.hset.getLast? with | some h => [(0, h.2)] | none => []
    pres := a.image.pres }

/-- The press's part of a task changed. -/
def onPress (c : Chip) (t : TaskId) (f : PressTask → PressTask) : Chip :=
  let st := taskSt c t
  setTask c t { st with press := f st.press }

/-! ### Late and on time (R133, R137, R141) -/

/-- A Vat whose image agrees and came after press close, under the LATELIM of its cycle (R158). -/
def lateVat (c : Chip) (v : Vat) (t : TaskId) (lim : Nat) : Chip :=
  let n := mapGet 0 (plane c v).late t.code + 1
  let c := onPlane (bump c (Reg.vatLate.addr v.num) 31 0) v fun p => { p with late := mapPut 0 p.late t.code n }
  if lim ≤ n then todoSour c v 4 7 (some t) 0 else c

/-- A Vat that is on time: its count of late cycles restarts. -/
def onTimeVat (c : Chip) (v : Vat) (t : TaskId) : Chip := onPlane c v fun p => { p with late := mapPut 0 p.late t.code 0 }

/-- An image held against the result, and the Vat judged; `late` is the limit of late cycles where it came late. -/
def judgeImage (c : Chip) (v : Vat) (t : TaskId) (im result : Image) (late : Option Nat) : Chip :=
  match diffItem im result, late with
  | some (kind, item), _ => todoSour c v 1 kind (some t) item
  | none, some lim => lateVat c v t lim
  | none, none => onTimeVat c v t

/-- The cycle or activation has passed a press close without a result. -/
def hasOverrun (st : TaskSt) : Bool := st.overrun || st.passed

/-! ### PRESS_IMAGE_ARRIVAL (R131 to R133, R141, R149) -/

/-- The image of a cycle that has committed: its Vat is late, or sour. -/
def owedImage (c : Chip) (v : Vat) (t : TaskId) (result : Image) : Chip :=
  let p := plane c v
  let o := mapGet Act.empty p.oldActs t.code
  let a := if o = Act.empty then actOf p t else o
  if a.running ≠ [] then c
  else
    let c := judgeImage c v t (pressItems c t a) result (some (taskSt c t).press.heldLim)
    let c := onPlane c v fun p => { p with oldActs := mapErase p.oldActs t.code }
    onPress c t fun x =>
      let owing := x.owing.set v false
      { x with owing := owing, held := if owing = Tri.all false then none else x.held }

/-- Two images agree: their content is the result. An activation that overran commits at the next tick (R56). -/
def resultFormed (c : Chip) (t : TaskId) (im : Image) : Chip :=
  let st := taskSt c t
  setTask c t { st with
    commitTick := if t.ev && st.overrun then c.core.tick + 1 else st.commitTick
    press := { st.press with result := some im } }

/-- An image complete in the present cycle, compared with every image already complete. One that comes after the cycle's press
close is late, where a result stands (R133). -/
def compareImage (c : Chip) (v : Vat) (t : TaskId) (im : Image) : Chip :=
  let st := taskSt c t
  let x := st.press
  match x.result with
  | some r => judgeImage c v t im r (if x.closed || hasOverrun st then some st.lateLim else none)
  | none =>
    let ps := participants c t
    let others := (ps.filter (· ≠ v)).filterMap fun u => (x.images.get u).map fun i => (u, i)
    match others.find? fun o => (diffItem im o.2).isNone with
    | some o =>
      let c := if hasOverrun st then c else onTimeVat (onTimeVat c v t) o.1 t
      let c := resultFormed c t im
      others.foldl (fun c u => if u.1 = o.1 then c else judgeImage c u.1 t u.2 im none) c
    | none =>
      if others.length + 1 < ps.length then c
      else if 3 ≤ ps.length then todoHold c 7 1 (some t)
      else if ps.length = 2 then todoHold c 7 2 (some t)
      else c

/-- The time from curd close to the second complete image, in ns (HXK_TMAXn). -/
def noteSecond (c : Chip) (t : TaskId) (x : PressTask) : Chip :=
  match t with
  | .periodic n =>
    if ((allVats.filter fun v => (x.images.get v).isSome).length) = 1 then
      raiseMax c (Reg.hxkTmax.addr n.val) 31 0 (now c - (taskSt c t).closeAt)
    else c
  | _ => c

/-! ### The result counts (R253, R392) -/

/-- The module's task images with a result in place of what was committed, as `f` sees them; what was committed stays. -/
def withResult (c : Chip) (im : Image) (f : Chip → Chip) : Chip :=
  let old := c.core.committed
  let c := f (im.points.foldl (fun c e => setCommitted c e.1 (e.2.getD [])) c)
  { c with core := { c.core with committed := old } }

/-- The gate commands and setpoints of a result sent on the lanes of the Vats whose images agree (R392). -/
def sendCommands (c : Chip) (t : TaskId) (im : Image) : Chip :=
  let st := taskSt c t
  (servingVats c).foldl (fun c v =>
    if (st.press.images.get v).isSome then
      sendCommand c v (taskPatch c t (fun pt => (mapGet none im.points pt).getD []) st.commitTick)
    else c) c

/-- What follows once the result counts: the lanes' commands, and the copy to the partner (R253), whose END says whether the commit
follows an overrun. -/
def resultCloses (c : Chip) (t : TaskId) (im : Image) : Chip :=
  let st := taskSt c t
  let c := sendCommands (onPress c t fun x => { x with closed := true }) t im
  withResult c im fun c => stateCopy c t st.commitTick (if t.ev then st.overrun else st.ovrLast)

/-- The result of an activation that overran counts as soon as it is formed (R56). -/
def lateResult (c : Chip) (t : TaskId) : Chip :=
  let st := taskSt c t
  match st.press.result with
  | some im => if t.ev && st.overrun && !st.press.closed then resultCloses c t im else c
  | none => c

/-- PRESS_IMAGE_ARRIVAL: Vat v's last chain of the cycle has returned; `halves` says that the two halves of the press are
complementary (R136). -/
def pressImage (c : Chip) (v : Vat) (t : TaskId) (halves : Bool) : Chip :=
  let st := taskSt c t
  if !serving c v ∨ c.sys.mode = .standby then c
  else match st.press.owing.get v, st.press.held with
    | true, some r => owedImage c v t r
    | _, _ =>
      let a := actOf (plane c v) t
      if !st.active ∨ !st.formed ∨ a.tick ≠ st.curdTick ∨ a.running ≠ [] ∨ (st.press.images.get v).isSome then c
      else if !halves then todoHold { c with core := { c.core with pressFault := true } } 7 6 (some t)
      else
        let im := pressItems c t a
        let c := noteSecond c t st.press
        let c := compareImage c v t im
        lateResult (onPress c t fun x => { x with images := x.images.set v (some im) }) t

/-! ### Reports of waits at press close (R96) -/

/-- Contexts of a task that wait in a queue instruction with WLIM from 1 to 7, with their engines. -/
def limitedWaits (p : VatPlane) (t : TaskId) : List (Nat × Nat × Ctx × Enc × Nat) :=
  p.ctxs.filterMap fun e => match e.2.wait with
    | .queue _ w n => if e.2.on ∧ e.2.task = t ∧ mbits w 10 8 ≠ 0 then some (e.1 / 16, e.1 % 16, e.2, w, n) else none
    | _ => none

/-- A press close passes during the waits of a task: each is counted, and at the WLIM-th its engine posts its boundary
counter and p. -/
def countWaits (c : Chip) (t : TaskId) : Chip :=
  (servingVats c).foldl (fun c v =>
    (limitedWaits (plane c v) t).foldl (fun c x =>
      let (eng, prio, k, w, n) := x
      let op := match k.wait with | .queue op _ _ => op | _ => .push
      onPlane c v fun p =>
        let p := setCtx p eng prio { k with wait := .queue op w (n + 1) }
        let g := engOf p eng
        setEng p eng { g with qreports := (Tri.all none : Tri (Option (Word × Nat))).set v (some (k.bnd, k.p))
                              qpostAt := some c.core.tick }) c) c

/-! ### PRESS_HOLD_LIMIT (R133, R149) -/

/-- A Vat whose image for the last committed cycle has not come by the limit is sour; with two Vats SERVING the cause is
PAIRMISS. -/
def holdLimit (c : Chip) (t : TaskId) : Chip :=
  let x := (taskSt c t).press
  if x.held.isNone then c
  else
    let vs := (servingVats c).filter fun v => x.owing.get v
    let c := onPress c t fun x => { x with held := none, owing := Tri.all false }
    let c := vs.foldl (fun c v => onPlane c v fun p => { p with oldActs := mapErase p.oldActs t.code }) c
    if (servingVats c).length = 2 then (if vs.isEmpty then c else todoHold c 7 3 (some t))
    else vs.foldl (fun c v => todoSour c v 2 7 (some t) 0) c

/-- Exactly one of two Vats that take part has its image complete (R149). -/
def loneImage (c : Chip) (t : TaskId) : Bool :=
  let ps := participants c t
  ps.length = 2 && (ps.filter fun v => ((taskSt c t).press.images.get v).isSome).length = 1

/-- PRESS_HOLD_LIMIT: at the press close of a periodic task's next cycle, or of an event task's next activation, or one
deadline after the own press close of the activation that committed, which an overrun does not move (R133). With two Vats an activation whose second image is still missing one
deadline after its own press close is cause PAIRMISS. -/
def pressHoldLimit (c : Chip) (t : TaskId) : Chip :=
  let st := taskSt c t
  let atClose := st.active && st.formed && decide (st.commitTick ≤ c.core.tick + st.guard)
  let atDeadline := match t with
    | .event v => decide (st.press.heldClose + taskDl c v ≤ c.core.tick)
    | _ => false
  let missing := match t with
    | .event v => st.active && st.lone && loneImage c t && decide (st.commitTick + taskDl c v ≤ c.core.tick + st.guard)
    | _ => false
  let c := if missing then todoHold c 7 3 (some t) else c
  if atClose || atDeadline then holdLimit c t else c

/-! ### PRESS_CLOSE (R40, R55, R56, R58) -/

/-- The register that counts a task's overruns. -/
def ovrReg (t : TaskId) : Nat :=
  match t with
  | .event v => Reg.hxkVovr.addr v.val
  | t => Reg.hxkTovr.addr t.num

/-- The Vats whose images are complete at the first press close of a cycle are on time, although it overruns (R141). -/
def onTimeVats (c : Chip) (t : TaskId) : Chip :=
  let st := taskSt c t
  if hasOverrun st then c
  else (allVats.filter fun v => (st.press.images.get v).isSome).foldl (fun c v => onTimeVat c v t) c

/-- An overrun (R55, R57, R58), with whether one of two images alone is complete (R149). -/
def overrunTask (c : Chip) (t : TaskId) : Chip :=
  let c := bump (onTimeVats c t) (ovrReg t) 31 0
  let st := taskSt c t
  let n := satAdd 255 st.ovrSeq 1
  let c := setTask c t { st with overrun := true, tflag := true, ovrSeq := n, lone := loneImage c t }
  let act := bits (taskCfg c t) 30 29
  if act = 2 ∨ (act = 1 ∧ bits (taskCfg c t) 24 21 ≤ n) then todoHold c 8 0 (some t) else c

/-- PRESS_CLOSE: the images complete now decide the cycle. With two Vats a periodic cycle whose second image is missing at this
press close too is cause PAIRMISS (R133, R149). -/
def pressClose (c : Chip) (t : TaskId) : Chip :=
  let st := taskSt c t
  if !st.active ∨ !st.formed ∨ c.sys.mode = .standby ∨ st.press.closed ∨ st.overrun ∨ c.core.tick + st.guard < st.commitTick then c
  else
    let c := countWaits c t
    match st.press.result with
    | some im => resultCloses c t im
    | none => overrunTask (if st.lone && loneImage c t then todoHold c 7 3 (some t) else c) t

/-! ### TASK_COMMIT (R40, R42, R67, R110, R111, R130, R135) -/

/-- LOG, RAISE and HSET requests of a result (R105, R110, R111). -/
def commitRequests (c : Chip) (t : TaskId) (im : Image) : Chip :=
  let c := im.logs.foldl (fun c l => cultureRecord c t.code l.2) c
  let c := if im.logsLost = 0 then c else deviceRecord c 0x02 2 t.code im.logsLost
  let c := (List.range 64).foldl (fun c n => if im.raises.getLsbD n then raise c (4032 + n) else c) c
  match im.hset.getLast? with
  | some (_, some w) => { c with sys := { c.sys with health := w } }
  | _ => c

/-- The words of HXK that a task's commit instant makes live (R67): its own two words. -/
def taskWord (t : TaskId) (a : Nat) : Bool :=
  match t with
  | .event v => a = Reg.hxkVcfg.addr v.val || a = Reg.hxkVdl.addr v.val
  | .periodic n => a = Reg.hxkTcfg.addr n.val || a = Reg.hxkTphase.addr n.val
  | .setup => false

/-- Committed words of a task applied at its commit instant. A task whose period or phase changes takes its next curd
instant under the new values; one that is newly enabled starts 100 µs later at the earliest. -/
def applyTaskWords (c : Chip) (t : TaskId) : Chip :=
  let was := taskCfg c t
  taskApplied (applyPend c fun a => taskWord t a || outputWord c t a) t was

/-- A Vat that is still computing keeps, for what it does not write, the values that the cycle began with (R42). -/
def fixImage (c : Chip) (t : TaskId) (v : Vat) : Chip :=
  onPlane c v fun p =>
    let a := actOf p t
    setAct p t { a with image := { a.image with
      points := (taskPoints c true t).foldl (fun m pt => mapPut none m pt (some (imagePoint c a pt))) [] } }

/-- The released frames and bus messages (R130): those on the train network only where the bytes read back at the MAC agree
(R135), and none of a faulty comparison (R136). -/
def releaseFrames (c : Chip) (t : TaskId) (readback : Bool) : Chip :=
  let c := if readback then mdRelease (pdPublish c t true) t else pdCount c t true
  brgRelease (canRelease (mvbRelease c t) t) t

/-- The result committed. An event activation that has overrun commits late, and stays the last overrun in a row (R56, R58). -/
def commitResult (c : Chip) (t : TaskId) (im : Image) (readback : Bool) : Chip :=
  let owing := (participants c t).filter fun v => ((taskSt c t).press.images.get v).isNone
  let c := holdLimit c t
  let c := owing.foldl (fun c v => fixImage c t v) c
  let c := im.points.foldl (fun c e => setCommitted c e.1 (e.2.getD [])) c
  let c := commitRequests c t im
  let c := releaseFrames c t readback
  let st := taskSt c t
  let c := setTask c t { st with
    active := false
    formed := false
    overrun := false
    passed := false
    lone := false
    ovrSeq := if t.ev && st.overrun then st.ovrSeq else 0
    ovrLast := t.ev && st.overrun
    lastCommit := c.core.tick
    cycles := (st.cycles + 1) % 65536
    press := { st.press with
      images := Tri.all none
      result := none
      closed := false
      held := if owing.isEmpty then none else some im
      owing := owing.foldl (fun o v => o.set v true) (Tri.all false)
      heldLim := st.lateLim
      heldClose := st.ownCommit - st.guard } }
  let c := applyTaskWords c t
  if readback then c else todoHold { c with core := { c.core with pressFault := true } } 7 6 (some t)

/-- OVRACT, PRIO and OVRLIM of a committed task word act from the commit instant that passes (R67); what else the word changes
waits for the cycle's commit. -/
def applyOverrunWord (c : Chip) (t : TaskId) : Chip :=
  let a := match t with
    | .event v => Reg.hxkVcfg.addr v.val
    | t => Reg.hxkTcfg.addr t.num
  match mapGet none c.sys.pend a with
  | some w => setField c a 30 21 (bits w 30 21)
  | none => c

/-- A commit instant that passes with the task overrunning: nothing new is committed (R55), the publications due are counted
as skipped (R295), and a periodic task's next press close is that of the period that begins. -/
def commitOverrun (c : Chip) (t : TaskId) : Chip :=
  let c := applyOverrunWord (pdPublish c t false) t
  let st := taskSt c t
  match t with
  | .periodic n => setTask c t { st with ovrLast := true, passed := true, overrun := false, commitTick := st.commitTick + taskPeriod c n }
  | _ => setTask c t { st with ovrLast := true, passed := true }

/-- The commit instant of a cycle in STANDBY, where nothing is computed (R260): the cycle ends, and committed words of the task
become live (R67, R205). -/
def standbyCommit (c : Chip) (t : TaskId) : Chip :=
  applyTaskWords (setTask c t { taskSt c t with active := false, formed := false }) t

/-- TASK_COMMIT: at the commit instant, the cycle commits or has overrun; in STANDBY it ends. -/
def taskCommit (c : Chip) (t : TaskId) (readback : Bool) : Chip :=
  let st := taskSt c t
  if !st.active ∨ !st.formed ∨ c.core.tick < st.commitTick then c
  else if c.sys.mode = .standby then standbyCommit c t
  else match st.press.closed, st.press.result with
    | true, some im => if c.core.pressFault then c else commitResult c t im readback
    | _, _ => if st.overrun ∧ !(t.ev ∧ st.passed) then commitOverrun c t else c

end Sys2Proof.Machine
end

