-- ==== Sys2Proof/Machine/ExecTasks.lean ====
section
/-! DEFINITION. The commands of task cycles: the port's requests and replies, curd, boundaries, press and quiet points (R24, R39 to R61, R122 to R136). -/

namespace Sys2Proof.Machine

/-! ### The configuration port -/

/-- CFG_PORT_REQUEST (R24). -/
def execCfgPortRequest (n : Fin 64) (prio : Fin 16) (s : State) : Host.Outcome State Fault Refusal :=
  s.run fun c => settleAll (portRequest c n prio)

/-- CFG_REPLY (R109). -/
def execCfgReply (s : State) : Host.Outcome State Fault Refusal := s.run fun c => settleAll (portReply c)

/-! ### Curd -/

/-- CURD_INSTANT (R39). -/
def execCurdInstant (n : Fin 64) (s : State) : Host.Outcome State Fault Refusal := s.run fun c => settle (curdInstant c n)

/-- SAMPLE_SET_ARRIVAL (R124). -/
def execSampleSetArrival (src dst : Vat) (t : TaskId) (ok : Bool) (s : State) : Host.Outcome State Fault Refusal :=
  s.run fun c => settle (setArrival c src dst t ok)

/-- POST_DEADLINE (R125). -/
def execPostDeadline (v : Vat) (t : TaskId) (s : State) : Host.Outcome State Fault Refusal :=
  s.run fun c => settle (postDeadline c v t)

/-- CURD_CLOSE (R128). -/
def execCurdClose (t : TaskId) (s : State) : Host.Outcome State Fault Refusal := s.run fun c => settle (curdClose c t)

/-- EVENT_CURD_INSTANT (R227). -/
def execEventCurdInstant (v : Fin 256) (s : State) : Host.Outcome State Fault Refusal :=
  s.run fun c => settle (eventCurdInstant c v)

/-! ### Boundary agreement and queue waits -/

/-- BOUNDARY_REACHED (R48). -/
def execBoundaryReached (e : Eng) (s : State) : Host.Outcome State Fault Refusal := s.run fun c => settle (boundaryReached c e)

/-- BOUNDARY_REPORT_ARRIVAL (R48). -/
def execBoundaryReportArrival (src dst : Vat) (n : Fin 64) (count : Word) (s : State) : Host.Outcome State Fault Refusal :=
  s.run fun c => settle (boundaryReport c src dst n.val count)

/-- BNDWAIT_TIMEOUT (R49). -/
def execBndwaitTimeout (e : Eng) (missing : Vat) (s : State) : Host.Outcome State Fault Refusal :=
  s.run fun c => settle (bndwaitTimeout c e missing)

/-- WAIT_REPORT_ARRIVAL (R96). -/
def execWaitReportArrival (src dst : Vat) (n : Fin 64) (count : Word) (at_ : BitVec 15) (s : State) : Host.Outcome State Fault Refusal :=
  s.run fun c => settle (waitReport c src dst n count at_.toNat)

/-- WAIT_REPORT_TIMEOUT (R96). -/
def execWaitReportTimeout (e : Eng) (missing : Vat) (s : State) : Host.Outcome State Fault Refusal :=
  s.run fun c => settle (waitReportTimeout c e missing)

/-! ### Press -/

/-- PRESS_IMAGE_ARRIVAL (R131). -/
def execPressImageArrival (v : Vat) (t : TaskId) (halves : Bool) (s : State) : Host.Outcome State Fault Refusal :=
  s.run fun c => settle (pressImage c v t halves)

/-- PRESS_CLOSE (R40). -/
def execPressClose (t : TaskId) (s : State) : Host.Outcome State Fault Refusal := s.run fun c => settleAll (pressClose c t)

/-- TASK_COMMIT (R40). -/
def execTaskCommit (t : TaskId) (readback : Bool) (s : State) : Host.Outcome State Fault Refusal :=
  s.run fun c => settleAll (taskCommit c t readback)

/-- PRESS_HOLD_LIMIT (R133). -/
def execPressHoldLimit (t : TaskId) (s : State) : Host.Outcome State Fault Refusal := s.run fun c => settle (pressHoldLimit c t)

/-! ### Quiet points -/

/-- QUIET_MISS (R61). -/
def execQuietMiss (s : State) : Host.Outcome State Fault Refusal := s.run fun c => settle (quietMiss c)

/-- QUIET_POINT (R143). -/
def execQuietPoint (s : State) : Host.Outcome State Fault Refusal := s.run fun c => settleAll (quietPoint c)

end Sys2Proof.Machine
end

