-- ==== Sys2Proof/Machine/Tst.lean ====
section
/-! DEFINITION. The tests (R515, R516, R520 to R527): TST.START, TST.STATUS and TST.STOP, and the end of a test. -/

namespace Sys2Proof.Machine

/-- TST changed. -/
def onTst (c : Chip) (f : Tst → Tst) : Chip := { c with tst := f c.tst }

/-- TARGET and DEPTH as Table: Tests and Table: Loopback depths allow them; DEPTH belongs to LOOP alone. -/
def testArgs (id target depth : Nat) : Bool :=
  match id with
  | 1 => target ≤ 14 && 1 ≤ depth && depth ≤ deepest target
  | 2 => target ≤ 2
  | 3 => target = 0
  | 4 => target = 0
  | 5 => target = 0
  | 6 => target = 0
  | _ => false

/-- The Vat of a target. -/
def targetVat (n : Nat) : Vat := if n = 0 then .a else if n = 1 then .b else .c

/-- VATOUT is refused: the Vat has been declared sour within the last 10 s, or not all three are SERVING (R522). -/
def vatoutRefused (c : Chip) (v : Vat) : Bool :=
  (plane c v).soured.any (fun t => decide (c.core.tick ≤ t + 10000000)) || (servingVats c).length ≠ 3

/-- The test begins. -/
def beginTest (c : Chip) (n : Fin 4) (id target depth dur : Nat) : Chip :=
  let c := onTst c fun t => { t with
    state := 1, session := n.val, testid := id, target := target, depth := depth, dur := dur, result := 0, from_ := c.core.tick,
    bits := 0, errs := 0, vatBad := false, vatBack := none, vatOk := false, loopDone := false, votes := none, proof := { Proof.zero with lastState := c.rind.state } }
  match id with
  | 1 => setReg c (Reg.tstLbk.addr target) (word depth)
  | 2 => if vatoutRefused c (targetVat target) then testResult c 5 else (vatTakeOut c (targetVat target)).1
  | 4 => onFio c fun f => { f with lpTries := 0 }
  | _ => c

/-- TST.START (R515, R516, R520, R527): the chip and a status. -/
def tstStart (c : Chip) (n : Fin 4) (p : List Byte) : Chip × Nat :=
  let id := leAt p 0 1
  let target := leAt p 1 1
  let depth := leAt p 2 1
  let dur := leAt p 4 4
  if p.length ≠ 8 || !testArgs id target depth || dur = 0 || 3600 < dur then (c, 0x41)
  else if c.tst.state = 1 then (c, if c.tst.session = n.val then 7 else 4)
  else if !(c.sys.mode = .maintenance || (c.sys.mode = .service && id = 6)) then (c, 6)
  else if id = 1 && !depthOk c target depth then (c, 6)
  else (beginTest c n id target depth dur, 0)

/-- TST.STOP: another session than the owner of a running test receives OWNER. -/
def tstStop (c : Chip) (n : Fin 4) : Chip × Nat :=
  if c.tst.state = 1 && c.tst.session ≠ n.val then (c, 4) else (abortTest c, 0)

/-- Ticks that the running test has run. -/
def testRan (c : Chip) : Nat := c.core.tick - c.tst.from_

/-- Seconds left of the running test, begun seconds counted whole. -/
def secondsLeft (c : Chip) : Nat := if c.tst.state = 1 then (c.tst.dur * 1000000 - testRan c + 999999) / 1000000 else 0

/-- The payload of TST.STATUS. -/
def tstStatus (c : Chip) : List Byte :=
  bytesLE 4 (regView c Reg.tstStat.addr).toNat ++ bytesLE 8 (c.tst.bits % 2 ^ 64) ++ bytesLE 4 (min (2 ^ 32 - 1) c.tst.errs) ++
    bytesLE 4 (secondsLeft c)

/-- Table: Minimum checked bits. -/
def minBits (n : Nat) : Nat := if n = 9 then 30000000 else if 4 ≤ n && n ≤ 8 then 3000000 else 3000000000

/-- The accuracy of a kind over the variant's whole temperature range (R421; loop kinds as IIN): parts of the reading in 1/10,000, and
the rest in the kind's unit. -/
def accuracy (w : Word) : Nat × Nat :=
  if isLoop w then (10, 10000)
  else match alpKind w with
    | 0 => (10, 5000)
    | 1 => (20, 10000)
    | 2 => (10, 10000)
    | 3 => (20, 16000)
    | 4 => (10, 1000)
    | 5 => (0, 600)
    | 6 => (0, 600)
    | _ => (0, 2000)

/-- Whether every path read a sample's stimulus: an analog channel within its accuracy (R521). -/
def sampleAgrees (c : Chip) (n : Nat) (x : LoopSample) : Bool :=
  let (part, rest) := accuracy (alpCfg c x.channel.val)
  let lim (r : Int) : Nat := if n = 14 then (r.natAbs * part + 9999) / 10000 + rest else 0
  allVats.all fun v => decide ((x.read.get v - x.stimulus).natAbs ≤ lim (x.read.get v))

/-- The pattern bits that a LOOP must check: of the Ladle and of the field lanes on each of the three lanes (R521). -/
def enoughBits (n : Nat) (b : Tri Nat) : Bool :=
  if n = 10 || n = 11 then allVats.all fun v => decide (minBits n ≤ b.get v) else decide (minBits n ≤ b.a + b.b + b.c)

/-- The result of a LOOP (R521). -/
def loopResult (c : Chip) (n : Nat) (b : Tri Nat) (errs : Nat) (samples : List LoopSample) : Nat :=
  if 12 ≤ n then (if !samples.isEmpty && samples.all (sampleAgrees c n) && errs = 0 then 1 else 2)
  else if errs ≠ 0 then 2
  else if !enoughBits n b then 3
  else 1

/-- VATOUT at the end of DUR: OP 2 for the Vat; then its end once the Vat is SERVING again, or 100 ms later (R520). -/
def vatoutEnd (c : Chip) : Chip :=
  let v := targetVat c.tst.target
  match c.tst.vatBack with
  | none =>
    let (c, ok) := vatRecurdle c v
    if ok then onTst c fun t => { t with vatBack := some c.core.tick } else testResult c 2
  | some t =>
    if c.tst.vatOk then testResult c 1 else if t + 100000 < c.core.tick then testResult c 2 else c

/-- The memories of the three Vats agree, page by page (R261, R520). -/
def pagesAgree (c : Chip) : Bool := decide (c.vats.a.mem = c.vats.b.mem) && decide (c.vats.b.mem = c.vats.c.mem)

/-- TEST_END: the pattern bits checked so far on each lane, of an interface with one path the first, their errors, and the samples of
a LOOP on interfaces that have no pattern. Before DUR is over a LOOP shows its counts and goes on (R528), and no test ends but those
that run once (R520, R526). -/
def testEnd (c : Chip) (b : Tri Nat) (errs : Nat) (samples : List LoopSample) : Chip :=
  if c.tst.state ≠ 1 then c
  else
    let id := c.tst.testid
    let done := decide (c.tst.dur * 1000000 ≤ testRan c)
    let c := if id = 1 then onTst c fun t => { t with bits := b.a + b.b + b.c, errs := errs } else c
    if !done && (id = 1 || id = 2 || id = 6) then c
    else match id with
      | 1 => testResult c (loopResult c c.tst.target b errs samples)
      | 2 => vatoutEnd c
      | 3 => (match c.tst.votes with | some ok => testResult c (if ok then 1 else 2) | none => c)
      | 4 => if c.tst.loopDone then testResult c (if c.fio.lpFail = 0 then 1 else 2) else c
      | 5 => testResult c (if pagesAgree c then 1 else 2)
      | _ => testResult c (if rindProved c then 1 else 2)

end Sys2Proof.Machine
end

