-- ==== Sys2Proof/Machine/Tsp.lean ====
section
/-! DEFINITION. The Thenicor Service Protocol (R212 to R216, R485 to R488, R501 to R511, R527): sessions, the SEQ rule, privileges,
and every command. -/

namespace Sys2Proof.Machine

/-- What a TSP command answers: the chip, STATUS and the payload. -/
abbrev Answer := Chip × Nat × List Byte

/-- A session changed. -/
def onSession (c : Chip) (n : Fin 4) (f : Session → Session) : Chip :=
  match mapGet none c.sys.sessions n.val with
  | some s => onSys c fun y => { y with sessions := mapPut none y.sessions n.val (some (f s)) }
  | none => c

/-- Whether a key installed is a TSP trust anchor, without which no client certificate is accepted (R496). -/
def trustAnchor (c : Chip) : Bool := (settings c).keys.any fun k => k.use / 8 % 2 = 1

/-- DTLS_HANDSHAKE (R194 step 9, R213), with a client certificate that an installed trust anchor signs: a session of the lowest free number; none beyond four; before RNGRDY it waits. The service
port accepts sessions from step 9 on: R197 does not say that a module stopped before it with REASON SELFPROOF accepts any, and the
model accepts none (DESIGN CHOICE, log entry 100). -/
def handshake (c : Chip) (priv : Priv) (fingerprint : BitVec 64) : Chip :=
  if c.sys.mode = .inert || c.sys.step < 9 || !c.sys.affUp || !trustAnchor c then c
  else if c.sys.rngReady then openSession c priv fingerprint
  else onSys c fun s => { s with waiting := s.waiting ++ [(priv, fingerprint)] }

/-- TSP_SESSION_TIMEOUT (R213): 30 s ± 1 s without a valid message. -/
def sessionTimeout (c : Chip) (n : Fin 4) : Chip :=
  match mapGet none c.sys.sessions n.val with
  | some s => if s.heard + 29000000 ≤ c.core.tick then endSession c n else c
  | none => c

/-- Whether a privilege includes another (R213). -/
def Priv.level : Priv → Nat
  | .read => 0
  | .operate => 1
  | .maintain => 2

/-- The 12 bytes of a request's header that HCRC covers (Table: TSP message header). -/
def headBytes (h : TspHead) (cmd : Nat) : List Byte :=
  [h.ver, BitVec.ofNat 8 cmd, h.status, h.flags] ++ bytesLE 4 h.seq.toNat ++ bytesLE 4 h.len.toNat

/-- The header passes: VER is 1, and HCRC matches. Log entry 99: STATUS and FLAGS [7:1] of a request are not judged. -/
def headOk (h : TspHead) (cmd : Nat) : Bool := h.ver = 1 && crc32c (headBytes h cmd) = h.hcrc.toNat

/-- FLAGS.STG: a staging read. -/
def headStg (h : TspHead) : Bool := h.flags.getLsbD 0

/-- A reply as the service port sends it: the header, whose HCRC is over its first 12 bytes, and the payload (R214). FLAGS of a
reply is 0. Log entry 99. -/
def replyBytes (r : Reply) : List Byte :=
  let head := [1#8, BitVec.ofNat 8 r.cmd, BitVec.ofNat 8 r.status, 0#8] ++ bytesLE 4 r.seq ++ bytesLE 4 r.payload.length
  head ++ bytesLE 4 (crc32c head) ++ r.payload

/-- What the module sends in answer to a session's message, to a session that the request has ended too. -/
def answerWith (c : Chip) (n : Fin 4) (r : Option Reply) : Chip :=
  onSession (onSys c fun s => { s with tspOut := r.map fun r => (n.val, replyBytes r) }) n fun s => { s with sent := r }

/-- Whether a command code is assigned: OPEN to PING, the configuration, Cellar, update and test commands (R214, R485, R501,
R527). -/
def tspAssigned (cmd : Nat) : Bool :=
  (1 ≤ cmd && cmd ≤ 3) || (0x10 ≤ cmd && cmd ≤ 0x14) || (0x30 ≤ cmd && cmd ≤ 0x34) || (0x40 ≤ cmd && cmd ≤ 0x4B) ||
  (0x50 ≤ cmd && cmd ≤ 0x52)

/-- A request (R213, R214): a header that fails is discarded and counted; one with the SEQ of the last request acted on receives the
same reply again, and one with a lower SEQ is discarded; PRIV and the payload length are judged before the command, and the reply
is kept. -/
def tspRequest (c : Chip) (h : TspHead) (cmd : Nat) (need : Priv) (lenOk : Nat → Bool) (p : List Byte) (act : Chip → Answer) : Chip :=
  match mapGet none c.sys.sessions h.session.val with
  | none => c
  | some s =>
    if !c.sys.affUp then c
    else if !headOk h cmd then bump (answerWith c h.session none) Reg.sysCfgerr.addr 31 16
    else
      let c := onSession c h.session fun s => { s with heard := c.core.tick }
      let fresh := match s.lastSeq with | some l => decide (0 < signed 32 (h.seq.toNat + 2 ^ 32 - l)) | none => true
      if !fresh then answerWith c h.session (if s.lastSeq = some h.seq.toNat then s.reply else none)
      else
        let c := onSession c h.session fun s => { s with lastSeq := some h.seq.toNat }
        let (c, st, payload) : Answer :=
          if Priv.level s.priv < Priv.level need then (c, 0x40, [])
          else if 1024 < p.length || h.len.toNat ≠ p.length || !lenOk p.length then (c, 0x41, [])
          else act c
        let r : Reply := ⟨0x80 + cmd % 128, st, h.seq.toNat, payload⟩
        answerWith (onSession c h.session fun s => { s with reply := some r }) h.session (some r)

/-- A word as its four bytes. -/
def wordBytes (w : Word) : List Byte := bytesLE 4 w.toNat

/-- An answer of one status word with ADDR 0. -/
def codeAnswer (r : Chip × Nat) : Answer := (r.1, r.2, wordBytes (statusWord r.2 0))

/-! ### Session and configuration commands (R214 to R216) -/

/-- OPEN. -/
def tspOpen (n : Fin 4) (c : Chip) : Answer :=
  (c, 0, bytesLE 4 n.val ++ wordBytes sysIdentWord ++ wordBytes (sysModeWord c))

/-- CLOSE: the session ends, with what it staged; its reply is sent all the same. -/
def tspClose (n : Fin 4) (c : Chip) : Answer := (endSession c n, 0, [])

/-- PING. -/
def tspPing (c : Chip) : Answer := (c, 0, wordBytes (sysModeWord c))

/-- `k` words from an address upward, with the first status that is not OK. -/
def readWords (who : Writer) (stg : Bool) : Nat → Nat → Chip → Chip × Nat × List Byte
  | 0, _, c => (c, 0, [])
  | k + 1, a, c =>
    let (c, v, code) := portRead c who a stg
    let (c, rest, bs) := readWords who stg k (a + 1) c
    (c, if code = 0 then rest else code, wordBytes v ++ bs)

/-- CFG.READ. -/
def cfgRead (h : TspHead) (p : List Byte) (c : Chip) : Answer :=
  let k := leAt p 4 4
  if k = 0 || 256 < k then (c, 0x41, []) else readWords (.session h.session) (headStg h) k (leAt p 0 4) c

/-- MASK covers each field of the word wholly or not at all, and no RSVD field (R215). -/
def maskOk (a : Nat) (mask : Word) : Bool :=
  match (if a < 2 ^ 24 then regDef a else none) with
  | none => true
  | some r => r.fields.all fun f =>
    let m := mask &&& fieldMask f.msb f.lsb
    m = 0 || (m = fieldMask f.msb f.lsb && !f.rsvd)

/-- The entries of a CFG.WRITE from number `i`, up to the first that is not OK: INDEX and the status word (R215), whose ADDR is
that of the last entry judged (log entry 25). -/
def writeEntries (who : Writer) : Nat → Nat → Nat → List Byte → Chip → Chip × Nat × Word
  | 0, i, a, _, c => (c, i, statusWord 0 a)
  | k + 1, i, _, p, c =>
    let a := leAt p 0 4
    let mask := word (leAt p 4 4)
    let (c, code) := if !maskOk a mask then (c, 0x41) else portWrite c who a (word (leAt p 8 4)) mask
    if code ≠ 0 then (c, i, statusWord code a) else writeEntries who k (i + 1) a (p.drop 12) c

/-- CFG.WRITE. -/
def cfgWrite (n : Fin 4) (p : List Byte) (c : Chip) : Answer :=
  let k := leAt p 0 4
  if k = 0 || 64 < k || p.length ≠ 4 + 12 * k then (c, 0x41, [])
  else
    let (c, i, w) := writeEntries (.session n) k 0 0 (p.drop 4) c
    (c, bits w 31 24, bytesLE 4 i ++ wordBytes w)

/-- COMMIT by a session. -/
def tspCommit (n : Fin 4) (c : Chip) : Answer :=
  let (c, ws) := commitStaging c (.session n)
  (c, bits (ws.getD 0 0) 31 24, ws.flatMap wordBytes)

/-- ABORT by a session. -/
def tspAbort (n : Fin 4) (c : Chip) : Answer :=
  let (c, ws) := abortStaging c (.session n)
  (c, bits (ws.getD 0 0) 31 24, ws.flatMap wordBytes)

/-- STG.BREAK. -/
def stgBreak (n : Fin 4) (c : Chip) : Answer :=
  let (c, w) := breakStaging c n
  (c, bits w 31 24, wordBytes w)

/-! ### Cellar commands (R485 to R488) -/

/-- The snapshot of a session. -/
def snapOf (c : Chip) (n : Fin 4) : Option Snapshot := (mapGet none c.sys.sessions n.val).bind (·.snap)

/-- CEL.SNAP: the session's new snapshot. -/
def celSnap (n : Fin 4) (c : Chip) : Answer :=
  let x := takeSnap c
  (onSession c n fun s => { s with snap := some x }, 0, seqBytes x.shi ++ seqBytes x.oldest ++ bytesLE 4 x.replat ++ bytesLE 4 0)

/-- CEL.READ. -/
def celReadCmd (n : Fin 4) (p : List Byte) (c : Chip) : Answer :=
  match snapOf c n with
  | none => (c, 6, [])
  | some x => let (st, bs) := celRead c x (leAt p 0 8) (leAt p 8 4); (c, st, bs)

/-- CEL.CLOSE. -/
def celClose (n : Fin 4) (c : Chip) : Answer :=
  match snapOf c n with
  | none => (c, 6, [])
  | some _ => (onSession c n fun s => { s with snap := none }, 0, [])

/-! ### Update and test commands (R501 to R511, R527) -/

/-- UPD.BEGIN. -/
def updBeginCmd (n : Fin 4) (p : List Byte) (c : Chip) : Answer :=
  codeAnswer (updBegin c (.session n) (leAt p 0 1) (leAt p 1 1) (leAt p 4 4))

/-- UPD.DATA. -/
def updDataCmd (n : Fin 4) (p : List Byte) (c : Chip) : Answer :=
  let (c, st, got) := updData c (.session n) (leAt p 0 4) (p.drop 4)
  (c, st, bytesLE 4 got)

/-- UPD.END. -/
def updEndCmd (n : Fin 4) (c : Chip) : Answer :=
  let (c, st, fail) := updEnd c (.session n)
  (c, st, wordBytes (statusWord st 0) ++ bytesLE 4 fail)

end Sys2Proof.Machine
end

