-- ==== Sys2Proof/Machine/ExecTsp.lean ====
section
/-! DEFINITION. The commands of the Thenicor Service Protocol (R213 to R216, R485 to R488, R501 to R511, R527). -/

namespace Sys2Proof.Machine

/-! ### Sessions -/

/-- DTLS_HANDSHAKE (R213). -/
def execDtlsHandshake (priv : Priv) (fingerprint : BitVec 64) (s : State) : Host.Outcome State Fault Refusal :=
  s.run fun c => settleAll (handshake c priv fingerprint)

/-- TSP_SESSION_TIMEOUT (R213). -/
def execTspSessionTimeout (n : Fin 4) (s : State) : Host.Outcome State Fault Refusal :=
  s.run fun c => settleAll (sessionTimeout c n)

/-- TSP_OPEN (R214). -/
def execTspOpen (h : TspHead) (p : List (BitVec 8)) (s : State) : Host.Outcome State Fault Refusal :=
  s.run fun c => settleAll (tspRequest c h 0x01 .read (· = 0) p (tspOpen h.session))

/-- TSP_CLOSE (R214). -/
def execTspClose (h : TspHead) (p : List (BitVec 8)) (s : State) : Host.Outcome State Fault Refusal :=
  s.run fun c => settleAll (tspRequest c h 0x02 .read (· = 0) p (tspClose h.session))

/-- TSP_PING (R214). -/
def execTspPing (h : TspHead) (p : List (BitVec 8)) (s : State) : Host.Outcome State Fault Refusal :=
  s.run fun c => settleAll (tspRequest c h 0x03 .read (· = 0) p tspPing)

/-- TSP_UNKNOWN (R214): a request whose command code is not assigned. A request of an assigned code is another row's. -/
def execTspUnknown (h : TspHead) (cmd : BitVec 8) (p : List (BitVec 8)) (s : State) : Host.Outcome State Fault Refusal :=
  s.run fun c => settleAll (if tspAssigned cmd.toNat then c else tspRequest c h cmd.toNat .read (fun _ => true) p fun c => (c, 0x42, []))

/-! ### Configuration -/

/-- CFG_READ (R201). -/
def execCfgRead (h : TspHead) (p : List (BitVec 8)) (s : State) : Host.Outcome State Fault Refusal :=
  s.run fun c => settleAll (tspRequest c h 0x10 .read (· = 8) p (cfgRead h p))

/-- CFG_WRITE (R215). -/
def execCfgWrite (h : TspHead) (p : List (BitVec 8)) (s : State) : Host.Outcome State Fault Refusal :=
  s.run fun c => settleAll (tspRequest c h 0x11 .operate (4 ≤ ·) p (cfgWrite h.session p))

/-- TSP_COMMIT (R203). -/
def execTspCommit (h : TspHead) (p : List (BitVec 8)) (s : State) : Host.Outcome State Fault Refusal :=
  s.run fun c => settleAll (tspRequest c h 0x12 .maintain (· = 0) p (tspCommit h.session))

/-- TSP_ABORT (R199). -/
def execTspAbort (h : TspHead) (p : List (BitVec 8)) (s : State) : Host.Outcome State Fault Refusal :=
  s.run fun c => settleAll (tspRequest c h 0x13 .operate (· = 0) p (tspAbort h.session))

/-- STG_BREAK (R216). -/
def execStgBreak (h : TspHead) (p : List (BitVec 8)) (s : State) : Host.Outcome State Fault Refusal :=
  s.run fun c => settleAll (tspRequest c h 0x14 .maintain (· = 0) p (stgBreak h.session))

/-! ### Cellar -/

/-- CEL_INFO (R485). -/
def execCelInfo (h : TspHead) (p : List (BitVec 8)) (s : State) : Host.Outcome State Fault Refusal :=
  s.run fun c => settleAll (tspRequest c h 0x30 .read (· = 0) p fun c => (c, 0, celInfo c))

/-- CEL_SNAP (R486). -/
def execCelSnap (h : TspHead) (p : List (BitVec 8)) (s : State) : Host.Outcome State Fault Refusal :=
  s.run fun c => settleAll (tspRequest c h 0x31 .read (· = 0) p (celSnap h.session))

/-- CEL_READ (R487): the slots are read as requester 2 of arbiter 34, which grants nothing while it is frozen (R184): until
then the request is not taken. -/
def execCelRead (h : TspHead) (p : List (BitVec 8)) (s : State) : Host.Outcome State Fault Refusal :=
  s.run fun c => settleAll (if arbFrozen c (arbKey 34 .a) then c else tspRequest c h 0x32 .read (· = 12) p (celReadCmd h.session p))

/-- CEL_CLOSE (R485). -/
def execCelClose (h : TspHead) (p : List (BitVec 8)) (s : State) : Host.Outcome State Fault Refusal :=
  s.run fun c => settleAll (tspRequest c h 0x33 .read (· = 0) p (celClose h.session))

/-- CEL_CLEAR (R488). -/
def execCelClear (h : TspHead) (p : List (BitVec 8)) (s : State) : Host.Outcome State Fault Refusal :=
  s.run fun c => settleAll (tspRequest c h 0x34 .maintain (· = 0) p fun c => codeAnswer (celClear c (fingerprintOf c h.session)))

/-! ### Update. A request that writes the flash is not taken while arbiter 35 is frozen (R184, R492). -/

/-- A request that writes the flash, once the flash can be written. -/
def flashRequest (c : Chip) (h : TspHead) (cmd : Nat) (len : Nat → Bool) (p : List (BitVec 8)) (act : Chip → Answer) : Chip :=
  if flashOpen c then tspRequest c h cmd .maintain len p act else c

/-- UPD_INFO (R501). -/
def execUpdInfo (h : TspHead) (p : List (BitVec 8)) (s : State) : Host.Outcome State Fault Refusal :=
  s.run fun c => settleAll (tspRequest c h 0x40 .read (· = 0) p fun c => (c, 0, updInfo c))

/-- UPD_BEGIN (R502). -/
def execUpdBegin (h : TspHead) (p : List (BitVec 8)) (s : State) : Host.Outcome State Fault Refusal :=
  s.run fun c => settleAll (flashRequest c h 0x41 (· = 8) p (updBeginCmd h.session p))

/-- UPD_DATA (R502). -/
def execUpdData (h : TspHead) (p : List (BitVec 8)) (s : State) : Host.Outcome State Fault Refusal :=
  s.run fun c => settleAll (flashRequest c h 0x42 (fun n => 5 ≤ n && n ≤ 1012) p (updDataCmd h.session p))

/-- UPD_END (R503). -/
def execUpdEnd (h : TspHead) (p : List (BitVec 8)) (s : State) : Host.Outcome State Fault Refusal :=
  s.run fun c => settleAll (flashRequest c h 0x43 (· = 0) p (updEndCmd h.session))

/-- UPD_ARM (R505). -/
def execUpdArm (h : TspHead) (p : List (BitVec 8)) (s : State) : Host.Outcome State Fault Refusal :=
  s.run fun c => settleAll (flashRequest c h 0x44 (· = 4) p fun c => codeAnswer (updArm c (leAt p 0 1)))

/-- UPD_CONFIRM (R508). -/
def execUpdConfirm (h : TspHead) (p : List (BitVec 8)) (s : State) : Host.Outcome State Fault Refusal :=
  s.run fun c => settleAll (flashRequest c h 0x45 (· = 4) p fun c => codeAnswer (updConfirm c (leAt p 0 1)))

/-- UPD_REJECT (R509). -/
def execUpdReject (h : TspHead) (p : List (BitVec 8)) (s : State) : Host.Outcome State Fault Refusal :=
  s.run fun c => settleAll (flashRequest c h 0x46 (· = 4) p fun c => codeAnswer (updReject c (leAt p 0 1)))

/-- UPD_REVERT (R505). -/
def execUpdRevert (h : TspHead) (p : List (BitVec 8)) (s : State) : Host.Outcome State Fault Refusal :=
  s.run fun c => settleAll (flashRequest c h 0x47 (· = 4) p fun c => codeAnswer (updRevert c (leAt p 0 1)))

/-- UPD_KEY (R497). -/
def execUpdKey (h : TspHead) (p : List (BitVec 8)) (s : State) : Host.Outcome State Fault Refusal :=
  s.run fun c => settleAll (flashRequest c h 0x48 (· = 256) p fun c => codeAnswer (updKey c p))

/-- UPD_PEER (R511). -/
def execUpdPeer (h : TspHead) (p : List (BitVec 8)) (s : State) : Host.Outcome State Fault Refusal :=
  s.run fun c => settleAll (flashRequest c h 0x49 (· = 4) p fun c => codeAnswer (updPeer c h.session (leAt p 0 1)))

/-- UPD_SVCADDR (R504). -/
def execUpdSvcaddr (h : TspHead) (p : List (BitVec 8)) (s : State) : Host.Outcome State Fault Refusal :=
  s.run fun c => settleAll (flashRequest c h 0x4A (· = 8) p fun c => codeAnswer (updSvcaddr c p))

/-- UPD_CANCEL (R502). -/
def execUpdCancel (h : TspHead) (p : List (BitVec 8)) (s : State) : Host.Outcome State Fault Refusal :=
  s.run fun c => settleAll (flashRequest c h 0x4B (· = 0) p fun c => codeAnswer (updCancel c (.session h.session)))

/-- PIECE_ACK_TIMEOUT (R511). -/
def execPieceAckTimeout (s : State) : Host.Outcome State Fault Refusal := s.run fun c => settleAll (peerTimeout c)

/-- SELF_CONFIRM (R508). -/
def execSelfConfirm (s : State) : Host.Outcome State Fault Refusal := s.run fun c => settleAll (selfConfirm c)

/-! ### Tests -/

/-- TST_START (R520). -/
def execTstStart (h : TspHead) (p : List (BitVec 8)) (s : State) : Host.Outcome State Fault Refusal :=
  s.run fun c => settleAll (tspRequest c h 0x50 .maintain (· = 8) p fun c => codeAnswer (tstStart c h.session p))

/-- TST_STATUS (R527). -/
def execTstStatus (h : TspHead) (p : List (BitVec 8)) (s : State) : Host.Outcome State Fault Refusal :=
  s.run fun c => settleAll (tspRequest c h 0x51 .maintain (· = 0) p fun c => (c, 0, tstStatus c))

/-- TST_STOP (R527). -/
def execTstStop (h : TspHead) (p : List (BitVec 8)) (s : State) : Host.Outcome State Fault Refusal :=
  s.run fun c => settleAll (tspRequest c h 0x52 .maintain (· = 0) p fun c => codeAnswer (tstStop c h.session))

/-- TEST_END (R526). -/
def execTestEnd (bits : Tri Nat) (errs : Nat) (samples : List LoopSample) (s : State) :
    Host.Outcome State Fault Refusal :=
  s.run fun c => settleAll (testEnd c bits errs samples)

/-- TST_CTL_WRITE (R518). -/
def execTstCtlWrite (w : Writer) (x : Word) (s : State) : Host.Outcome State Fault Refusal :=
  s.run fun c => settleAll (writeCommand c w Reg.tstCtl.addr x)

/-- TST_LBK_WRITE (R519). -/
def execTstLbkWrite (w : Writer) (i : Fin 15) (x : Word) (s : State) : Host.Outcome State Fault Refusal :=
  s.run fun c => settleAll (writeCommand c w (Reg.tstLbk.addr i.val) x)

end Sys2Proof.Machine
end

