-- ==== Sys2Proof/Machine/ExecVats.lean ====
section
/-! DEFINITION. The commands of the Vats and of re-curdling (R137 to R159) and of the slot arbiters (R181). -/

namespace Sys2Proof.Machine

/-- VAT_CLOCK_FAULT (R137). -/
def execVatClockFault (v : Vat) (s : State) : Host.Outcome State Fault Refusal := s.run fun c => settleAll (vatFault c v 9)

/-- SUPPLY_DOMAIN_FAULT (R19). -/
def execSupplyDomainFault (d : Fin 8) (x : SupplySeen) (s : State) : Host.Outcome State Fault Refusal :=
  s.run fun c => settleAll (supplyFault c d x)

/-- RECURDLE_PLL_LOCK (R142). -/
def execRecurdlePllLock (s : State) : Host.Outcome State Fault Refusal := s.run fun c => settleAll (pllLock c)

/-- SELF_PROOF_DONE (R142). -/
def execSelfProofDone (ok : Bool) (s : State) : Host.Outcome State Fault Refusal :=
  s.run fun c => settleAll (selfProofDone c ok)

/-- COPY_PASS_DONE (R142). -/
def execCopyPassDone (s : State) : Host.Outcome State Fault Refusal := s.run fun c => settleAll (copyPassDone c)

/-- FINAL_COPY_DONE (R142). -/
def execFinalCopyDone (s : State) : Host.Outcome State Fault Refusal := s.run fun c => settleAll (finalDone c)

/-- VAT_CMD_TAKE_OUT (R159). -/
def execVatCmdTakeOut (w : Writer) (v : Vat) (s : State) : Host.Outcome State Fault Refusal :=
  s.run fun c => settleAll (writeCommand c w Reg.vatCmd.addr (word (0x10000000 + v.num)))

/-- VAT_CMD_RECURDLE (R159). -/
def execVatCmdRecurdle (w : Writer) (v : Vat) (s : State) : Host.Outcome State Fault Refusal :=
  s.run fun c => settleAll (writeCommand c w Reg.vatCmd.addr (word (0x20000000 + v.num)))

/-- ARBITER_DECISION (R181). -/
def execArbiterDecision (a : Fin 36) (v : Vat) (raised : List (Fin 64 × BitVec 16)) (clk : BitVec 16) (s : State) : Host.Outcome State Fault Refusal :=
  s.run fun c => settle ((arbDecide c (arbKey a.val v) (raised.map fun r => (r.1.val, r.2.toNat)) clk.toNat).1)

end Sys2Proof.Machine
end

