-- ==== Sys2Proof/Machine/Fops.lean ====
section
/-! DEFINITION. The floating-point instructions FOP32, FOP64, FCVT and FCMP (R82 to R85). -/

namespace Sys2Proof.Machine

/-- The functions of Table: Floating-point functions on codes of a format; `d` is gd, the addend of FMADD. -/
def fopFn (f : Fmt) (func a b d : Nat) : Option Nat :=
  let x := f.decode a
  let y := f.decode b
  match func with
  | 0x00 => some (f.add x y)
  | 0x01 => some (f.add x y.neg)
  | 0x02 => some (f.mul x y)
  | 0x03 => some (f.div x y)
  | 0x04 => some (f.sqrt x)
  | 0x05 => some (f.min a b)
  | 0x06 => some (f.max a b)
  | 0x07 => some (f.canon (if x = .nan then f.nan else a % f.signBit))
  | 0x08 => some (f.canon (if x = .nan then f.nan else Nat.xor a f.signBit))
  | 0x09 => some (f.fma x y (f.decode d))
  | 0x0A => some (f.canon a)
  | _ => none

/-- Whether a function takes one operand, so that B must be 0 (R83). -/
def fopUnary (func : Nat) : Bool := func = 4 || func = 7 || func = 8 || func = 10

/-- FOP32 (R83): MINOR [13] and [5:0] are RSVD. -/
def execFop32 (e : Eng) (w : Enc) (s : State) : Host.Outcome State Fault Refusal :=
  s.run fun c => settle <|
    let func := mbits w 12 6
    issue c e 4 false (mbits w 13 13 ≠ 0 || mbits w 5 0 ≠ 0 || (fopUnary func && w.b ≠ 0)) fun _ x =>
      match fopFn b32 func (rd x w.a).toNat (rd x w.b).toNat (rd x w.d).toNat with
      | none => .exc .illegal
      | some r => .done c (adv (wr x w.d (BitVec.ofNat 32 r)) 4)

/-- FOP64 (R83): every operand and result is a pair. -/
def execFop64 (e : Eng) (w : Enc) (s : State) : Host.Outcome State Fault Refusal :=
  s.run fun c => settle <|
    let func := mbits w 12 6
    issue c e 4 false (mbits w 13 13 ≠ 0 || mbits w 5 0 ≠ 0 || (fopUnary func && w.b ≠ 0) ||
        !evenReg w.d || !evenReg w.a || !evenReg w.b) fun _ x =>
      match fopFn b64 func (rdPair x w.a).toNat (rdPair x w.b).toNat (rdPair x w.d).toNat with
      | none => .exc .illegal
      | some r => .done c (adv (wrPair x w.d (BitVec.ofNat 64 r)) 4)

/-- Whether a conversion of Table: Conversions reads a pair. -/
def cvtWideSrc (conv : Nat) : Bool := conv = 6 || conv = 7 || conv = 9 || conv = 10 || conv = 11
/-- Whether a conversion writes a pair. -/
def cvtWideDst (conv : Nat) : Bool := conv = 4 || conv = 5 || conv = 8 || conv = 10 || conv = 11
/-- Whether a conversion is from floating point to integer, so that RND applies. -/
def cvtToInt (conv : Nat) : Bool := conv = 2 || conv = 3 || conv = 6 || conv = 7 || conv = 11

/-- A conversion of Table: Conversions on the source's code: the result's code, and V. -/
def cvtFn (conv rnd a : Nat) : Nat × Bool :=
  match conv with
  | 0x0 => (b32.ofInt (signed 32 a), false)
  | 0x1 => (b32.ofInt a, false)
  | 0x2 => floatToInt (b32.decode a) rnd 32 true
  | 0x3 => floatToInt (b32.decode a) rnd 32 false
  | 0x4 => (b64.ofInt (signed 32 a), false)
  | 0x5 => (b64.ofInt a, false)
  | 0x6 => floatToInt (b64.decode a) rnd 32 true
  | 0x7 => floatToInt (b64.decode a) rnd 32 false
  | 0x8 => (b64.ofFl (b32.decode a), decide (b32.decode a = .nan))
  | 0x9 => (b32.ofFl (b64.decode a), decide (b64.decode a = .nan))
  | 0xA => (b64.ofInt (signed 64 a), false)
  | _ => floatToInt (b64.decode a) rnd 64 true

/-- FCVT (R84): CONV in MINOR [13:10], RND in [9:8], [7:0] RSVD. -/
def execFcvt (e : Eng) (w : Enc) (s : State) : Host.Outcome State Fault Refusal :=
  s.run fun c => settle <|
    let conv := mbits w 13 10
    let rnd := mbits w 9 8
    issue c e 4 false (mbits w 7 0 ≠ 0 || w.b ≠ 0 || 11 < conv || (!cvtToInt conv && rnd ≠ 0) ||
        (cvtWideSrc conv && !evenReg w.a) || (cvtWideDst conv && !evenReg w.d)) fun _ x =>
      let a := if cvtWideSrc conv then (rdPair x w.a).toNat else (rd x w.a).toNat
      let r := cvtFn conv rnd a
      let x := { x with s := { x.s with v := r.2 } }
      .done c (adv (if cvtWideDst conv then wrPair x w.d (BitVec.ofNat 64 r.1) else wr x w.d (BitVec.ofNat 32 r.1)) 4)

/-- The predicates of FCMP on codes: 0 equal, 1 less, 2 less or equal, 3 unordered; none when unassigned (R85). -/
def fcmpPred (f : Fmt) (pred a b : Nat) : Option Bool :=
  let un := decide (f.decode a = .nan) || decide (f.decode b = .nan)
  match pred with
  | 0 => some (!un && f.eq a b)
  | 1 => some (!un && f.lt a b)
  | 2 => some (!un && (f.lt a b || f.eq a b))
  | 3 => some un
  | _ => none

/-- FCMP (R85): W in MINOR [13], PRED in [12:10], [9:0] RSVD. -/
def execFcmp (e : Eng) (w : Enc) (s : State) : Host.Outcome State Fault Refusal :=
  s.run fun c => settle <|
    let wide := w.minor.getLsbD 13
    let f := if wide then b64 else b32
    issue c e 4 false (mbits w 9 0 ≠ 0 || w.d ≠ 0 || (wide && (!evenReg w.a || !evenReg w.b))) fun _ x =>
      let a := if wide then (rdPair x w.a).toNat else (rd x w.a).toNat
      let b := if wide then (rdPair x w.b).toNat else (rd x w.b).toNat
      match fcmpPred f (mbits w 12 10) a b with
      | none => .exc .illegal
      | some z =>
        let un := decide (f.decode a = .nan) || decide (f.decode b = .nan)
        .done c (adv { x with s := { x.s with z := z, v := un, n := false, c := false } } 4)

end Sys2Proof.Machine
end

