-- ==== Sys2Proof/Machine/Dispatch.lean ====
section
/-! DEFINITION. One arm per command: the meaning it has, or its rejection by name. -/

namespace Sys2Proof.Machine

/-- The effect of a command on everything but the queue of waiting commands. -/
def exec (i : Instr) (s : State) : Host.Outcome State Fault Refusal :=
  match i with
  | .alu e w => Sys2Proof.Machine.execAlu e w s
  | .alu64 e w => Sys2Proof.Machine.execAlu64 e w s
  | .addi e w => Sys2Proof.Machine.execAddi e w s
  | .andi e w => Sys2Proof.Machine.execAndi e w s
  | .ori e w => Sys2Proof.Machine.execOri e w s
  | .xori e w => Sys2Proof.Machine.execXori e w s
  | .shi e w => Sys2Proof.Machine.execShi e w s
  | .movi e w x => Sys2Proof.Machine.execMovi e w x s
  | .setq e w x => Sys2Proof.Machine.execSetq e w x s
  | .mfs e w => Sys2Proof.Machine.execMfs e w s
  | .mts e w => Sys2Proof.Machine.execMts e w s
  | .fop32 e w => Sys2Proof.Machine.execFop32 e w s
  | .fop64 e w => Sys2Proof.Machine.execFop64 e w s
  | .fcvt e w => Sys2Proof.Machine.execFcvt e w s
  | .fcmp e w => Sys2Proof.Machine.execFcmp e w s
  | .cmp e w => Sys2Proof.Machine.execCmp e w s
  | .cmpi e w => Sys2Proof.Machine.execCmpi e w s
  | .br e w => Sys2Proof.Machine.execBr e w s
  | .sel e w => Sys2Proof.Machine.execSel e w s
  | .dbnz e w => Sys2Proof.Machine.execDbnz e w s
  | .call e w x => Sys2Proof.Machine.execCall e w x s
  | .callr e w => Sys2Proof.Machine.execCallr e w s
  | .ret e w => Sys2Proof.Machine.execRet e w s
  | .hnd e w => Sys2Proof.Machine.execHnd e w s
  | .nop e w => Sys2Proof.Machine.execNop e w s
  | .halt e w => Sys2Proof.Machine.execHalt e w s
  | .ld e w => Sys2Proof.Machine.execLd e w s
  | .st e w => Sys2Proof.Machine.execSt e w s
  | .ldx e w x => Sys2Proof.Machine.execLdx e w x s
  | .stx e w x => Sys2Proof.Machine.execStx e w x s
  | .copy e w => Sys2Proof.Machine.execCopy e w s
  | .push e w => Sys2Proof.Machine.execPush e w s
  | .pop e w => Sys2Proof.Machine.execPop e w s
  | .peek e w => Sys2Proof.Machine.execPeek e w s
  | .credit e w => Sys2Proof.Machine.execCredit e w s
  | .queueWaitEnd e => Sys2Proof.Machine.execQueueWaitEnd e s
  | .fence e w => Sys2Proof.Machine.execFence e w s
  | .fenceComplete e => Sys2Proof.Machine.execFenceComplete e s
  | .inPoint e w x => Sys2Proof.Machine.execInPoint e w x s
  | .outPoint e w x => Sys2Proof.Machine.execOutPoint e w x s
  | .evr e w => Sys2Proof.Machine.execEvr e w s
  | .time e w => Sys2Proof.Machine.execTime e w s
  | .waitt e w => Sys2Proof.Machine.execWaitt e w s
  | .waittComplete e => Sys2Proof.Machine.execWaittComplete e s
  | .raise e w => Sys2Proof.Machine.execRaise e w s
  | .cfgSet e w x => Sys2Proof.Machine.execCfgSet e w x s
  | .cfgGet e w x => Sys2Proof.Machine.execCfgGet e w x s
  | .commit e w => Sys2Proof.Machine.execCommit e w s
  | .abort e w => Sys2Proof.Machine.execAbort e w s
  | .cfgPortRequest n prio => Sys2Proof.Machine.execCfgPortRequest n prio s
  | .cfgReply => Sys2Proof.Machine.execCfgReply s
  | .log e w => Sys2Proof.Machine.execLog e w s
  | .hset e w => Sys2Proof.Machine.execHset e w s
  | .hget e w => Sys2Proof.Machine.execHget e w s
  | .noise e w => Sys2Proof.Machine.execNoise e w s
  | .noiseReply => Sys2Proof.Machine.execNoiseReply s
  | .crc e w => Sys2Proof.Machine.execCrc e w s
  | .exceptionReraise e => Sys2Proof.Machine.execExceptionReraise e s
  | .storeBufferDrain e => Sys2Proof.Machine.execStoreBufferDrain e s
  | .fastPlaneTick drift => Sys2Proof.Machine.execFastPlaneTick drift s
  | .curdInstant n => Sys2Proof.Machine.execCurdInstant n s
  | .sampleSetArrival src dst t ok => Sys2Proof.Machine.execSampleSetArrival src dst t ok s
  | .postDeadline v t => Sys2Proof.Machine.execPostDeadline v t s
  | .curdClose t => Sys2Proof.Machine.execCurdClose t s
  | .boundaryReached e => Sys2Proof.Machine.execBoundaryReached e s
  | .boundaryReportArrival src dst n count => Sys2Proof.Machine.execBoundaryReportArrival src dst n count s
  | .bndwaitTimeout e missing => Sys2Proof.Machine.execBndwaitTimeout e missing s
  | .waitReportArrival src dst n count at_ => Sys2Proof.Machine.execWaitReportArrival src dst n count at_ s
  | .pressImageArrival v t halves => Sys2Proof.Machine.execPressImageArrival v t halves s
  | .pressClose t => Sys2Proof.Machine.execPressClose t s
  | .taskCommit t readback => Sys2Proof.Machine.execTaskCommit t readback s
  | .pressHoldLimit t => Sys2Proof.Machine.execPressHoldLimit t s
  | .quietMiss => Sys2Proof.Machine.execQuietMiss s
  | .quietPoint => Sys2Proof.Machine.execQuietPoint s
  | .setupTimeLimit => Sys2Proof.Machine.execSetupTimeLimit s
  | .vatClockFault v => Sys2Proof.Machine.execVatClockFault v s
  | .supplyDomainFault d x => Sys2Proof.Machine.execSupplyDomainFault d x s
  | .recurdlePllLock => Sys2Proof.Machine.execRecurdlePllLock s
  | .selfProofDone ok => Sys2Proof.Machine.execSelfProofDone ok s
  | .copyPassDone => Sys2Proof.Machine.execCopyPassDone s
  | .finalCopyDone => Sys2Proof.Machine.execFinalCopyDone s
  | .vatCmdTakeOut w v => Sys2Proof.Machine.execVatCmdTakeOut w v s
  | .vatCmdRecurdle w v => Sys2Proof.Machine.execVatCmdRecurdle w v s
  | .transferMessage v q ok => Sys2Proof.Machine.execTransferMessage v q ok s
  | .creditMessage v q n ok => Sys2Proof.Machine.execCreditMessage v q n ok s
  | .arbiterDecision a v raised clk => Sys2Proof.Machine.execArbiterDecision a v raised clk s
  | .eventArrival x va vb vc => Sys2Proof.Machine.execEventArrival x va vb vc s
  | .holdoffExpiry g x => Sys2Proof.Machine.execHoldoffExpiry g x s
  | .eventEmitDelayed n x => Sys2Proof.Machine.execEventEmitDelayed n x s
  | .dispatcherRecord v => Sys2Proof.Machine.execDispatcherRecord v s
  | .eventCurdInstant v => Sys2Proof.Machine.execEventCurdInstant v s
  | .affineurEventRecord => Sys2Proof.Machine.execAffineurEventRecord s
  | .powerOn => Sys2Proof.Machine.execPowerOn s
  | .rennetStart romOk => Sys2Proof.Machine.execRennetStart romOk s
  | .rngReady => Sys2Proof.Machine.execRngReady s
  | .rngTestFail test => Sys2Proof.Machine.execRngTestFail test s
  | .cultureLoad => Sys2Proof.Machine.execCultureLoad s
  | .loopProofAttempt res => Sys2Proof.Machine.execLoopProofAttempt res s
  | .partnerWatchEnd => Sys2Proof.Machine.execPartnerWatchEnd s
  | .sysCmdHold w key => Sys2Proof.Machine.execSysCmdHold w key s
  | .sysCmdRestart w key => Sys2Proof.Machine.execSysCmdRestart w key s
  | .sysCmdMaint w key => Sys2Proof.Machine.execSysCmdMaint w key s
  | .sysCmdExit w key => Sys2Proof.Machine.execSysCmdExit w key s
  | .sysCmdRejoin w key => Sys2Proof.Machine.execSysCmdRejoin w key s
  | .sysCmdHandover w key h => Sys2Proof.Machine.execSysCmdHandover w key h s
  | .sysCmdReset w key => Sys2Proof.Machine.execSysCmdReset w key s
  | .commitApply block n => Sys2Proof.Machine.execCommitApply block n s
  | .affineurRestart => Sys2Proof.Machine.execAffineurRestart s
  | .affineurRestartDone => Sys2Proof.Machine.execAffineurRestartDone s
  | .managementTick m => Sys2Proof.Machine.execManagementTick m s
  | .dtlsHandshake priv fingerprint => Sys2Proof.Machine.execDtlsHandshake priv fingerprint s
  | .tspOpen h p => Sys2Proof.Machine.execTspOpen h p s
  | .tspClose h p => Sys2Proof.Machine.execTspClose h p s
  | .tspPing h p => Sys2Proof.Machine.execTspPing h p s
  | .cfgRead h p => Sys2Proof.Machine.execCfgRead h p s
  | .cfgWrite h p => Sys2Proof.Machine.execCfgWrite h p s
  | .tspCommit h p => Sys2Proof.Machine.execTspCommit h p s
  | .tspAbort h p => Sys2Proof.Machine.execTspAbort h p s
  | .stgBreak h p => Sys2Proof.Machine.execStgBreak h p s
  | .tspUnknown h cmd p => Sys2Proof.Machine.execTspUnknown h cmd p s
  | .tspSessionTimeout n => Sys2Proof.Machine.execTspSessionTimeout n s
  | .chgInEdge us => Sys2Proof.Machine.execChgInEdge us s
  | .togglingLost => Sys2Proof.Machine.execTogglingLost s
  | .partnerSilent => Sys2Proof.Machine.execPartnerSilent s
  | .takeover => Sys2Proof.Machine.execTakeover s
  | .handoverTick next => Sys2Proof.Machine.execHandoverTick next s
  | .relinquishEnd => Sys2Proof.Machine.execRelinquishEnd s
  | .ladleLaneUp lane tx => Sys2Proof.Machine.execLadleLaneUp lane tx s
  | .ladleLaneDown lane tx => Sys2Proof.Machine.execLadleLaneDown lane tx s
  | .ladleSlot => Sys2Proof.Machine.execLadleSlot s
  | .stateFrame f => Sys2Proof.Machine.execStateFrame f s
  | .qstateFrame f => Sys2Proof.Machine.execQstateFrame f s
  | .pressFrame f => Sys2Proof.Machine.execPressFrame f s
  | .endFrame f bad => Sys2Proof.Machine.execEndFrame f bad s
  | .fullFrame f => Sys2Proof.Machine.execFullFrame f s
  | .syncFrame f => Sys2Proof.Machine.execSyncFrame f s
  | .healthFrame f => Sys2Proof.Machine.execHealthFrame f s
  | .handoverFrame f => Sys2Proof.Machine.execHandoverFrame f s
  | .finalFrame f => Sys2Proof.Machine.execFinalFrame f s
  | .timeFrame f delay => Sys2Proof.Machine.execTimeFrame f delay s
  | .updateFrame f => Sys2Proof.Machine.execUpdateFrame f s
  | .affFrame f => Sys2Proof.Machine.execAffFrame f s
  | .syncreqFrame f => Sys2Proof.Machine.execSyncreqFrame f s
  | .identFrame f => Sys2Proof.Machine.execIdentFrame f s
  | .ladleReservedType f => Sys2Proof.Machine.execLadleReservedType f s
  | .ldlCmdResync w => Sys2Proof.Machine.execLdlCmdResync w s
  | .ldlCmdLinkreset w => Sys2Proof.Machine.execLdlCmdLinkreset w s
  | .standbySelfTest kind bad => Sys2Proof.Machine.execStandbySelfTest kind bad s
  | .pdFrameReceive f => Sys2Proof.Machine.execPdFrameReceive f s
  | .announcementReceive f => Sys2Proof.Machine.execAnnouncementReceive f s
  | .announcementSend => Sys2Proof.Machine.execAnnouncementSend s
  | .mdRequestReceive m => Sys2Proof.Machine.execMdRequestReceive m s
  | .mdReplySend => Sys2Proof.Machine.execMdReplySend s
  | .mdSessionTimeout handle => Sys2Proof.Machine.execMdSessionTimeout handle s
  | .ttdpTopologyChange => Sys2Proof.Machine.execTtdpTopologyChange s
  | .inaugurationComplete x => Sys2Proof.Machine.execInaugurationComplete x s
  | .partnerAgeing k => Sys2Proof.Machine.execPartnerAgeing k s
  | .roleAgeing r => Sys2Proof.Machine.execRoleAgeing r s
  | .linkChange p up giga => Sys2Proof.Machine.execLinkChange p up giga s
  | .bypassRelay switchBad => Sys2Proof.Machine.execBypassRelay switchBad s
  | .ptpMessageReceive m => Sys2Proof.Machine.execPtpMessageReceive m s
  | .domainLoss d => Sys2Proof.Machine.execDomainLoss d s
  | .timeStepApply => Sys2Proof.Machine.execTimeStepApply s
  | .slewExpiry => Sys2Proof.Machine.execSlewExpiry s
  | .holdoverTimeout => Sys2Proof.Machine.execHoldoverTimeout s
  | .ladleTimeLoss => Sys2Proof.Machine.execLadleTimeLoss s
  | .compareFire n => Sys2Proof.Machine.execCompareFire n s
  | .ppsOutputEdge => Sys2Proof.Machine.execPpsOutputEdge s
  | .ppsInputEdge t => Sys2Proof.Machine.execPpsInputEdge t s
  | .captureEdge n rising t => Sys2Proof.Machine.execCaptureEdge n rising t s
  | .ptpFreqhWrite w x => Sys2Proof.Machine.execPtpFreqhWrite w x s
  | .ptpSlewWrite w x => Sys2Proof.Machine.execPtpSlewWrite w x s
  | .masterFrameReceive fc addr start va vb => Sys2Proof.Machine.execMasterFrameReceive fc addr start va vb s
  | .slaveFrameReceive f => Sys2Proof.Machine.execSlaveFrameReceive f s
  | .mvbSilence => Sys2Proof.Machine.execMvbSilence s
  | .basicPeriod => Sys2Proof.Machine.execBasicPeriod s
  | .mvbSlotEnd => Sys2Proof.Machine.execMvbSlotEnd s
  | .macroCycleBoundary => Sys2Proof.Machine.execMacroCycleBoundary s
  | .mvbAselWrite w x => Sys2Proof.Machine.execMvbAselWrite w x s
  | .mvbSourceEntry => Sys2Proof.Machine.execMvbSourceEntry s
  | .canFrameReceive p f => Sys2Proof.Machine.execCanFrameReceive p f s
  | .canStoreFill p => Sys2Proof.Machine.execCanStoreFill p s
  | .canBusIdle p => Sys2Proof.Machine.execCanBusIdle p s
  | .canTxSuccess p sof => Sys2Proof.Machine.execCanTxSuccess p sof s
  | .canArbLost p => Sys2Proof.Machine.execCanArbLost p s
  | .canTxError p counts => Sys2Proof.Machine.execCanTxError p counts s
  | .canRecoveryDone p => Sys2Proof.Machine.execCanRecoveryDone p s
  | .referenceInstant p => Sys2Proof.Machine.execReferenceInstant p s
  | .canCmdRecover w p => Sys2Proof.Machine.execCanCmdRecover w p s
  | .canCmdFlush w p => Sys2Proof.Machine.execCanCmdFlush w p s
  | .canMonRead w p k => Sys2Proof.Machine.execCanMonRead w p k s
  | .monitorLockTimeout p => Sys2Proof.Machine.execMonitorLockTimeout p s
  | .outputWindowWrite => Sys2Proof.Machine.execOutputWindowWrite s
  | .inputWindowRead n => Sys2Proof.Machine.execInputWindowRead n s
  | .rackMasterWrite slot addr ts ad => Sys2Proof.Machine.execRackMasterWrite slot addr ts ad s
  | .rackBreq lines => Sys2Proof.Machine.execRackBreq lines s
  | .rackWaitLimit n x => Sys2Proof.Machine.execRackWaitLimit n x s
  | .rackBackoff n words ts => Sys2Proof.Machine.execRackBackoff n words ts s
  | .backoffRepeat n => Sys2Proof.Machine.execBackoffRepeat n s
  | .rackTransferEnd n res ts ad => Sys2Proof.Machine.execRackTransferEnd n res ts ad s
  | .sidebandChange irq pres sysfail => Sys2Proof.Machine.execSidebandChange irq pres sysfail s
  | .inputFrame v x => Sys2Proof.Machine.execInputFrame v x s
  | .commandFrame v x => Sys2Proof.Machine.execCommandFrame v x s
  | .refreshFrame v x => Sys2Proof.Machine.execRefreshFrame v x s
  | .refreshLoss => Sys2Proof.Machine.execRefreshLoss s
  | .outputApply => Sys2Proof.Machine.execOutputApply s
  | .debounceAccept v n x => Sys2Proof.Machine.execDebounceAccept v n x s
  | .testPulse t => Sys2Proof.Machine.execTestPulse t s
  | .testPulseSample t raw rbOk => Sys2Proof.Machine.execTestPulseSample t raw rbOk s
  | .outputOverload x => Sys2Proof.Machine.execOutputOverload x s
  | .faultClear n => Sys2Proof.Machine.execFaultClear n s
  | .readbackCheck n rb => Sys2Proof.Machine.execReadbackCheck n rb s
  | .openDetect n x => Sys2Proof.Machine.execOpenDetect n x s
  | .outputStageTest bad => Sys2Proof.Machine.execOutputStageTest bad s
  | .fieldSupplyChange f volt curr => Sys2Proof.Machine.execFieldSupplyChange f volt curr s
  | .speedEdge n rising both x => Sys2Proof.Machine.execSpeedEdge n rising both x s
  | .stillTimeout n => Sys2Proof.Machine.execStillTimeout n s
  | .speedSensorFault n brk x => Sys2Proof.Machine.execSpeedSensorFault n brk x s
  | .conversionEnd n x opened => Sys2Proof.Machine.execConversionEnd n x opened s
  | .outerrTimer n => Sys2Proof.Machine.execOuterrTimer n s
  | .rindCycle t bad fsLow => Sys2Proof.Machine.execRindCycle t bad fsLow s
  | .safetyInputEval t si low => Sys2Proof.Machine.execSafetyInputEval t si low s
  | .rindTpSample k si => Sys2Proof.Machine.execRindTpSample k si s
  | .resetPulse high => Sys2Proof.Machine.execResetPulse high s
  | .rstHigh10s => Sys2Proof.Machine.execRstHigh10s s
  | .teTest diff => Sys2Proof.Machine.execTeTest diff s
  | .oscillatorWindow count => Sys2Proof.Machine.execOscillatorWindow count s
  | .clockrefTimeout => Sys2Proof.Machine.execClockrefTimeout s
  | .rindDiagnostic d ok => Sys2Proof.Machine.execRindDiagnostic d ok s
  | .rindStartEnd ok => Sys2Proof.Machine.execRindStartEnd ok s
  | .rindStatusSend => Sys2Proof.Machine.execRindStatusSend s
  | .rindStatusTimeout => Sys2Proof.Machine.execRindStatusTimeout s
  | .rindUnlock n => Sys2Proof.Machine.execRindUnlock n s
  | .rindAccept n => Sys2Proof.Machine.execRindAccept n s
  | .rindSetpw n => Sys2Proof.Machine.execRindSetpw n s
  | .rindLock n => Sys2Proof.Machine.execRindLock n s
  | .acceptTimeout => Sys2Proof.Machine.execAcceptTimeout s
  | .unlockTimeout => Sys2Proof.Machine.execUnlockTimeout s
  | .recordOffer culture block code task data => Sys2Proof.Machine.execRecordOffer culture block code task data s
  | .recordWrite culture => Sys2Proof.Machine.execRecordWrite culture s
  | .clearSlotWrite => Sys2Proof.Machine.execClearSlotWrite s
  | .celInfo h p => Sys2Proof.Machine.execCelInfo h p s
  | .celSnap h p => Sys2Proof.Machine.execCelSnap h p s
  | .celRead h p => Sys2Proof.Machine.execCelRead h p s
  | .celClose h p => Sys2Proof.Machine.execCelClose h p s
  | .celClear h p => Sys2Proof.Machine.execCelClear h p s
  | .updInfo h p => Sys2Proof.Machine.execUpdInfo h p s
  | .updBegin h p => Sys2Proof.Machine.execUpdBegin h p s
  | .updData h p => Sys2Proof.Machine.execUpdData h p s
  | .updEnd h p => Sys2Proof.Machine.execUpdEnd h p s
  | .updArm h p => Sys2Proof.Machine.execUpdArm h p s
  | .updConfirm h p => Sys2Proof.Machine.execUpdConfirm h p s
  | .updReject h p => Sys2Proof.Machine.execUpdReject h p s
  | .updRevert h p => Sys2Proof.Machine.execUpdRevert h p s
  | .updKey h p => Sys2Proof.Machine.execUpdKey h p s
  | .updPeer h p => Sys2Proof.Machine.execUpdPeer h p s
  | .updSvcaddr h p => Sys2Proof.Machine.execUpdSvcaddr h p s
  | .updCancel h p => Sys2Proof.Machine.execUpdCancel h p s
  | .pieceAckTimeout => Sys2Proof.Machine.execPieceAckTimeout s
  | .selfConfirm => Sys2Proof.Machine.execSelfConfirm s
  | .interruptionDetect x => Sys2Proof.Machine.execInterruptionDetect x s
  | .interruptionEnd lowest => Sys2Proof.Machine.execInterruptionEnd lowest s
  | .interruptionTimeout => Sys2Proof.Machine.execInterruptionTimeout s
  | .powerDownEnd => Sys2Proof.Machine.execPowerDownEnd s
  | .inputOvervoltage x => Sys2Proof.Machine.execInputOvervoltage x s
  | .inputSwitchClose highest => Sys2Proof.Machine.execInputSwitchClose highest s
  | .storeMeasure cap hup => Sys2Proof.Machine.execStoreMeasure cap hup s
  | .baseplateWarning t => Sys2Proof.Machine.execBaseplateWarning t s
  | .regionTempDiff t => Sys2Proof.Machine.execRegionTempDiff t s
  | .tstStart h p => Sys2Proof.Machine.execTstStart h p s
  | .tstStatus h p => Sys2Proof.Machine.execTstStatus h p s
  | .tstStop h p => Sys2Proof.Machine.execTstStop h p s
  | .testEnd bits errs samples => Sys2Proof.Machine.execTestEnd bits errs samples s
  | .tstCtlWrite w x => Sys2Proof.Machine.execTstCtlWrite w x s
  | .tstLbkWrite w n x => Sys2Proof.Machine.execTstLbkWrite w n x s
  | .registerWrite w addr x => Sys2Proof.Machine.execRegisterWrite w addr x s
  | .rcRead w addr => Sys2Proof.Machine.execRcRead w addr s
  | .hxkTicklRead w => Sys2Proof.Machine.execHxkTicklRead w s
  | .arbWqst0Read w => Sys2Proof.Machine.execArbWqst0Read w s
  | .arbWqst2Read w => Sys2Proof.Machine.execArbWqst2Read w s
  | .ethPt0Read w => Sys2Proof.Machine.execEthPt0Read w s
  | .ptpNowlRead w => Sys2Proof.Machine.execPtpNowlRead w s
  | .ptpLsteplRead w => Sys2Proof.Machine.execPtpLsteplRead w s
  | .celNewlRead w => Sys2Proof.Machine.execCelNewlRead w s
  | .rindLog0Read w => Sys2Proof.Machine.execRindLog0Read w s
  | .tstBitslRead w => Sys2Proof.Machine.execTstBitslRead w s
  | .waitReportTimeout e missing => Sys2Proof.Machine.execWaitReportTimeout e missing s
  | .affineurSelfProofDone fail => Sys2Proof.Machine.execAffineurSelfProofDone fail s
  | .vatStartProofDone fail => Sys2Proof.Machine.execVatStartProofDone fail s
  | .fieldUnitSelfTestDone fail => Sys2Proof.Machine.execFieldUnitSelfTestDone fail s
  | .fieldLaneRefreshTimeout v => Sys2Proof.Machine.execFieldLaneRefreshTimeout v s
  | .testPulseCurrentLimit x => Sys2Proof.Machine.execTestPulseCurrentLimit x s
  | .coldJunctionChange j sound temp => Sys2Proof.Machine.execColdJunctionChange j sound temp s
  | .rindSpeedEdge n t => Sys2Proof.Machine.execRindSpeedEdge n t s
  | .pdTelegramSend => Sys2Proof.Machine.execPdTelegramSend s

end Sys2Proof.Machine
end

