-- ==== Sys2Proof/Safety.lean ====
section
/-! DEFINITION. The terms in which statements about the module are made: the state after a command, a calm module, the
invariants that every command keeps, and when an engine may issue an instruction. -/

namespace Sys2Proof.Machine

/-- The state after a command whose own effect leaves the module at `c`: what follows from it is settled within the
step, and the queue of waiting commands is as it was. -/
def State.after (s : State) (c : Chip) : State := { s with chip := settle c }

/-- The same for a command after which units draw their conclusions in any case. -/
def State.afterAll (s : State) (c : Chip) : State := { s with chip := settleAll c }

/-- Nothing is put off and the setup program is not running, so that a command's own effect is all that happens. -/
structure Chip.Calm (c : Chip) : Prop where
  todo : c.core.todo = []
  setup : c.sys.setupRun = false

/-- A quiet window is open exactly where quiet windows are measured and no chain computes (R61). -/
def Chip.QuietOk (c : Chip) : Prop := c.core.quietSince.isSome = (quietMeasured c && !anyComputing c)

/-- What holds between any two commands: nothing is put off, and the quiet window is as R61 says. -/
structure Chip.Settled (c : Chip) : Prop where
  todo : c.core.todo = []
  quiet : c.QuietOk

/-- The context `x` at priority `r` that an engine runs may issue an instruction of `len` bytes: it runs, fewer than
65,536 instructions have completed since the last call boundary or handler entry (R50), the instruction and its
successor lie in the buffer (R70), and the buffer holds no reserved major opcode there (R71). -/
structure Ready (c : Chip) (e : Eng) (len : Nat) (noSucc : Bool) (r : Nat) (x : Ctx) : Prop where
  run : running c e = some (r, x)
  seg : x.seg < 65536
  fits : beyondBuffer x.p len noSucc = false
  known : reservedAt c e x.p = false

/-- The context at priority `r` of an engine stored. -/
def storeCtx (c : Chip) (e : Eng) (r : Nat) (x : Ctx) : Chip := onPlane c e.vat fun p => setCtx p e.num.val r x

/-- An instruction completed: one more since the last call boundary, and no boundary here. -/
def retire (c : Chip) (e : Eng) (r : Nat) (x : Ctx) : Chip := storeCtx c e r { x with seg := x.seg + 1, atBnd := false }

/-- An instruction completed at a call boundary (R46, R50). -/
def retireAtBoundary (c : Chip) (e : Eng) (r : Nat) (x : Ctx) : Chip :=
  storeCtx c e r { x with bnd := x.bnd + 1, seg := 0, atBnd := true }

/-- A chain whose cycle has been ended stops at the call boundary that it reaches, which its count includes (R46, R191). -/
def endAtBoundary (c : Chip) (e : Eng) (r : Nat) (x : Ctx) : Chip :=
  endChain (storeCtx c e r { x with bnd := x.bnd + 1 }) e.vat e.num.val r

/-- The engine that executes a Hexelku instruction; none for every other command. -/
def instrEng : Instr → Option Eng
  | .alu e _ | .alu64 e _ | .addi e _ | .andi e _ | .ori e _ | .xori e _ | .shi e _ | .movi e _ _ | .setq e _ _ | .mfs e _
  | .mts e _ | .cmp e _ | .cmpi e _ | .fop32 e _ | .fop64 e _ | .fcvt e _ | .fcmp e _ | .br e _ | .sel e _ | .dbnz e _
  | .call e _ _ | .callr e _ | .ret e _ | .hnd e _ | .nop e _ | .halt e _ | .ld e _ | .st e _ | .ldx e _ _ | .stx e _ _
  | .copy e _ | .crc e _ | .push e _ | .pop e _ | .peek e _ | .credit e _ | .fence e _ | .inPoint e _ _ | .outPoint e _ _
  | .evr e _ | .time e _ | .waitt e _ | .raise e _ | .cfgSet e _ _ | .cfgGet e _ _ | .commit e _ | .abort e _ | .noise e _
  | .log e _ | .hset e _ | .hget e _ => some e
  | _ => none

/-- A TSP request with payload `p` reaches its command (R213, R214): its session is open, its header right, its SEQ greater
than the last, its privilege enough, its payload as long as LEN says and no longer than 1,024 bytes. `cmd` is its command code. -/
structure Admitted (c : Chip) (h : TspHead) (cmd : Nat) (need : Priv) (p : List Byte) (x : Session) : Prop where
  session : mapGet none c.sys.sessions h.session.val = some x
  up : c.sys.affUp = true
  head : headOk h cmd = true
  len : h.len.toNat = p.length
  fresh : ∀ l, x.lastSeq = some l → 0 < signed 32 (h.seq.toNat + 2 ^ 32 - l)
  priv : Priv.level need ≤ Priv.level x.priv
  size : p.length ≤ 1024

/-- The session of an admitted request has been heard, and its SEQ is the last. -/
def acceptMsg (c : Chip) (h : TspHead) : Chip :=
  onSession (onSession c h.session fun s => { s with heard := c.core.tick }) h.session fun s => { s with lastSeq := some h.seq.toNat }

/-- The reply of command code `cmd` sent and kept in the session: STATUS, SEQ and payload (R214). -/
def replied (c : Chip) (h : TspHead) (cmd st : Nat) (payload : List Byte) : Chip :=
  let r : Option Reply := some ⟨0x80 + cmd % 128, st, h.seq.toNat, payload⟩
  answerWith (onSession c h.session fun s => { s with reply := r }) h.session r

/-- The reply of one status word with ADDR 0. -/
def repliedCode (c : Chip) (h : TspHead) (cmd st : Nat) : Chip := replied c h cmd st (wordBytes (statusWord st 0))

/-- Frame `f` sent in a slot: with its header on the lane of each SERVING Vat, the time filled in where it carries one, and SEQ
one more (R249, R250). -/
def slotSend (c : Chip) (f : TxFrame) : Chip :=
  let g := fillTime c f
  let lane (v : Vat) : Option LFrame := if serving c v then some (mkFrame c g) else none
  onLdl c fun l =>
    { l with
      slot := ⟨lane .a, lane .b, lane .c⟩
      seqTx := (l.seqTx + 1) % 2 ^ 32
      timeAt := if g.type = 10 then some c.core.tick else l.timeAt
      fullSlots := if g.type = 5 then l.fullSlots + 1 else 0
      handover := if g.type = 9 then l.handover.map (fun h => { h with final := true }) else l.handover }

/-- The lane copies of a frame, which a Ladle turned back on itself does not discard, vote to the valid frame `x` of TYPE `k`, and
the counts of the vote leave the module at `d` (R250, R251, R519). -/
def Voted (c : Chip) (f : Lanes) (k : Nat) (d : Chip) (x : LFrame) : Prop :=
  fromOutside c f = false ∧ voteFrame c f = (d, some x) ∧ lfType x = k

/-- The module with a status word of OK for address `a` answered. -/
def answeredOk (c : Chip) (a : Nat) : Chip := onSys c fun y => { y with answer := [statusWord 0 a] }

/-- A write to the command register at `a` is not refused on the way to its command: the writer reaches the port, has more than
READ, and with OPERATE the register is one that acts for it (R106, R213, R215). -/
structure Commanded (c : Chip) (w : Writer) (a : Nat) : Prop where
  reach : reaches c w = true
  priv : privOf c w ≠ some .read
  acts : privOf c w = some .operate → ∀ r, regDef a = some r → operateActs r a = true

/-- The enabled subscriptions that a received process data frame matches by ComId and, where the subscription is not one of a
role, by source (R291). -/
def pdMatches (c : Chip) (f : PdFrame) : List Nat :=
  (subscriptions c).filter fun m => rawReg c (Reg.ethScom.addr m) = f.comId &&
    (bit (rawReg c (Reg.ethSctl.addr m)) 29 || rawReg c (Reg.ethSsrc.addr m) = 0 || rawReg c (Reg.ethSsrc.addr m) = f.srcIp)

/-- A frame from station `i` delivered to subscription `m`: its reception noted, and its entries appended to the channel's
queue (R291, R292). `set` is the module as the frame found it, for the subscription's settings. -/
def pdDeliver (set : Chip) (f : PdFrame) (i : Nat) (tag : Option Tag) (d : List Byte) (c : Chip) (m : Nat) : Chip :=
  match queueOfPort c 7 (bits (rawReg set (Reg.ethSpnt.addr m)) 15 11) with
  | none => c
  | some q => appendPd (onEth c fun e => { e with metas := (e.metas.filter fun x => x.sub ≠ m || f.ts < x.stamp + 2 ^ 40) ++
      [⟨m, f.ts, f.seqc.toNat, match tag with | some t => t.repoch | none => 0⟩] }) q (pdEntries f.ts m i d)

end Sys2Proof.Machine
end

