-- ==== Sys2Proof/Certificates/Slice0/Obligations.lean ====
section
/-! DEFINITION. The statements about the module, for the provers. Each conclusion that `exec` answers `.next` is the
instruction's or the command's own effect; `State.after` and `State.afterAll` settle what follows from it. -/

open Sys2Proof Sys2Proof.Machine

/-! ### The module as a whole -/

/-- A step carries out the command at the front of the queue with the queue's rest; with none waiting the module idles, which is
the model's choice (log entry 1). -/
def Obligations.StepRunsFrontCommand : Prop :=
  (∀ (c : Instr) (rest : List Instr) (s : State), s.pending = c :: rest → step s = exec c { s with pending := rest }) ∧
  (∀ s : State, s.pending = [] → step s = .next s)

/-- Every command is carried out, in every state: no fault, no refusal, and the queue of waiting commands is as it was. -/
def Obligations.EveryCommandIsCarriedOut : Prop :=
  ∀ (i : Instr) (s : State), ∃ c, exec i s = .next { s with chip := c }

/-- The queue is served in order, one command a step, from every state; at its end the module idles. -/
def Obligations.WaitingCommandsDrain : Prop :=
  ∀ (n : Nat) (s : State), ∃ t : State, Sys2Proof.core.run n s = .next t ∧ t.pending = s.pending.drop n

/-- Right after reset the module has no power yet: it is INERT before step 1, no session is open, staging has no owner, the tick
and the epoch are 0, every Vat's memory reads 0 and is in canonical form, every configuration word holds its reset value, Rind
is off, no lane is up, and no command waits (R194, R199; the values that the spec does not give are the model's, log
entries 3 to 6). -/
def Obligations.ResetState : Prop :=
  State.reset.pending = [] ∧ State.reset.chip.sys.mode = .inert ∧ State.reset.chip.sys.step = 0 ∧
  State.reset.chip.sys.sessions = [] ∧ State.reset.chip.sys.owner = .none ∧ State.reset.chip.sys.staged = [] ∧
  State.reset.chip.core.tick = 0 ∧ State.reset.chip.rind.on = false ∧
  linkUp State.reset.chip = false ∧ epoch State.reset.chip = 0 ∧
  (∀ v a, memByte (plane State.reset.chip v).mem a = 0) ∧ (∀ v, (plane State.reset.chip v).mem.wf = true) ∧
  (∀ a, rawReg State.reset.chip a = regReset a)

/-- The module right after reset is settled (R61, R194). -/
def Obligations.ResetIsSettled : Prop := State.reset.chip.Settled

/-- Between any two commands nothing is put off, and a quiet window is open exactly where quiet windows are measured and no
chain computes (R61): every step from a settled module leaves it settled, whatever the command. -/
def Obligations.StepKeepsSettled : Prop :=
  ∀ s t : State, s.chip.Settled → step s = .next t → t.chip.Settled

/-- With nothing put off and no setup program running, what follows a command changes no more than the quiet window's
bookkeeping and the longest busy time that HXK_QSTAT shows (R61, R62). -/
def Obligations.SettlingFrame : Prop :=
  ∀ c : Chip, c.Calm →
    (∀ a, a ≠ Reg.hxkQstat.addr → rawReg (settle c) a = rawReg c a) ∧
    (settle c).sys = c.sys ∧ (settle c).vats = c.vats ∧ (settle c).tasks = c.tasks ∧ (settle c).culture = c.culture ∧
    (settle c).devq = c.devq ∧ (settle c).arbs = c.arbs ∧ (settle c).evc = c.evc ∧ (settle c).cel = c.cel ∧
    (settle c).ldl = c.ldl ∧ (settle c).eth = c.eth ∧ (settle c).ptp = c.ptp ∧ (settle c).mvb = c.mvb ∧
    (settle c).can = c.can ∧ (settle c).brg = c.brg ∧ (settle c).fio = c.fio ∧ (settle c).rind = c.rind ∧
    (settle c).upd = c.upd ∧ (settle c).tst = c.tst ∧ (settle c).pwr = c.pwr ∧ (settle c).free = c.free ∧
    (settle c).core.tick = c.core.tick ∧ (settle c).core.committed = c.core.committed ∧
    (settle c).core.recurdle = c.core.recurdle ∧ (settle c).core.pressFault = c.core.pressFault

/-- The configuration port judges a write in order: an unassigned address and a word that no write can change are counted and
answer UNMAPPED and READONLY; too little privilege answers PRIV, an expert field without EXPERT answers EXPERT, a mode that
locks the word MODE and staging of another owner OWNER, each with no effect (R6, R23, R106, R199, R213, R215). -/
def Obligations.PortJudgesInOrder : Prop :=
  ∀ (c : Chip) (w : Writer) (a : Nat) (x : Word),
    (a < 2 ^ 24 → regDef a = none → portWrite c w a x = (bump c Reg.sysCfgerr.addr 31 16, 1)) ∧
    (∀ r, a < 2 ^ 24 → regDef a = some r →
      (writable r a = false → portWrite c w a x = (bump c Reg.sysCfgerr.addr 15 0, 2)) ∧
      (writable r a = true →
        (privOf c w = some .read → portWrite c w a x = (c, 0x40)) ∧
        (privOf c w = some .operate → stMask r ≠ 0 ∨ operateActs r a = false → portWrite c w a x = (c, 0x40)) ∧
        (privOf c w ≠ some .read → (privOf c w = some .operate → stMask r = 0 ∧ operateActs r a = true) →
          (expertFor c w a = false → changesExpert r (stagedRead c r w a) x = true → portWrite c w a x = (c, 3)) ∧
          ((expertFor c w a = true ∨ changesExpert r (stagedRead c r w a) x = false) →
            (c.sys.mode = .inert → portWrite c w a x = (c, 6)) ∧
            (modeLocked c w r a (stMask r ≠ 0) (stagedRead c r w a) x = true → portWrite c w a x = (c, 6)) ∧
            (c.sys.mode ≠ .inert → modeLocked c w r a (stMask r ≠ 0) (stagedRead c r w a) x = false →
              (stMask r ≠ 0 → notOwner c w = true → portWrite c w a x = (c, 4)) ∧
              ((stMask r = 0 ∨ notOwner c w = false) → loopBusy c a = true → portWrite c w a x = (c, 7)))))))

/-! ### Hexelku instructions -/

/-- The frame of an instruction that completes within its own context (ALU, ALU64, the immediate forms, MOVI, SETQ, MFS, MTS,
CMP, CMPI, FOP32, FOP64, FCVT, FCMP, BR, SEL, DBNZ, HND, NOP, LD, LDX and CRC end so): the context that ran takes what the
instruction's own statement gives, and no other context, no byte of any Vat's memory, no queue, no configuration word, no
special or exception register of another context and no block of the module changes (R50, R61, R69 to R71, R77 to R86). -/
def Obligations.InstructionFrame : Prop :=
  ∀ (s : State) (e : Eng) (r : Nat) (x y : Ctx), s.chip.Settled → s.chip.sys.setupRun = false → running s.chip e = some (r, x) →
    mapWf Ctx.empty (plane s.chip e.vat).ctxs = true →
    let t := s.after (retire s.chip e r y)
    ctxOf (plane t.chip e.vat) e.num.val r = { y with seg := y.seg + 1, atBnd := false } ∧
    (∀ n k, ctxKey n k ≠ ctxKey e.num.val r → ctxOf (plane t.chip e.vat) n k = ctxOf (plane s.chip e.vat) n k) ∧
    (∀ v, v ≠ e.vat → plane t.chip v = plane s.chip v) ∧
    (∀ v a, memByte (plane t.chip v).mem a = memByte (plane s.chip v).mem a) ∧
    (∀ v, (plane t.chip v).queues = (plane s.chip v).queues ∧ (plane t.chip v).engines = (plane s.chip v).engines ∧
      (plane t.chip v).acts = (plane s.chip v).acts ∧ (plane t.chip v).state = (plane s.chip v).state) ∧
    (∀ a, rawReg t.chip a = rawReg s.chip a) ∧
    t.chip.sys = s.chip.sys ∧ t.chip.tasks = s.chip.tasks ∧ t.chip.devq = s.chip.devq ∧ t.chip.evc = s.chip.evc ∧
    t.chip.cel = s.chip.cel ∧ t.chip.ldl = s.chip.ldl ∧ t.chip.eth = s.chip.eth ∧ t.chip.ptp = s.chip.ptp ∧
    t.chip.mvb = s.chip.mvb ∧ t.chip.can = s.chip.can ∧ t.chip.brg = s.chip.brg ∧ t.chip.fio = s.chip.fio ∧
    t.chip.rind = s.chip.rind ∧ t.chip.upd = s.chip.upd ∧ t.chip.tst = s.chip.tst ∧ t.chip.pwr = s.chip.pwr ∧
    t.chip.core.tick = s.chip.core.tick ∧ t.pending = s.pending

/-- Memory: a store to instance space waits in the store buffer and changes no byte unless the buffer is full; draining the
oldest entry, or a block written by COPY, EVR, IN or POP, writes exactly its bytes at its address, and every byte outside
them reads as before; every such write keeps the memory's canonical form (R92, R93, R559). -/
def Obligations.MemoryWritesFrame : Prop :=
  ∀ (p : VatPlane) (n : Nat), p.mem.wf = true →
    (∀ a bs, (engOf p n).stbuf.length < 8 → (bufStore p n a bs).mem = p.mem) ∧
    (∀ a bs rest, mapWf Engine.idle p.engines = true → (engOf p n).stbuf = (a, bs) :: rest →
      (drainOne p n).mem.wf = true ∧ (engOf (drainOne p n) n).stbuf = rest ∧
      (∀ j b, bs[j]? = some b → memByte (drainOne p n).mem (a + j) = b) ∧
      (∀ j, j < a ∨ a + bs.length ≤ j → memByte (drainOne p n).mem j = memByte p.mem j)) ∧
    (∀ a (bs : List Byte), (pokeMem p a bs).mem.wf = true ∧
      (∀ j b, bs[j]? = some b → memByte (pokeMem p a bs).mem (a + j) = b) ∧
      (∀ j, j < a ∨ a + bs.length ≤ j → memByte (pokeMem p a bs).mem j = memByte p.mem j)) ∧
    (∀ (x : Ctx) (w : Window) off bs, w.scratch = false → (engOf p n).stbuf = [] →
      blockSpace p n x w off bs = (pokeMem p (w.base + off) bs, x)) ∧
    (∀ (x : Ctx) (w : Window) off bs, w.scratch = true →
      (storeSpace p n x w off bs).1 = p ∧ (blockSpace p n x w off bs).1 = p)

/-- The integer functions' results and flags (Table: Integer flag results): C is the carry out or the unsigned borrow, V the signed
overflow or the saturation; DIV, REM, NEG and ABS set V in the case of R79 alone, and every other function clears both. -/
def Obligations.IntegerFlags : Prop :=
  ∀ (a b : Word) (cin : Bool),
    (∃ o, alu32 0x00 a b cin = .ok o ∧ o.r = a + b ∧ o.c = decide (2 ^ 32 ≤ a.toNat + b.toNat) ∧ o.v = BitVec.saddOverflow a b) ∧
    (∃ o, alu32 0x02 a b cin = .ok o ∧ o.r = a - b ∧ o.c = BitVec.ult a b ∧ o.v = BitVec.ssubOverflow a b) ∧
    (∃ o, alu32 0x01 a b cin = .ok o ∧ o.r = a + b + BitVec.ofNat 32 (b2n cin) ∧
      o.c = decide (2 ^ 32 ≤ a.toNat + b.toNat + b2n cin)) ∧
    (∃ o, alu32 0x03 a b cin = .ok o ∧ o.r = a - b - BitVec.ofNat 32 (b2n cin) ∧ o.c = decide (a.toNat < b.toNat + b2n cin)) ∧
    (∃ o, alu32 0x1C a b cin = .ok o ∧ o.c = false ∧ o.v = BitVec.saddOverflow a b ∧
      (BitVec.saddOverflow a b = false → o.r = a + b) ∧
      (BitVec.saddOverflow a b = true → o.r = if a.msb then 0x80000000 else 0x7FFFFFFF)) ∧
    (∃ o, alu32 0x1D a b cin = .ok o ∧ o.c = false ∧ o.v = BitVec.ssubOverflow a b ∧
      (BitVec.ssubOverflow a b = false → o.r = a - b) ∧
      (BitVec.ssubOverflow a b = true → o.r = if a.msb then 0x80000000 else 0x7FFFFFFF)) ∧
    (b ≠ 0 → (∃ o, alu32 0x14 a b cin = .ok o ∧ o.r = a.sdiv b ∧ o.c = false ∧
        o.v = (decide (a = 0x80000000) && decide (b = 0xFFFFFFFF))) ∧
      (∃ o, alu32 0x16 a b cin = .ok o ∧ o.r = a.srem b ∧ o.c = false ∧
        o.v = (decide (a = 0x80000000) && decide (b = 0xFFFFFFFF))) ∧
      (∃ o, alu32 0x15 a b cin = .ok o ∧ o.r = a / b ∧ o.c = false ∧ o.v = false) ∧
      (∃ o, alu32 0x17 a b cin = .ok o ∧ o.r = a % b ∧ o.c = false ∧ o.v = false)) ∧
    (∃ o, alu32 0x22 a b cin = .ok o ∧ o.r = -a ∧ o.c = false ∧ o.v = decide (a = 0x80000000)) ∧
    (∃ o, alu32 0x23 a b cin = .ok o ∧ o.r = (if a.msb then -a else a) ∧ o.c = false ∧ o.v = decide (a = 0x80000000)) ∧
    (∀ f o, f ∉ [0x00, 0x01, 0x02, 0x03, 0x14, 0x16, 0x1C, 0x1D, 0x22, 0x23] → alu32 f a b cin = .ok o →
      o.c = false ∧ o.v = false)

/-- Exceptions: SEGLIMIT comes before everything else of every instruction that issues when 65,536 have completed since the last
boundary; a reserved major opcode in the buffer, and an encoding that R71 does not allow, raise ILLEGAL and a division by 0 DIVZERO; the exception has no effect but the
one of R116: the frame's handler takes it with XCODE and XPC and its handler cleared, or the caller is left to raise it again; a
chain whose cycle has been ended stops at that boundary (R50, R71, R79, R115, R116, R191). -/
def Obligations.ExceptionsTaken : Prop :=
  (∀ (s : State) (i : Instr) (e : Eng) (r : Nat) (x : Ctx), instrEng i = some e → running s.chip e = some (r, x) → 65536 ≤ x.seg →
    exec i s = .next (s.after (raiseExc s.chip e.vat e.num.val r .seglimit))) ∧
  (∀ (s : State) (i : Instr) (e : Eng) (r : Nat) (x : Ctx), instrEng i = some e → running s.chip e = some (r, x) → x.seg < 65536 →
    reservedAt s.chip e x.p = true → exec i s = .next (s.after (raiseExc s.chip e.vat e.num.val r .illegal))) ∧
  (∀ (s : State) (e : Eng) (w : Enc) (r : Nat) (x : Ctx), Ready s.chip e 4 false r x →
    (mbits w 5 0 ≠ 0 → exec (.alu e w) s = .next (s.after (raiseExc s.chip e.vat e.num.val r .illegal)) ∧
      exec (.alu64 e w) s = .next (s.after (raiseExc s.chip e.vat e.num.val r .illegal))) ∧
    (evenReg w.d = false → exec (.alu64 e w) s = .next (s.after (raiseExc s.chip e.vat e.num.val r .illegal))) ∧
    (mbits w 5 0 = 0 → rd x w.b = 0 → mbits w 12 6 = 0x14 ∨ mbits w 12 6 = 0x15 ∨ mbits w 12 6 = 0x16 ∨ mbits w 12 6 = 0x17 →
      exec (.alu e w) s = .next (s.after (raiseExc s.chip e.vat e.num.val r .divzero)))) ∧
  (∀ (c : Chip) (e : Eng) (r : Nat) (x : Ctx) (k : Xc) (f : Frame) (fs : List Frame), ctxOf (plane c e.vat) e.num.val r = x →
    x.frames = f :: fs →
    (∀ h, f.handler = some h → raiseExc c e.vat e.num.val r k = storeCtx c e r
      { x with s := { x.s with xcode := k.code, xpc := x.p }, p := h, seg := 0, exc := none, atBnd := false,
               frames := { f with handler := none } :: fs }) ∧
    (∀ g gs t, f.handler = none → fs = g :: gs → f.ret = some t →
      (x.stop = false → raiseExc c e.vat e.num.val r k = storeCtx c e r
        { x with i := f.i, k := f.k, p := t, frames := fs, bnd := x.bnd + 1, seg := 0, atBnd := true,
                 exc := some ⟨k.code, x.p, blockType (plane c e.vat) x.i, f.site⟩ }) ∧
      (x.stop = true → raiseExc c e.vat e.num.val r k = endAtBoundary c e r x)))

/-- ALU and ALU64 complete: the result goes to gd (a pair for ALU64), F = 1 sets the flags, nothing else of the context changes
but p (R77 to R79). -/
def Obligations.AluInstructionsComplete : Prop :=
  ∀ (s : State) (e : Eng) (w : Enc) (r : Nat) (x : Ctx), Ready s.chip e 4 false r x →
    (∀ o, mbits w 5 0 = 0 → (aluUnary (mbits w 12 6) = true → w.b = 0) →
      alu32 (mbits w 12 6) (rd x w.a) (rd x w.b) x.s.c = .ok o →
      exec (.alu e w) s = .next (s.after (retire s.chip e r
        (adv (wr (if w.minor.getLsbD 13 then { x with s := setZncv x.s o } else x) w.d o.r) 4)))) ∧
    (∀ o, mbits w 5 0 = 0 → (aluUnary (mbits w 12 6) = true → w.b = 0) → evenReg w.d = true → evenReg w.a = true →
      (aluShift (mbits w 12 6) = false → evenReg w.b = true) →
      aluBoth (mbits w 12 6) (rdPair x w.a) (rdPair x w.b) ((rd x w.b).toNat % 64) x.s.c = some o →
      exec (.alu64 e w) s = .next (s.after (retire s.chip e r
        (adv (wrPair (if w.minor.getLsbD 13 then { x with s := setZncv x.s o } else x) w.d o.r) 4))))

/-- R80: ADDI sign-extends MINOR, ANDI, ORI and XORI zero-extend it, SHI takes its kind and amount from it, MOVI and SETQ take the
extension word with MINOR and the unused fields at 0; a field that must be 0 and is not raises ILLEGAL; none changes a flag
(the context's flags are those of `x`). -/
def Obligations.ImmediateFormsFollowR80 : Prop :=
  ∀ (s : State) (e : Eng) (w : Enc) (y : Word) (r : Nat) (x : Ctx),
    let illegal : State := s.after (raiseExc s.chip e.vat e.num.val r .illegal)
    (Ready s.chip e 4 false r x →
      (w.b = 0 →
        exec (.addi e w) s = .next (s.after (retire s.chip e r (adv (wr x w.d (rd x w.a + w.minor.signExtend 32)) 4))) ∧
        exec (.andi e w) s = .next (s.after (retire s.chip e r (adv (wr x w.d (rd x w.a &&& w.minor.zeroExtend 32)) 4))) ∧
        exec (.ori e w) s = .next (s.after (retire s.chip e r (adv (wr x w.d (rd x w.a ||| w.minor.zeroExtend 32)) 4))) ∧
        exec (.xori e w) s = .next (s.after (retire s.chip e r (adv (wr x w.d (rd x w.a ^^^ w.minor.zeroExtend 32)) 4)))) ∧
      (w.b ≠ 0 → exec (.addi e w) s = .next illegal ∧ exec (.andi e w) s = .next illegal ∧ exec (.ori e w) s = .next illegal ∧
        exec (.xori e w) s = .next illegal) ∧
      (w.b = 0 → mbits w 11 5 = 0 →
        (mbits w 13 12 = 0 → exec (.shi e w) s = .next (s.after (retire s.chip e r (adv (wr x w.d (rd x w.a <<< mbits w 4 0)) 4)))) ∧
        (mbits w 13 12 = 1 → exec (.shi e w) s = .next (s.after (retire s.chip e r (adv (wr x w.d (rd x w.a >>> mbits w 4 0)) 4)))) ∧
        (mbits w 13 12 = 2 → exec (.shi e w) s = .next (s.after (retire s.chip e r
          (adv (wr x w.d ((rd x w.a).sshiftRight (mbits w 4 0))) 4)))) ∧
        (mbits w 13 12 = 3 → exec (.shi e w) s = .next (s.after (retire s.chip e r
          (adv (wr x w.d ((rd x w.a).rotateRight (mbits w 4 0))) 4))))) ∧
      (w.b ≠ 0 ∨ mbits w 11 5 ≠ 0 → exec (.shi e w) s = .next illegal)) ∧
    (Ready s.chip e 8 false r x →
      (w.minor = 0 → w.a = 0 → w.b = 0 →
        exec (.movi e w y) s = .next (s.after (retire s.chip e r (adv (wr x w.d y) 8)))) ∧
      (w.minor = 0 → w.d = 0 → w.a = 0 → w.b = 0 → bits y 31 15 = 0 →
        exec (.setq e w y) s = .next (s.after (retire s.chip e r (adv { x with q := y.truncate 15 } 8)))) ∧
      (w.minor ≠ 0 ∨ w.a ≠ 0 ∨ w.b ≠ 0 → exec (.movi e w y) s = .next illegal ∧ exec (.setq e w y) s = .next illegal) ∧
      (w.d ≠ 0 ∨ bits y 31 15 ≠ 0 → exec (.setq e w y) s = .next illegal))

/-- MFS and MTS move a special register: MFS reads each of them, MTS writes q and s and raises ILLEGAL for a register that
is read-only (R74). -/
def Obligations.SpecialRegistersComplete : Prop :=
  ∀ (s : State) (e : Eng) (w : Enc) (r : Nat) (x : Ctx), Ready s.chip e 4 false r x → mbits w 9 4 = 0 → w.b = 0 →
    (mbits w 13 10 = 0 → mbits w 3 0 ≤ 8 → w.a = 0 →
      exec (.mfs e w) s = .next (s.after (retire s.chip e r (adv (wr x w.d (sprRead e.num.val r x (mbits w 3 0))) 4)))) ∧
    (mbits w 13 10 = 1 → w.d = 0 →
      (mbits w 3 0 = 2 →
        exec (.mts e w) s = .next (s.after (retire s.chip e r (adv { x with q := (rd x w.a).truncate 15 } 4)))) ∧
      (mbits w 3 0 = 4 →
        exec (.mts e w) s = .next (s.after (retire s.chip e r (adv { x with s := x.s.write (rd x w.a) } 4)))) ∧
      (mbits w 3 0 ≠ 2 → mbits w 3 0 ≠ 4 →
        exec (.mts e w) s = .next (s.after (raiseExc s.chip e.vat e.num.val r .illegal))))

/-- R81: CMP and CMPI set Z, N, C and V as SUB would and write no register (the context's registers are those of `x`); W = 1
compares pairs, and a field that must be 0 and is not, or an odd pair, raises ILLEGAL; CMPI compares with MINOR sign-extended. -/
def Obligations.CompareFollowsR81 : Prop :=
  ∀ (s : State) (e : Eng) (w : Enc) (r : Nat) (x : Ctx), Ready s.chip e 4 false r x →
    let illegal : State := s.after (raiseExc s.chip e.vat e.num.val r .illegal)
    let flags {n : Nat} (a b : BitVec n) : SReg :=
      { x.s with z := decide (a - b = 0), n := (a - b).msb, c := BitVec.ult a b, v := BitVec.ssubOverflow a b }
    (w.d = 0 → mbits w 12 0 = 0 → w.minor.getLsbD 13 = false →
      exec (.cmp e w) s = .next (s.after (retire s.chip e r (adv { x with s := flags (rd x w.a) (rd x w.b) } 4)))) ∧
    (w.d = 0 → mbits w 12 0 = 0 → w.minor.getLsbD 13 = true → evenReg w.a = true → evenReg w.b = true →
      exec (.cmp e w) s = .next (s.after (retire s.chip e r (adv { x with s := flags (rdPair x w.a) (rdPair x w.b) } 4)))) ∧
    (w.d ≠ 0 ∨ mbits w 12 0 ≠ 0 → exec (.cmp e w) s = .next illegal) ∧
    (w.minor.getLsbD 13 = true → evenReg w.a = false ∨ evenReg w.b = false → exec (.cmp e w) s = .next illegal) ∧
    (w.d = 0 → w.b = 0 →
      exec (.cmpi e w) s = .next (s.after (retire s.chip e r (adv { x with s := flags (rd x w.a) (w.minor.signExtend 32) } 4)))) ∧
    (w.d ≠ 0 ∨ w.b ≠ 0 → exec (.cmpi e w) s = .next illegal)

/-- R86: BR branches by MINOR words where the condition in D holds, DBNZ counts gd down and branches where it is not 0, SEL selects
on the condition in MINOR [13:10]; a target outside 0 to 7FFC hexadecimal raises ILLEGAL whether or not the condition
holds, as do fields that must be 0; none changes a flag (the context's flags are those of `x`). -/
def Obligations.BranchesFollowR86 : Prop :=
  ∀ (s : State) (e : Eng) (w : Enc) (r : Nat) (x : Ctx),
    let illegal : State := s.after (raiseExc s.chip e.vat e.num.val r .illegal)
    let target : Int := x.p + 4 * w.minor.toInt
    (∀ t : Nat, (t : Int) = target → t ≤ 0x7FFC → w.a = 0 → w.b = 0 →
      (Ready s.chip e 4 (w.d = 0xF) r x → exec (.br e w) s =
        .next (s.after (retire s.chip e r (if Machine.cond w.d.toNat x.s then { x with p := t } else adv x 4)))) ∧
      (Ready s.chip e 4 false r x → exec (.dbnz e w) s = .next (s.after (retire s.chip e r
        (if rd x w.d - 1 = 0 then adv (wr x w.d 0) 4 else { wr x w.d (rd x w.d - 1) with p := t }))))) ∧
    (target < 0 ∨ 0x7FFC < target ∨ w.a ≠ 0 ∨ w.b ≠ 0 →
      (Ready s.chip e 4 (w.d = 0xF) r x → exec (.br e w) s = .next illegal) ∧
      (Ready s.chip e 4 false r x → exec (.dbnz e w) s = .next illegal)) ∧
    (Ready s.chip e 4 false r x →
      (mbits w 9 0 = 0 → exec (.sel e w) s = .next (s.after (retire s.chip e r
        (adv (wr x w.d (if Machine.cond (mbits w 13 10) x.s then rd x w.a else rd x w.b)) 4)))) ∧
      (mbits w 9 0 ≠ 0 → exec (.sel e w) s = .next illegal))

/-- HND stores the frame's handler, NOP only advances p, RET goes back to the caller's successor at a call boundary or lets the
dispatcher call the next block, or ends the chain after the last one, HALT ends the chain, with the end of the setup program
noted; CALL and CALLR go to a marked base of the engine and task with fewer
than 16 frames in use, and stalls while that instance's bank is frozen; a chain whose cycle has been ended stops at the call boundary that RET or CALL reaches; an exception
that waits in the context is raised again and reaches the frame's handler (R88, R89, R116, R184, R191). -/
def Obligations.CallsAndControlComplete : Prop :=
  ∀ (s : State) (e : Eng) (w : Enc) (r : Nat) (x : Ctx),
    (w.d = 0 → w.a = 0 → w.b = 0 →
      (∀ f fs, Ready s.chip e 4 false r x → mbits w 13 12 = 1 → x.p + 4 * mbits w 11 0 ≤ 0x7FFC → x.frames = f :: fs →
        exec (.hnd e w) s = .next (s.after (retire s.chip e r (adv { x with
          frames := { f with handler := if mbits w 11 0 = 0 then none else some (x.p + 4 * mbits w 11 0) } :: fs } 4)))) ∧
      (Ready s.chip e 4 false r x → w.minor = 0x2000 →
        exec (.nop e w) s = .next (s.after (retire s.chip e r (adv x 4)))) ∧
      (∀ f g fs t, Ready s.chip e 4 true r x → w.minor = 0 → x.frames = f :: g :: fs → f.ret = some t →
        exec (.ret e w) s = .next (s.after (if x.stop then endAtBoundary s.chip e r x else retireAtBoundary s.chip e r
          { x with i := f.i, k := f.k, p := t, frames := g :: fs }))) ∧
      (∀ f n ns, Ready s.chip e 4 true r x → w.minor = 0 → x.frames = [f] → x.calls = n :: ns →
        exec (.ret e w) s = .next (s.after (if x.stop then endAtBoundary s.chip e r x else retireAtBoundary s.chip e r
          (dispatcherCall s.chip.culture (plane s.chip e.vat) e.num.val
            { x with i := f.i, k := f.k, frames := [], calls := ns } n)))) ∧
      (∀ f, Ready s.chip e 4 true r x → w.minor = 0 → x.frames = [f] → x.calls = [] →
        exec (.ret e w) s = .next (s.after (endAtBoundary (noteSetupEnd s.chip e.vat x) e r x))) ∧
      (Ready s.chip e 4 true r x → w.minor = 0x3000 →
        exec (.halt e w) s = .next (s.after (endChain (noteSetupEnd s.chip e.vat x) e.vat e.num.val r)))) ∧
    (∀ (y : Word) (base len : Nat), Ready s.chip e len false r x → w.d = 0 → w.b = 0 → w.minor.getLsbD 13 = false →
      base % 8 = 0 → (plane s.chip e.vat).marks.contains base = true → x.frames.length < 16 →
      bits (memWord (plane s.chip e.vat) (base + 4)) 19 14 = e.num.val →
      b2n (bit (memWord (plane s.chip e.vat) base) 30) * 512 + b2n (bit (memWord (plane s.chip e.vat) base) 29) * 256 +
        bits (memWord (plane s.chip e.vat) base) 28 21 = x.task.code →
      let t := s.after (if bankFrozen s.chip e.vat base 8 then s.chip else if x.stop then endAtBoundary s.chip e r x
        else retireAtBoundary s.chip e r
        { x with frames := ⟨some (x.p + len), x.p, x.i, x.k, none⟩ :: x.frames,
                 i := base, k := 8 * bits (memWord (plane s.chip e.vat) base) 20 0, p := 4 * mbits w 12 0 })
      (len = 8 → w.a = 0 → y.toNat = base → bits y 31 24 = 0 →
        exec (.call e w y) s = .next t) ∧
      (len = 4 → (rd x w.a).toNat = base →
        exec (.callr e w) s = .next t)) ∧
    (∀ (ex : Exc) (f : Frame) (fs : List Frame) (h : Nat),
      (engOf (plane s.chip e.vat) e.num.val).cur = some r → ctxOf (plane s.chip e.vat) e.num.val r = x →
      (plane s.chip e.vat).state = .serving → x.on = true → x.exc = some ex →
      stoppedAt (engOf (plane s.chip e.vat) e.num.val) x = false → x.frames = f :: fs → f.handler = some h →
      exec (.exceptionReraise e) s = .next (s.after (storeCtx s.chip e r
        { x with s := { x.s with xcode := ex.code, xpc := ex.site }, p := h, seg := 0, exc := none, atBnd := false,
                 frames := { f with handler := none } :: fs })))

/-- FOP32, FOP64, FCVT and FCMP complete with the result that IEEE 754 gives on the operands' codes; FCVT sets V, FCMP sets
Z and V and clears N and C (R82 to R85). -/
def Obligations.FloatingPointComplete : Prop :=
  ∀ (s : State) (e : Eng) (w : Enc) (r : Nat) (x : Ctx), Ready s.chip e 4 false r x →
    (∀ v, mbits w 13 13 = 0 → mbits w 5 0 = 0 → (fopUnary (mbits w 12 6) = true → w.b = 0) →
      fopFn b32 (mbits w 12 6) (rd x w.a).toNat (rd x w.b).toNat (rd x w.d).toNat = some v →
      exec (.fop32 e w) s = .next (s.after (retire s.chip e r (adv (wr x w.d (BitVec.ofNat 32 v)) 4)))) ∧
    (∀ v, mbits w 13 13 = 0 → mbits w 5 0 = 0 → (fopUnary (mbits w 12 6) = true → w.b = 0) →
      evenReg w.d = true → evenReg w.a = true → evenReg w.b = true →
      fopFn b64 (mbits w 12 6) (rdPair x w.a).toNat (rdPair x w.b).toNat (rdPair x w.d).toNat = some v →
      exec (.fop64 e w) s = .next (s.after (retire s.chip e r (adv (wrPair x w.d (BitVec.ofNat 64 v)) 4)))) ∧
    (∀ a v, mbits w 7 0 = 0 → w.b = 0 → mbits w 13 10 ≤ 11 → (cvtToInt (mbits w 13 10) = false → mbits w 9 8 = 0) →
      (cvtWideSrc (mbits w 13 10) = true → evenReg w.a = true) →
      a = (if cvtWideSrc (mbits w 13 10) then (rdPair x w.a).toNat else (rd x w.a).toNat) →
      cvtFn (mbits w 13 10) (mbits w 9 8) a = v →
      (cvtWideDst (mbits w 13 10) = false → exec (.fcvt e w) s = .next (s.after (retire s.chip e r
        (adv (wr { x with s := { x.s with v := v.2 } } w.d (BitVec.ofNat 32 v.1)) 4)))) ∧
      (cvtWideDst (mbits w 13 10) = true → evenReg w.d = true → exec (.fcvt e w) s = .next (s.after (retire s.chip e r
        (adv (wrPair { x with s := { x.s with v := v.2 } } w.d (BitVec.ofNat 64 v.1)) 4))))) ∧
    (∀ z, mbits w 9 0 = 0 → w.d = 0 →
      (w.minor.getLsbD 13 = false → fcmpPred b32 (mbits w 12 10) (rd x w.a).toNat (rd x w.b).toNat = some z →
        exec (.fcmp e w) s = .next (s.after (retire s.chip e r (adv { x with s := { x.s with
          z := z, n := false, c := false,
          v := decide (b32.decode (rd x w.a).toNat = .nan) || decide (b32.decode (rd x w.b).toNat = .nan) } } 4)))) ∧
      (w.minor.getLsbD 13 = true → evenReg w.a = true → evenReg w.b = true →
        fcmpPred b64 (mbits w 12 10) (rdPair x w.a).toNat (rdPair x w.b).toNat = some z →
        exec (.fcmp e w) s = .next (s.after (retire s.chip e r (adv { x with s := { x.s with
          z := z, n := false, c := false,
          v := decide (b64.decode (rdPair x w.a).toNat = .nan) || decide (b64.decode (rdPair x w.b).toNat = .nan) } } 4)))))

/-- Where an encoding or a place raises ILLEGAL. By R70: a one-word instruction at 7FFC hexadecimal that goes on in sequence,
and one with an extension word at 7FF8 or beyond. By R71, in every instruction that the statements on R80, R81, R86 and on
exceptions taken do not treat: a nonzero unused field or RSVD bit, an unassigned function, conversion, selector or item, an odd
register for a pair, space 3, and what R91, R94, R105, R106, R111, R114 and R115 add for single instructions. -/
def Obligations.EncodingsTrap : Prop :=
  ∀ (s : State) (e : Eng) (w : Enc) (y : Word) (r : Nat) (x : Ctx),
    let ill (i : Instr) : Prop := exec i s = .next (s.after (raiseExc s.chip e.vat e.num.val r .illegal))
    (running s.chip e = some (r, x) → x.seg < 65536 → 0x7FFC < x.p + 4 →
      ill (.alu e w) ∧ ill (.alu64 e w) ∧ ill (.addi e w) ∧ ill (.andi e w) ∧ ill (.ori e w) ∧ ill (.xori e w) ∧ ill (.shi e w) ∧
      ill (.mfs e w) ∧ ill (.mts e w) ∧ ill (.fop32 e w) ∧ ill (.fop64 e w) ∧ ill (.fcvt e w) ∧ ill (.fcmp e w) ∧ ill (.cmp e w) ∧
      ill (.cmpi e w) ∧ (w.d ≠ 0xF → ill (.br e w)) ∧ ill (.sel e w) ∧ ill (.dbnz e w) ∧ ill (.callr e w) ∧
      (mbits w 13 12 = 1 → ill (.hnd e w)) ∧ (mbits w 13 12 = 2 → ill (.nop e w)) ∧ ill (.ld e w) ∧ ill (.st e w) ∧ ill (.copy e w) ∧
      ill (.push e w) ∧ ill (.pop e w) ∧ ill (.peek e w) ∧ ill (.credit e w) ∧ ill (.evr e w) ∧ ill (.time e w) ∧ ill (.waitt e w) ∧
      ill (.raise e w) ∧ ill (.commit e w) ∧ ill (.abort e w) ∧ ill (.log e w) ∧ ill (.hset e w) ∧ ill (.hget e w) ∧ ill (.noise e w) ∧
      ill (.crc e w) ∧ ill (.fence e w)) ∧
    (running s.chip e = some (r, x) → x.seg < 65536 → 0x7FFC < x.p + 8 →
      ill (.movi e w y) ∧ ill (.setq e w y) ∧ ill (.call e w y) ∧ ill (.ldx e w y) ∧ ill (.stx e w y) ∧ ill (.inPoint e w y) ∧
      ill (.outPoint e w y) ∧ ill (.cfgSet e w y) ∧ ill (.cfgGet e w y)) ∧
    (Ready s.chip e 4 false r x →
      (32 ≤ mbits w 12 6 → w.b ≠ 0 → ill (.alu e w) ∧ ill (.alu64 e w)) ∧
      (mbits w 5 0 = 0 → (32 ≤ mbits w 12 6 → w.b = 0) → alu32 (mbits w 12 6) (rd x w.a) (rd x w.b) x.s.c = .illegal → ill (.alu e w)) ∧
      (evenReg w.a = false → ill (.alu64 e w)) ∧ (aluShift (mbits w 12 6) = false → evenReg w.b = false → ill (.alu64 e w)) ∧
      (mbits w 12 6 = 0x11 ∨ mbits w 12 6 = 0x14 ∨ mbits w 12 6 = 0x23 ∨ 0x29 ≤ mbits w 12 6 → ill (.alu64 e w)) ∧
      (mbits w 9 4 ≠ 0 ∨ w.b ≠ 0 ∨ 1 < mbits w 13 10 → ill (.mfs e w) ∧ ill (.mts e w)) ∧
      (mbits w 13 10 = 0 → w.a ≠ 0 ∨ 8 < mbits w 3 0 → ill (.mfs e w)) ∧
      (mbits w 13 10 = 1 → w.d ≠ 0 ∨ mbits w 3 0 ≠ 2 ∧ mbits w 3 0 ≠ 4 → ill (.mts e w)) ∧
      (mbits w 13 13 ≠ 0 ∨ mbits w 5 0 ≠ 0 ∨ fopUnary (mbits w 12 6) = true ∧ w.b ≠ 0 ∨ 10 < mbits w 12 6 →
        ill (.fop32 e w) ∧ ill (.fop64 e w)) ∧
      (evenReg w.d = false ∨ evenReg w.a = false ∨ evenReg w.b = false → ill (.fop64 e w)) ∧
      (mbits w 7 0 ≠ 0 ∨ w.b ≠ 0 ∨ 11 < mbits w 13 10 ∨ cvtToInt (mbits w 13 10) = false ∧ mbits w 9 8 ≠ 0 ∨
        cvtWideSrc (mbits w 13 10) = true ∧ evenReg w.a = false ∨ cvtWideDst (mbits w 13 10) = true ∧ evenReg w.d = false →
        ill (.fcvt e w)) ∧
      (mbits w 9 0 ≠ 0 ∨ w.d ≠ 0 ∨ 3 < mbits w 12 10 ∨ w.minor.getLsbD 13 = true ∧ (evenReg w.a = false ∨ evenReg w.b = false) →
        ill (.fcmp e w)) ∧
      (w.minor.getLsbD 13 = true ∨ w.d ≠ 0 ∨ w.b ≠ 0 → ill (.callr e w)) ∧
      (lsIllegal w false = true → ill (.ld e w)) ∧ (lsIllegal w true = true → ill (.st e w)) ∧
      (mbits w 9 0 ≠ 0 ∨ mbits w 13 12 = 3 ∨ mbits w 11 10 = 3 ∨ 4096 < (rd x w.b).toNat → ill (.copy e w)) ∧
      (mbits w 8 0 ≠ 0 ∨ w.minor.getLsbD 13 = true ∧ (w.b ≠ 0 ∨ mbits w 12 11 ≠ 0) ∨
        w.minor.getLsbD 13 = false ∧ (mbits w 12 11 = 3 ∨ 4096 < (rd x w.b).toNat) → ill (.crc e w)) ∧
      (qIllegal .push w (x.task = .setup) = true → ill (.push e w)) ∧ (qIllegal .pop w (x.task = .setup) = true → ill (.pop e w)) ∧
      (qIllegal .peek w (x.task = .setup) = true → ill (.peek e w)) ∧
      (w.minor ≠ 0 ∨ w.d ≠ 0 ∨ w.b ≠ 0 → ill (.credit e w)) ∧ (w.minor ≠ 0 ∨ w.d ≠ 0 ∨ w.a ≠ 0 ∨ w.b ≠ 0 → ill (.fence e w)) ∧
      (mbits w 11 0 ≠ 0 ∨ w.d ≠ 0 ∨ w.b ≠ 0 ∨ mbits w 13 12 = 3 → ill (.evr e w)) ∧
      (mbits w 11 0 ≠ 0 ∨ w.a ≠ 0 ∨ w.b ≠ 0 ∨ evenReg w.d = false → ill (.time e w)) ∧
      (w.minor ≠ 0 ∨ w.d ≠ 0 ∨ w.b ≠ 0 ∨ evenReg w.a = false → ill (.waitt e w)) ∧
      (mbits w 13 6 ≠ 0 ∨ w.d ≠ 0 ∨ w.a ≠ 0 ∨ w.b ≠ 0 → ill (.raise e w)) ∧
      (w.minor ≠ 0 ∨ w.a ≠ 0 ∨ w.b ≠ 0 → ill (.commit e w) ∧ ill (.abort e w) ∧ ill (.noise e w)) ∧
      (evenReg w.d = false → ill (.commit e w) ∧ ill (.noise e w)) ∧
      (mbits w 11 0 ≠ 0 ∨ w.d ≠ 0 ∨ mbits w 13 12 = 3 → ill (.log e w)) ∧
      (mbits w 11 4 ≠ 0 ∨ w.b ≠ 0 ∨ 2 ≤ mbits w 13 12 → ill (.hset e w) ∧ ill (.hget e w)) ∧
      (mbits w 13 12 = 0 → w.d ≠ 0 ∨ mbits w 3 0 ≠ 0 → ill (.hset e w)) ∧
      (mbits w 13 12 = 1 → w.a ≠ 0 ∨ 5 ≤ mbits w 3 0 → ill (.hget e w))) ∧
    (Ready s.chip e 4 true r x → w.d ≠ 0 ∨ w.a ≠ 0 ∨ w.b ≠ 0 ∨ mbits w 11 0 ≠ 0 →
      (mbits w 13 12 = 0 → ill (.ret e w)) ∧ (mbits w 13 12 = 3 → ill (.halt e w))) ∧
    (Ready s.chip e 4 false r x → mbits w 13 12 = 2 → w.d ≠ 0 ∨ w.a ≠ 0 ∨ w.b ≠ 0 ∨ mbits w 11 0 ≠ 0 → ill (.nop e w)) ∧
    (Ready s.chip e 4 false r x → mbits w 13 12 = 1 → w.d ≠ 0 ∨ w.a ≠ 0 ∨ w.b ≠ 0 ∨ 0x7FFC < x.p + 4 * mbits w 11 0 → ill (.hnd e w)) ∧
    (Ready s.chip e 8 false r x →
      (w.d ≠ 0 ∨ w.a ≠ 0 ∨ w.b ≠ 0 ∨ bits y 31 24 ≠ 0 ∨ w.minor.getLsbD 13 = true → ill (.call e w y)) ∧
      (mbits w 7 0 ≠ 0 ∨ bits y 31 24 ≠ 0 ∨ lsIllegal w false = true → ill (.ldx e w y)) ∧
      (mbits w 7 0 ≠ 0 ∨ bits y 31 24 ≠ 0 ∨ lsIllegal w true = true → ill (.stx e w y)) ∧
      (imgIllegal w y false = true → ill (.inPoint e w y)) ∧ (imgIllegal w y true = true → ill (.outPoint e w y)) ∧
      (mbits w 12 0 ≠ 0 ∨ w.minor.getLsbD 13 = false ∧ w.b ≠ 0 ∨ bits y 31 24 ≠ 0 → ill (.cfgSet e w y)) ∧
      (mbits w 11 0 ≠ 0 ∨ w.minor.getLsbD 13 = false ∧ w.b ≠ 0 ∨ w.a ≠ 0 ∨ bits y 31 24 ≠ 0 ∨ evenReg w.d = false →
        ill (.cfgGet e w y)))

/-- Where an instruction whose encoding is admitted raises its other exceptions, in the order of R115: ALIGN before PROTECT of LD, LDX,
ST and STX; PROTECT of COPY and CRC, of EVR before IMAGE outside an event task, and of LOG; QUEUE, or PROTECT of the memory form before it,
of PUSH, POP, PEEK and CREDIT; ALIGN, PROTECT and IMAGE of IN and OUT; TIME of TIME in the setup program and of WAITT at or after the press
close; IMAGE of RAISE in the setup program; PROTECT of CALL and CALLR at a base with no header mark, CALLDEPTH with 16 frames, and OWNER of
another engine's or task's instance (R88, R90, R91, R93 to R95, R101 to R105, R110, R114, R115). -/
def Obligations.AccessesTrap : Prop :=
  ∀ (s : State) (e : Eng) (w : Enc) (y : Word) (r : Nat) (x : Ctx),
    let traps (i : Instr) (k : Xc) : Prop := exec i s = .next (s.after (raiseExc s.chip e.vat e.num.val r k))
    (∀ (len off n : Nat) (ext : Option Word) (store : Bool) (win : Window), Ready s.chip e len false r x →
      n = 2 ^ mbits w 13 12 → off = lsOffset w x ext → lsIllegal w store = false →
      (len = 4 ∧ ext = none ∨ len = 8 ∧ ext = some y ∧ mbits w 7 0 = 0 ∧ bits y 31 24 = 0) →
      window s.chip.culture (plane s.chip e.vat) e.num.val r x (mbits w 10 9) store = some win →
      ∀ k, ((win.base + off) % n ≠ 0 ∧ k = .align ∨ (win.base + off) % n = 0 ∧ (2 ^ 32 ≤ off ∨ win.holds off n = false) ∧ k = .protect) →
        (len = 4 → store = false → traps (.ld e w) k) ∧ (len = 4 → store = true → traps (.st e w) k) ∧
        (len = 8 → store = false → traps (.ldx e w y) k) ∧ (len = 8 → store = true → traps (.stx e w y) k)) ∧
    (Ready s.chip e 4 false r x →
      (mbits w 9 0 = 0 → mbits w 13 12 ≠ 3 → mbits w 11 10 ≠ 3 → (rd x w.b).toNat ≤ 4096 →
        range? s.chip.culture (plane s.chip e.vat) e.num.val r x (mbits w 13 12) (rd x w.a).toNat (rd x w.b).toNat false = none ∨
        range? s.chip.culture (plane s.chip e.vat) e.num.val r x (mbits w 11 10) (rd x w.d).toNat (rd x w.b).toNat true = none →
        traps (.copy e w) .protect) ∧
      (mbits w 8 0 = 0 → w.minor.getLsbD 13 = false → mbits w 12 11 ≠ 3 → (rd x w.b).toNat ≤ 4096 →
        range? s.chip.culture (plane s.chip e.vat) e.num.val r x (mbits w 12 11) (rd x w.a).toNat (rd x w.b).toNat false = none →
        traps (.crc e w) .protect) ∧
      (mbits w 11 0 = 0 → w.d = 0 → w.b = 0 → mbits w 13 12 ≠ 3 →
        (range? s.chip.culture (plane s.chip e.vat) e.num.val r x (mbits w 13 12) (rd x w.a).toNat 16 true = none →
          traps (.evr e w) .protect) ∧
        (∀ win, range? s.chip.culture (plane s.chip e.vat) e.num.val r x (mbits w 13 12) (rd x w.a).toNat 16 true = some win →
          x.task.ev = false → traps (.evr e w) .image)) ∧
      (mbits w 11 0 = 0 → w.d = 0 → mbits w 13 12 ≠ 3 →
        range? s.chip.culture (plane s.chip e.vat) e.num.val r x (mbits w 13 12) (rd x w.b).toNat 16 false = none →
        traps (.log e w) .protect) ∧
      (∀ op k, qIllegal op w (x.task = .setup) = false → qCheck s.chip e r x op w = some k →
        (op = .push → traps (.push e w) k) ∧ (op = .pop → traps (.pop e w) k) ∧ (op = .peek → traps (.peek e w) k)) ∧
      (∀ d, d = descOf (plane s.chip e.vat) x.q.toNat → w.minor = 0 → w.d = 0 → w.b = 0 →
        d.ok = false ∨ d.culture = false ∨ d.cend ≠ ctxEndOf x e.num.val ∨
          (queueOf (plane s.chip e.vat) x.q.toNat).deferred < (rd x w.a).toNat →
        traps (.credit e w) .queue) ∧
      (mbits w 11 0 = 0 → w.a = 0 → w.b = 0 → evenReg w.d = true → x.task = .setup → traps (.time e w) .time) ∧
      (w.minor = 0 → w.d = 0 → w.b = 0 → evenReg w.a = true → x.task ≠ .setup →
        (ctxAct (plane s.chip e.vat) x).curdTime < (rdPair x w.a).toNat →
        (ctxAct (plane s.chip e.vat) x).pressTime ≤ (rdPair x w.a).toNat → traps (.waitt e w) .time) ∧
      (mbits w 13 6 = 0 → w.d = 0 → w.a = 0 → w.b = 0 → x.task = .setup → traps (.raise e w) .image)) ∧
    (Ready s.chip e 8 false r x → ∀ k,
      (imgIllegal w y false = false → imgCheck s.chip e r x w y false = some k → traps (.inPoint e w y) k) ∧
      (imgIllegal w y true = false → imgCheck s.chip e r x w y true = some k → traps (.outPoint e w y) k)) ∧
    (∀ base len k h0 h1, Ready s.chip e len false r x → w.minor.getLsbD 13 = false → h0 = memWord (plane s.chip e.vat) base →
      h1 = memWord (plane s.chip e.vat) (base + 4) →
      (len = 8 ∧ w.d = 0 ∧ w.a = 0 ∧ w.b = 0 ∧ bits y 31 24 = 0 ∧ base = bits y 23 0 ∨
        len = 4 ∧ w.d = 0 ∧ w.b = 0 ∧ base = (rd x w.a).toNat) →
      ((base % 8 ≠ 0 ∨ (plane s.chip e.vat).marks.contains base = false) ∧ k = .protect ∨
        base % 8 = 0 ∧ (plane s.chip e.vat).marks.contains base = true ∧ bankFrozen s.chip e.vat base 8 = false ∧
          (16 ≤ x.frames.length ∧ k = .calldepth ∨
            x.frames.length < 16 ∧ k = .owner ∧ (bits h1 19 14 ≠ e.num.val ∨
              b2n (bit h0 30) * 512 + b2n (bit h0 29) * 256 + bits h0 28 21 ≠ x.task.code))) →
      (len = 8 → traps (.call e w y) k) ∧ (len = 4 → traps (.callr e w) k))

/-- LD, LDX, ST and STX complete where R90 and R91 allow the access: a load takes the bytes of the space, little-endian and
extended, a store goes to the space through the store buffer; where the bank it needs is frozen the engine stalls (R90 to R92,
R184, R559).
COPY moves a checked range to a checked range, and an empty one nothing; CRC puts the CRC-32C state of the bytes of a
range or of ga in gd; STORE_BUFFER_DRAIN writes the oldest buffered store of a SERVING Vat's engine; each stalls while a bank that
it needs is frozen (R93, R114, R184, R559). -/
def Obligations.MemoryInstructionsComplete : Prop :=
  (∀ (s : State) (e : Eng) (w : Enc) (y : Word) (r : Nat) (x : Ctx) (len off n : Nat) (win : Window) (ext : Option Word),
     Ready s.chip e len false r x → n = 2 ^ mbits w 13 12 → off = lsOffset w x ext → off < 2 ^ 32 →
     (len = 4 ∧ ext = none ∨ len = 8 ∧ ext = some y ∧ mbits w 7 0 = 0 ∧ bits y 31 24 = 0) →
     win.holds off n = true → (win.base + off) % n = 0 →
     (∀ v, lsIllegal w false = false →
       window s.chip.culture (plane s.chip e.vat) e.num.val r x (mbits w 10 9) false = some win →
       v = readSpace (plane s.chip e.vat) e.num.val x win off n →
       let t := s.after (if spaceFrozen s.chip e.vat e.num.val win off n false then s.chip else retire s.chip e r
         (adv (if n = 8 then wrPair x w.d (BitVec.ofNat 64 (natLE v)) else wr x w.d (loadValue w v)) len))
       (len = 4 → exec (.ld e w) s = .next t) ∧ (len = 8 → exec (.ldx e w y) s = .next t)) ∧
     (∀ p k, lsIllegal w true = false →
       window s.chip.culture (plane s.chip e.vat) e.num.val r x (mbits w 10 9) true = some win →
       storeSpace (plane s.chip e.vat) e.num.val x win off
         (bytesLE n (if n = 8 then (rdPair x w.d).toNat else (rd x w.d).toNat)) = (p, k) →
       let t := s.after (if !win.scratch && storeStalls s.chip e then s.chip else retire (setPlane s.chip e.vat p) e r (adv k len))
       (len = 4 → exec (.st e w) s = .next t) ∧ (len = 8 → exec (.stx e w y) s = .next t))) ∧
  (∀ (s : State) (e : Eng) (w : Enc) (r : Nat) (x : Ctx),
     (∀ src dst n, Ready s.chip e 4 false r x → mbits w 9 0 = 0 → mbits w 13 12 ≠ 3 → mbits w 11 10 ≠ 3 →
       n = (rd x w.b).toNat → n ≤ 4096 →
       range? s.chip.culture (plane s.chip e.vat) e.num.val r x (mbits w 13 12) (rd x w.a).toNat n false = some src →
       range? s.chip.culture (plane s.chip e.vat) e.num.val r x (mbits w 11 10) (rd x w.d).toNat n true = some dst →
       (n = 0 → exec (.copy e w) s = .next (s.after (retire s.chip e r (adv x 4)))) ∧
       (∀ p k, n ≠ 0 → blockSpace (plane s.chip e.vat) e.num.val x dst (rd x w.d).toNat
           (readSpace (plane s.chip e.vat) e.num.val x src (rd x w.a).toNat n) = (p, k) →
         exec (.copy e w) s = .next (s.after
           (if spaceFrozen s.chip e.vat e.num.val src (rd x w.a).toNat n false ||
               spaceFrozen s.chip e.vat e.num.val dst (rd x w.d).toNat n true then s.chip
            else retire (setPlane s.chip e.vat p) e r (adv k 4))))) ∧
     (∀ bs st stalls, Ready s.chip e 4 false r x → mbits w 8 0 = 0 →
       (w.minor.getLsbD 13 = true ∧ w.b = 0 ∧ mbits w 12 11 = 0 ∧ stalls = false ∧ bs = bytesLE 4 (rd x w.a).toNat ∨
        ∃ win, w.minor.getLsbD 13 = false ∧ mbits w 12 11 ≠ 3 ∧ (rd x w.b).toNat ≤ 4096 ∧
          range? s.chip.culture (plane s.chip e.vat) e.num.val r x (mbits w 12 11) (rd x w.a).toNat (rd x w.b).toNat false =
            some win ∧ stalls = spaceFrozen s.chip e.vat e.num.val win (rd x w.a).toNat (rd x w.b).toNat false ∧
          bs = readSpace (plane s.chip e.vat) e.num.val x win (rd x w.a).toNat (rd x w.b).toNat) →
       st = crcBytes (if w.minor.getLsbD 10 then 0xFFFFFFFF else (rd x w.d).toNat) bs →
       exec (.crc e w) s = .next (s.after (if stalls then s.chip else retire s.chip e r
         (adv (wr x w.d (word (if w.minor.getLsbD 9 then Nat.xor st 0xFFFFFFFF else st))) 4)))) ∧
     (serving s.chip e.vat = true →
       exec (.storeBufferDrain e) s = .next (s.after
         (if drainFrozen s.chip e then s.chip else onPlane s.chip e.vat fun p => drainOne p e.num.val))))

/-! ### Queues, the fabric, the slot arbiters -/

/-- PUSH with a credit appends its entry behind those in transit, numbered by the fabric; POP takes the oldest entry that the
consumer sees and gives its credit back, or defers it with DEFER; PEEK reads an entry and takes nothing; CREDIT returns
deferred credits; where the bank that the memory form or the entry's storage needs is frozen the engine stalls (R94, R95, R170,
R184).
A queue instruction that passes its checks waits where its credit or its entry is missing, and its queue shows that it does; FENCE waits where
an earlier push of the context's end has not arrived or a credit has not returned (R52, R95, R97).
A queue instruction that waits completes once its credit or entry is there and no bank that it needs is frozen, and the wait reports of the engine end with
it; FENCE completes where the earlier pushes of the context's end have arrived and its credits have returned, and
FENCE_COMPLETE ends its wait then (R52, R95, R97, R184). -/
def Obligations.QueuesComplete : Prop :=
  (∀ (s : State) (e : Eng) (w : Enc) (r : Nat) (x : Ctx) (p : VatPlane) (d : Desc) (y : Queue),
     Ready s.chip e 4 false r x → p = plane s.chip e.vat → d = descOf p x.q.toNat → y = queueOf p x.q.toNat →
     (qIllegal .push w (x.task = .setup) = false → qCheck s.chip e r x .push w = none → y.spent < d.depth →
       exec (.push e w) s = .next (s.after (if qFrozen s.chip e r x .push w then s.chip else retire (setPlane s.chip e.vat
         { setQueue p x.q.toNat { y with spent := y.spent + 1, waitP := false,
                                         transit := y.transit ++ [⟨qSource s.chip e r x w d, p.seq, s.chip.core.tick, 0, 0⟩] } with
           seq := p.seq + 1 }) e r (adv x 4)))) ∧
     (∀ en ens z c' x', qIllegal .pop w (x.task = .setup) = false → qCheck s.chip e r x .pop w = none →
       visible p x.q.toNat = en :: ens →
       z = { y with
         entries := y.entries.drop 1, head := (y.head + 1) % d.depth, waitC := false,
         deferred := if w.minor.getLsbD 7 then y.deferred + 1 else y.deferred,
         back := if w.minor.getLsbD 7 then y.back else y.back + 1 } →
       qDest (setPlane s.chip e.vat (setQueue p x.q.toNat z)) e r x w d en.bytes = (c', x') →
       exec (.pop e w) s = .next (s.after (if qFrozen s.chip e r x .pop w then s.chip else retire c' e r (adv x' 4)))) ∧
     (∀ en c' x', qIllegal .peek w (x.task = .setup) = false → qCheck s.chip e r x .peek w = none →
       (visible p x.q.toNat)[(rd x w.b).toNat]? = some en →
       qDest (setPlane s.chip e.vat (setQueue p x.q.toNat { y with waitC := false })) e r x w d en.bytes = (c', x') →
       exec (.peek e w) s = .next (s.after (if qFrozen s.chip e r x .peek w then s.chip else retire c' e r (adv x' 4)))) ∧
     (w.minor = 0 → w.d = 0 → w.b = 0 → d.ok = true → d.culture = true → d.cend = ctxEndOf x e.num.val →
       (rd x w.a).toNat ≤ y.deferred →
       exec (.credit e w) s = .next (s.after (retire (setPlane s.chip e.vat (setQueue p x.q.toNat
         { y with back := y.back + (rd x w.a).toNat, deferred := y.deferred - (rd x w.a).toNat })) e r (adv x 4))))) ∧
  (∀ (s : State) (e : Eng) (w : Enc) (r : Nat) (x : Ctx) (p : VatPlane) (y : Queue),
     Ready s.chip e 4 false r x → p = plane s.chip e.vat → y = queueOf p x.q.toNat →
     (∀ op y', y' = (match op with | QOp.push => { y with waitP := true } | _ => { y with waitC := true }) →
       qIllegal op w (x.task = .setup) = false → qCheck s.chip e r x op w = none →
       (match op with
        | .push => (descOf p x.q.toNat).depth ≤ y.spent
        | .pop => visible p x.q.toNat = []
        | .peek => (visible p x.q.toNat).length ≤ (rd x w.b).toNat) →
       let t := s.after (storeCtx (setPlane s.chip e.vat (setQueue p x.q.toNat y')) e r { x with wait := .queue op w 0, atBnd := false })
       (op = .push → exec (.push e w) s = .next t) ∧ (op = .pop → exec (.pop e w) s = .next t) ∧
       (op = .peek → exec (.peek e w) s = .next t)) ∧
     (w.minor = 0 → w.d = 0 → w.a = 0 → w.b = 0 → fenceDone p (ctxEndOf x e.num.val) = false →
       exec (.fence e w) s = .next (s.after (storeCtx s.chip e r { x with wait := .fence, atBnd := false })))) ∧
  (∀ (s : State) (e : Eng) (r : Nat) (x : Ctx),
     (∀ op w n c' x' p', waitingCtx s.chip e = some (r, x) → x.wait = .queue op w n →
       qAttempt s.chip e r x op w = some (c', x') →
       p' = setCtx (plane c' e.vat) e.num.val r { x' with p := x'.p + 4, wait := .none, seg := x'.seg + 1 } →
       exec (.queueWaitEnd e) s = .next (s.after (if qFrozen s.chip e r x op w then s.chip else setPlane c' e.vat
         (setEng p' e.num.val { engOf p' e.num.val with qreports := Tri.all none, qpostAt := none })))) ∧
     (∀ w, Ready s.chip e 4 false r x → w.minor = 0 → w.d = 0 → w.a = 0 → w.b = 0 →
       fenceDone (plane s.chip e.vat) (ctxEndOf x e.num.val) = true →
       exec (.fence e w) s = .next (s.after (retire s.chip e r (adv x 4)))) ∧
     (waitingCtx s.chip e = some (r, x) → x.wait = .fence → fenceDone (plane s.chip e.vat) (ctxEndOf x e.num.val) = true →
       exec (.fenceComplete e) s = .next (s.after (storeCtx s.chip e r { x with p := x.p + 4, wait := .none, seg := x.seg + 1 }))))

/-- A transfer message brings the oldest entry in transit to its consumer (in a Vat: into the queue's storage, unless its bank is
frozen), a credit message of 1 to 16 credits gives them back to the producer, which the press's held entries (numbered as they are
appended) and a waiting channel of the Affineur may use at once (R161, R170 to R173, R175, R184).
One decision of an arbiter: at most the burst limit of clocks has passed under the grant before, the requests raised join those
that wait, each with the clock at which it was raised, the grant is that of R181, the granted request leaves, the pointer
advances modulo 256, the longest wait takes that of the grant, and a committed slot table becomes live where the pointer
wraps (R180, R181, R183, R186). -/
def Obligations.FabricAndArbiterComplete : Prop :=
  (∀ (s : State) (v : Vat) (q n : Nat),
     (∀ x en ens, queueOf (plane s.chip v) q = x → x.transit = en :: ens → wheyRuns (plane s.chip v) = true →
       exec (.transferMessage (some v) q true) s = .next (s.after (if bankFrozen s.chip v
           (entryAddr (descOf (plane s.chip v) q) (x.head + x.entries.length)) (descOf (plane s.chip v) q).size then s.chip
         else setPlane s.chip v (storeEntry (setQueue (plane s.chip v) q { x with transit := ens, entries := x.entries ++ [en] })
           (descOf (plane s.chip v) q) x)))) ∧
     (∀ x en ens, devQueue s.chip q = x → x.transit = en :: ens →
       exec (.transferMessage none q true) s =
         .next (s.after (setDevQueue s.chip q { x with transit := ens, entries := x.entries ++ [en] }))) ∧
     (∀ x y k, queueOf (plane s.chip v) q = x → wheyRuns (plane s.chip v) = true → 1 ≤ n → n ≤ 16 → n ≤ x.spent →
       releaseHeld (descOf (plane s.chip v) q) { x with spent := x.spent - n, back := x.back - n } (plane s.chip v).seq = (y, k) →
       exec (.creditMessage (some v) q n true) s =
         .next (s.after (mdFeed (setPlane s.chip v { setQueue (plane s.chip v) q y with seq := k })))) ∧
     (∀ x y k, devQueue s.chip q = x → 1 ≤ n → n ≤ 16 → n ≤ x.spent →
       releaseHeld (liveDesc s.chip q) { x with spent := x.spent - n, back := x.back - n } s.chip.core.devSeq = (y, k) →
       exec (.creditMessage none q n true) s =
         .next (s.after (mdFeed (setDevQueue { s.chip with core := { s.chip.core with devSeq := k } } q y))))) ∧
  (∀ (s : State) (a : Fin 36) (v : Vat) (m : List (Fin 64 × BitVec 16)) (clk : BitVec 16) (x x' y z : Arbiter) (k wait : Nat)
     (g : Option Nat),
     arbOf s.chip (arbKey a.val v) = x → k = grantClocks a.val x clk.toNat →
     x' = { x with
       clock := x.clock + k, holder := none,
       reqs := m.foldl (fun l i => if (mapGet none l i.1.val).isSome then l
         else mapPut none l i.1.val (some (x.clock + k - min i.2.toNat k))) x.reqs } →
     grantOf s.chip (arbKey a.val v) x' = (g, y) →
     (g = none ∧ wait = 0 ∧ z = { y with ptr := (y.ptr + 1) % 256 } ∨
      ∃ i t, g = some i ∧ mapGet none y.reqs i = some t ∧ wait = x.clock + k - t ∧
        z = { y with ptr := (y.ptr + 1) % 256, wmax := max y.wmax wait, holder := some i, reqs := mapErase y.reqs i }) →
     (x.staged = none ∨ (y.ptr + 1) % 256 ≠ 0 →
       exec (.arbiterDecision a v m clk) s = .next (s.after (setArb s.chip (arbKey a.val v) z))) ∧
     (∀ t, x.staged = some t → (y.ptr + 1) % 256 = 0 →
       exec (.arbiterDecision a v m clk) s = .next (s.after
         (slotsLive (setArb s.chip (arbKey a.val v) { z with table := t, staged := none }) a.val t))))

/-- IN and OUT move the agreed value or status of a point and the bytes of the cycle's press image; EVR stores the agreed
event record; a block form stalls while its bank is frozen; RAISE marks a culture event (R100 to R102, R105, R184).
TIME gives the agreed instant that MINOR names to a pair. WAITT goes on where its target is not after the curd time, waits
where the Vat's counter has not reached it, also in a cycle that has been ended (a wait is no call boundary), and WAITT_COMPLETE
ends the wait once it has (R98, R103, R104, R191). -/
def Obligations.ImageAndTimeComplete : Prop :=
  (∀ (s : State) (e : Eng) (w : Enc) (y : Word) (r : Nat) (k : Ctx),
     (∀ v, Ready s.chip e 8 false r k → imgIllegal w y false = false → imgCheck s.chip e r k w y false = none →
       v = curdPoint s.chip (ctxAct (plane s.chip e.vat) k) (bits y 15 0) →
       (mbits w 13 12 = 0 → exec (.inPoint e w y) s = .next (s.after (retire s.chip e r
         (adv (wr k w.d (word (natLE ((v.bytes.drop (bits y 31 16)).take 4)))) 8)))) ∧
       (mbits w 13 12 = 1 → exec (.inPoint e w y) s = .next (s.after (retire s.chip e r
         (adv (wrPair k w.d (BitVec.ofNat 64 (natLE ((v.bytes.drop (bits y 31 16)).take 8)))) 8)))) ∧
       (∀ win p k', mbits w 13 12 = 2 → rd k w.b ≠ 0 →
         range? s.chip.culture (plane s.chip e.vat) e.num.val r k (mbits w 11 10) (rd k w.a).toNat (rd k w.b).toNat true = some win →
         blockSpace (plane s.chip e.vat) e.num.val k win (rd k w.a).toNat
           ((v.bytes.drop (bits y 31 16)).take (rd k w.b).toNat) = (p, k') →
         exec (.inPoint e w y) s = .next (s.after (if spaceFrozen s.chip e.vat e.num.val win (rd k w.a).toNat (rd k w.b).toNat true
           then s.chip else retire (setPlane s.chip e.vat p) e r (adv k' 8)))) ∧
       (mbits w 13 12 = 3 → exec (.inPoint e w y) s = .next (s.after (retire s.chip e r (adv (wr k w.d v.status) 8))))) ∧
     (Ready s.chip e 8 false r k → imgIllegal w y true = false → imgCheck s.chip e r k w y true = none →
       (mbits w 13 12 = 0 → exec (.outPoint e w y) s = .next (s.after (retire
         (writeImage s.chip e.vat k (bits y 15 0) (bits y 31 16) (bytesLE 4 (rd k w.d).toNat)) e r (adv k 8)))) ∧
       (mbits w 13 12 = 1 → exec (.outPoint e w y) s = .next (s.after (retire
         (writeImage s.chip e.vat k (bits y 15 0) (bits y 31 16) (bytesLE 8 (rdPair k w.d).toNat)) e r (adv k 8)))) ∧
       (∀ win, mbits w 13 12 = 2 → rd k w.b ≠ 0 →
         range? s.chip.culture (plane s.chip e.vat) e.num.val r k (mbits w 11 10) (rd k w.a).toNat (rd k w.b).toNat false = some win →
         exec (.outPoint e w y) s = .next (s.after
           (if spaceFrozen s.chip e.vat e.num.val win (rd k w.a).toNat (rd k w.b).toNat false then s.chip else retire
           (writeImage s.chip e.vat k (bits y 15 0) (bits y 31 16)
             (readSpace (plane s.chip e.vat) e.num.val k win (rd k w.a).toNat (rd k w.b).toNat)) e r (adv k 8))))) ∧
     (∀ win p k', Ready s.chip e 4 false r k → mbits w 11 0 = 0 → w.d = 0 → w.b = 0 → mbits w 13 12 ≠ 3 → k.task.ev = true →
       range? s.chip.culture (plane s.chip e.vat) e.num.val r k (mbits w 13 12) (rd k w.a).toNat 16 true = some win →
       blockSpace (plane s.chip e.vat) e.num.val k win (rd k w.a).toNat
         (padTo 16 (ctxAct (plane s.chip e.vat) k).record) = (p, k') →
       exec (.evr e w) s = .next (s.after (if spaceFrozen s.chip e.vat e.num.val win (rd k w.a).toNat 16 true then s.chip
         else retire (setPlane s.chip e.vat p) e r (adv k' 4)))) ∧
     (Ready s.chip e 4 false r k → mbits w 13 6 = 0 → w.d = 0 → w.a = 0 → w.b = 0 → k.task ≠ .setup →
       exec (.raise e w) s = .next (s.after (retire
         (onImage s.chip e.vat k fun i => { i with raises := i.raises ||| (1 <<< mbits w 5 0) }) e r (adv k 4))))) ∧
  (∀ (s : State) (e : Eng) (w : Enc) (r : Nat) (k : Ctx) (a : Act), a = ctxAct (plane s.chip e.vat) k →
     (Ready s.chip e 4 false r k → mbits w 11 0 = 0 → w.a = 0 → w.b = 0 → evenReg w.d = true → k.task ≠ .setup →
       (mbits w 13 12 = 0 → exec (.time e w) s = .next (s.after (retire s.chip e r (adv (wrPair k w.d (BitVec.ofNat 64 a.curdTime)) 4)))) ∧
       (mbits w 13 12 = 1 → exec (.time e w) s = .next (s.after (retire s.chip e r (adv (wrPair k w.d (BitVec.ofNat 64 a.commitTime)) 4)))) ∧
       (mbits w 13 12 = 2 → exec (.time e w) s = .next (s.after (retire s.chip e r (adv (wrPair k w.d (BitVec.ofNat 64 a.tick)) 4)))) ∧
       (mbits w 13 12 = 3 → exec (.time e w) s = .next (s.after (retire s.chip e r (adv (wrPair k w.d (BitVec.ofNat 64 a.pressTime)) 4))))) ∧
     (Ready s.chip e 4 false r k → w.minor = 0 → w.d = 0 → w.b = 0 → evenReg w.a = true → k.task ≠ .setup →
       ((rdPair k w.a).toNat ≤ a.curdTime → exec (.waitt e w) s = .next (s.after (retire s.chip e r (adv k 4)))) ∧
       (a.curdTime < (rdPair k w.a).toNat → (rdPair k w.a).toNat < a.pressTime →
         (plane s.chip e.vat).time < (rdPair k w.a).toNat →
         exec (.waitt e w) s = .next (s.after (storeCtx s.chip e r { k with wait := .time (rdPair k w.a).toNat, atBnd := false })))) ∧
     (∀ t, waitingCtx s.chip e = some (r, k) → k.wait = .time t → t ≤ (plane s.chip e.vat).time →
       exec (.waittComplete e) s = .next (s.after (storeCtx s.chip e r { k with p := k.p + 4, wait := .none, seg := k.seg + 1 }))))

/-- CFG.SET, CFG.GET, COMMIT, ABORT and NOISE post their request in program order and wait for the reply, where the port has
not met the request already, also in a cycle that has been ended (R24, R98, R106, R109, R112, R191).
LOG and HSET of a task add to the cycle's press image, HGET reads a health item as sampled at the curd instant, and a
reply to NOISE carries a fresh random value with status OK to the Vats; LOG stalls while its bank is frozen (R110 to R112,
R184). -/
def Obligations.RequestsAndHealthComplete : Prop :=
  (∀ (s : State) (e : Eng) (w : Enc) (y : Word) (r : Nat) (k : Ctx),
     mapGet [] (plane s.chip e.vat).owed (ctxKey e.num.val r) = [] →
     let post (q : Req) (wt : Wait) : State := s.after (storeCtx (setPlane s.chip e.vat
       { plane s.chip e.vat with
         reqs := mapPut [] (plane s.chip e.vat).reqs (ctxKey e.num.val r)
           (mapGet [] (plane s.chip e.vat).reqs (ctxKey e.num.val r) ++ [q]) }) e r { k with wait := wt, atBnd := false })
     (Ready s.chip e 8 false r k → mbits w 12 0 = 0 → (w.minor.getLsbD 13 = false → w.b = 0) → bits y 31 24 = 0 →
       exec (.cfgSet e w y) s = .next (post (.set (cfgAddr k w y) (rd k w.a)) (.cfg w.d false 8))) ∧
     (Ready s.chip e 8 false r k → mbits w 11 0 = 0 → (w.minor.getLsbD 13 = false → w.b = 0) → w.a = 0 → bits y 31 24 = 0 →
       evenReg w.d = true →
       exec (.cfgGet e w y) s = .next (post (.get (cfgAddr k w y) (w.minor.getLsbD 12)) (.cfg w.d true 8))) ∧
     (Ready s.chip e 4 false r k → w.minor = 0 → w.a = 0 → w.b = 0 → evenReg w.d = true →
       exec (.commit e w) s = .next (post .commit (.cfg w.d true 4))) ∧
     (Ready s.chip e 4 false r k → w.minor = 0 → w.a = 0 → w.b = 0 →
       exec (.abort e w) s = .next (post .abort (.cfg w.d false 4))) ∧
     (Ready s.chip e 4 false r k → w.minor = 0 → w.a = 0 → w.b = 0 → evenReg w.d = true →
       exec (.noise e w) s = .next (post .noise (.noise w.d)))) ∧
  (∀ (s : State) (e : Eng) (w : Enc) (r : Nat) (k : Ctx),
     (∀ win, Ready s.chip e 4 false r k → mbits w 11 0 = 0 → w.d = 0 → mbits w 13 12 ≠ 3 → k.task ≠ .setup →
       range? s.chip.culture (plane s.chip e.vat) e.num.val r k (mbits w 13 12) (rd k w.b).toNat 16 false = some win →
       exec (.log e w) s = .next (s.after (if spaceFrozen s.chip e.vat e.num.val win (rd k w.b).toNat 16 false then s.chip
         else retire (onImage s.chip e.vat k fun i =>
         { i with logs := addLog i.logs e.num.val
                    ⟨bits (rd k w.a) 15 0, readSpace (plane s.chip e.vat) e.num.val k win (rd k w.b).toNat 16⟩ }) e r (adv k 4)))) ∧
     (Ready s.chip e 4 false r k → w.minor = 0 → w.d = 0 → w.b = 0 → k.task ≠ .setup →
       exec (.hset e w) s = .next (s.after (retire
         (onImage s.chip e.vat k fun i => { i with hset := mapPut none i.hset e.num.val (some (rd k w.a)) }) e r (adv k 4)))) ∧
     (Ready s.chip e 4 false r k → mbits w 13 12 = 1 → mbits w 11 4 = 0 → mbits w 3 0 < 5 → w.a = 0 → w.b = 0 → k.task ≠ .setup →
       exec (.hget e w) s = .next (s.after (retire s.chip e r
         (adv (wr k w.d ((ctxAct (plane s.chip e.vat) k).hget.getD (mbits w 3 0) 0)) 4)))) ∧
     (∀ key rest, s.chip.sys.noise = key :: rest → s.chip.sys.rngReady = true → s.chip.sys.rngFailed = false →
       exec .noiseReply s = .next (s.after (deliverAll
         { s.chip with free := s.chip.free + 1, sys := { s.chip.sys with noise := rest } }
         (key / 16) (key % 16) [Config.noise s.chip.free, 0]))))

/-! ### Task cycles, the press, the Vats -/

/-- A request that two SERVING Vats make alike is acted on once, whatever else the third makes; a reply reaches the waiting
contexts of all Vats; NOISE apart, a COMMIT of the culture answers when its check has ended (R24, R25, R109). -/
def Obligations.PortRequestsAndRepliesComplete : Prop :=
  ∀ (s : State) (n : Fin 64) (prio : Fin 16),
    (∀ heads q cycle, heads = (servingVats s.chip).filterMap (headReq s.chip (ctxKey n.val prio.val)) →
      heads.find? (fun q => decide (2 ≤ (heads.filter (· = q)).length)) = some q →
      cycle = cycleOf s.chip (ctxKey n.val prio.val)
        (((servingVats s.chip).find? fun v => headReq s.chip (ctxKey n.val prio.val) v = some q).getD .a) →
      exec (.cfgPortRequest n prio) s = .next (s.afterAll (portAct
        ((servingVats s.chip).foldl (takeRequest (ctxKey n.val prio.val) q cycle
          ((servingVats s.chip).any (cycleStopped s.chip (ctxKey n.val prio.val)))) s.chip) (ctxKey n.val prio.val) q))) ∧
    (∀ key ws rest more, s.chip.sys.replies = (key, ws :: rest) :: more →
      exec .cfgReply s = .next (s.afterAll (deliverAll
        (onSys s.chip fun y => { y with replies := mapPut [] y.replies key rest }) (key / 16) (key % 16) ws))) ∧
    (∀ key asked c ws, (∀ k ws' rest more, s.chip.sys.replies ≠ (k, ws' :: rest) :: more) → s.chip.sys.checking = key :: asked →
      s.chip.sys.affUp = true → commitStaging (onSys s.chip fun y => { y with checking := asked }) .culture = (c, ws) →
      exec .cfgReply s = .next (s.afterAll (deliverAll c (key / 16) (key % 16) ws)))

/-- A periodic task's cycle begins at a tick of its phase; an event task's activation begins, in the Vats whose oldest pending record
has its instant at this tick, and the record leaves their lists outside STANDBY; where one Vat alone has one, it is that Vat's
fault (R39, R137, R226, R227).
A sample set that arrives whole reaches the other Vat; a Vat none of whose copies has crossed 2 ticks after the instant
has posted nothing; from 3 ticks after it the curd is formed in each Vat that holds two sets or more, and the chains start
where the task computes; of tasks with one curd instant the more urgent closes first; in STANDBY the curd is formed and counted as a
self-test and nothing computes, and an event task with no agreed record ends (R39, R45, R75, R124 to R128, R260, R261, log 32, 34). -/
def Obligations.CyclesAndCurdComplete : Prop :=
  (∀ s : State,
     (∀ n : Fin 64, curdsRun s.chip = true → taskEn s.chip (.periodic n) = true → aligned s.chip n s.chip.core.tick = true →
       (taskSt s.chip (.periodic n)).active = false → (taskSt s.chip (.periodic n)).start ≤ s.chip.core.tick →
       exec (.curdInstant n) s = .next (s.after (beginCycle s.chip (.periodic n) (taskPeriod s.chip n)
         ((servingVats s.chip).map fun v => (v, []))))) ∧
     (∀ (v : Fin 256) (vs : List (Vat × List Byte)) (c : Chip),
       curdsRun s.chip = true → taskEn s.chip (.event v) = true →
       (taskSt s.chip (.event v)).active = false → (taskSt s.chip (.event v)).start ≤ s.chip.core.tick →
       vs = (servingVats s.chip).filterMap (fun u => match mapGet [] (plane s.chip u).pending v.val with
         | r :: _ => if eventInstant s.chip (.event v) r = s.chip.core.tick then some (u, r) else none
         | [] => none) →
       c = (if s.chip.sys.mode = .standby then s.chip
            else vs.foldl (fun c x => onPlane c x.1 fun p =>
              { p with pending := mapPut [] p.pending v.val ((mapGet [] p.pending v.val).drop 1) }) s.chip) →
       (2 ≤ vs.length ∨ vs.length = 1 ∧ (servingVats s.chip).length = 1 →
         exec (.eventCurdInstant v) s = .next (s.after (beginCycle c (.event v) (taskDl s.chip v) vs))) ∧
       (∀ u r, vs = [(u, r)] →
         ((servingVats s.chip).length = 3 →
           exec (.eventCurdInstant v) s = .next (s.after (todoSour c u 3 7 (some (.event v)) 0))) ∧
         ((servingVats s.chip).length = 2 →
           exec (.eventCurdInstant v) s = .next (s.after (todoHold c 7 3 (some (.event v)))))))) ∧
  (∀ (s : State) (t : TaskId) (st : TaskSt), taskSt s.chip t = st → st.active = true → st.formed = false →
     (∀ src dst own, src ≠ dst → serving s.chip src = true → serving s.chip dst = true →
       (actOf (plane s.chip src) t).posted = false → (actOf (plane s.chip src) t).own = some own → own.tick = st.curdTick →
       exec (.sampleSetArrival src dst t true) s = .next (s.after (onPlane s.chip dst fun p =>
         setAct p t { actOf p t with sets := (actOf p t).sets.set src (some own) }))) ∧
     (∀ v, st.curdTick + 2 ≤ s.chip.core.tick →
       (∀ u, u ≠ v → ((actOf (plane s.chip u) t).sets.get v) = none) →
       exec (.postDeadline v t) s = .next (s.after (onPlane s.chip v fun p => setAct p t { actOf p t with posted := true }))) ∧
     (∀ c forming, st.curdTick + 3 ≤ s.chip.core.tick → closesFirst s.chip t = false →
       c = (if t.ev then abandonFinal { s.chip with free := s.chip.free + 1 } else { s.chip with free := s.chip.free + 1 }) →
       c.sys.mode ≠ .standby →
       forming = (servingVats c).filter (fun v => decide (2 ≤ (heldSets c v t).length)) →
       (forming = [] → exec (.curdClose t) s = .next (s.after (setTask (judgeSets c t []) t { st with active := false }))) ∧
       (∀ v0 vs d, forming = v0 :: vs →
         d = forming.foldl (fun c v => formCurd c s.chip.free t true v) (countDiffers (judgeSets c t forming) s.chip.free t v0) →
         (t.ev = true → (actOf (plane d v0) t).record.isEmpty = false) →
         let formed := setTask d t { st with
           formed := true, closeAt := now d,
           press := { st.press with images := Tri.all none, result := none, closed := false } }
         let f := forming.foldl (fun c v => dispatchTask c formed.free t v) { formed with free := formed.free + 1 }
         exec (.curdClose t) s = .next (s.after (setTask f t { taskSt f t with tflag := false })))) ∧
     (∀ (c k : Chip) (forming : List Vat) (on agreed : Bool), st.curdTick + 3 ≤ s.chip.core.tick → closesFirst s.chip t = false →
       c = (if t.ev then abandonFinal { s.chip with free := s.chip.free + 1 } else { s.chip with free := s.chip.free + 1 }) →
       on = decide (c.sys.mode ≠ .standby) → forming = (servingVats c).filter (fun v => decide (2 ≤ (heldSets c v t).length)) →
       k = (if on then judgeSets c t forming else countTest (judgeSets c t forming)
         ((servingVats (judgeSets c t forming)).all fun u =>
           decide ((heldSets (judgeSets c t forming) u t).length = (servingVats (judgeSets c t forming)).length))) →
       (forming = [] → on = false → exec (.curdClose t) s = .next (s.after (setTask k t { st with active := false }))) ∧
       (∀ v0 vs d, forming = v0 :: vs → d = forming.foldl (fun c v => formCurd c s.chip.free t on v) (countDiffers k s.chip.free t v0) →
         agreed = (!t.ev || !(actOf (plane d v0) t).record.isEmpty) → on = false ∨ agreed = false →
         exec (.curdClose t) s = .next (s.after (setTask (forming.foldl (fun c v => onPlane c v fun p =>
           setAct p t { actOf p t with running := [], computing := false }) d) t { st with active := agreed, formed := agreed })))))

/-- At a call boundary an engine with an urgent chain posts its counter and takes the largest count once it holds those of all
SERVING Vats; a report that arrives counts likewise, and one that differs from what another Vat holds makes its Vat sour with code
5; where BNDWAIT has passed without the third report the two held decide, and that Vat is sour with code 5 (R48, R49, R137).
A queue wait whose limit has passed: the report of another Vat is kept, all reports are judged once they are there, and a
missing report is judged when BNDWAIT has passed (R96). -/
def Obligations.BoundaryAndWaitReportsComplete : Prop :=
  (∀ (s : State) (e : Eng) (g : Engine), engOf (plane s.chip e.vat) e.num.val = g → serving s.chip e.vat = true →
     g.urgent.isSome = true →
     (∀ r x, g.cur = some r → ctxOf (plane s.chip e.vat) e.num.val r = x → x.on = true → x.atBnd = true → x.wait = .none →
       (g.reports.get e.vat = none → exec (.boundaryReached e) s = .next (s.after (tryGoal (setPlane s.chip e.vat
         (setEng (plane s.chip e.vat) e.num.val { g with reports := g.reports.set e.vat (some x.bnd),
                                                            postAt := some s.chip.core.tick })) e.vat e.num.val))) ∧
       (∀ k, g.reports.get e.vat = some k → g.goal = some x.bnd →
         exec (.boundaryReached e) s = .next (s.after (switchUrgent s.chip e.vat e.num.val)))) ∧
     (∀ src count c, src ≠ e.vat → serving s.chip src = true →
       c = (if boundDiffers s.chip src e.vat e.num.val count then
           todoSour s.chip src 5 6 (g.cur.map fun r => (ctxOf (plane s.chip e.vat) e.num.val r).task) e.num.val else s.chip) →
       exec (.boundaryReportArrival src e.vat e.num count) s = .next (s.after (tryGoal (setPlane c e.vat
         (setEng (plane s.chip e.vat) e.num.val { g with reports := g.reports.set src (some count) })) e.vat e.num.val))) ∧
     (∀ missing r k, serving s.chip missing = true → g.reports.get e.vat = some k → g.reports.get missing = none → g.cur = some r →
       bndExpired s.chip (ctxOf (plane s.chip e.vat) e.num.val r).task g.postAt = true →
       exec (.bndwaitTimeout e missing) s = .next (s.after (todoSour (takeGoal s.chip e.vat e.num.val) missing 5 6
         (some (ctxOf (plane s.chip e.vat) e.num.val r).task) e.num.val)))) ∧
  (∀ (s : State) (e : Eng) (r : Nat) (x : Ctx) (g : Engine), waitingCtx s.chip e = some (r, x) →
     engOf (plane s.chip e.vat) e.num.val = g → (g.qreports.get e.vat).isSome = true →
     (∀ src count at_, src ≠ e.vat → serving s.chip src = true →
       let c := onPlane s.chip e.vat fun p => setEng p e.num.val { g with qreports := g.qreports.set src (some (count, at_.toNat)) }
       exec (.waitReportArrival src e.vat e.num count at_) s = .next (s.after
         (if waitDue x = true ∧ (servingVats c).all (fun u => ((engOf (plane c e.vat) e.num.val).qreports.get u).isSome) = true
          then judgeWait c e.vat e.num.val x else c))) ∧
     (∀ missing, waitDue x = true → g.qreports.get missing = none → bndExpired s.chip x.task g.qpostAt = true →
       exec (.waitReportTimeout e missing) s = .next (s.after (judgeWait s.chip e.vat e.num.val x))))

/-- The press: a Vat's complete image is compared and kept, or delivered for the cycle before where it is owed; a wrong half
is the press's own fault and leads to HOLD; the close takes the result or finds an overrun; the commit carries out the
result, or repeats the last one after an overrun; a held image expires at its limit, and with two Vats an image that stands alone
then is PAIRMISS; in STANDBY the cycle ends at its commit instant (R55, R56, R130 to R136, R141, R149, R260).
10 ms without a quiet window of at least 20 µs count once in HXK_QMISS; at a quiet point the descriptor changes, the point
table, PDEPTH, a final copy, a step of time and the end of a full copy take their turn; a standby's final copy and step of time
wait only for the ENDs that are due (R61, R143, R166, R259, R262, R314). -/
def Obligations.PressAndQuietPointsComplete : Prop :=
  (∀ (s : State) (t : TaskId) (st : TaskSt), taskSt s.chip t = st → st.active = true → st.formed = true →
     (∀ v, serving s.chip v = true → s.chip.sys.mode ≠ .standby → st.press.owing.get v = false →
       (actOf (plane s.chip v) t).tick = st.curdTick → (actOf (plane s.chip v) t).running = [] → st.press.images.get v = none →
       (∀ im, im = pressItems s.chip t (actOf (plane s.chip v) t) →
         exec (.pressImageArrival v t true) s = .next (s.after (lateResult (onPress
           (compareImage (noteSecond s.chip t st.press) v t im) t fun x => { x with images := x.images.set v (some im) }) t))) ∧
       exec (.pressImageArrival v t false) s =
         .next (s.after (todoHold { s.chip with core := { s.chip.core with pressFault := true } } 7 6 (some t)))) ∧
     (∀ v b im, serving s.chip v = true → s.chip.sys.mode ≠ .standby → st.press.owing.get v = true → st.press.held = some im →
       exec (.pressImageArrival v t b) s = .next (s.after (owedImage s.chip v t im))) ∧
     (s.chip.sys.mode ≠ .standby → st.press.closed = false → st.overrun = false → st.commitTick ≤ s.chip.core.tick + st.guard →
       (∀ im, st.press.result = some im →
         (exec (.pressClose t) s = .next (s.afterAll (resultCloses (countWaits s.chip t) t im)))) ∧
       (∀ c, st.press.result = none → c = countWaits s.chip t →
         exec (.pressClose t) s = .next (s.afterAll (overrunTask
           (if st.lone && loneImage c t then todoHold c 7 3 (some t) else c) t)))) ∧
     (s.chip.sys.mode = .standby → st.commitTick ≤ s.chip.core.tick → ∀ rb,
       exec (.taskCommit t rb) s = .next (s.afterAll (standbyCommit s.chip t))) ∧
     (s.chip.sys.mode ≠ .standby → st.commitTick ≤ s.chip.core.tick →
       (∀ im rb, st.press.closed = true → st.press.result = some im → s.chip.core.pressFault = false →
         exec (.taskCommit t rb) s = .next (s.afterAll (commitResult s.chip t im rb))) ∧
       (∀ rb, st.press.closed = false → st.overrun = true → t.ev = false ∨ st.passed = false →
         exec (.taskCommit t rb) s = .next (s.afterAll (commitOverrun s.chip t)))) ∧
     (∀ c, st.commitTick ≤ s.chip.core.tick + st.guard →
       c = (match t with
         | .event v => if st.lone && loneImage s.chip t && decide (st.commitTick + taskDl s.chip v ≤ s.chip.core.tick + st.guard)
             then todoHold s.chip 7 3 (some t) else s.chip
         | _ => s.chip) →
       exec (.pressHoldLimit t) s = .next (s.after (holdLimit c t))) ∧
     (∀ v, t = .event v → s.chip.core.tick + st.guard < st.commitTick → st.press.heldClose + taskDl s.chip v ≤ s.chip.core.tick →
       exec (.pressHoldLimit t) s = .next (s.after (holdLimit s.chip t)))) ∧
  (∀ s : State,
     (∀ k, s.chip.core = k → quietMeasured s.chip = true → k.missFrom + 10000 ≤ k.tick →
       (k.quietSince = none ∨ ∃ q, k.quietSince = some q ∧ k.tick < q + 20) →
       exec .quietMiss s = .next (s.after (bump { s.chip with core := { k with missFrom := k.missFrom + 10000 } } 0x020011 31 0))) ∧
     (∀ c, isQuiet s.chip = true → c = applyPdepth (applyPoints (applyWhy s.chip)) →
       exec .quietPoint s = .next (s.afterAll (finishFull (if recurdleQuiet c then stepInTick (startFinal c) else c)))) ∧
     (isQuiet s.chip = false → recurdleQuiet s.chip = true →
       exec .quietPoint s = .next (s.afterAll (stepInTick (startFinal s.chip)))))

/-- What a Vat's clock fault and a fault of each supply domain, as its monitor judges it by the domain's fault limit, put off or bring
about: the Vat is sour with code 9 or 8, its copy of CHG_OUT falling with its supply, a re-curdling of it or its wait for one ends,
the orderly power-down for the intermediate bus, the Affineur restarts, HOLD, field outputs inert, Rind's cause 14; a voltage within
the limit brings nothing (R19, R137, R147, R237, R532, R551).
The steps of a re-curdling: the clock locks, the self-proof passes and copying starts or it fails with cause 11, a copy
pass brings the pages across and leads to WAITQ once at most 64 KiB are dirty, and the final copy at a quiet point makes the
Vat SERVING; a frozen bank stops the copies (R142 to R148, R184).
VAT_CMD with OP 1 takes a Vat out where all three are SERVING or where it is the one being re-curdled or waits for that, and with OP 2 re-curdles
one that is SOUR or OUT where no other is being re-curdled; the port answers OK (R106, R147, R159). -/
def Obligations.VatsComplete : Prop :=
  (∀ s : State,
     (∀ v, (∀ u, s.chip.core.recurdle ≠ some (u, v)) → s.chip.core.rcNext.any (·.1 = v) = false →
       exec (.vatClockFault v) s = .next (s.afterAll (todoSour s.chip v 9 7 none 0))) ∧
     (∀ v, (∀ u, s.chip.core.recurdle ≠ some (u, v)) → s.chip.core.rcNext.any (·.1 = v) = true →
       exec (.vatClockFault v) s = .next (s.afterAll (todoSour (leaveProving s.chip v .sour) v 9 7 none 0))) ∧
     (∀ u v c, s.chip.core.recurdle = some (u, v) →
       c = endRecurdle (onPlane s.chip v fun p => { p with state := .sour }) v false → c.core.rcNext.any (·.1 = v) = false →
       exec (.vatClockFault v) s = .next (s.afterAll (todoSour c v 9 7 none 0))) ∧
     (∀ (x : SupplySeen) (d : Fin 8), powered s.chip = true → domainFails d.val x = false →
       exec (.supplyDomainFault d x) s = .next (s.afterAll s.chip)) ∧
     (∀ (x : SupplySeen) (d : Fin 8), powered s.chip = true → domainFails d.val x = true →
       let c := domainFault s.chip d x.mv
       (d = 0 → exec (.supplyDomainFault d x) s = .next (s.afterAll (powerDownBegin c (fieldOf c Reg.pwrVin.addr 31 16)))) ∧
       (∀ v : Vat, d.val = v.num + 1 → (∀ u, c.core.recurdle ≠ some (u, v)) → c.core.rcNext.any (·.1 = v) = false →
         exec (.supplyDomainFault d x) s =
           .next (s.afterAll (todoSour (onLdl c fun l => { l with chgOut := l.chgOut.set v false }) v 8 7 none 0))) ∧
       (∀ v : Vat, d.val = v.num + 1 → (∀ u, c.core.recurdle ≠ some (u, v)) → c.core.rcNext.any (·.1 = v) = true →
         exec (.supplyDomainFault d x) s =
           .next (s.afterAll (todoSour (leaveProving (onLdl c fun l => { l with chgOut := l.chgOut.set v false }) v .sour) v 8 7 none 0))) ∧
       (∀ (u v : Vat) k, d.val = v.num + 1 → c.core.recurdle = some (u, v) →
         k = endRecurdle (onPlane (onLdl c fun l => { l with chgOut := l.chgOut.set v false }) v fun p => { p with state := .sour }) v false →
         k.core.rcNext.any (·.1 = v) = false →
         exec (.supplyDomainFault d x) s = .next (s.afterAll (todoSour k v 8 7 none 0))) ∧
       (d = 4 → exec (.supplyDomainFault d x) s = .next (s.afterAll (affineurRestart c))) ∧
       (d = 5 → exec (.supplyDomainFault d x) s = .next (s.afterAll (todoHold c 9 0 none))) ∧
       (d = 6 → exec (.supplyDomainFault d x) s = .next (s.afterAll (onFio c fun f => { f with inert := true }))) ∧
       (d = 7 → exec (.supplyDomainFault d x) s =
         .next (s.afterAll (domainFault (if s.chip.rind.on then rindFail s.chip 14 else s.chip) d x.mv))))) ∧
  (∀ (s : State) (src v : Vat), s.chip.core.recurdle = some (src, v) →
     ((plane s.chip v).state = .proving →
       exec .recurdlePllLock s = .next (s.afterAll { s.chip with core := { s.chip.core with rcLocked := true } })) ∧
     ((plane s.chip v).state = .proving → s.chip.core.rcLocked = true →
       exec (.selfProofDone true) s = .next (s.afterAll
         (onPlane (onPlane s.chip src fun p => { p with dirty := [] }) v fun p => { p with state := .copying })) ∧
       exec (.selfProofDone false) s = .next (s.afterAll (recurdleFails s.chip v 11))) ∧
     (∀ c, banksFrozen s.chip src = false → banksFrozen s.chip v = false →
       c = onPlane s.chip v (fun p => copyPlane s.chip (plane s.chip src) p) →
       ((plane s.chip v).state = .copying → pageBytes (plane s.chip src).dirty ≤ 65536 →
         exec .copyPassDone s = .next (s.afterAll (onPlane c v fun p => { p with state := .waitq }))) ∧
       ((plane s.chip v).state = .copying → 65536 < pageBytes (plane s.chip src).dirty →
         exec .copyPassDone s = .next (s.afterAll (onPlane c src fun p => { p with dirty := [] }))) ∧
       ((plane s.chip v).state = .waitq → s.chip.core.rcFinal = false →
         exec .copyPassDone s = .next (s.afterAll (onPlane c src fun p => { p with dirty := [] })))) ∧
     (banksFrozen s.chip src = false → banksFrozen s.chip v = false → (plane s.chip v).state = .waitq → s.chip.core.rcFinal = true →
       ∃ t, exec .finalCopyDone s = .next t ∧
         t = s.afterAll (finalDone s.chip) ∧ (plane (finalDone s.chip) v).state = .serving ∧
         (plane (finalDone s.chip) v).mem = (plane s.chip src).mem ∧
         (s.chip.core.rcNext = [] → (finalDone s.chip).core.recurdle = none))) ∧
  (∀ (s : State) (w : Writer) (v : Vat), Commanded s.chip w Reg.vatCmd.addr → vatCmdMode s.chip = true →
     let ok (c : Chip) : State := s.afterAll (onSys c fun y => { y with answer := [statusWord 0 0x010002] })
     (servingVats s.chip = [.a, .b, .c] →
       exec (.vatCmdTakeOut w v) s = .next (ok (todoSour s.chip v 10 7 none 0))) ∧
     (∀ u, (servingVats s.chip).length < 3 → s.chip.core.recurdle = some (u, v) →
       exec (.vatCmdTakeOut w v) s = .next (ok (recurdleFails s.chip v 10))) ∧
     ((servingVats s.chip).length < 3 → s.chip.core.recurdle.any (·.2 = v) = false → s.chip.core.rcNext.any (·.1 = v) = true →
       exec (.vatCmdTakeOut w v) s = .next (ok (leaveProving (noteCause s.chip v 10 7 none 0) v .out))) ∧
     ((plane s.chip v).state = .sour ∨ (plane s.chip v).state = .out →
       (∀ u, u ≠ v → (plane s.chip u).state ≠ .proving ∧ (plane s.chip u).state ≠ .copying ∧ (plane s.chip u).state ≠ .waitq) →
       exec (.vatCmdRecurdle w v) s = .next (ok (beginProving s.chip v))))

/-! ### Events and the Cellar -/

/-- An arrival counts in the copies that see it: of a queue source with the queue's handle as INFO, of a software source with 0; of a
level source every compared copy holds from then on the level voted from its three paths, and one that sees a change of it in the
direction of EDGE counts it, with the voted levels of the input's group as INFO. When a hold-off has expired, or a record that waits
has its credit, the controller acts on the tick, once; then a group with arrivals that is IDLE or at its expiry emits, and one without
returns to IDLE (R219 to R224, R415).
The dispatcher takes the oldest entry of Q32513, whose descriptor passes its check, and gives its credit back: with room it joins the pending list of its
task, without room it is merged into the newest record there, which EVC_MERGE counts, and one that names no task is counted in
EVC_NOTASK, each in the Vat shown; the Affineur makes a device record of each entry of Q32512 (R166, R225, R230). -/
def Obligations.EventsComplete : Prop :=
  (∀ s : State,
     (∀ (n : Fin 4096) info i va vb vc, srcExists n.val = true → 64 ≤ n.val → arrivalInfo s.chip n.val info = some i →
       exec (.eventArrival ⟨n, info⟩ va vb vc) s = .next (s.after (arrive s.chip n.val i false ⟨va, vb, vc⟩))) ∧
     (∀ (n : Fin 4096) info lvl sel (seen : Tri Bool), n.val < 64 → lvl = (votedLevels s.chip).getLsbD n.val →
       sel = (bits (srcWord s.chip n.val) 3 2 = 0 || bits (srcWord s.chip n.val) 3 2 = 1 && lvl ||
         bits (srcWord s.chip n.val) 3 2 = 2 && !lvl) →
       ∃ e : Tri EvCopy, exec (.eventArrival ⟨n, info⟩ seen.a seen.b seen.c) s = .next (s.after { s.chip with evc := e }) ∧
         ∀ v k, k = s.chip.evc.get v →
           (v ∉ comparedVats s.chip ∨ k.levels.getLsbD n.val = lvl → e.get v = k) ∧
           (v ∈ comparedVats s.chip → k.levels.getLsbD n.val ≠ lvl → (e.get v).levels.getLsbD n.val = lvl ∧
             (seen.get v = false ∨ sel = false → (e.get v).counts = k.counts) ∧
             (seen.get v = true → sel = true → (e.get v).counts = ((srcTargets s.chip n.val).foldl (fun k x =>
               countArrival k (evcNow s.chip) n.val x lvl (inputInfo s.chip n.val)) k).counts))) ∧
     (∀ (g : Fin 64) (x : Fin 2) k ok, agreedCopy s.chip = some (k, ok) → k.timer g.val x.val ≠ 0 →
       k.timer g.val x.val ≤ s.chip.core.tick + 1 → exec (.holdoffExpiry g x) s = .next (s.after (evcTick s.chip))) ∧
     (∀ (n : Fin 4096) (x : Fin 2) k ok v, agreedCopy s.chip = some (k, ok) → k.waiting.contains (2 * n.val + x.val) = true →
       v ∈ comparedVats s.chip → 0 < evCredits s.chip x.val v →
       exec (.eventEmitDelayed n x) s = .next (s.after (evcTick s.chip))) ∧
     (s.chip.core.evcDone = s.chip.core.tick + 1 → evcTick s.chip = s.chip) ∧
     (∀ (g : Fin 64) (x : Fin 2) k k' ok, agreedCopy s.chip = some (k, k') → targetLive s.chip x.val = true →
       (k.timer g.val x.val ≤ s.chip.core.tick + 1 → groupTick ok s.chip (2 * g.val + x.val) =
         if (groupSources s.chip k g.val x.val).isEmpty then { s.chip with evc := s.chip.evc.map fun k => k.setTimer g.val x.val 0 }
         else emitGroup s.chip g.val x.val ok) ∧
       (s.chip.core.tick + 1 < k.timer g.val x.val → groupTick ok s.chip (2 * g.val + x.val) = s.chip))) ∧
  (∀ s : State,
     (∀ v en ens t c, wheyRuns (plane s.chip v) = true → (descOf (plane s.chip v) 32513).ok = true → visible (plane s.chip v) 32513 = en :: ens →
       c = setPlane s.chip v (setQueue (plane s.chip v) 32513
         (((queueOf (plane s.chip v) 32513).takeHead (descOf (plane s.chip v) 32513).depth).giveBack 1)) →
       taskOfSource c (bits (word (leAt en.bytes 0 4)) 11 0) = some t →
       ((mapGet [] (plane c v).pending t.val).length < pDepth c →
         exec (.dispatcherRecord v) s = .next (s.after (onPlane c v fun p =>
           { p with pending := mapPut [] p.pending t.val (mapGet [] (plane c v).pending t.val ++ [padTo 16 en.bytes]) }))) ∧
       (∀ l k, l = mapGet [] (plane c v).pending t.val → pDepth c ≤ l.length →
         k = onPlane c v (fun p => { p with
           pending := mapPut [] p.pending t.val (l.dropLast ++ [mergeRec (l.getLast?.getD []) (padTo 16 en.bytes)]) }) →
         exec (.dispatcherRecord v) s = .next (s.after (if v = shownVat c then bump k Reg.evcMerge.addr 31 0 else k)))) ∧
     (∀ v en ens c, wheyRuns (plane s.chip v) = true → (descOf (plane s.chip v) 32513).ok = true → visible (plane s.chip v) 32513 = en :: ens →
       c = setPlane s.chip v (setQueue (plane s.chip v) 32513
         (((queueOf (plane s.chip v) 32513).takeHead (descOf (plane s.chip v) 32513).depth).giveBack 1)) →
       taskOfSource c (bits (word (leAt en.bytes 0 4)) 11 0) = none →
       exec (.dispatcherRecord v) s = .next (s.after (if v = shownVat c then bump c Reg.evcNotask.addr 31 0 else c))) ∧
     (∀ bs c, s.chip.sys.affUp = true → takeDev s.chip 32512 = some (bs, c) →
       exec .affineurEventRecord s = .next (s.after (deviceRecord c 0x05 0x01 (leAt bs 0 4) (leAt bs 4 4) (leAt bs 8 4) (leAt bs 12 4)))))

/-- A record offered joins the device buffer of 1,024 or the culture buffer of 512; where nothing waits and the recorder's arbiter
grants, one that repeats the newest record only counts in its REPEAT; one over is counted as lost; with CULTOFF, and once the orderly
power-down has begun, a culture record is discarded; at the last SEQ every record is counted as lost (R184, R473, R479, R480, R483).
A grant of the MRAM port by arbiter 34 writes the oldest record of the writer's buffer in the slot of the next SEQ, with the
operating seconds and the power cycle in a device record; a
repeat only counts, and a culture record beyond CRATE is dropped and counted; the scrubber of a clear takes one slot, and its last grant ends the clear;
where the arbiter is frozen, grants another requester, or the scan of power-up has not ended, nothing is written (R181, R184, R473,
R475, R478, R482, R488). -/
def Obligations.CellarComplete : Prop :=
  ((∀ (s : State) (b : Fin 64) (code : Fin 256) (task : Fin 1024) (data : List Byte) (r : Rec) (x : Cel) (rep : Bool),
      s.chip.cel = x → x.seqEnd = false →
      (r = { seq := 0, kind := 1, block := b.val, rep := 0, opsec := 0, pwrcyc := 0, code := code.val, task := 0, data := padTo 16 data } →
        (x.ready && x.devBuf.isEmpty && x.culBuf.isEmpty && !arbFrozen s.chip (arbKey 34 .a) && isRepeat x r) = rep →
        (rep = true → exec (.recordOffer false b code task data) s = .next (s.after (countRepeat s.chip))) ∧
        (rep = false → x.devBuf.length < 1024 → exec (.recordOffer false b code task data) s =
          .next (s.after { s.chip with cel := { x with devBuf := x.devBuf ++ [r] } })) ∧
        (rep = false → 1024 ≤ x.devBuf.length → exec (.recordOffer false b code task data) s = .next (s.after
          (bump { s.chip with cel := { x with lostPend := x.lostPend + 1 } } Reg.celCnt0.addr 31 16)))) ∧
      (r = { seq := 0, kind := 2, block := 0, rep := 0, opsec := 0, pwrcyc := 0, code := code.val, task := task.val, data := padTo 16 data } →
        bit (rawReg s.chip Reg.celCtl.addr) 31 = false → x.accept = true →
        (x.ready && x.devBuf.isEmpty && x.culBuf.isEmpty && !arbFrozen s.chip (arbKey 34 .a) && isRepeat x r) = rep →
        (rep = true → exec (.recordOffer true b code task data) s = .next (s.after (countRepeat s.chip))) ∧
        (rep = false → x.culBuf.length < 512 → exec (.recordOffer true b code task data) s =
          .next (s.after { s.chip with cel := { x with culBuf := x.culBuf ++ [r] } })) ∧
        (rep = false → 512 ≤ x.culBuf.length → exec (.recordOffer true b code task data) s = .next (s.after
          (bump { s.chip with cel := { x with lostCul := x.lostCul + 1 } } Reg.celCnt0.addr 31 16))))) ∧
   (∀ (s : State) (b : Fin 64) (code : Fin 256) (task : Fin 1024) (data : List Byte),
     (bit (rawReg s.chip Reg.celCtl.addr) 31 = true ∨ s.chip.cel.accept = false →
       exec (.recordOffer true b code task data) s = .next (s.after s.chip)) ∧
     (s.chip.cel.seqEnd = true →
       exec (.recordOffer false b code task data) s = .next (s.after (bump s.chip Reg.celCnt0.addr 31 16)) ∧
       (bit (rawReg s.chip Reg.celCtl.addr) 31 = false → s.chip.cel.accept = true →
         exec (.recordOffer true b code task data) s = .next (s.after (bump s.chip Reg.celCnt0.addr 31 16)))))) ∧
  (∀ (s : State) (d : Chip) (r : Rec) (rest : List Rec) (x : Cel), d.cel = x → x.seqEnd = false →
     (celGrant s.chip 0 = some d → x.lostPend = 0 → x.newest + 1 < 2 ^ 40 - 1 → isRepeat { x with devBuf := rest } r = false →
       ¬ (r.block = 0x18 ∧ r.code = 2) → r.kind = 1 → x.devBuf = r :: rest →
       exec (.recordWrite false) s = .next (s.after { d with cel := { x with
         devBuf := rest, newest := x.newest + 1, since := true,
         slots := mapPut none x.slots (slotOf (x.newest + 1)) (some { r with seq := x.newest + 1, opsec := x.opsec, pwrcyc := x.pwrcyc, rep := 0 }),
         cwrap := x.cwrap || decide (16384 + 245760 ≤ x.newest + 1), oldest := max x.oldest (x.newest + 1 - 245759) } })) ∧
     (celGrant s.chip 1 = some d → x.lostCul = 0 → x.newest + 1 < 2 ^ 40 - 1 → isRepeat { x with culBuf := rest } r = false → r.kind = 2 →
       crateReached { d with cel := { x with culBuf := rest } } = false → x.culBuf = r :: rest →
       exec (.recordWrite true) s = .next (s.after { d with cel := { x with
         culBuf := rest, newest := x.newest + 1, since := true, made := x.made + 1,
         slots := mapPut none x.slots (slotOf (x.newest + 1)) (some { r with seq := x.newest + 1, rep := 0 }),
         cwrap := x.cwrap || decide (16384 + 245760 ≤ x.newest + 1), oldest := max x.oldest (x.newest + 1 - 245759) } })) ∧
     (celGrant s.chip 0 = some d → x.lostPend = 0 → x.devBuf = r :: rest → ¬ (r.block = 0x18 ∧ r.code = 2) →
       isRepeat { x with devBuf := rest } r = true →
       exec (.recordWrite false) s = .next (s.after (countRepeat { d with cel := { x with devBuf := rest } }))) ∧
     (celGrant s.chip 1 = some d → x.lostCul = 0 → x.culBuf = r :: rest →
       (isRepeat { x with culBuf := rest } r = true →
         exec (.recordWrite true) s = .next (s.after (countRepeat { d with cel := { x with culBuf := rest } }))) ∧
       (isRepeat { x with culBuf := rest } r = false → crateReached { d with cel := { x with culBuf := rest } } = true →
         exec (.recordWrite true) s = .next (s.after
           (bump { d with cel := { x with culBuf := rest, dropped := x.dropped + 1 } } Reg.celCnt0.addr 15 0)))) ∧
     (∀ sc k ks c, celGrant s.chip 3 = some d → s.chip.cel.clearing = some sc → clearable x sc = k :: ks →
       c = { d with cel := { x with slots := mapErase x.slots k } } →
       exec .clearSlotWrite s = .next (s.after (if (clearable c.cel sc).isEmpty then
         raise { c with cel := { c.cel with clearing := none } } 2177 sc else c))) ∧
     (∀ sc, celGrant s.chip 3 = some d → s.chip.cel.clearing = some sc → clearable x sc = [] →
       exec .clearSlotWrite s = .next (s.after (raise { d with cel := { x with clearing := none } } 2177 sc))) ∧
     (celGrant s.chip 0 = none → exec (.recordWrite false) s = .next (s.after s.chip)) ∧
     (celGrant s.chip 1 = none → exec (.recordWrite true) s = .next (s.after s.chip)) ∧
     (celGrant s.chip 3 = none → exec .clearSlotWrite s = .next (s.after s.chip)) ∧
     (s.chip.cel.ready = false ∨ arbFrozen s.chip (arbKey 34 .a) = true → ∀ w, celGrant s.chip w = none))

/-! ### Start-up, modes, the configuration port -/

/-- The steps of the power-up sequence where they pass: power brings the module to step 1 (a module that was running has lost it
without hold-up first), Rennet to PROVE and step 3 with a
firmware slot selected, its version and format shown, and the service port's address in force, the random source to step 4 with the handshakes that waited
for it, the Affineur's self-proof to step 5 with the power cycle counted and the Cellar shown as found, the Vats' start proof
to step 7 with memories reset and time as stored, the field units to step 8 with every lane fresh (R38, R194, R213, R307, R430,
R481, R504, R512).
The first proof that fails stops the module in PROVE with reason 1 and the plane and test that failed; the random
source's failure is recorded and leaves it not ready (R112, R194, R196). -/
def Obligations.StartSequenceComplete : Prop :=
  (∀ s : State,
     (s.chip.pwr.downAt = none →
       (s.chip.sys.step = 0 →
         exec .powerOn s = .next (s.afterAll (beginSequence { s.chip with ldl := { s.chip.ldl with posb := Config.positionB } } .inert 0))) ∧
       (∀ c, s.chip.sys.step ≠ 0 → c = powerLost s.chip →
         exec .powerOn s = .next (s.afterAll (beginSequence { c with ldl := { c.ldl with posb := Config.positionB } } .inert 0)))) ∧
     (∀ c k d, s.chip.sys.mode = .inert → s.chip.sys.step = 1 → flashOpen s.chip = true →
       selectSlot (readDirectory (onSys (enterMode (writeModuleDescs s.chip) .prove 2) fun y => { y with step := 3, affUp := true })) 1
         (fun c k => fwChecks c (slotAt c k).held) = (c, k) →
       d = (match k with
         | some n => onUpd c fun u => { u with running := some n, fwver := slotVersion c n, sfmt := (fwHead (slotAt c n).held).2.1 }
         | none => c) →
       exec (.rennetStart true) s =
         .next (s.afterAll (onUpd d fun u => { u with svcPort := (settings d).svc.getD defaultSvc }))) ∧
     (3 ≤ s.chip.sys.step → exec .rngReady s = .next (s.afterAll (s.chip.sys.waiting.foldl (fun c h => openSession c h.1 h.2)
       (onSys s.chip fun y =>
         { y with rngReady := true, rngFailed := false, step := if y.step = 3 then 4 else y.step, waiting := [] })))) ∧
     (s.chip.sys.mode = .prove → s.chip.sys.stopped = false →
       (s.chip.sys.step = 3 ∨ s.chip.sys.step = 4 → exec (.affineurSelfProofDone none) s = .next (s.afterAll
         (onSys (celLatch (cellarScan { s.chip with cel := { s.chip.cel with pwrcyc := satAdd 0xFFFFFF s.chip.cel.pwrcyc 1 } }))
           fun y => { y with step := 5 }))) ∧
       (∀ st c, s.chip.sys.step = 5 → st = s.chip.ptp.stored →
         c = setTick { s.chip with
           vats := s.chip.vats.map fun _ => { VatPlane.reset with time := st, descs := liveDescs s.chip } } (st / 1000) →
         exec (.vatStartProofDone none) s = .next (s.afterAll (onSys
           (onPtp { c with core := { c.core with carry := st % 1000 * 2 ^ 32 } } fun p => { p with from_ := st })
           fun y => { y with step := 7 }))) ∧
       (s.chip.sys.step = 7 → exec (.fieldUnitSelfTestDone none) s = .next (s.afterAll
         (onSys (onFio s.chip fun f => { f with lanes := f.lanes.map fun l => { l with fresh := some s.chip.core.tick } })
           fun y => { y with step := 8 }))))) ∧
  (∀ s : State,
     (s.chip.sys.mode = .prove → s.chip.sys.stopped = false →
       (∀ n, s.chip.sys.step = 3 ∨ s.chip.sys.step = 4 →
         exec (.affineurSelfProofDone (some n)) s = .next (s.afterAll (stopProve s.chip 1 n.toNat))) ∧
       (∀ p n, s.chip.sys.step = 5 →
         exec (.vatStartProofDone (some (p, n))) s = .next (s.afterAll (stopProve s.chip 1 ((p.val + 1) * 4096 + n.toNat)))) ∧
       (∀ n, s.chip.sys.step = 7 →
         exec (.fieldUnitSelfTestDone (some n)) s = .next (s.afterAll (stopProve s.chip 1 (5 * 4096 + n.toNat))))) ∧
     (∀ t : Fin 2, s.chip.sys.rngReady = true → exec (.rngTestFail t) s = .next (s.afterAll
       (deviceRecord (onSys s.chip fun y => { y with rngReady := false, rngFailed := true }) 0x00 0x05 (2 ^ t.val)))))

/-- Step 10 loads the selected culture where it passes its checks, and stops with NOCULT where there is none or with the first failing check; step 11 proves the
loops in up to four attempts, 0.5 s apart; after the partner watch a ready Rind lets the module enter SERVICE, or STANDBY
beside a partner that was in charge during it, and an exhausted epoch stops it (R32, R196, R198, R241, R246, R430, R506).
The Affineur's restart ends its sessions, tests and loads, rejects a trial and restarts both time domains; when it is up again a
COMMIT of the culture that it was checking answers BUSY (R16, R208, R213, R502). The setup program's 3 s end it in every SERVING Vat. -/
def Obligations.CultureStartsAndRestartsComplete : Prop :=
  (∀ s : State, s.chip.sys.mode = .prove → s.chip.sys.stopped = false →
     (∀ c k, s.chip.sys.step = 9 → s.chip.sys.affUp = true → flashOpen s.chip = true → selectSlot s.chip 2 cultureFails = (c, k) →
       (k = none → exec .cultureLoad s = .next (s.afterAll (stopProveAs c 2 0 0 0 0))) ∧
       (∀ n bs, k = some n → bs = (slotAt c n).held.content →
         exec .cultureLoad s = .next (s.afterAll (match startChecks (settings c).keys bs with
           | .inr p => loadCulture c n bs p
           | .inl (m, b) => if m = 1 ∧ anyCulture c = false then stopProveAs c 2 0 0 0 0
                            else stopProveAs c 3 (m * 256 + b) 0 (leAt bs 8 8) (leAt bs 0x10 4))))) ∧
     (∀ res c, s.chip.sys.step = 11 → (s.chip.fio.lpTries = 0 ∨ s.chip.fio.lpAt + 500000 ≤ s.chip.core.tick) →
       c = judgeProof (if s.chip.fio.lpTries = 0 then onFio s.chip fun f => { f with lpFail := 0 } else s.chip)
         (decide (0 < s.chip.fio.lpTries)) res →
       let d := onFio c fun f => { f with lpTries := s.chip.fio.lpTries + 1, lpAt := c.core.tick }
       (c.fio.lpFail = 0 → exec (.loopProofAttempt res) s = .next (s.afterAll
         (onSys (onLdl (onFio d fun f => { f with lpTries := 0 }) fun l =>
             { l with watchAt := some c.core.tick, watchTog := decide (l.chgIn = .toggling) })
           fun y => { y with step := 12 }))) ∧
       (c.fio.lpFail ≠ 0 → s.chip.fio.lpTries + 1 < 4 → exec (.loopProofAttempt res) s = .next (s.afterAll d)) ∧
       (c.fio.lpFail ≠ 0 → 4 ≤ s.chip.fio.lpTries + 1 → exec (.loopProofAttempt res) s = .next (s.afterAll
         (stopProve (onFio d fun f => { f with lpTries := 0 }) 8 (lowestBit c.fio.lpFail))))) ∧
     (∀ c k d, s.chip.sys.step = 12 → watchOver s.chip = true → c = applyAll s.chip →
       k = (if epoch c = 0xFFFFFFFF then raise c 1927 (epoch c) else c) →
       d = (enabledTasks (onSys k fun y => { y with step := 14 })).foldl
         (fun c t => setTask c t { taskSt c t with start := max (taskSt c t).start (c.core.tick + 100) })
         (onSys k fun y => { y with step := 14 }) →
       (rindReady c = false → exec .partnerWatchEnd s = .next (s.afterAll (stopProve c 9 (rindStatus c * 256 + c.rind.cause)))) ∧
       (rindReady c = true → c.ldl.watchTog = true →
         exec .partnerWatchEnd s = .next (s.afterAll (enterMode d .standby 3))) ∧
       (rindReady c = true → c.ldl.watchTog = false →
         (epochFull c = true → exec .partnerWatchEnd s = .next (s.afterAll (stopProve (raise c 1927 (epoch c)) 11 0))) ∧
         (epochFull c = false →
           exec .partnerWatchEnd s = .next (s.afterAll (enterMode (setField d Reg.ldlTklast.addr 31 28 4) .service 3)))))) ∧
  (∀ s : State,
     (2 ≤ s.chip.sys.step → s.chip.sys.affUp = true →
       exec .affineurRestart s = .next (s.afterAll (onSys (chooseSource (domRestart (domRestart
         (rejectTrial (onUpd (endLoad (monSessionEnd ((List.finRange 4).foldl endSession (clearTests (abortTest s.chip))) none))
           fun u => { u with peer := none }) 3) 0) 1))
         fun y => { y with affUp := false, waiting := [] }))) ∧
     (2 ≤ s.chip.sys.step → s.chip.sys.affUp = false → s.chip.sys.checking = [] →
       exec .affineurRestartDone s = .next (s.afterAll (onSys s.chip fun y => { y with affUp := true }))) ∧
     (∀ k ks, 2 ≤ s.chip.sys.step → s.chip.sys.affUp = false → s.chip.sys.checking = k :: ks →
       exec .affineurRestartDone s = .next (s.afterAll
         (onSys (setReg (setReg (onSys s.chip fun y => { y with affUp := true }) Reg.sysCmterr.addr 0x07000000) Reg.sysCmtbit.addr 0)
           fun y => { y with checking := ks, replies := mapPut [] y.replies k ((mapGet [] y.replies k) ++ [[0x07000000, 0]]) }))) ∧
     (s.chip.sys.setupRun = true → s.chip.sys.setupStart + 3000000000 ≤ now s.chip →
       exec .setupTimeLimit s = .next (s.afterAll ((servingVats s.chip).foldl
         (fun c v => onPlane c v fun p => if p.setupEnd = 0 then { p with setupEnd := 4 } else p) s.chip))))

/-- The two ticks, once the Vats run (step 7): the fast plane's closes the tick that ends for the event controller and the time
unit, lets the rack's arbiter decide, and advances the tick and the copies of the time counter by whole increments up to 1 µs past the
last, each with its own clock's drift; a pending step is made, a written SLEW that is over ends, with the charge decision, the Ladle
and the health checks; the Affineur's makes the memory errors' records, measures power, serves time, Cellar, health, update and the
words that wait for it, and lets the loops be measured once more (R38, R152, R217, R224, R304, R322, R379, R430). -/
def Obligations.TicksComplete : Prop :=
  ∀ s : State, 7 ≤ s.chip.sys.step →
    (∀ (drift : Tri Int) c, c = applyDepths (brgNext 64 (unitTick (evcTick s.chip))) →
      let k := allVats.foldl (fun k v => onPlane k v fun p => setClock p (clockOf p + tickAdvance c + drift.get v * 2 ^ 32))
        (onPtp c fun p => { p with from_ := now c, adv := tickAdvance c })
      let d := ladleTick (chargeDecision (slewEnd (stepAtTick { k with core := { k.core with
        tick := k.core.tick + 1, carry := k.core.carry + tickAdvance c - 1000 * 2 ^ 32 } })))
      exec (.fastPlaneTick drift) s = .next (s.afterAll (if d.sys.affUp then healthCheck d else d))) ∧
    (∀ m c d, s.chip.sys.affUp = true → c = m.scrub.foldl (fun c a => deviceRecord c 0x00 0x04 a.toNat) s.chip →
      d = onFio (laneVoteTick (cellarTick (ptpTick (pwrTick c m)))) (fun f => { f with lpDue := true }) →
      exec (.managementTick m) s = .next (s.afterAll (applyManagement (updTick (healthSend d) (ready d)))))

/-- SYS_CMD with its key (C4E5 hexadecimal) in a mode that admits it: HOLD from the culture (cause 10) or a session that may write
it (cause 4); from a session with MAINTAIN the restart from HOLD, MAINTENANCE, its exit, the rejoin from HOLD beside a
toggling partner, the handover to a ready partner, and the reset; the mode judged is the one that the module is in or on its way
to (R189, R190, R210, R265). -/
def Obligations.SystemCommandsComplete : Prop :=
  ∀ (s : State) (w : Writer) (key : BitVec 16) (m : Mode), key = 0xC4E5 → reaches s.chip w = true → m = nextMode s.chip →
    let ok (c : Chip) : State := s.afterAll (onSys c fun y => { y with answer := [statusWord 0 0x000011] })
    (privOf s.chip w ≠ some .read → allowed m .hold (if w = .culture then 10 else 4) = true →
      exec (.sysCmdHold w key) s = .next (ok (requestMode s.chip .hold (if w = .culture then 10 else 4)))) ∧
    (isMaintain s.chip w = true →
      (m = .hold → exec (.sysCmdRestart w key) s = .next (ok (requestMode s.chip .prove 4))) ∧
      (allowed m .maintenance 4 = true →
        exec (.sysCmdMaint w key) s = .next (ok (requestMode s.chip .maintenance 4))) ∧
      (m = .maintenance → exec (.sysCmdExit w key) s = .next (ok (requestMode s.chip .prove 4))) ∧
      (m = .hold → s.chip.ldl.chgIn = .toggling →
        exec (.sysCmdRejoin w key) s = .next (ok (requestMode s.chip .standby 4))) ∧
      (∀ h, s.chip.sys.mode = .service → partnerReady s.chip = true → s.chip.ldl.handover = none →
        exec (.sysCmdHandover w key h) s = .next (ok (startHandover s.chip h))) ∧
      exec (.sysCmdReset w key) s = .next (ok (moduleReset s.chip)))

/-- A write of a whole register that nothing refuses has its effect and answers OK: ST fields are staged and their writer owns
staging, RW fields take their value and W1C bits written 1 are cleared (R6, R106, R107, R199, R200).
Reads that latch or clear, each by a writer that reaches the port: the low word of a pair is answered and its companions
are held as they stood, with the DROP of every instance of the queue that ARB_WQST0 shows; RC fields clear to 0; ARB_WQST2 takes the
DROP that it returned off that queue in every instance, ARB_WMAX starts
its measure anew (R7, R11, R62, R178, R186, R301, R323,
R468, R489, R528). -/
def Obligations.RegisterAccessComplete : Prop :=
  (∀ (s : State) (w : Writer) (addr : BitVec 24) (x : Word) (r : RegDef),
     reaches s.chip w = true → regDef addr.toNat = some r → writable r addr.toNat = true → privOf s.chip w ≠ some .read →
     (expertFor s.chip w addr.toNat = true ∨ changesExpert r (stagedRead s.chip r w addr.toNat) x = false) →
     loopBusy s.chip addr.toNat = false →
     let ok (c : Chip) : State := s.afterAll (onSys c fun y => { y with answer := [statusWord 0 addr.toNat] })
     (stMask r ≠ 0 → privOf s.chip w ≠ some .operate → notOwner s.chip w = false →
       modeLocked s.chip w r addr.toNat true (stagedRead s.chip r w addr.toNat) x = false →
       exec (.registerWrite w addr x) s = .next (ok (onSys s.chip fun y =>
         { y with owner := ownerOf w,
                  staged := mapPut none y.staged addr.toNat (some
                    ((stagedRead s.chip r w addr.toNat &&& ~~~(stMask r &&& ~~~fixedMask addr.toNat)) |||
                     (x &&& (stMask r &&& ~~~fixedMask addr.toNat)))) }))) ∧
     (stMask r = 0 → (r.fields.any fun f => f.acc = .st) = false →
       (r.fields.any fun f => f.acc = .wo && !f.rsvd) = false →
       addr ≠ 0x080006 → addr ≠ 0x080007 → addr ≠ 0x080008 →
       modeLocked s.chip w r addr.toNat false (stagedRead s.chip r w addr.toNat) x = false →
       exec (.registerWrite w addr x) s = .next (ok (writeHook
         (setReg s.chip addr.toNat
           (((rawReg s.chip addr.toNat &&& ~~~maskWhere r (fun f => f.acc = .rw && !f.rsvd)) |||
             (x &&& maskWhere r (fun f => f.acc = .rw && !f.rsvd))) &&&
             ~~~(x &&& maskWhere r (fun f => f.acc = .w1c && !f.rsvd))))
         addr.toNat (rawReg s.chip addr.toNat))))) ∧
  (∀ (s : State) (w : Writer), reaches s.chip w = true →
     let latch (a : Nat) (ls : List (Nat × Word)) : State := s.afterAll (onSys s.chip fun y =>
       { y with latches := ls.foldl (fun m e => mapPut 0 m e.1 e.2) y.latches, answer := [statusWord 0 a, regView s.chip a] })
     exec (.hxkTicklRead w) s = .next (latch 0x020000
       [(0x020001, word (s.chip.core.tick / 2 ^ 32)), (0x020002, tickOfs s.chip)]) ∧
     exec (.arbWqst0Read w) s = .next (s.afterAll (onSys s.chip fun y =>
       { y with latches := mapPut 0 y.latches 0x043002 (wqst s.chip 1), dropLatch := some (dropsOf s.chip),
                answer := [statusWord 0 0x043001, regView s.chip 0x043001] })) ∧
     exec (.ethPt0Read w) s = .next (latch 0x070021
       [(0x070022, ethPt s.chip 1), (0x070023, ethPt s.chip 2), (0x070024, ethPt s.chip 3)]) ∧
     exec (.ptpNowlRead w) s = .next (latch 0x080004 [(0x080005, word (now s.chip / 2 ^ 32))]) ∧
     exec (.ptpLsteplRead w) s = .next (latch 0x08000E [(0x08000F, word (unsigned 64 s.chip.ptp.lastStep / 2 ^ 32))]) ∧
     exec (.celNewlRead w) s = .next (latch 0x180002
       [(0x180003, word (s.chip.cel.newest / 2 ^ 32)), (0x180004, word s.chip.cel.oldest), (0x180005, word (s.chip.cel.oldest / 2 ^ 32))]) ∧
     exec (.rindLog0Read w) s = .next (latch 0x0F0021
       [(0x0F0022, rindLogWord s.chip 1), (0x0F0023, rindLogWord s.chip 2), (0x0F0024, rindLogWord s.chip 3)]) ∧
     exec (.tstBitslRead w) s = .next (latch 0x1A0004 [(0x1A0005, word (s.chip.tst.bits / 2 ^ 32))]) ∧
     exec (.arbWqst2Read w) s = .next (s.afterAll (onSys (clearDrop s.chip) fun y =>
       { y with answer := [statusWord 0 0x043003, regView s.chip 0x043003] })) ∧
     (∀ (a : Fin 36) (addr : BitVec 24) r, addr.toNat = 0x040002 + 0x100 * a.val → regDef addr.toNat = some r →
       exec (.rcRead w addr) s = .next (s.afterAll (onSys (arbWmaxRead s.chip a.val)
         fun y => { y with answer := [statusWord 0 addr.toNat, liveRead s.chip r addr.toNat] }))) ∧
     (∀ (addr : BitVec 24) r, regDef addr.toNat = some r → latchedBy s.chip addr.toNat = [] → addr ≠ 0x043003 →
       (∀ a : Fin 36, addr.toNat ≠ 0x040002 + 0x100 * a.val) →
       Reg.canMon.covers addr.toNat = false → maskWhere r (fun f => f.acc = .rc && !f.rsvd) ≠ 0 →
       exec (.rcRead w addr) s = .next (s.afterAll (onSys
         (setReg s.chip addr.toNat (rawReg s.chip addr.toNat &&& ~~~maskWhere r (fun f => f.acc = .rc && !f.rsvd)))
         fun y => { y with answer := [statusWord 0 addr.toNat, liveRead s.chip r addr.toNat] }))))

/-- Committed words of a block become live at the block's boundary, or at once outside SERVICE and STANDBY; words of SYS go
first, and descriptors and slot tables have boundaries of their own (R205 to R207). -/
def Obligations.CommitAppliesComplete : Prop :=
  ∀ (s : State) (b : Fin 28) (n : Fin 512) (k : Nat) (c : Chip), k = blockOf (b.val * 65536) → k ≠ 0 → c = applySys s.chip →
    (atOnce c = false →
      exec (.commitApply b n) s = .next (s.afterAll (applyWords c fun a => decide (blockOf a = k) && due c n.val a))) ∧
    (atOnce c = true →
      (k = 16 → exec (.commitApply b n) s = .next (s.afterAll (applyWhy c))) ∧
      (k = 4 → exec (.commitApply b n) s = .next (s.afterAll (slotsNow c))) ∧
      (k = 2 → exec (.commitApply b n) s = .next (s.afterAll (applyWords (applyPoints c) fun a => decide (blockOf a = 2)))) ∧
      (k ≠ 2 → k ≠ 4 → k ≠ 16 → exec (.commitApply b n) s = .next (s.afterAll (applyWords c fun a => decide (blockOf a = k)))))

/-! ### The Thenicor Service Protocol -/

/-- With a trust anchor installed a handshake opens a session of the lowest free number, and before RNGRDY it waits; 29 s without a valid message may end one (30 s ± 1 s); OPEN, PING and
CLOSE answer OK, CLOSE with the session ended; a command code that no table lists answers 42 hexadecimal
(R213, R214, R496).
CFG.READ answers 1 to 256 words from an address upward, staged ones where FLAGS.STG asks for them, with the first status that
is not OK; CFG.WRITE writes its entries in order up to the first that does not return OK, whose INDEX and status word it
answers (R214, R215). -/
def Obligations.SessionsAndConfigurationComplete : Prop :=
  (∀ s : State,
     (∀ priv fp, trustAnchor s.chip = true → s.chip.sys.mode ≠ .inert → 9 ≤ s.chip.sys.step → s.chip.sys.affUp = true → s.chip.sys.rngReady = false →
       exec (.dtlsHandshake priv fp) s = .next (s.afterAll (onSys s.chip fun y => { y with waiting := y.waiting ++ [(priv, fp)] }))) ∧
     (∀ priv fp (n : Fin 4), trustAnchor s.chip = true → s.chip.sys.mode ≠ .inert → 9 ≤ s.chip.sys.step → s.chip.sys.affUp = true → s.chip.sys.rngReady = true →
       mapGet none s.chip.sys.sessions n.val = none → (∀ m : Fin 4, m < n → mapGet none s.chip.sys.sessions m.val ≠ none) →
       exec (.dtlsHandshake priv fp) s = .next (s.afterAll (onSys s.chip fun y =>
         { y with sessions := mapPut none y.sessions n.val (some ⟨priv, fp.toNat, none, none, none, s.chip.core.tick, none⟩) }))) ∧
     (∀ n x, mapGet none s.chip.sys.sessions n.val = some x → x.heard + 29000000 ≤ s.chip.core.tick →
       exec (.tspSessionTimeout n) s = .next (s.afterAll (endSession s.chip n))) ∧
     (∀ h x, Admitted s.chip h 0x01 .read [] x →
       exec (.tspOpen h []) s = .next (s.afterAll (replied (acceptMsg s.chip h) h 0x01 0
         (bytesLE 4 h.session.val ++ wordBytes sysIdentWord ++ wordBytes (sysModeWord (acceptMsg s.chip h)))))) ∧
     (∀ h x, Admitted s.chip h 0x03 .read [] x →
       exec (.tspPing h []) s = .next (s.afterAll (replied (acceptMsg s.chip h) h 0x03 0 (wordBytes (sysModeWord (acceptMsg s.chip h)))))) ∧
     (∀ h x, Admitted s.chip h 0x02 .read [] x →
       exec (.tspClose h []) s = .next (s.afterAll (replied (endSession (acceptMsg s.chip h) h.session) h 0x02 0 []))) ∧
     (∀ h x cmd p, tspAssigned cmd.toNat = false → Admitted s.chip h cmd.toNat .read p x →
       exec (.tspUnknown h cmd p) s = .next (s.afterAll (replied (acceptMsg s.chip h) h cmd.toNat 0x42 [])))) ∧
  (∀ (s : State) (h : TspHead) (x : Session) (p : List Byte) (c : Chip),
     (∀ st bs, Admitted s.chip h 0x10 .read p x → p.length = 8 → 1 ≤ leAt p 4 4 → leAt p 4 4 ≤ 256 →
       readWords (.session h.session) (headStg h) (leAt p 4 4) (leAt p 0 4) (acceptMsg s.chip h) = (c, st, bs) →
       exec (.cfgRead h p) s = .next (s.afterAll (replied c h 0x10 st bs))) ∧
     (∀ i w, Admitted s.chip h 0x11 .operate p x → 1 ≤ leAt p 0 4 → leAt p 0 4 ≤ 64 → p.length = 4 + 12 * leAt p 0 4 →
       writeEntries (.session h.session) (leAt p 0 4) 0 0 (p.drop 4) (acceptMsg s.chip h) = (c, i, w) →
       exec (.cfgWrite h p) s = .next (s.afterAll (replied c h 0x11 (bits w 31 24) (bytesLE 4 i ++ wordBytes w)))))

/-- COMMIT by a session, where nothing is pending, the host may write, the session owns staging and no rule fails: the touched
words await their boundary, staging is free and the count goes up; ABORT discards the session's staging; STG.BREAK discards
another's and records it (R203 to R206, R212, R216). -/
def Obligations.StagingCommandsComplete : Prop :=
  ∀ (s : State) (h : TspHead) (x : Session) (c : Chip), c = acceptMsg s.chip h →
    (Admitted s.chip h 0x12 .maintain [] x → commitPending c = false → hostLocked c (.session h.session) = false →
      notOwner c (.session h.session) = false → namedFail (commitFails c) = none →
      exec (.tspCommit h []) s = .next (s.afterAll (replied (setField (stageSlots (onSys (noteSetChange c (committedWords c)) fun y =>
          { y with pend := committedWords c, staged := [], owner := .none, commits := y.commits + 1 }))
        Reg.vatXsize.addr 13 0 (if c.sys.staged.isEmpty then fieldOf c Reg.vatXsize.addr 13 0
          else setVolume (afterCommit (noteSetChange c (committedWords c)))))
        h 0x12 0 (List.replicate 8 0)))) ∧
    (Admitted s.chip h 0x13 .operate [] x → c.sys.owner = .none ∨ c.sys.owner = .session h.session →
      exec (.tspAbort h []) s = .next (s.afterAll (replied (ranksDefault (onSys c fun y => { y with owner := .none, staged := [] }))
        h 0x13 0 (List.replicate 4 0)))) ∧
    (Admitted s.chip h 0x14 .maintain [] x → c.sys.mode = .prove ∨ c.sys.mode = .hold ∨ c.sys.mode = .maintenance →
      (c.sys.owner = .session h.session →
        exec (.stgBreak h []) s = .next (s.afterAll (replied (ranksDefault (onSys c fun y => { y with owner := .none, staged := [] }))
          h 0x14 0 (List.replicate 4 0)))) ∧
      (∀ fp, c.sys.owner = .culture → fp = fingerprintOf c h.session →
        exec (.stgBreak h []) s = .next (s.afterAll (replied (deviceRecord
          (onSys (ranksDefault (onSys c fun y => { y with owner := .none, staged := [] })) fun y => { y with broken := true })
          0x00 0x03 1 (fp % 2 ^ 32) (fp / 2 ^ 32)) h 0x14 0 (List.replicate 4 0)))) ∧
      (∀ fp (m : Fin 4), c.sys.owner = .session m → m ≠ h.session → fp = fingerprintOf c h.session →
        exec (.stgBreak h []) s = .next (s.afterAll (replied (deviceRecord
          (ranksDefault (onSys c fun y => { y with owner := .none, staged := [] })) 0x00 0x03 (2 + 4 * m.val) (fp % 2 ^ 32) (fp / 2 ^ 32))
          h 0x14 0 (List.replicate 4 0)))))

/-- CEL.INFO, CEL.SNAP, CEL.READ within a snapshot, CEL.CLOSE of one, and CEL.CLEAR in MAINTENANCE, which offers the clear record
(R485 to R488). -/
def Obligations.CellarCommandsComplete : Prop :=
  ∀ (s : State) (h : TspHead) (x : Session) (c : Chip), c = acceptMsg s.chip h →
    (Admitted s.chip h 0x30 .read [] x →
      exec (.celInfo h []) s = .next (s.afterAll (replied c h 0x30 0 (celInfo c)))) ∧
    (Admitted s.chip h 0x31 .read [] x →
      exec (.celSnap h []) s = .next (s.afterAll (replied (onSession c h.session fun y => { y with snap := some (takeSnap c) })
        h 0x31 0 (seqBytes (takeSnap c).shi ++ seqBytes (takeSnap c).oldest ++ bytesLE 4 (takeSnap c).replat ++ bytesLE 4 0)))) ∧
    (∀ sn, Admitted s.chip h 0x33 .read [] x → snapOf c h.session = some sn →
      exec (.celClose h []) s = .next (s.afterAll (replied (onSession c h.session fun y => { y with snap := none }) h 0x33 0 []))) ∧
    (∀ p sn bs, arbFrozen s.chip (arbKey 34 .a) = false → Admitted s.chip h 0x32 .read p x → p.length = 12 → snapOf c h.session = some sn → leAt p 0 8 ≤ sn.shi →
      1 ≤ leAt p 8 4 → leAt p 8 4 ≤ 31 → celRead c sn (leAt p 0 8) (leAt p 8 4) = (0, bs) →
      exec (.celRead h p) s = .next (s.afterAll (replied c h 0x32 0 bs))) ∧
    (Admitted s.chip h 0x34 .maintain [] x → c.sys.mode = .maintenance → c.cel.clearing = none → c.cel.clearAsked = false →
      c.cel.devBuf.length < 1024 →
      exec (.celClear h []) s = .next (s.afterAll (repliedCode { c with cel := { c.cel with
        clearAsked := true
        devBuf := c.cel.devBuf ++ [{ seq := 0, kind := 1, block := 0x18, rep := 0, opsec := 0, pwrcyc := 0, code := 2, task := 0,
                                     data := bytesLE 8 0 ++ bytesLE 8 (fingerprintOf c h.session) }] } } h 0x34 0)))

/-- A load: UPD.INFO, BEGIN of a full image into a slot that is neither ARMED nor on TRIAL, DATA in order, END of a complete image
(LOADED where its checks pass, or ACTIVE where its kind has no ACTIVE slot, else refused with the first failing check), CANCEL while the flash can be written;
what writes the flash is granted by its arbiter, and a load that CANCEL or another BEGIN ends leaves its record (R180, R184, R492, R501 to R504, R514).
UPD.ARM of a LOADED slot, CONFIRM and REJECT of the trial, REVERT to an OLD slot, PEER to a partner in MAINTENANCE, SVCADDR,
and KEY, which takes a record that its key verifies, while the flash can be
written (R184, R496, R505, R507, R508, R510, R511). -/
def Obligations.UpdateComplete : Prop :=
  (∀ (s : State) (h : TspHead) (x : Session) (c : Chip), c = acceptMsg s.chip h →
     (Admitted s.chip h 0x40 .read [] x → exec (.updInfo h []) s = .next (s.afterAll (replied c h 0x40 0 (updInfo c)))) ∧
     (∀ p kind (dst : Fin 4), flashOpen s.chip = true → Admitted s.chip h 0x41 .maintain p x → p.length = 8 → kind = leAt p 0 1 → kind = 1 ∨ kind = 2 →
       leAt p 1 1 = 0 ∨ leAt p 1 1 = 1 ∧ (slotIn c kind [7]).isSome = true → leAt p 4 4 ≤ 0x4000000 → c.sys.mode ≠ .inert →
       loadTaken c (.session h.session) = false →
       dst = ((kindSlots kind).find? fun k => (slotAt c k).state ≠ 7).getD 0 →
       (slotAt c dst).state ≠ 3 → (slotAt c dst).state ≠ 4 →
       let d := if (slotIn c kind [7]).isNone then ((kindSlots kind).head?).getD 0 else dst
       exec (.updBegin h p) s = .next (s.afterAll (repliedCode (onUpd
         (onSlot (flashUse (endLoad c) 1) d fun _ => { Slot.empty with state := 1 }) fun u =>
         { u with load := some ⟨.session h.session, kind, leAt p 1 1 = 1, leAt p 4 4, d, []⟩ }) h 0x41 0))) ∧
     (∀ p l, flashOpen s.chip = true → Admitted s.chip h 0x42 .maintain p x → 5 ≤ p.length → p.length ≤ 1012 → c.upd.load = some l → l.owner = .session h.session →
       leAt p 0 4 = l.got.length → leAt p 0 4 + (p.length - 4) ≤ l.length →
       exec (.updData h p) s = .next (s.afterAll (replied (onUpd (flashUse c 1) fun u =>
           { u with load := some { l with got := l.got ++ p.drop 4 } })
         h 0x42 0 (bytesLE 4 (l.got.length + (p.drop 4).length))))) ∧
     (∀ l, flashOpen s.chip = true → Admitted s.chip h 0x43 .maintain [] x → c.upd.load = some l → l.owner = .session h.session → l.length ≤ l.got.length →
       l.delta = false →
       let d := flashUse c 1
       let n := loadChecks d l.kind l.got
       let code := if l.kind = 1 ∧ n = 6 then 0x52 else 0x50
       exec (.updEnd h []) s = .next (s.afterAll (
         if n = 0 then replied (loadEnded (onSlot (onUpd d fun u => { u with load := none }) l.slot fun _ =>
             { Slot.empty with state := if (slotIn d l.kind [7]).isNone then 7 else 2, held := .bytes l.got }) l 0 0)
           h 0x43 0 (wordBytes (statusWord 0 0) ++ bytesLE 4 0)
         else replied (loadEnded (onSlot (dropLoad d) l.slot fun y => { y with chkfail := n }) l code n)
           h 0x43 code (wordBytes (statusWord code 0) ++ bytesLE 4 n)))) ∧
     (flashOpen s.chip = true → Admitted s.chip h 0x4B .maintain [] x → loadTaken c (.session h.session) = false →
       exec (.updCancel h []) s = .next (s.afterAll (repliedCode (endLoad c) h 0x4B 0)))) ∧
  (∀ (s : State) (h : TspHead) (x : Session) (c : Chip) (p : List Byte) (cmd : Nat), c = acceptMsg s.chip h → flashOpen s.chip = true →
     Admitted s.chip h cmd .maintain p x →
     (∀ kind, p.length = 4 → kind = leAt p 0 1 → kind = 1 ∨ kind = 2 →
       (∀ k, slotIn c kind [2] = some k → otherTrial c kind = false →
         (kind = 1 → (settings c).sfmt ≤ (fwHead (slotAt c k).held).2.1 ∨ formatHeld c (fwHead (slotAt c k).held).2.1 = true) → cmd = 0x44 →
         exec (.updArm h p) s = .next (s.afterAll (repliedCode (onSlot c k fun y => { y with state := 3, tries := updTries c }) h 0x44 0))) ∧
       (∀ k, slotIn c kind [4] = some k →
         (cmd = 0x45 → exec (.updConfirm h p) s = .next (s.afterAll (repliedCode (confirmSlot c k 1) h 0x45 0))) ∧
         (cmd = 0x46 → exec (.updReject h p) s = .next (s.afterAll (repliedCode (rejectSlot c k 5) h 0x46 0)))) ∧
       (∀ k, slotIn c kind [6] = some k → otherTrial c kind = false → slotIn c kind [3, 4] = none →
         (kind = 1 → (settings c).rollmin ≤ (fwHead (slotAt c k).held).2.2 ∧ formatHeld c (fwHead (slotAt c k).held).2.1 = true) → cmd = 0x47 →
         exec (.updRevert h p) s = .next (s.afterAll (repliedCode (onSlot c k fun y => { y with state := 3, tries := updTries c }) h 0x47 0)))) ∧
     (∀ k : Fin 4, cmd = 0x49 → p.length = 4 → leAt p 0 1 = k.val → c.upd.peer = none → (slotAt c k).state ∈ [2, 3, 4, 6, 7] →
       partnerMode c = some 4 → linkUp c = true →
       exec (.updPeer h p) s = .next (s.afterAll (repliedCode (sendPieces c
         ⟨k, h.session, 0, 0, c.core.tick, false⟩ 0) h 0x49 0))) ∧
     (cmd = 0x4A → p.length = 8 → 8 ≤ leAt p 4 1 → leAt p 4 1 ≤ 30 → zeros (p.drop 5) = true →
       exec (.updSvcaddr h p) s = .next (s.afterAll (repliedCode
         (putSettings c { settings c with svc := some (leAt p 0 4, leAt p 4 1) }) h 0x4A 0))) ∧
     (cmd = 0x48 → p.length = 256 →
       exec (.updKey h p) s = .next (s.afterAll (repliedCode (updKey c p).1 h 0x48 (updKey c p).2))))

/-- TST.START of a test that its mode, target and duration allow while none runs, TST.STATUS, and TST.STOP by the session that
runs it or while none runs, answer OK (R515, R516, R520, R527).
What ends by itself: a running test with the result of its table once its time is over (a LOOP shows its counts until then), the wait for acknowledged pieces
after 10 ms, and, while the flash can be written, a trial that has held its conditions for UPD_CTL.CONFS seconds (R507, R508, R511, R521 to R527).
TST_CTL and TST_LBKn in MAINTENANCE from a session with MAINTAIN: the word takes its value, and what a changed CRUN or depth
brings about follows (R515, R518, R519). -/
def Obligations.TestsComplete : Prop :=
  (∀ (s : State) (h : TspHead) (x : Session) (c : Chip), c = acceptMsg s.chip h →
     (∀ p, Admitted s.chip h 0x50 .maintain p x → p.length = 8 → testArgs (leAt p 0 1) (leAt p 1 1) (leAt p 2 1) = true →
       1 ≤ leAt p 4 4 → leAt p 4 4 ≤ 3600 → c.tst.state ≠ 1 →
       c.sys.mode = .maintenance ∨ c.sys.mode = .service ∧ leAt p 0 1 = 6 →
       (leAt p 0 1 = 1 → depthOk c (leAt p 1 1) (leAt p 2 1) = true) →
       exec (.tstStart h p) s = .next (s.afterAll (repliedCode
         (beginTest c h.session (leAt p 0 1) (leAt p 1 1) (leAt p 2 1) (leAt p 4 4)) h 0x50 0))) ∧
     (Admitted s.chip h 0x51 .maintain [] x →
       exec (.tstStatus h []) s = .next (s.afterAll (replied c h 0x51 0 (tstStatus c)))) ∧
     (Admitted s.chip h 0x52 .maintain [] x → c.tst.state ≠ 1 ∨ c.tst.session = h.session.val →
       exec (.tstStop h []) s = .next (s.afterAll (repliedCode (abortTest c) h 0x52 0)))) ∧
  (∀ s : State,
     (∀ n m smp, s.chip.tst.state = 1 →
       (s.chip.tst.testid = 1 → testRan s.chip < s.chip.tst.dur * 1000000 → exec (.testEnd n m smp) s =
         .next (s.afterAll (onTst s.chip fun t => { t with bits := n.a + n.b + n.c, errs := m }))) ∧
       (s.chip.tst.dur * 1000000 ≤ testRan s.chip →
         (s.chip.tst.testid = 1 → exec (.testEnd n m smp) s = .next (s.afterAll (testResult
           (onTst s.chip fun t => { t with bits := n.a + n.b + n.c, errs := m }) (loopResult s.chip s.chip.tst.target n m smp)))) ∧
         (s.chip.tst.testid = 2 → exec (.testEnd n m smp) s = .next (s.afterAll (vatoutEnd s.chip))) ∧
         (s.chip.tst.testid = 6 →
           exec (.testEnd n m smp) s = .next (s.afterAll (testResult s.chip (if rindProved s.chip then 1 else 2))))) ∧
       (∀ ok, s.chip.tst.testid = 3 → s.chip.tst.votes = some ok →
         exec (.testEnd n m smp) s = .next (s.afterAll (testResult s.chip (if ok then 1 else 2)))) ∧
       (s.chip.tst.testid = 4 → s.chip.tst.loopDone = true →
         exec (.testEnd n m smp) s = .next (s.afterAll (testResult s.chip (if s.chip.fio.lpFail = 0 then 1 else 2)))) ∧
       (s.chip.tst.testid = 5 →
         exec (.testEnd n m smp) s = .next (s.afterAll (testResult s.chip (if pagesAgree s.chip then 1 else 2))))) ∧
     (∀ p, s.chip.upd.peer = some p → p.sentAt + 10000 ≤ s.chip.core.tick →
       exec .pieceAckTimeout s = .next (s.afterAll (sendPieces s.chip p p.acked))) ∧
     (∀ k, flashOpen s.chip = true → trialSlot s.chip = some k → s.chip.upd.confok = true → fieldOf s.chip Reg.updCtl.addr 15 0 ≤ s.chip.upd.held →
       exec .selfConfirm s = .next (s.afterAll (confirmSlot s.chip k 0)))) ∧
  (∀ (s : State) (n : Fin 4) (x : Word), reaches s.chip (.session n) = true → isMaintain s.chip (.session n) = true →
     s.chip.sys.mode = .maintenance →
     (bit x 31 = false ∨ s.chip.culture.loaded = true →
       exec (.tstCtlWrite (.session n) x) s = .next (s.afterAll (onSys (writeHook
         (setReg s.chip 0x1A0001 ((rawReg s.chip 0x1A0001 &&& 0x7FFFFFFF) ||| (x &&& 0x80000000))) 0x1A0001
         (rawReg s.chip 0x1A0001)) fun y => { y with answer := [statusWord 0 0x1A0001] }))) ∧
     (∀ i : Fin 15, depthOk s.chip i.val (bits x 2 0) = true → loopBusy s.chip (0x1A0010 + i.val) = false →
       exec (.tstLbkWrite (.session n) i x) s = .next (s.afterAll (onSys (writeHook
         (setReg s.chip (0x1A0010 + i.val) ((rawReg s.chip (0x1A0010 + i.val) &&& 0xFFFFFFF8) ||| (x &&& 7))) (0x1A0010 + i.val)
         (rawReg s.chip (0x1A0010 + i.val))) fun y => { y with answer := [statusWord 0 (0x1A0010 + i.val)] }))))

/-- What the test commands and the trial's ends do, field by field, each with the state that it answers: TST.START leaves the test
RUNNING with the arguments, the session and the start tick held, a LOOP's depth in its TST_LBKn and a VATOUT's Vat about to be
taken out, or a VATOUT that R522 refuses DONE with REFUSED; TST.STATUS replies and leaves the test as it is; TST.STOP leaves the
session's running test DONE with ABORTED, and an idle one as it is; TEST_END leaves a LOOP DONE with PASS, FAIL or SHORT and its
depth at 0, the other tests with PASS or FAIL; PIECE_ACK_TIMEOUT sends the pieces after the last acknowledged one again;
SELF_CONFIRM makes the trial's slot ACTIVE and the former one OLD; TST_CTL and TST_LBKn take CRUN and the depth, and every other
register of TST_LBKn's write stays (R507, R508, R511, R515, R516, R518 to R522, R526, R527). -/
def Obligations.TestEffectsComplete : Prop :=
  ∀ s : State,
    (∀ (h : TspHead) (x : Session) (c : Chip) (p : List Byte), c = acceptMsg s.chip h → Admitted s.chip h 0x50 .maintain p x →
      p.length = 8 → testArgs (leAt p 0 1) (leAt p 1 1) (leAt p 2 1) = true → 1 ≤ leAt p 4 4 → leAt p 4 4 ≤ 3600 → c.tst.state ≠ 1 →
      c.sys.mode = .maintenance ∨ c.sys.mode = .service ∧ leAt p 0 1 = 6 →
      (leAt p 0 1 = 1 → depthOk c (leAt p 1 1) (leAt p 2 1) = true) →
      ∃ d, exec (.tstStart h p) s = .next (s.afterAll (repliedCode d h 0x50 0)) ∧ d.tst.testid = leAt p 0 1 ∧
        d.tst.target = leAt p 1 1 ∧ d.tst.depth = leAt p 2 1 ∧ d.tst.dur = leAt p 4 4 ∧ d.tst.session = h.session.val ∧
        d.tst.from_ = s.chip.core.tick ∧
        (leAt p 0 1 ≠ 2 → d.tst.state = 1 ∧ d.tst.result = 0 ∧ d.vats = s.chip.vats ∧ d.core = s.chip.core) ∧
        (leAt p 0 1 = 1 → d.regs = (setReg s.chip (0x1A0010 + leAt p 1 1) (word (leAt p 2 1))).regs) ∧
        (leAt p 0 1 = 2 → vatoutRefused c (targetVat (leAt p 1 1)) = false → d.tst.state = 1 ∧
          d.core.todo = s.chip.core.todo ++ [.sour (targetVat (leAt p 1 1)) 10 7 none 0]) ∧
        (leAt p 0 1 = 2 → vatoutRefused c (targetVat (leAt p 1 1)) = true → d.tst.state = 2 ∧ d.tst.result = 5)) ∧
    (∀ h x, Admitted s.chip h 0x51 .maintain [] x →
      ∃ d, exec (.tstStatus h []) s = .next (s.afterAll (replied d h 0x51 0 (tstStatus d))) ∧
        d.tst = s.chip.tst ∧ d.core = s.chip.core ∧ d.vats = s.chip.vats ∧ d.regs = s.chip.regs) ∧
    (∀ h x, Admitted s.chip h 0x52 .maintain [] x →
      (s.chip.tst.state = 1 → s.chip.tst.session = h.session.val →
        ∃ d, exec (.tstStop h []) s = .next (s.afterAll (repliedCode d h 0x52 0)) ∧
          d.tst = { s.chip.tst with state := 2, result := 4 }) ∧
      (s.chip.tst.state ≠ 1 →
        ∃ d, exec (.tstStop h []) s = .next (s.afterAll (repliedCode d h 0x52 0)) ∧ d.tst = s.chip.tst ∧ d.regs = s.chip.regs)) ∧
    (∀ n m smp, s.chip.tst.state = 1 →
      (s.chip.tst.testid = 1 → s.chip.tst.dur * 1000000 ≤ testRan s.chip →
        ∃ d, exec (.testEnd n m smp) s = .next (s.afterAll d) ∧ d.tst.state = 2 ∧ d.tst.bits = n.a + n.b + n.c ∧ d.tst.errs = m ∧
          (s.chip.tst.target < 12 → m ≠ 0 → d.tst.result = 2) ∧
          (s.chip.tst.target < 12 → m = 0 → enoughBits s.chip.tst.target n = false → d.tst.result = 3) ∧
          (s.chip.tst.target < 12 → m = 0 → enoughBits s.chip.tst.target n = true → d.tst.result = 1) ∧
          (12 ≤ s.chip.tst.target → d.tst.result =
            if smp ≠ [] ∧ (∀ x ∈ smp, sampleAgrees s.chip s.chip.tst.target x = true) ∧ m = 0 then 1 else 2)) ∧
      (s.chip.tst.testid = 2 → s.chip.tst.dur * 1000000 ≤ testRan s.chip → ∀ t, s.chip.tst.vatBack = some t →
        (s.chip.tst.vatOk = true →
          ∃ d, exec (.testEnd n m smp) s = .next (s.afterAll d) ∧ d.tst = { s.chip.tst with state := 2, result := 1 }) ∧
        (s.chip.tst.vatOk = false → t + 100000 < s.chip.core.tick →
          ∃ d, exec (.testEnd n m smp) s = .next (s.afterAll d) ∧ d.tst = { s.chip.tst with state := 2, result := 2 })) ∧
      (s.chip.tst.testid = 3 ∧ s.chip.tst.votes.isSome = true ∨ s.chip.tst.testid = 4 ∧ s.chip.tst.loopDone = true ∨ s.chip.tst.testid = 5 ∨
          s.chip.tst.testid = 6 ∧ s.chip.tst.dur * 1000000 ≤ testRan s.chip →
        ∃ d good, exec (.testEnd n m smp) s = .next (s.afterAll d) ∧
          d.tst = { s.chip.tst with state := 2, result := if good = true then 1 else 2 } ∧
          (s.chip.tst.testid = 3 → s.chip.tst.votes = some good) ∧ (s.chip.tst.testid = 4 → good = decide (s.chip.fio.lpFail = 0)) ∧
          (s.chip.tst.testid = 5 →
            good = (decide (s.chip.vats.a.mem = s.chip.vats.b.mem) && decide (s.chip.vats.b.mem = s.chip.vats.c.mem))) ∧
          (s.chip.tst.testid = 6 → good = rindProved s.chip))) ∧
    (∀ p, s.chip.upd.peer = some p → p.sentAt + 10000 ≤ s.chip.core.tick →
      ∃ d, exec .pieceAckTimeout s = .next (s.afterAll d) ∧ d.vats = s.chip.vats ∧ d.regs = s.chip.regs ∧
        (let n := imagePieces (slotAt s.chip p.slot).held.content
         d.upd.peer = some { p with sent := min n (p.acked + 64), sentAt := s.chip.core.tick,
                                    ended := decide (min n (p.acked + 64) = n) })) ∧
    (∀ k, flashOpen s.chip = true → trialSlot s.chip = some k → s.chip.upd.confok = true → fieldOf s.chip Reg.updCtl.addr 15 0 ≤ s.chip.upd.held →
      ∃ d, exec .selfConfirm s = .next (s.afterAll d) ∧ (slotAt d k).state = 7 ∧ (slotAt d k).tries = 0 ∧
        (slotAt d k).held = (slotAt s.chip k).held ∧ d.upd.held = 0 ∧
        (∀ j, slotIn s.chip (slotKind k) [7] = some j → (slotAt d j).state = 6) ∧
        (slotKind k = 1 → (settings d).rollmin = max (settings s.chip).rollmin (fwHead (slotAt s.chip k).held).2.2)) ∧
    (∀ n x, reaches s.chip (.session n) = true → isMaintain s.chip (.session n) = true → s.chip.sys.mode = .maintenance →
      (bit x 31 = false ∨ s.chip.culture.loaded = true →
        ∃ d, exec (.tstCtlWrite (.session n) x) s = .next (s.afterAll d) ∧ d.sys.answer = [statusWord 0 0x1A0001] ∧
          d.regs = (setReg s.chip 0x1A0001 ((rawReg s.chip 0x1A0001 &&& 0x7FFFFFFF) ||| (x &&& 0x80000000))).regs) ∧
      (∀ i : Fin 15, depthOk s.chip i.val (bits x 2 0) = true → loopBusy s.chip (0x1A0010 + i.val) = false →
        ∃ d, exec (.tstLbkWrite (.session n) i x) s = .next (s.afterAll d) ∧ d.sys.answer = [statusWord 0 (0x1A0010 + i.val)] ∧
          d.regs = (setReg s.chip (0x1A0010 + i.val) ((rawReg s.chip (0x1A0010 + i.val) &&& 0xFFFFFFF8) ||| (x &&& 7))).regs ∧
          (∀ b, b ≠ 0x1A0010 + i.val → rawReg d b = rawReg s.chip b)))

/-! ### The charge pair and the Ladle link -/

/-- The partner's toggle: a counted edge is longer than 20 µs, three within 2 ms make it TOGGLING, where a module in charge
compares epochs; 300 µs without one end that, 3 ms make it SILENT, and then a standby that is SYNCED, or may take any,
takes charge where no valid frame has come for 3 ms (R236 to R238, R243).
At H a handover begins at a quiet point where no event task is active and the backlog is within SYNCLIM, and moves to the
next quiet point where not, 16 times; where nothing but the quiet point lacks it waits; 270 µs after its begin, with FINAL sent or
1 ms gone or the link down, the module enters the mode that it leaves for (R265, R266). -/
def Obligations.ChargeComplete : Prop :=
  (∀ s : State,
     (∀ us ts, 20 < us → ts = s.chip.core.tick :: (s.chip.ldl.toggles.filter fun x => s.chip.core.tick ≤ x + 2000).take 2 →
       let edge (g : ChgIn) : Chip := onLdl s.chip fun l =>
         { l with toggles := ts, lastEdge := some s.chip.core.tick, quietFrom := s.chip.core.tick, warned := false, topWarned := false, chgIn := g,
                  watchTog := l.watchTog || decide (g = .toggling) }
       (s.chip.ldl.chgIn ≠ .toggling → ts.length < 3 → exec (.chgInEdge us) s = .next (s.afterAll (edge .notToggling))) ∧
       (s.chip.ldl.chgIn = .toggling → exec (.chgInEdge us) s = .next (s.afterAll (edge .toggling))) ∧
       (s.chip.ldl.chgIn ≠ .toggling → ts.length = 3 → inCharge s.chip = false ∨ s.chip.ldl.handover.any (·.begun) = true →
         exec (.chgInEdge us) s = .next (s.afterAll (edge .toggling))) ∧
       (s.chip.ldl.chgIn ≠ .toggling → ts.length = 3 → inCharge s.chip = true → s.chip.ldl.handover.any (·.begun) = false →
         exec (.chgInEdge us) s = .next (s.afterAll (compareEpochs (edge .toggling))))) ∧
     (s.chip.ldl.chgIn = .toggling → s.chip.ldl.quietFrom + 300 ≤ s.chip.core.tick →
       exec .togglingLost s = .next (s.afterAll (measureGap (onLdl s.chip fun l => { l with chgIn := .notToggling, toggles := [] })))) ∧
     (s.chip.ldl.chgIn = .notToggling → s.chip.ldl.quietFrom + 3000 ≤ s.chip.core.tick →
       exec .partnerSilent s = .next (s.afterAll (onLdl s.chip fun l => { l with chgIn := .silent }))) ∧
     (s.chip.sys.mode = .standby → s.chip.ldl.chgIn = .silent → (within s.chip s.chip.ldl.lastRx 3000 && !equalCoding s.chip) = false →
       s.chip.ldl.sync = 4 ∨ takeAny s.chip = true →
       (nextEpoch s.chip ≤ 0xFFFFFFFF →
         exec .takeover s = .next (s.afterAll (todoMode (setField s.chip Reg.ldlTklast.addr 31 28 1) .service 5))) ∧
       (0xFFFFFFFF < nextEpoch s.chip → exec .takeover s = .next (s.afterAll (raise (onLdl s.chip fun l => { l with topWarned := true }) 1927 (epoch s.chip)))))) ∧
  (∀ (s : State) (h : Leaving), s.chip.ldl.handover = some h → s.chip.sys.mode = .service →
     (∀ next, h.begun = false → h.tick ≤ s.chip.core.tick →
       (((enabledTasks s.chip).any fun t => t.ev && (taskSt s.chip t).active) = false → backlog s.chip ≤ syncLim s.chip →
         (isQuiet s.chip = true →
           exec (.handoverTick next) s = .next (s.afterAll (queueFrame (onLdl (setChg s.chip false) fun l =>
             { l with handover := some { h with tick := s.chip.core.tick, begun := true } }) (finalTx (epoch s.chip))))) ∧
         (isQuiet s.chip = false → exec (.handoverTick next) s = .next (s.afterAll s.chip))) ∧
       (syncLim s.chip < backlog s.chip ∨ ((enabledTasks s.chip).any fun t => t.ev && (taskSt s.chip t).active) = true →
         (∀ n, h.moves < 16 → n = max next (s.chip.core.tick + 1) →
           exec (.handoverTick next) s = .next (s.afterAll (queueFrame (onLdl s.chip fun l =>
             { l with handover := some { h with tick := n, moves := h.moves + 1 } }) ⟨0, 8, false, 0, n % 2 ^ 32, []⟩))) ∧
         (16 ≤ h.moves → exec (.handoverTick next) s = .next (s.afterAll
           (deviceRecord (onLdl s.chip fun l => { l with handover := none }) 0x06 0x01 h.tick))))) ∧
     (h.begun = true → h.tick + 270 ≤ s.chip.core.tick →
       h.final = true ∨ h.tick + 1000 ≤ s.chip.core.tick ∨ ladleUp s.chip = false →
       (h.mode ≠ .inert → exec .relinquishEnd s = .next (s.afterAll (todoMode s.chip h.mode h.cause))) ∧
       (h.mode = .inert → exec .relinquishEnd s = .next (s.afterAll (onLdl s.chip fun l => { l with handover := none })))))

/-- Lanes come up and go down, one of the module's own only while its Vat is SERVING: with two up each way the modules exchange
IDENT, with fewer the link is lost; in a slot arbiter 32 grants the oldest frame of a requester that nothing queued before it
holds back, or a chunk of a full copy; RESYNC asks for a full copy and LINKRESET retrains; a standby's self-test is counted,
and a Vat that fails it is sour (R248, R249, R253, R259, R261, R272). -/
def Obligations.LadleLinkComplete : Prop :=
  ∀ s : State,
    (∀ (v : Vat) (tx : Bool) c, tx = false ∨ serving s.chip v = true →
      c = onLdl s.chip (fun l => if tx then { l with txUp := l.txUp.set v true } else { l with rxUp := l.rxUp.set v true }) →
      let d := onLdl c fun l => { l with sync := 2, seqRx := none, ident := none }
      exec (.ladleLaneUp v tx) s = .next (s.afterAll
        (if !paired c then c
         else if linkUp c && !linkUp s.chip then queueFrame d ⟨2, 14, false, 0, ladleRev, identBytes d⟩
         else if !linkUp c && c.ldl.sync = 0 then onLdl c fun l => { l with sync := 1 } else c))) ∧
    (∀ (v : Vat) (tx : Bool) c,
      c = onLdl s.chip (fun l => if tx then { l with txUp := l.txUp.set v false } else { l with rxUp := l.rxUp.set v false }) →
      exec (.ladleLaneDown v tx) s = .next (s.afterAll (if linkUp s.chip && !linkUp c then linkLost c true else c))) ∧
    (paired s.chip = false ∨ linkUp s.chip = false →
      exec .ladleSlot s = .next (s.afterAll (onLdl s.chip fun l => { l with slot := Tri.all none, fullSlots := 0 }))) ∧
    (paired s.chip = true → linkUp s.chip = true → ∀ fs reqs raised c g,
      fs = sendable s.chip.ldl.fullSlots [] s.chip.ldl.txq → reqs = (fs.map (·.req)).eraseDups →
      raised = (if s.chip.ldl.full.any (fun f => !f.done) && !reqs.contains 0 && decide (s.chip.ldl.fullSlots < 7) &&
        !s.chip.ldl.txq.any (fun f => f.type = 6 || f.type = 9) then 0 :: reqs else reqs) →
      arbDecide s.chip (arbKey 32 .a) (raised.map fun r => (r, 0)) 1 = (c, g) →
      (g = none → exec .ladleSlot s = .next (s.afterAll (onLdl c fun l => { l with slot := Tri.all none, fullSlots := 0 }))) ∧
      (∀ r f, g = some r → fs.find? (fun f => f.req = r) = some f →
        exec .ladleSlot s = .next (s.afterAll (slotSend (onLdl c fun l => { l with txq := l.txq.erase f }) f))) ∧
      (∀ r fc f fc', g = some r → fs.find? (fun f => f.req = r) = none → s.chip.ldl.full = some fc →
        fc.take (plane c (shownVat c)) = some (f, fc') →
        exec .ladleSlot s = .next (s.afterAll (nextPass (slotSend (onLdl c fun l => { l with full := some fc' }) f))))) ∧
    (∀ w d, Commanded s.chip w Reg.ldlCmd.addr →
      d = linkLost (onLdl s.chip fun l => { l with rxUp := Tri.all false, txUp := Tri.all false }) (linkUp s.chip) →
      (s.chip.sys.mode = .standby → exec (.ldlCmdResync w) s = .next (s.afterAll
        (answeredOk (queueFrame s.chip ⟨4, 13, false, 0, 3, []⟩) 0x060002))) ∧
      (s.chip.sys.mode = .standby ∨ s.chip.sys.mode = .service ∨ s.chip.sys.mode = .maintenance →
        exec (.ldlCmdLinkreset w) s = .next (s.afterAll (answeredOk
          (if d.ldl.sync = 4 then d else onLdl d fun l => { l with sync := if paired s.chip then 1 else 0 }) 0x060002)))) ∧
    (∀ (kind : Fin 3) (bad : Tri Bool) c, s.chip.sys.mode = .standby →
      (bad = Tri.all false → exec (.standbySelfTest kind bad) s = .next (s.afterAll
        (onLdl s.chip fun l => { l with testsOk := satAdd 65535 l.testsOk 1 }))) ∧
      (bad ≠ Tri.all false →
        c = onLdl s.chip (fun l => { l with testsBad := satAdd 65535 l.testsBad 1, testBadAt := some s.chip.core.tick }) →
        exec (.standbySelfTest kind bad) s = .next (s.afterAll
          (if kind.val = 2 then todoHold { c with core := { c.core with pressFault := true } } 7 6 none
           else (allVats.filter fun v => bad.get v).foldl
             (fun c v => todoSour c v 1 (if kind.val = 0 then 6 else 7) none 0) c))))

/-- Frames of a task's cycle in a standby: STATE, QSTATE and PRESS wait for their END while SYNCED; QSTATE and PRESS apply at once
in a full copy, and FULL in every state of a copy; SYNC ends it, and the press images reach the field unit; END makes its
epoch known, applies the cycle where all its frames have come, and makes SYNC STALE where not (R241, R254, R258, R259).
Frames of the partner itself: HEALTH fills LDL_PHn, HANDOVER tells H, FINAL hands charge over or ends the copy, TIME sets the
tick and, once the path delay is measured, the slew, UPDATE carries a load and what repeats it is acknowledged again, AFF a message of the Affineur, SYNCREQ asks for a full copy, IDENT pairs or is
refused; a reserved TYPE is counted as dropped (R234, R243, R247, R257, R259, R265, R267, R270, R315, R511). -/
def Obligations.LadleFramesComplete : Prop :=
  (∀ (s : State) (f : Lanes) (c : Chip) (x : LFrame), c.sys.mode = .standby →
     (c.ldl.sync = 4 →
       let kept : State := s.afterAll (onLdl c fun l =>
         { l with rxbuf := mapPut [] l.rxbuf (lfTask x).code (mapGet [] l.rxbuf (lfTask x).code ++ [lfKept x]) })
       (Voted s.chip f 1 c x → exec (.stateFrame f) s = .next kept) ∧
       (Voted s.chip f 2 c x → exec (.qstateFrame f) s = .next kept) ∧
       (Voted s.chip f 3 c x → exec (.pressFrame f) s = .next kept)) ∧
     (3 ≤ c.ldl.sync → c.ldl.sync ≤ 5 → Voted s.chip f 5 c x →
       exec (.fullFrame f) s = .next (s.afterAll (applyFrame (onLdl c fun l => { l with sync := 3, rxbuf := [] }) (lfKept x)))) ∧
     (c.ldl.sync = 3 →
       (Voted s.chip f 2 c x → exec (.qstateFrame f) s = .next (s.afterAll (applyFrame c (lfKept x)))) ∧
       (Voted s.chip f 3 c x → exec (.pressFrame f) s = .next (s.afterAll (applyFrame c (lfKept x)))) ∧
       (∀ d, Voted s.chip f 6 c x → d = (enabledTasks c).foldl (fun c t => loadTask c t c.core.tick) c →
         exec (.syncFrame f) s = .next (s.afterAll (raise (onLdl d fun l => { l with sync := 4, rxbuf := [] }) 1923 (epoch d))))) ∧
     (∀ bad, c.ldl.sync ≠ 4 → Voted s.chip f 4 c x →
       exec (.endFrame f bad) s = .next (s.afterAll (learnEpoch c (leAt x.payload 4 4)))) ∧
     (∀ bad d t fs, c.ldl.sync = 4 → Voted s.chip f 4 c x → t = lfTask x → d = learnEpoch c (leAt x.payload 4 4) →
       fs = mapGet [] d.ldl.rxbuf t.code →
       let e := onLdl d fun l => { l with rxbuf := mapPut [] l.rxbuf t.code [] }
       (fs.length ≠ leAt x.payload 0 4 → exec (.endFrame f bad) s = .next (s.afterAll (becomeStale e))) ∧
       (∀ g k commit n, fs.length = leAt x.payload 0 4 → g = fs.foldl applyFrame e → k = leAt x.payload 12 4 →
         commit = (nearTick g x.h2.toNat).toNat →
         n = loadTask (setTask g t { taskSt g t with cycles := k % 65536, lastCommit := commit,
                                                     ovrLast := bit (word k) 31, tflag := bit (word k) 31 }) t commit →
         let m := onLdl n fun l => { l with applied := mapPut 0 l.applied t.code ((nearTick n (leAt x.payload 8 4)).toNat + 1) }
         let o := match t with
           | .event v => dropPending m v (leAt x.payload 16 4) (leAt x.payload 20 4)
           | _ => m
         exec (.endFrame f bad) s = .next (s.afterAll (match bad with | some v => todoSour o v 1 0 (some t) 0 | none => o))))) ∧
  (∀ (s : State) (f : Lanes) (c : Chip) (x : LFrame),
     (∀ d e, Voted s.chip f 7 c x → e = (List.range 16).foldl
         (fun c n => setReg c (Reg.ldlPh.addr n) (word (leAt x.payload (4 * n) 4))) (learnEpoch c x.h2.toNat) →
       d = onLdl e (fun l => { l with healthAt := some e.core.tick }) →
       exec (.healthFrame f) s = .next (s.afterAll (if partnerReady d = d.ldl.readySeen then d
         else raise (onLdl d fun l => { l with readySeen := partnerReady d }) 1924 (epoch d)))) ∧
     (Voted s.chip f 8 c x → exec (.handoverFrame f) s = .next (s.afterAll (onLdl c fun l => { l with partnerH := some x.h2.toNat }))) ∧
     (Voted s.chip f 9 c x → c.sys.mode = .standby → equalCoding c = false →
       (x.h2 = 0 → exec (.finalFrame f) s = .next (s.afterAll (becomeStale c))) ∧
       (∀ d, x.h2 ≠ 0 → d = onLdl (learnEpoch c x.h2.toNat) (fun l => { l with partnerH := none }) →
         d.ldl.sync = 4 ∨ takeAny d = true →
         exec (.finalFrame f) s = .next (s.afterAll (takeCharge d (if c.ldl.partnerH.isSome then 2 else 3))))) ∧
     (∀ trip d, Voted s.chip f 10 c x → c.sys.mode = .standby →
       d = chooseSource (setTick (onLdl c fun l =>
         { l with timeRx := some c.core.tick, pathDelay := (l.pathDelay <|> trip.map (· / 2)) }) (leAt x.payload 8 8)) →
       (d.ldl.pathDelay = none → exec (.timeFrame f trip) s = .next (s.afterAll d)) ∧
       (∀ delay o, d.ldl.pathDelay = some delay → o = (now d : Int) - (leAt x.payload 0 8 + delay : Nat) →
         (o = 0 → exec (.timeFrame f trip) s = .next (s.afterAll (setSlew d 0))) ∧
         (10000 < o.natAbs → d.ptp.step = none → exec (.timeFrame f trip) s = .next (s.afterAll (decideStep d (-o)))) ∧
         (∀ st e r, o ≠ 0 → o.natAbs ≤ 10000 → drawStamp d = (st, e) → r = (((Config.freeWord st).toNat % 1717986 + 1 : Nat) : Int) →
           exec (.timeFrame f trip) s = .next (s.afterAll (setSlew e (if 0 < o then -r else r)))))) ∧
     (Voted s.chip f 11 c x →
       (bits x.h2 31 28 = 8 → exec (.updateFrame f) s = .next (s.afterAll (peerAck c (bits x.h2 23 0)
         (if x.payload.length = 0 then none else some (leAt x.payload 3 1))))) ∧
       (c.sys.mode = .maintenance → flashOpen c = true →
         (∀ d, bits x.h2 31 28 = 1 → updBegin c .partner (leAt x.payload 0 1) (leAt x.payload 1 1) (leAt x.payload 4 4) = (d, 0) →
           exec (.updateFrame f) s = .next (s.afterAll (onUpd d fun u => { u with endAck := none }))) ∧
         (∀ l d n, bits x.h2 31 28 = 2 → c.upd.load = some l → 256 * bits x.h2 23 0 = l.got.length →
           updData c .partner (256 * bits x.h2 23 0) x.payload = (d, 0, n) →
           exec (.updateFrame f) s = .next (s.afterAll (if n % 16384 = 0 then queueFrame d (updFrame 8 (n / 256) []) else d))) ∧
         (∀ l, bits x.h2 31 28 = 2 → c.upd.load = some l → 256 * bits x.h2 23 0 < l.got.length → (bits x.h2 23 0 + 1) % 64 = 0 →
           exec (.updateFrame f) s = .next (s.afterAll (queueFrame c (updFrame 8 (l.got.length / 16384 * 64) [])))) ∧
         (∀ n st, bits x.h2 31 28 = 3 → c.upd.load = none → c.upd.endAck = some (n, st) →
           exec (.updateFrame f) s = .next (s.afterAll (queueFrame c (updFrame 8 n (bytesLE 8 (st * 2 ^ 24)))))) ∧
         (∀ l d st n, bits x.h2 31 28 = 3 → c.upd.load = some l → l.owner = .partner → l.got.length = l.length →
           updEnd c .partner = (d, st, n) →
           exec (.updateFrame f) s = .next (s.afterAll (queueFrame (onUpd d fun u => { u with endAck := some (bits x.h2 23 0, st) })
             (updFrame 8 (bits x.h2 23 0) (bytesLE 8 (st * 2 ^ 24)))))))) ∧
     (Voted s.chip f 12 c x → exec (.affFrame f) s = .next (s.afterAll (onLdl c fun l => { l with aff := some (x.h2.toNat, x.payload) }))) ∧
     (Voted s.chip f 13 c x → inCharge c = true → c.ldl.sync ≠ 6 → c.ldl.sync ≠ 7 →
       exec (.syncreqFrame f) s = .next (s.afterAll (startFull c))) ∧
     (∀ k, Voted s.chip f 14 c x → k = onLdl c (fun l => { l with ident := some (x.h2.toNat, x.payload) }) →
       (paired c = false → exec (.identFrame f) s = .next (s.afterAll k)) ∧
       (paired c = true →
         let refused (n : Nat) (pos : Bool) : State := s.afterAll (onLdl k fun l =>
           { l with sync := 7, refuse := n, posconf := pos, full := none })
         let met := onLdl k fun l => { l with refuse := 0, posconf := false }
         let known := leAt x.payload 0 4 = 3192 ∧ x.h2.toNat / 256 % 256 = ladleRev / 256
         (leAt x.payload 4 1 = 0 → exec (.identFrame f) s = .next (refused 1 c.ldl.posconf)) ∧
         (leAt x.payload 4 1 ≠ 0 → ¬ known → exec (.identFrame f) s = .next (refused 2 c.ldl.posconf)) ∧
         (leAt x.payload 4 1 ≠ 0 → known → decide (leAt x.payload 5 1 = 1) = c.ldl.posb →
           exec (.identFrame f) s = .next (refused 3 true)) ∧
         (leAt x.payload 4 1 ≠ 0 → known → decide (leAt x.payload 5 1 = 1) ≠ c.ldl.posb →
           (beAt x.payload 24 32 ≠ c.culture.digest → beAt x.payload 56 32 ≠ c.culture.layout →
             exec (.identFrame f) s = .next (s.afterAll (onLdl met fun l => { l with sync := 6, full := none }))) ∧
           (beAt x.payload 24 32 = c.culture.digest ∨ beAt x.payload 56 32 = c.culture.layout →
             (c.sys.mode = .standby → exec (.identFrame f) s = .next (s.afterAll (onLdl met fun l => { l with sync := 3 }))) ∧
             (inCharge c = true → exec (.identFrame f) s = .next (s.afterAll (startFull met))) ∧
             (c.sys.mode ≠ .standby → inCharge c = false →
               exec (.identFrame f) s = .next (s.afterAll (onLdl met fun l => { l with sync := 2 }))))))) ∧
     (∀ k, k = 0 ∨ k = 15 → Voted s.chip f k c x →
       exec (.ladleReservedType f) s = .next (s.afterAll (bump c Reg.ldlDrop.addr 31 16))))

/-! ### The train network and time -/

/-- Process data at an enabled port, not one that is turned back on itself and hears another sender: a bad frame is counted; a good
one on a live network, of the topology in force at its timestamp and the length that its subscription asks for, is delivered to
every subscription that it matches, and where it is tagged, to those of a role only from the role's holder; one for a role that
the module does not hold is counted as moved; a whole telegram is sent with its publisher's next sequence count by
the ports of its network that the press drives, and the fragments of a broken one are taken and sent nowhere
(R277, R280, R286 to R288, R291, R292, R296, R297, R518).
Message data: a request for an inbox opens a session under the next handle and is held for the inbox queue; one that no inbox
takes, that is too long or that finds the module busy is answered by an Me of its status, and one for a role that the module does
not hold by the holder's address; a reply that stands whole in Q32515 is sent to the session's station and ends it,
entries of a broken one are passed over; a session
that is not answered ends (R280, R286, R297 to R300). -/
def Obligations.TrainDataComplete : Prop :=
  (∀ s : State,
     (∀ f : PdFrame, portEn s.chip f.port.val = true → alien s.chip f.port.val f.srcIp = false →
       (f.fcsOk = false → exec (.pdFrameReceive f) s = .next (s.after (bump s.chip (Reg.ethPstat.addr f.port.val) 15 0))) ∧
       (f.fcsOk = true → ethLive s.chip = true → f.supported = true → ∀ m0 ms, pdMatches s.chip f = m0 :: ms →
         f.topo = 0 ∨ f.topo = topoAtTime s.chip f.ts →
         f.dataset.length = bits (rawReg s.chip (Reg.ethSpnt.addr m0)) 10 0 →
         (∀ c i, bit (rawReg s.chip (Reg.ethSctl.addr m0)) 30 = false →
           noteStation s.chip f.srcIp.toNat f.etbn.toNat none = (c, some i) →
           exec (.pdFrameReceive f) s = .next (s.after ((m0 :: ms).foldl (pdDeliver s.chip f i none f.dataset) c))) ∧
         (∀ c d e t i, bit (rawReg s.chip (Reg.ethSctl.addr m0)) 30 = true → takeTag s.chip f.dataset = (c, some t) →
           noteStation c f.srcIp.toNat f.etbn.toNat (some t) = (d, some i) →
           e = (if t.rv && !t.tdst then judgeRoles d i [(t.role, t.repoch)] else d) →
           (t.rv = true → t.tdst = true → (roleOf e t.role).held = false →
             exec (.pdFrameReceive f) s = .next (s.after (bump e Reg.ethCnt1.addr 31 16))) ∧
           ((t.rv = true ∧ t.tdst = true → (roleOf e t.role).held = true) →
             exec (.pdFrameReceive f) s = .next (s.after (((m0 :: ms).filter fun m =>
               !bit (rawReg s.chip (Reg.ethSctl.addr m)) 29 ||
                 (bits (rawReg s.chip (Reg.ethSctl.addr m)) 9 0 = t.role &&
                   (roleOf e (bits (rawReg s.chip (Reg.ethSctl.addr m)) 9 0)).known &&
                   !(roleOf e (bits (rawReg s.chip (Reg.ethSctl.addr m)) 9 0)).held &&
                   (roleOf e (bits (rawReg s.chip (Reg.ethSctl.addr m)) 9 0)).holder = i)).foldl
               (pdDeliver s.chip f i (some t) (f.dataset.drop 16)) e)))))) ∧
     (∀ e0 r c n, releases s.chip [0, 1, 2, 3] = true → firstTelegram (visibleDev s.chip 32514) = some (e0 :: r) →
       n = leAt e0.bytes 8 2 % 8192 →
       c = onEth (takeDevs s.chip 32514 (e0 :: r).length) (fun e => { e with released := e.released.filter fun x => e0.whole < x.1 }) →
       (∀ k topo tag, wholeTelegram (e0 :: r) = true →
         s.chip.eth.released.find? (fun x => x.1 = e0.whole) = some (k, topo, tag) →
         exec .pdTelegramSend s = .next (s.after (onEth c fun e =>
           { e with
             pubSeq := mapPut 0 e.pubSeq n ((mapGet 0 c.eth.pubSeq n + 1) % 2 ^ 32)
             sent := [⟨0, ethRoute c (rawReg c (Reg.ethPdst.addr n)).toNat, 0, (rawReg c (Reg.ethPdst.addr n)).toNat,
               (rawReg c (Reg.ethPcom.addr n)).toNat, bits (rawReg c (Reg.ethPctl.addr n)) 28 26, mapGet 0 c.eth.pubSeq n, topo,
               tag ++ ((e0 :: r).map fun e => (e.bytes.drop 16).take (leAt e.bytes 14 2)).flatten,
               pressPorts c (ethRoute c (rawReg c (Reg.ethPdst.addr n)).toNat)⟩] }))) ∧
       (wholeTelegram (e0 :: r) = false → exec .pdTelegramSend s = .next (s.after c)))) ∧
  (∀ s : State,
     (∀ (m : MdMsg) c d e tag k, portEn s.chip m.port.val = true → alien s.chip m.port.val m.srcIp = false →
       ethLive s.chip = true → s.chip.sys.affUp = true → m.supported = true → m.topo = 0 ∨ m.topo = topoAtTime s.chip m.ts →
       (if m.tagged then takeTag s.chip m.dataset else (s.chip, none)) = (c, tag) → (m.tagged = true → tag.isSome = true) →
       noteStation c m.srcIp.toNat m.etbn.toNat tag = (d, some k) →
       e = (match tag with | some t => if t.rv && !t.tdst then judgeRoles d k [(t.role, t.repoch)] else d | none => d) →
       let said := if e.eth.annSeq = d.eth.annSeq then [] else e.eth.sent
       let body := if m.tagged then m.dataset.drop 16 else m.dataset
       let inbox := (inboxes e).find? fun j => rawReg e (Reg.ethMdcom.addr j) = m.comId &&
         tag.all fun t => !t.rv || !t.tdst || bits (rawReg e (Reg.ethMdctl.addr j)) 25 16 = t.role
       (∀ t x, tag = some t → t.rv = true → t.tdst = true → x = roleOf e t.role → x.held = false →
         exec (.mdRequestReceive m) s = .next (s.after (ethSend (bump e Reg.ethCnt3.addr 31 16)
           [⟨2, ethRoute e m.srcIp.toNat, 0, m.srcIp.toNat, (rawReg e Reg.ethRmcom.addr).toNat, 0, 0, topoInForce e,
             makeTag e (some (t.role, true, x.epoch)) ++ bytesBE 4 (if x.known then
               (match mapGet none e.eth.stations x.holder with | some y => y.ip | none => 0) else 0) ++
             bytesBE 4 m.comId.toNat, netPorts e (ethRoute e m.srcIp.toNat)⟩]))) ∧
       ((∀ t, tag = some t → t.rv = true → t.tdst = true → (roleOf e t.role).held = true) →
         (inbox = none → exec (.mdRequestReceive m) s = .next (s.after (sendMe e m 1 said))) ∧
         (∀ i, inbox = some i →
           (1024 < body.length → exec (.mdRequestReceive m) s = .next (s.after (sendMe e m 2 said))) ∧
           (body.length ≤ 1024 → 64 ≤ e.eth.mdHeld.length →
             exec (.mdRequestReceive m) s = .next (s.after (sendMe (bump e Reg.ethCnt3.addr 15 0) m 3 said))) ∧
           (body.length ≤ 1024 → e.eth.mdHeld.length < 64 →
             exec (.mdRequestReceive m) s = .next (s.after (mdFeed (raise (onEth e fun x => { x with
               nextHandle := if e.eth.nextHandle + 1 = 2 ^ 32 then 1 else e.eth.nextHandle + 1
               sessions := x.sessions ++ [⟨e.eth.nextHandle, i, m.isMr, m.srcIp.toNat, m.comId.toNat⟩]
               mdHeld := x.mdHeld ++ [(i, bytesLE 8 m.ts ++ bytesLE 4 e.eth.nextHandle ++ bytesLE 2 body.length ++
                 bytesLE 1 (b2n m.isMr) ++ bytesLE 1 0 ++ padTo 1024 body)] }) (704 + i) e.eth.nextHandle))))))) ∧
     (∀ all ws k c, all = visibleDev s.chip 32515 → s.chip.sys.affUp = true → releases s.chip [0, 1, 2, 3] = true →
       wholesOf (slotEntries (liveDesc s.chip 32515) 1032) (all.length + 1) 1 all = (ws, k) → c = takeDevs s.chip 32515 k →
       (ws = [] → exec .mdReplySend s = .next (s.after c)) ∧
       (∀ es w x r bytes, ws = es :: w → bytes = (es.map (·.bytes)).flatten →
         c.eth.sessions.find? (fun x => x.handle = leAt bytes 0 4) = some x → x.isMr = true → netReleases c (ethRoute c x.ip) = true →
         r = bits (rawReg c (Reg.ethMdctl.addr x.inbox)) 25 16 →
         exec .mdReplySend s = .next (s.after (onEth (ethSend c [⟨2, ethRoute c x.ip, 0, x.ip, x.comId, 0, 0, topoInForce c,
           makeTag c (some (r, false, (roleOf c r).epoch)) ++ (bytes.drop 8).take (min 1024 (leAt bytes 4 2)),
           pressPorts c (ethRoute c x.ip)⟩])
           fun e => { e with sessions := e.sessions.erase x })))) ∧
     (∀ h, exec (.mdSessionTimeout h) s = .next (s.after (onEth s.chip fun e =>
       { e with sessions := e.sessions.filter fun x => !(x.handle = h && x.isMr) }))))

/-- The network itself: announcements received and sent, a topology change and the inauguration that ends it, with the directory
and the module's train-wide address, stations and roles that age out, links that change, and the bypass relay (R276, R278
to R286, R303, R519). -/
def Obligations.NetworkChangesComplete : Prop :=
  ∀ s : State,
    (∀ f : PdFrame, f.comId = rawReg s.chip Reg.ethAnncom.addr → portEn s.chip f.port.val = true →
      alien s.chip f.port.val f.srcIp = false →
      (f.fcsOk = false → exec (.announcementReceive f) s = .next (s.after (bump s.chip (Reg.ethPstat.addr f.port.val) 15 0))) ∧
      (f.fcsOk = true → ethLive s.chip = true → f.supported = true → f.topo = 0 ∨ f.topo = topoAtTime s.chip f.ts →
        exec (.announcementReceive f) s = .next (s.after (annReceive s.chip f)))) ∧
    (∀ rs n, ethLive s.chip = true →
      (∀ t, s.chip.eth.annAt = some t → t + fieldOf s.chip Reg.ethCtl.addr 23 16 * 10000 ≤ s.chip.core.tick) →
      rs = heldRoles s.chip → n = max 1 ((rs.length + 175) / 176) →
      exec .announcementSend s = .next (s.after (onEth (ethSend s.chip ((List.range n).map fun k =>
        annTelegram s.chip k n ((rs.drop (176 * k)).take 176) s.chip.sys.mode.code)) fun e =>
        { e with annSeq := (e.annSeq + 1) % 2 ^ 32, annAt := some s.chip.core.tick }))) ∧
    (etbnRuns s.chip = true →
      exec .ttdpTopologyChange s = .next (s.after (onEth s.chip fun e => { e with inaug := true })) ∧
      (∀ topo own dir, exec (.inaugurationComplete ⟨topo, own, dir⟩) s =
        .next (s.after (raise (onEth (setReg s.chip Reg.ethTopo.addr topo) fun e =>
        { e with
          inaug := false
          topok := true
          topoPrev := rawReg s.chip Reg.ethTopo.addr
          topoAt := now s.chip
          directory := dir.take 63
          trainIp := own
          stations := mapMapVals none e.stations fun _ x => x.map fun x => { x with stale := true }
          topoPend := (enabledTasks s.chip).map (·.code) }) 640 topo.toNat)))) ∧
    (∀ (i : Fin 4096) x, mapGet none s.chip.eth.stations i.val = some x → x.heard + ethAge s.chip ≤ s.chip.core.tick + 100000 →
      exec (.partnerAgeing i) s = .next (s.after (onEth s.chip fun e =>
        { e with stations := mapErase e.stations i.val, ptDropping := false }))) ∧
    (∀ r : Fin 1024, (roleOf s.chip r.val).known = true → (roleOf s.chip r.val).held = false →
      (roleOf s.chip r.val).heard + ethAge s.chip ≤ s.chip.core.tick →
      exec (.roleAgeing r) s = .next (s.after (setRole s.chip r.val { roleOf s.chip r.val with known := false, epoch := 0 }))) ∧
    (∀ (p : Fin 4) (up giga : Bool),
      let a := Reg.ethPstat.addr p.val
      let u := up && bit (rawReg s.chip (Reg.ethPcfg.addr p.val)) 31
      let c := setField (setField s.chip a 31 31 (b2n u)) a 30 29 (if !u then 0 else if giga then 2 else 1)
      exec (.linkChange p up giga) s = .next (s.after (if bit (rawReg s.chip a) 31 = u then c else raise c (641 + p.val) (b2n u)))) ∧
    (∀ switchBad c, c = onEth (if s.chip.sys.mode = .prove ∧ !s.chip.sys.stopped ∧ s.chip.sys.step = 8 then
        onSys s.chip fun y => { y with step := 9 } else s.chip) (fun e => { e with switchBad := switchBad }) →
      let closed := (bit (rawReg c (Reg.ethPcfg.addr 0)) 25 || bit (rawReg c (Reg.ethPcfg.addr 1)) 25) &&
        !(turned c 0 || turned c 1) && (!ethLive c || switchBad)
      exec (.bypassRelay switchBad) s = .next (s.afterAll (setField (setField c (Reg.ethPstat.addr 0) 28 28 (b2n closed))
        (Reg.ethPstat.addr 1) 28 28 (b2n closed))))

/-- Time domains: a message is passed on by the switch; a supported one of domain 0 or 1 enters its measurements and the source is
chosen again, an unsupported one is counted; a domain that has lost its master, its syncs or its delay leaves the locked state;
a step that waits is applied where no quiet point is needed, before anything later in its tick; a slew and a holdover end, a silent Ladle has the source chosen
again; FREQ and SLEW take effect under manual control (R304 to R317).
Once the copies of the time unit have been compared in a tick, compare units fire at or after their target, before the second's pulse of their tick, and are armed again where they are periodic;
the pulse per second is marked with its accuracy, or measured against the nearest second; a capture takes the time of each path
that shows the edge (R317 to R324). -/
def Obligations.NetworkTimeComplete : Prop :=
  (∀ s : State,
     (∀ (m : PtpMsg) c, turned s.chip m.port.val = false → s.chip.sys.affUp = true → c = ptpForward s.chip m →
       (ptpSupported m = false → exec (.ptpMessageReceive m) s = .next (s.after (bump c Reg.ptpCnt.addr 7 0))) ∧
       (ptpSupported m = true → s.chip.sys.mode ≠ .inert → forDomain s.chip m 0 = true →
         exec (.ptpMessageReceive m) s = .next (s.after (chooseSource (ptpUse c m 0)))) ∧
       (ptpSupported m = true → s.chip.sys.mode ≠ .inert → forDomain s.chip m 0 = false → forDomain s.chip m 1 = true →
         exec (.ptpMessageReceive m) s = .next (s.after (chooseSource (ptpUse c m 1)))) ∧
       (ptpSupported m = true → s.chip.sys.mode = .inert → exec (.ptpMessageReceive m) s = .next (s.after c))) ∧
     (∀ d : Fin 2, (domOf s.chip d.val).state = 3 → domLost s.chip d.val = true →
       exec (.domainLoss d) s = .next (s.after (chooseSource (domState
         (chooseMaster s.chip d.val (liveMasters s.chip d.val (domOf s.chip d.val).masters)) d.val 4)))) ∧
     (∀ st, s.chip.ptp.step = some st → s.chip.ptp.acted ≠ s.chip.core.tick + 1 → s.chip.sys.mode ≠ .service → s.chip.sys.mode ≠ .standby →
       exec .timeStepApply s = .next (s.afterAll (applyStep s.chip st))) ∧
     (∀ t, s.chip.ptp.slewAt = some t → t + 1190000 ≤ s.chip.core.tick →
       exec .slewExpiry s = .next (s.after (onPtp (setReg s.chip Reg.ptpSlew.addr 0) fun p => { p with slewAt := none }))) ∧
     (∀ t, s.chip.ptp.holdFrom = some t → s.chip.ptp.state = 2 →
       t + fieldOf s.chip Reg.ptpCtl.addr 15 0 * 60000000 ≤ s.chip.core.tick →
       exec .holdoverTimeout s = .next (s.after (onPtp s.chip fun p => { p with state := 0, holdFrom := none }))) ∧
     exec .ladleTimeLoss s = .next (s.after (chooseSource s.chip)) ∧
     (∀ w x, Commanded s.chip w Reg.ptpFreqh.addr → Commanded s.chip w Reg.ptpSlew.addr → ptpManual s.chip = true →
       exec (.ptpFreqhWrite w x) s = .next (s.afterAll
         (answeredOk (setFreq (onPtp s.chip fun p => { p with freqlHeld := none })
           (bits x 7 0 * 2 ^ 32 + (s.chip.ptp.freqlHeld.getD (rawReg s.chip Reg.ptpFreql.addr)).toNat : Nat)) 0x080007)) ∧
       exec (.ptpSlewWrite w x) s = .next (s.afterAll (answeredOk (setSlew s.chip (signed 32 x.toNat)) 0x080008)))) ∧
  (∀ s : State,
     (∀ (n : Fin 16) b w t ago, b = unitTick s.chip → w = rawReg b (Reg.ptpCmpctl.addr n.val) → t = cmpTarget b n.val →
       ago = (now b + 2 ^ 40 - t) % 2 ^ 40 → bit w 31 = true → ago < 2 ^ 39 →
       mapGet 0 b.ptp.cmpAt n.val ≠ b.core.tick + 1 → (∀ e, b.ptp.pps = some e → e.1 ≠ b.core.tick) →
       let c := raise b (1040 + n.val) (t % 2 ^ 32)
       (bit w 30 = false → exec (.compareFire n) s = .next (s.afterAll (setField c (Reg.ptpCmpctl.addr n.val) 31 31 0))) ∧
       (∀ per k u, bit w 30 = true → per = 1000 * (rawReg c (Reg.ptpCmpper.addr n.val)).toNat → per ≠ 0 → k = ago / per + 1 →
         u = (t + k * per) % 2 ^ 40 →
         let d := setReg (setField c (Reg.ptpCmpth.addr n.val) 7 0 (u / 2 ^ 32)) (Reg.ptpCmptl.addr n.val) (word u)
         exec (.compareFire n) s = .next (s.afterAll (if 1 < k then setField d (Reg.ptpCmpctl.addr n.val) 29 29 1 else d)))) ∧
     (∀ b, b = unitTick s.chip → bit (rawReg b Reg.ptpPps.addr) 31 = true → bit (rawReg b Reg.ptpPps.addr) 30 = false →
       7 ≤ b.sys.step → ppsDue b = true → exec .ppsOutputEdge s = .next (s.afterAll (onPtp b fun p =>
         { p with pps := some (b.core.tick, match p.state with | 1 => 100 | 2 => 200 | _ => 500) }))) ∧
     (bit (rawReg s.chip Reg.ptpPps.addr) 31 = true →
       (bit (rawReg s.chip Reg.ptpPps.addr) 30 = true →
         (∀ t (o : Int), t % 1000000000 < 500000000 ∧ o = (t % 1000000000 : Nat) ∨
             500000000 < t % 1000000000 ∧ o = ((t % 1000000000 : Nat) : Int) - 1000000000 →
           exec (.ppsInputEdge t) s = .next (s.after (raise (onPtp s.chip fun p => { p with ppsOfs := o }) 1029 (unsigned 32 (sat31 o))))) ∧
         (∀ t st c (o : Int), t % 1000000000 = 500000000 → drawStamp s.chip = (st, c) →
           o = (if bit (Config.freeWord st) 0 then -500000000 else 500000000) →
           exec (.ppsInputEdge t) s = .next (s.after (raise (onPtp c fun p => { p with ppsOfs := o }) 1029 (unsigned 32 (sat31 o))))))) ∧
     (∀ (n : Fin 8) rising (t u : Tri (Option Nat)) c, bit (rawReg s.chip (Reg.ptpCapctl.addr n.val)) 31 = true →
       (bits (rawReg s.chip (Reg.ptpCapctl.addr n.val)) 30 29 = 0 ∨
         bits (rawReg s.chip (Reg.ptpCapctl.addr n.val)) 30 29 = 1 ∧ rising = true ∨
         bits (rawReg s.chip (Reg.ptpCapctl.addr n.val)) 30 29 = 2 ∧ rising = false) →
       (let shows (v : Vat) : Bool := capShows s.chip v (bits (rawReg s.chip (Reg.ptpCapctl.addr n.val)) 6 0) rising
        u = ⟨if shows .a then t.a else none, if shows .b then t.b else none, if shows .c then t.c else none⟩) →
       c = onPtp s.chip (fun p =>
         { p with
           caps := allVats.foldl (fun (m : Tri (SMap Capture)) v => match u.get v with
             | some x => m.upd v fun y => mapMod Capture.zero y n.val fun k => ⟨x, (k.count + 1) % 2 ^ 32, min 2 (k.since + 1)⟩
             | none => m) p.caps }) →
       exec (.captureEdge n rising t) s = .next (s.after (match u.get (shownVat c) with
         | some x => raise c (1056 + n.val) (x % 2 ^ 32)
         | none => c))))

/-! ### The vehicle bus, CAN, the rack -/

/-- MVB frames: a valid master frame is noted and answered by the device, after a foreign one has made an administrator give up
its polls, unless a test has turned the
interface back on itself; a valid slave frame in the reply window fills the source's sink, the join and the acknowledgements; 3.9 ms without a
valid frame end joining of a device that is not the administrator; an entry of Q32516 fills the buffer of its source port (R326 to R338).
The administrator: at a basic period the polls of its number begin; a slot without a reply is counted and the next poll
sent; at a macro cycle boundary a switch of poll list counts down, is abandoned, or takes effect; ASEL asks for one
(R339 to R345). -/
def Obligations.VehicleBusComplete : Prop :=
  (∀ s : State,
     (mvbOn s.chip = true → turned s.chip 4 = false →
       (∀ fc addr start va vb c, mvbFrame s.chip va vb = (c, true) →
         let d := if mvbAdmin c then raise (onMvb (bump c Reg.mvbCnt3.addr 31 16) fun m => { m with polls := [] }) 1158 addr.toNat else c
         exec (.masterFrameReceive fc addr start va vb) s =
           .next (s.after (deviceReply (noteMaster d fc.toNat addr.toNat) fc.toNat addr.toNat start))) ∧
       (∀ (f : MvbSlave) c fc addr, mvbFrame s.chip f.validA f.validB = (c, true) → c.mvb.last = some (fc, addr) →
         (mvbRto c * 1000 < f.begins →
           exec (.slaveFrameReceive f) s = .next (s.after (if mvbAdmin c then bump c Reg.mvbCnt0.addr 15 0 else c))) ∧
         (∀ d e, f.begins ≤ mvbRto c * 1000 → fc ≤ 4 → f.data.length = mvbLen fc →
           d = (if addr = mvbJport c && fc = 1 then
               noteJoin (takeAnnouncement (onMvb c fun m => { m with last := none, await := none }) (word (natLE f.data)))
                 (bits (word (natLE f.data)) 15 0) f.ts
             else onMvb c fun m => { m with last := none, await := none }) →
           e = (if mvbAdmin d && fc = 1 then
             onMvb d fun m => { m with acks := mapPut none m.acks addr (some (word (natLE f.data))) } else d) →
           ((isSink e addr && bits (mvbCfg e addr) 29 27 = fc) = false →
             exec (.slaveFrameReceive f) s = .next (s.after e)) ∧
           ((isSink e addr && bits (mvbCfg e addr) 29 27 = fc) = true → ∀ g q, g = bump e (Reg.mvbPemp.addr addr) 15 0 →
             queueOfPort g 9 (bits (mvbCfg g addr) 19 16) = some q →
             exec (.slaveFrameReceive f) s = .next (s.after
               (appendInbound g q (mvbEntry f.ts addr fc (b2n (!f.validA)) f.data)).1))))) ∧
     (s.chip.mvb.lastValid + 3900 ≤ s.chip.core.tick → mvbAdmin s.chip = false →
       let c := onMvb s.chip fun m => { m with joined := false, lastJoin := none }
       exec .mvbSilence s = .next (s.after (if s.chip.mvb.joined then raise c 1155 else c))) ∧
     (∀ e c, takeDev s.chip 32516 = some (e, c) →
       exec .mvbSourceEntry s = .next (s.after (onMvb c fun m =>
         { m with buffers := mapPut none m.buffers (leAt e 0 2 % 4096) (some ((e.drop 8).take (leAt e 2 2))) })))) ∧
  (∀ s : State,
     (mvbAdmin s.chip = true → s.chip.core.tick % mvbTbp s.chip = 0 → ∀ c,
       c = bumpBy s.chip Reg.mvbCnt3.addr 15 0 s.chip.mvb.polls.length →
       exec .basicPeriod s = .next (s.after (pollNext (onMvb (enterJoined c) fun m =>
         { m with polls := pollsOf c (s.chip.core.tick / mvbTbp s.chip % mvbMacro s.chip), period := c.core.tick })))) ∧
     (mvbAdmin s.chip = true →
       exec .mvbSlotEnd s = .next (s.after (pollNext (onMvb
         (match s.chip.mvb.await with | some j => bump s.chip (Reg.mvbPemp.addr j) 31 16 | none => s.chip)
         fun m => { m with await := none })))) ∧
     (s.chip.core.tick % (mvbTbp s.chip * mvbMacro s.chip) = 0 → ∀ c, c = applyPend s.chip mvbScheduled →
       let fin (d : Chip) : State := s.after (onMvb d fun m => { m with announced := false, acks := [] })
       (s.chip.mvb.cdn = 0 ∨ mvbAdmin c = false → exec .macroCycleBoundary s = .next (fin c)) ∧
       (s.chip.mvb.cdn ≠ 0 → mvbAdmin c = true →
         (s.chip.mvb.setChanged = true → exec .macroCycleBoundary s = .next (fin (abandonSwitch c 2 0))) ∧
         (s.chip.mvb.setChanged = false →
           (s.chip.mvb.announced = false → exec .macroCycleBoundary s = .next (fin c)) ∧
           (s.chip.mvb.announced = true →
             (1 < s.chip.mvb.cdn →
               exec .macroCycleBoundary s = .next (fin (onMvb c fun m => { m with cdn := m.cdn - 1 }))) ∧
             (∀ p, s.chip.mvb.cdn = 1 → notReady c = some p →
               exec .macroCycleBoundary s = .next (fin (abandonSwitch c 1 p))) ∧
             (s.chip.mvb.cdn = 1 → notReady c = none →
               exec .macroCycleBoundary s = .next (fin (raise (bump (onMvb c fun m =>
                 { m with poll := m.next, cdn := 0 }) Reg.mvbCnt2.addr 31 16) 1152 s.chip.mvb.next))))))) ∧
     (∀ w (x : Word), Commanded s.chip w Reg.mvbAsel.addr → bits x 31 28 = 1 → mvbAdmin s.chip = true → s.chip.mvb.cdn = 0 →
       bits x 1 0 ≠ s.chip.mvb.poll →
       exec (.mvbAselWrite w x) s = .next (s.afterAll (answeredOk (onMvb s.chip fun m =>
         { m with next := bits x 1 0, cdn := mvbLead s.chip, announced := false, setChanged := false }) Reg.mvbAsel.addr))))

/-- CAN frames received: an invalid one is counted; a valid one enters the monitor and, unless its filter drops it, the queue
that the filter names, with the source of a full queue raised at the first drop after a
curd without one. The monitor is read by one reader at a time, whose lock
ends after 9 ms without a read (R347 to R351, R363, R366).
CAN frames sent: an entry enters the store, the most urgent frame is offered on an idle bus, and success, lost arbitration
and errors end the offer, the last with bus-off above 255; recovery ends bus-off; a reference instant makes a reference
message; RECOVER starts recovery and FLUSH empties the store (R353 to R362, R365). -/
def Obligations.CanComplete : Prop :=
  (∀ (s : State) (p : Fin 4),
     (∀ f : CanRx, canOn s.chip p.val = true → (canOf s.chip p.val).state ≠ 2 → turned s.chip (5 + p.val) = false →
       (f.valid = false →
         exec (.canFrameReceive p f) s = .next (s.after (recBad (bump s.chip (Reg.canCnt2.addr p.val) 31 16) p.val f.recAdd))) ∧
       (∀ act ix c, f.valid = true → route s.chip p.val f = (act, ix) → c = recGood (monitorFrame s.chip p.val ⟨f, ix⟩) p.val →
         (act = 0 ∨ act = 3 → exec (.canFrameReceive p f) s = .next (s.after c)) ∧
         (∀ q d lost, act = 1 ∨ act = 2 → queueOfPort c 10 (2 * p.val + (act - 1)) = some q →
           appendInbound c q (rxEntry f ix) = (d, lost) →
           (lost = false → exec (.canFrameReceive p f) s = .next (s.after d)) ∧
           (lost = true →
             let e := onCan d p.val fun x =>
               if act = 1 then { x with lost0 := true, lostSt := true } else { x with lost1 := true, lostSt := true }
             exec (.canFrameReceive p f) s = .next (s.after
               (if (if act = 1 then (canOf d p.val).lost0 || (canOf d p.val).shown0 else (canOf d p.val).lost1 || (canOf d p.val).shown1) then e
                else raise e (canSrc p.val (4 + act)) (rxIdw f))))))) ∧
     (∀ w (k : Fin 20) x, reaches s.chip w = true → canOf s.chip p.val = x →
       let read (c : Chip) : State := s.afterAll (onSys c fun y =>
         { y with answer := [statusWord 0 (Reg.canMon.addr p.val k.val), monWord x.window k.val] })
       (x.lock = none → bit (rawReg s.chip (Reg.canMonctl.addr p.val)) 31 = true → k = 0 →
         exec (.canMonRead w p k) s = .next (read (onCan s.chip p.val fun y => { y with lock := some (w, s.chip.core.tick) }))) ∧
       (∀ t, x.lock = some (w, t) → k.val = shownLast x.window →
         exec (.canMonRead w p k) s = .next (read (monRelease s.chip p.val))) ∧
       (∀ t, x.lock = some (w, t) → k.val ≠ shownLast x.window →
         exec (.canMonRead w p k) s = .next (read (onCan s.chip p.val fun y => { y with lock := some (w, s.chip.core.tick) }))) ∧
       (∀ o t, x.lock = some (o, t) → o ≠ w → exec (.canMonRead w p k) s = .next (read s.chip))) ∧
     (∀ o t, (canOf s.chip p.val).lock = some (o, t) → t + 9000 ≤ s.chip.core.tick →
       exec (.monitorLockTimeout p) s = .next (s.after (monDrop s.chip p.val)))) ∧
  (∀ (s : State) (p : Fin 4) (x : CanCtl), canOf s.chip p.val = x →
     (∀ e c, canOn s.chip p.val = true → txPend x < 64 → takeDev s.chip (32517 + p.val) = some (e, c) →
       (canOpen c p.val = false → exec (.canStoreFill p) s = .next (s.after (bump c (Reg.canCnt1.addr p.val) 31 16))) ∧
       (canOpen c p.val = true → badFrame (canCfg c p.val) (entryFrame e) = true →
         exec (.canStoreFill p) s = .next (s.after (bump c (Reg.canCnt2.addr p.val) 15 0))) ∧
       (∀ d, canOpen c p.val = true → badFrame (canCfg c p.val) (entryFrame e) = false →
         d = onCan c p.val (fun y => { y with store := y.store ++ [entryFrame e] }) →
         exec (.canStoreFill p) s = .next (s.after (if 64 ≤ txPend (canOf d p.val) then raise d (canSrc p.val 4) else d)))) ∧
     (canOpen s.chip p.val = true → x.state ≠ 2 → x.offered = none →
       exec (.canBusIdle p) s = .next (s.after (onCan s.chip p.val fun y => { y with offered := match x.frozen, x.refMsg with
         | some f, _ => some f
         | none, some f => some f
         | none, none => mostUrgent x.store }))) ∧
     (∀ f, x.offered = some f →
       (∀ sof b c, b = (if turned s.chip (5 + p.val) then canDeliver s.chip p.val (ownFrame s.chip p.val sof f) else s.chip) →
         c = canState (onCan b p.val fun y =>
           { y.leave f with offered := none, tec := y.tec - 1, sentCount := (y.sentCount + 1) % 2 ^ 32 }) p.val →
         exec (.canTxSuccess p sof) s = .next (s.after (if f.isRef then
           raise (bump (onCan c p.val fun y => { y with
             refLast := some sof, refMsg := y.refMsg.map fun g => { g with data := bytesBE 8 sof } }) (Reg.canCnt3.addr p.val) 15 0) (canSrc p.val 7) (sof % 2 ^ 32)
           else c))) ∧
       exec (.canArbLost p) s = .next (s.after (bump (onCan s.chip p.val fun y => { y with offered := none }) (Reg.canCnt0.addr p.val) 31 16)) ∧
       (∀ counts t c, t = x.tec + (if counts then 8 else 0) →
         c = bump (onCan s.chip p.val fun y => { y with offered := none, tec := t }) (Reg.canCnt0.addr p.val) 15 0 →
         exec (.canTxError p counts) s = .next (s.after (if 255 < t then enterBusOff c p.val f else canState c p.val)))) ∧
     (x.state = 2 → x.recov = true →
       exec (.canRecoveryDone p) s = .next (s.after (raise (onCan s.chip p.val fun y =>
         { y with tec := 0, rcv := 0, state := 0, recov := false }) (canSrc p.val 3) x.offIdw.toNat))) ∧
     (∀ w per ph c, w = rawReg s.chip (Reg.canRefctl.addr p.val) → per = (rawReg s.chip (Reg.canRefper.addr p.val)).toNat →
       ph = (rawReg s.chip (Reg.canRefph.addr p.val)).toNat → bit w 31 = true → per ≠ 0 →
       ((now s.chip / 1000 : Nat) - (ph : Int)) % per = 0 → x.refTick ≠ some s.chip.core.tick → canOpen s.chip p.val = true →
       c = (if x.refMsg.isSome then bump s.chip (Reg.canCnt3.addr p.val) 31 16 else s.chip) →
       exec (.referenceInstant p) s = .next (s.after (onCan c p.val fun y =>
         { y with
             refMsg := some ⟨word (b2n (bit w 30) * 2 ^ 31 + bits w 28 0), 8, 0, bytesBE 8 (x.refLast.getD 0), true⟩,
             refTick := some s.chip.core.tick }))) ∧
     (∀ w, Commanded s.chip w (Reg.canCmd.addr p.val) →
       (x.state = 2 → x.recov = false → bit (canCfg s.chip p.val) 28 = false →
         exec (.canCmdRecover w p) s = .next (s.afterAll
           (answeredOk (onCan s.chip p.val fun y => { y with recov := true }) (Reg.canCmd.addr p.val)))) ∧
       exec (.canCmdFlush w p) s = .next (s.afterAll (answeredOk (flushStore s.chip p.val false) (Reg.canCmd.addr p.val)))))

/-- Rack transfers begun: an entry of Q32521 puts a write of its window to arbiter 33, or is turned back in loopback; an input
window is read where it is due, a read due while the last one runs after it; a master's words are gathered until its window is
complete, and an outbound request backs the master off; bus requests are granted in turn while no master owns the bus (R369 to R375, R376,
R379 to R382).
Rack transactions ended: by the wait limit, by their result, of which the last ends the transfer, or after too many back-offs,
which are repeated from the first word not transferred until then; the bus then goes to the next request of arbiter 33; the
sideband lines raise the sources of the changes (R376 to R381, R387). -/
def Obligations.RackComplete : Prop :=
  (∀ s : State,
     (∀ e c, takeDev s.chip 32521 = some (e, c) →
       (looped s.chip 9 = true → brgOn s.chip = true →
         exec .outputWindowWrite s = .next (s.after (turnBack c (leAt e 0 2 % 64) ((e.drop 16).take (leAt e 2 2))))) ∧
       (looped s.chip 9 = false → brgDrive s.chip = true →
         (s.chip.brg.xfers.any fun e => match e.2 with | some x => x.write | none => false) = false →
         exec .outputWindowWrite s = .next (s.after (startTransfer c (leAt e 0 2 % 64)
           ⟨true, (e.drop 16).take (leAt e 2 2), 0, [], 0, none⟩)))) ∧
     (∀ n : Fin 64, brgDrive s.chip = true → bit (winCfg s.chip n.val) 31 = true → winKind (winCfg s.chip n.val) = 1 →
       (∀ k, TaskId.ofCode (ptTask (rawReg s.chip) (winPoint s.chip n.val)) = .periodic k →
         aligned s.chip k (s.chip.core.tick + bits (winCfg s.chip n.val) 26 16) = true) →
       (mapGet none s.chip.brg.xfers n.val = none →
         exec (.inputWindowRead n) s = .next (s.after (startTransfer s.chip n.val ⟨false, [], 0, [], 0, none⟩))) ∧
       ((mapGet none s.chip.brg.xfers n.val).isSome = true →
         exec (.inputWindowRead n) s = .next (s.after (onBrg s.chip fun b =>
           { b with again := mapPut 0 b.again n.val (mapGet 0 b.again n.val + 1) })))) ∧
     (∀ (slot : Fin 16) addr ts ad, ((brgDrive s.chip && s.chip.brg.grant = some slot.val) || brgMon s.chip) = true →
       (brgMon s.chip = false → outboundReady s.chip = true → exec (.rackMasterWrite slot addr ts ad) s =
         .next (s.after (bump (onBrg s.chip fun b => { b with grant := none }) Reg.brgCnt0.addr 31 16))) ∧
       (brgMon s.chip = true ∨ outboundReady s.chip = false → ∀ n start words cfg,
         inboundPlace s.chip addr = some (n, start) → cfg = inboundCfg s.chip n start →
         start = 0 ∧ winCredit s.chip n = true ∨ start ≠ 0 ∧ start = (mapGet [] s.chip.brg.gathered n).length →
         start + ad.length ≤ winLen cfg → ad.length ≤ 16 → ad ≠ [] →
         words = (if start = 0 then [] else mapGet [] s.chip.brg.gathered n) ++ ad →
         let c := onBrg s.chip fun b => { b with
           grant := none, gathered := mapPut [] b.gathered n words,
           under := mapPut none b.under n (some (if start = 0 then winWords s.chip n else xferWords s.chip n)) }
         exec (.rackMasterWrite slot addr ts ad) s = .next (s.after (if words.length = winLen cfg then
           endTransfer c n 0 ts (words.flatMap (laneBytes (bits cfg 28 27))) else c)))) ∧
     (∀ (lines : BitVec 16) k, brgDrive s.chip = true → outboundReady s.chip = false → s.chip.brg.grant = none →
       ((List.range 16).map fun j => (s.chip.brg.lastGrant + 1 + j) % 16).find? (fun j => lines.getLsbD j) = some k →
       exec (.rackBreq lines) s = .next (s.after (onBrg s.chip fun b => { b with grant := some k, lastGrant := k })))) ∧
  (∀ s : State,
     (∀ (n : Fin 64) x, mapGet none s.chip.brg.xfers n.val = some x →
       (∀ clocks ts, onBus s.chip n.val = true → brgTmo s.chip ≤ clocks →
         exec (.rackWaitLimit n ⟨clocks, ts⟩) s = .next (s.after (brgNext 64 (endTransfer s.chip n.val 1 ts [])))) ∧
       (∀ words ts ws, onBus s.chip n.val = true → ws = words.take (transStop x.next (xferLen s.chip n.val x) - x.next - 1) →
         (brgRetry s.chip ≤ x.retries →
           exec (.rackBackoff n words ts) s = .next (s.after (brgNext 64 (endTransfer s.chip n.val 3 ts [])))) ∧
         (x.retries < brgRetry s.chip →
           exec (.rackBackoff n words ts) s = .next (s.after (brgNext 64 (onBrg (brgFree s.chip) fun b =>
             { b with xfers := mapPut none b.xfers n.val (some { x with
                 next := x.next + ws.length, got := if x.write then [] else x.got ++ ws, backed := some s.chip.core.tick }) }))))) ∧
       (x.backed.isSome = true →
         exec (.backoffRepeat n) s = .next (s.after (brgNext 64 (onBrg (bump s.chip Reg.brgCnt0.addr 15 0) fun b =>
           { b with xfers := mapPut none b.xfers n.val (some { x with retries := x.retries + 1, backed := none }) }))))) ∧
     (∀ (n : Fin 64) (res : Fin 8) ts ad cfg x stop got, cfg = xferCfg s.chip n.val →
       res = 0 ∨ res = 2 ∧ winKind cfg ≠ 0 ∨ res = 5 →
       (onBus s.chip n.val = true ∧ brgDrive s.chip = true ∨
         brgMon s.chip = true ∧ bit cfg 31 = true ∧ winKind cfg = 1) →
       x = (mapGet none s.chip.brg.xfers n.val).getD BrgXfer.read → stop = transStop x.next (xferLen s.chip n.val x) →
       got = x.got ++ (List.range (stop - x.next)).map (fun k => ad.getD k 0) →
       (res ≠ 0 ∨ xferLen s.chip n.val x ≤ stop → exec (.rackTransferEnd n res ts ad) s =
         .next (s.after (brgNext 64 (endTransfer s.chip n.val res.val ts (got.flatMap (laneBytes (bits cfg 28 27))))))) ∧
       (res = 0 → stop < xferLen s.chip n.val x → exec (.rackTransferEnd n res ts ad) s =
         .next (s.after (brgNext 64 (onBrg (if brgDrive s.chip && onBus s.chip n.val then brgFree s.chip else s.chip) fun b =>
           { b with xfers := mapPut none b.xfers n.val (some { x with next := stop, got := got, retries := 0 })
                    under := mapPut none b.under n.val (some (xferWords s.chip n.val)) }))))) ∧
     (∀ (irq pres : BitVec 16) sysfail c d, brgOn s.chip = true →
       c = (List.range 16).foldl (fun c k => if irq.getLsbD k && !s.chip.brg.irq.getLsbD k then raise c (1664 + k) k else c)
         (onBrg s.chip fun b => { b with irq := irq, pres := pres, sysfail := sysfail }) →
       d = (List.range 16).foldl (fun c k => if pres.getLsbD k = s.chip.brg.pres.getLsbD k then c
         else raise c (1680 + k) (b2n (pres.getLsbD k))) c →
       exec (.sidebandChange irq pres sysfail) s =
         .next (s.after (if sysfail = s.chip.brg.sysfail then d else raise d 1696 (b2n sysfail)))))

/-! ### Field inputs and outputs, Rind, power -/

/-- Field lanes: a good input frame, next in its lane's sequence, carries what the field unit holds, sampled 1 µs before; each command
waits for its own commit tick and drives the outputs then; a refresh keeps a lane on, and without one in 500 µs the lane is off, and
with fewer than two the outputs are inert until a command committed after the loss with two lanes refreshed; a bad frame of any
kind is counted; an input's level, as the levels of its group's class give it, is accepted
after its debounce time (R130, R131, R390 to R394, R424). -/
def Obligations.FieldLanesComplete : Prop :=
  ∀ s : State,
    (∀ (v : Vat) seq, fioOn s.chip = true → turned s.chip 11 = false →
      (∀ ok c, c = onFio s.chip (fun x => { x with seqUp := x.seqUp.set v (some seq) }) →
        (frameValid (s.chip.fio.seqUp.get v) ok seq = true → exec (.inputFrame v ⟨ok, seq⟩) s = .next (s.afterAll (onFio c fun x =>
          { x with
            frames := x.frames.set v
              { path := x.paths.get v, fault := x.fault, openD := x.openD, tpflt := x.tpflt, fsok := x.fsok,
                time := (plane s.chip v).time - 1000,
                alp := x.alp.filterMap fun e => (resultSent s.chip.core.tick e.2).map fun r => (e.1, some r) } }))) ∧
        (frameValid (s.chip.fio.seqUp.get v) ok seq = false → exec (.inputFrame v ⟨ok, seq⟩) s = .next (s.afterAll (laneBad c)))) ∧
      (∀ ok, let c := noteDown s.chip v seq
        (frameValid (s.chip.fio.seqDown.get v) ok seq = true → exec (.refreshFrame v ⟨ok, seq⟩) s = .next (s.afterAll (onFio c fun x =>
          { x with lanes := x.lanes.upd v fun l => { l with off := false, fresh := some s.chip.core.tick } }))) ∧
        (frameValid (s.chip.fio.seqDown.get v) ok seq = false → exec (.refreshFrame v ⟨ok, seq⟩) s = .next (s.afterAll (laneBad c)))) ∧
      (∀ ok p rest, s.chip.fio.tx.get v = p :: rest →
        let c := noteDown (onFio s.chip fun x => { x with tx := x.tx.set v rest }) v seq
        (frameValid (s.chip.fio.seqDown.get v) ok seq = true → exec (.commandFrame v ⟨ok, seq⟩) s = .next (s.afterAll (onFio c fun x =>
          { x with lanes := x.lanes.upd v fun l => { l with pend := l.pend ++ [p] } }))) ∧
        (frameValid (s.chip.fio.seqDown.get v) ok seq = false → exec (.commandFrame v ⟨ok, seq⟩) s = .next (s.afterAll (laneBad c))))) ∧
    ((allVats.filter (laneFresh s.chip)).length < 2 →
      exec .refreshLoss s = .next (s.afterAll (onFio s.chip fun x => { x with inert := true, lossAt := some s.chip.core.tick }))) ∧
    (∀ v : Vat, laneFresh s.chip v = false → exec (.fieldLaneRefreshTimeout v) s = .next (s.afterAll
      (onFio s.chip fun x => { x with lanes := x.lanes.upd v fun l => { l with off := true } }))) ∧
    (∀ (v : Vat) p, p ∈ (s.chip.fio.lanes.get v).pend → p.commit ≤ s.chip.core.tick →
      ∃ c, exec .outputApply s = .next (s.afterAll c) ∧
        (2 ≤ (allVats.filter (laneFresh s.chip)).length → s.chip.pwr.fault.getLsbD 6 = false →
          (∀ x, s.chip.fio.lossAt = some x → x < p.commit) → c.fio.inert = false) ∧
        ((allVats.filter (laneFresh s.chip)).length < 2 → c.fio.inert = s.chip.fio.inert) ∧
        ∀ (u : Vat) l, l = s.chip.fio.lanes.get u → c.fio.lanes.get u =
          { l with
            cmd := (l.pend.filter fun p => decide (p.commit ≤ s.chip.core.tick)).foldl FCmd.after l.cmd
            pend := l.pend.filter fun p => decide (s.chip.core.tick < p.commit) }) ∧
    (∀ (v : Vat) (n : Fin 64) (x : RawInput) run, fioOn s.chip = true →
      99000 * fieldOf s.chip (Reg.dioDicfg.addr n.val) 31 16 ≤ 100 * debounceRun s.chip n.val run + 5000 →
      let accepted (b : Bool) : State := s.afterAll (onPath s.chip v fun p =>
        { p with levels := if b then p.levels ||| (1 <<< n.val) else p.levels &&& ~~~((1 : BitVec 64) <<< n.val) })
      ((classLevels (inputClass s.chip n.val)).1 ≤ x.volt → exec (.debounceAccept v n ⟨x, run⟩) s = .next (accepted true)) ∧
      (x.volt ≤ (classLevels (inputClass s.chip n.val)).2 → exec (.debounceAccept v n ⟨x, run⟩) s = .next (accepted false)) ∧
      ((classLevels (inputClass s.chip n.val)).2 < x.volt → x.volt < (classLevels (inputClass s.chip n.val)).1 →
        exec (.debounceAccept v n ⟨x, run⟩) s = .next (accepted x.reads)))

/-- Checks of the field unit: test pulses begin in phase and their samples, supply and current limit are judged; an overload of a
switch that conducts latches FAULT, of a group switch with both members, which clears once the command has been off for 1 ms;
readback, open loads after 10 ms, stage tests, also those of the test VOTER, and field supplies are judged and raise their
sources (R396 to R399, R404, R405, R408, R413, R520). -/
def Obligations.FieldChecksComplete : Prop :=
  ∀ s : State,
    (∀ (t : Fin 8) w per ms, w = tpCfg s.chip t.val → per = bits w 20 11 → ms = now s.chip / 1000000 → supplyOn s.chip = true →
      (bit w 31 = true → per ≠ 0 → ((ms : Int) - bits w 10 1) % per = 0 → now s.chip % 1000000 < 1000 → inPulse s.chip t.val = false →
        exec (.testPulse t) s = .next (s.afterAll (onFio s.chip fun x =>
          { x with pulses := mapPut none x.pulses t.val (some (s.chip.core.tick, bits w 30 21)) }))) ∧
      (∀ run, 1000 < run → exec (.testPulseCurrentLimit ⟨t, run⟩) s = .next (s.afterAll (setTpflt s.chip t.val true 1)))) ∧
    (fioOn s.chip = true →
      (∀ (n : Fin 36) run hot g, g = n.val - 32 → hot = true ∨ limitTime s.chip n.val ≤ run →
        (n.val < 32 → conducts s.chip n.val = true →
          exec (.outputOverload ⟨n, run, hot⟩) s = .next (s.afterAll (latchFault s.chip n.val))) ∧
        (32 ≤ n.val → groupOn s.chip g = true →
          exec (.outputOverload ⟨n, run, hot⟩) s = .next (s.afterAll (latchFault (latchFault
            (onFio s.chip fun x => { x with gfault := x.gfault ||| ((1 : BitVec 4) <<< g) }) (24 + 2 * g)) (25 + 2 * g))))) ∧
      (∀ (n : Fin 32) (rb : Tri Bool), ∃ c d, exec (.readbackCheck n rb) s = .next (s.afterAll d) ∧
        d = (if (maj3 c.fio.paths.a.rberr c.fio.paths.b.rberr c.fio.paths.c.rberr).getLsbD n.val &&
            !(maj3 s.chip.fio.paths.a.rberr s.chip.fio.paths.b.rberr s.chip.fio.paths.c.rberr).getLsbD n.val then
          raise (bump c Reg.dioCnt.addr 21 11) (64 + n.val) 2 else c) ∧
        ∀ v : Vat, (c.fio.paths.get v).rb.getLsbD n.val = rb.get v ∧
          (c.fio.paths.get v).rberr.getLsbD n.val = (if rb.get v = s.chip.fio.eff.getLsbD n.val then false
            else if mapGet 0 s.chip.fio.changed n.val + rbDelay s.chip n.val ≤ s.chip.core.tick then true
            else (s.chip.fio.paths.get v).rberr.getLsbD n.val))) ∧
    (supplyOn s.chip = true →
      (∀ (f : Fin 4) volt curr c, c = onFio s.chip (fun x =>
          { x with
            fsVolt := mapPut 0 x.fsVolt f.val (volt % 65536)
            fsCurr := mapPut 0 x.fsCurr f.val (curr % 65536)
            fsok := if 1680 ≤ volt && volt ≤ 3600 then x.fsok ||| ((1 : BitVec 4) <<< f.val)
              else x.fsok &&& ~~~((1 : BitVec 4) <<< f.val) }) →
        exec (.fieldSupplyChange f volt curr) s = .next (s.afterAll
          (if (decide (1680 ≤ volt) && decide (volt ≤ 3600)) = s.chip.fio.fsok.getLsbD f.val then c
           else raise c (104 + f.val) (b2n (1680 ≤ volt && volt ≤ 3600)))))) ∧
    (∀ (t : Fin 8) (raw : Tri (BitVec 64)) rbOk e m c, pulseEnd s.chip t.val = some e → s.chip.core.tick < e →
      e ≤ s.chip.core.tick + 20 →
      m = checkedBy s.chip t.val →
      c = onFio s.chip (fun x =>
        { x with paths := ⟨{ x.paths.a with tpfail := (x.paths.a.tpfail &&& ~~~m) ||| (raw.a &&& m) },
                           { x.paths.b with tpfail := (x.paths.b.tpfail &&& ~~~m) ||| (raw.b &&& m) },
                           { x.paths.c with tpfail := (x.paths.c.tpfail &&& ~~~m) ||| (raw.c &&& m) }⟩ }) →
      exec (.testPulseSample t raw rbOk) s = .next (s.afterAll (setTpflt c t.val (!rbOk) 2))) ∧
    (∀ (n : Fin 36) g off, g = n.val - 32 →
      off = (fun k => !s.chip.fio.eff.getLsbD k && decide (mapGet 0 s.chip.fio.changed k + 1000 ≤ s.chip.core.tick)) →
      (n.val < 32 → off n.val = true → exec (.faultClear n) s = .next (s.afterAll (onFio s.chip fun x =>
        { x with fault := x.fault &&& ~~~((1 : BitVec 32) <<< n.val) }))) ∧
      (32 ≤ n.val → off (24 + 2 * g) = true → off (25 + 2 * g) = true →
        exec (.faultClear n) s = .next (s.afterAll (onFio s.chip fun x =>
          { x with gfault := x.gfault &&& ~~~((1 : BitVec 4) <<< g) })))) ∧
    (∀ (n : Fin 32) run,
      exec (.openDetect n ⟨false, run⟩) s = .next (s.afterAll (onFio s.chip fun x =>
        { x with openD := x.openD &&& ~~~((1 : BitVec 32) <<< n.val) })) ∧
      (∀ c, conducts s.chip n.val = true → 10000 ≤ run → c = onFio s.chip (fun x => { x with openD := x.openD ||| ((1 : BitVec 32) <<< n.val) }) →
        exec (.openDetect n ⟨true, run⟩) s = .next (s.afterAll
          (if s.chip.fio.openD.getLsbD n.val then c else raise c (64 + n.val) 3)))) ∧
    (∀ bad : BitVec 36, s.chip.sys.mode = .standby → outEnable s.chip = false →
      exec (.outputStageTest bad) s = .next (s.afterAll ((List.range 36).foldl
        (fun c n => if bad.getLsbD n then deviceRecord (raise c 108 n) 0x0C 0x01 n else c)
        (countTest (onFio s.chip fun x => { x with stageBad := bad }) (bad = 0))))) ∧
    (∀ bad : BitVec 36, s.chip.sys.mode ≠ .standby → voterRuns s.chip = true →
      exec (.outputStageTest bad) s = .next (s.afterAll ((List.range 36).foldl
        (fun c n => if bad.getLsbD n then deviceRecord (raise c 108 n) 0x0C 0x01 n else c)
        { onFio s.chip (fun x => { x with stageBad := bad }) with tst := { s.chip.tst with votes := some (decide (bad = 0)) } })))

/-- Speed inputs and analog channels: an edge that passes the glitch filter advances the paths that see it, a wheel that stands still and a sensor's faults
are reported from the copies that see them; a conversion is damped, judged and delivered, with its alarms after four in a row
and none while it settles; OUTERR follows its readback, a cold junction its state (R416 to R429). -/
def Obligations.SpeedAndAnalogComplete : Prop :=
  ∀ s : State,
    (∀ (n : Fin 8) rising both (t : Tri (Option Nat)) held, fioOn s.chip = true → bit (spdCfg s.chip n.val) 31 = true →
      100 * spdFilt s.chip n.val ≤ held →
      ∃ c, exec (.speedEdge n rising both ⟨t, held⟩) s = .next (s.afterAll c) ∧ ∀ v : Vat,
        c.fio.paths.get v = match t.get v with
          | some x => pathEdge s.chip n.val rising both x (s.chip.fio.paths.get v)
          | none => s.chip.fio.paths.get v) ∧
    (∀ (n : Fin 8), ∃ c, exec (.stillTimeout n) s = .next (s.afterAll c) ∧ ∀ v : Vat,
      c.fio.paths.get v =
        if ((s.chip.fio.paths.get v).spdOf n.val).state ≠ 0 ∧
            ((s.chip.fio.paths.get v).spdOf n.val).tl + (bits (spdCfg s.chip n.val) 15 0 - 1) * 1000000 ≤ (plane s.chip v).time
        then (s.chip.fio.paths.get v).putSpd n.val { (s.chip.fio.paths.get v).spdOf n.val with state := 0 }
        else s.chip.fio.paths.get v) ∧
    (∀ (n : Fin 8) (brk short : Tri Bool) run, fioOn s.chip = true → bit (spdCfg s.chip n.val) 31 = true →
      bit (spdCfg s.chip n.val) 30 = false → 1000 ≤ run ∨ (∀ v, brk.get v = false ∧ short.get v = false) →
      ∃ c, exec (.speedSensorFault n brk ⟨short, run⟩) s = .next (s.afterAll c) ∧ ∀ (v : Vat) p b m,
        b = spdBase s.chip n.val → m = (1 : BitVec 8) <<< n.val → p = { s.chip.fio.paths.get v with
          spdBrk := if brk.get v then (s.chip.fio.paths.get v).spdBrk ||| m else (s.chip.fio.paths.get v).spdBrk &&& ~~~m
          spdShort := if short.get v then (s.chip.fio.paths.get v).spdShort ||| m else (s.chip.fio.paths.get v).spdShort &&& ~~~m } →
        c.fio.paths.get v = if p.faulty s.chip b then p.putSpd b { p.spdOf b with state := 0 } else p) ∧
    (∀ (n : Fin 32) (x : BitVec 32) opened ch w notch, ch = alpOf s.chip n.val → ch.row ≠ 0 → w = alpCfg s.chip n.val →
      notch = bit (alpXctl s.chip) 0 →
      ∃ c, exec (.conversionEnd n x opened) s = .next (s.afterAll c) ∧
        (alpOf c n.val).y = some (damped w notch ch.y x.toInt) ∧
        ((∃ e ∈ ch.settle, 0 < e.1) → (alpOf c n.val).lo = (ch.lo && isLoop w) ∧ (alpOf c n.val).hi = (ch.hi && isLoop w) ∧ (alpOf c n.val).brk = ch.brk ∧
          (alpOf c n.val).last = ch.last ∧ (alpOf c n.val).settle = ch.settle.map fun e => (e.1 - 1, e.2)) ∧
        ((∀ e ∈ ch.settle, e.1 = 0) → (alpOf c n.val).settle = [] ∧
          (ch.row ≠ 2 → isLoop w = true →
            ((alpOf c n.val).lo, (alpOf c n.val).loRun) = alarmStep ch.lo (x.toInt ≤ 3600000) ch.loRun ∧
            ((alpOf c n.val).hi, (alpOf c n.val).hiRun) = alarmStep ch.hi (21000000 ≤ x.toInt) ch.hiRun ∧
            ((alpOf c n.val).brk, (alpOf c n.val).brkRun) = alarmStep ch.brk (2 ≤ alpKind w && x.toInt < 500000) ch.brkRun) ∧
          (ch.row ≠ 2 → isLoop w = false →
            ((alpOf c n.val).brk, (alpOf c n.val).brkRun) = alarmStep ch.brk (opened && 4 ≤ alpKind w) ch.brkRun) ∧
          ((alpOf c n.val).brk = true → (alpOf c n.val).last = ch.last))) ∧
    (∀ (n : Fin 32) t,
      ((alpOf s.chip n.val).outerr = true → (alpOf s.chip n.val).okFrom = some t →
        t + bits (alpXctl s.chip) 15 8 * 1000 ≤ s.chip.core.tick →
        exec (.outerrTimer n) s = .next (s.afterAll (onAlp s.chip n.val fun x => { x with outerr := false }))) ∧
      ((alpOf s.chip n.val).outerr = false → (alpOf s.chip n.val).errFrom = some t →
        t + bits (alpXctl s.chip) 15 8 * 1000 ≤ s.chip.core.tick →
        exec (.outerrTimer n) s = .next (s.afterAll (raise (bump (onAlp s.chip n.val fun x => { x with outerr := true })
          Reg.alpCnt.addr 15 0) (416 + n.val) (unsigned 32 ((alpOf s.chip n.val).setpoint.getD 0)))))) ∧
    (∀ (j : Fin 4) sound temp c, c = onFio s.chip (fun x =>
        { x with
          cjok := if sound then x.cjok ||| ((1 : BitVec 4) <<< j.val) else x.cjok &&& ~~~((1 : BitVec 4) <<< j.val)
          cjTemp := mapPut 0 x.cjTemp j.val temp }) →
      exec (.coldJunctionChange j sound temp) s = .next (s.afterAll
        (if s.chip.fio.cjok.getLsbD j.val = sound then c else raise c (480 + j.val) (b2n sound))))

/-- Rind's cycle, inputs and diagnostics: the comparison of speeds and the deceleration check, the filtered inputs and their pairs,
test pulses, speed edges and the torque-enable test are judged with the demands they leave; the oscillator, diagnostics and
the end of start-up enter their states, one that failed in START with its own cause; the status frame is sent or has gone silent (R439 to R462). -/
def Obligations.RindJudgesComplete : Prop :=
  ∀ s : State, s.chip.rind.on = true →
    (∀ t bad fsLow c d e g more, c = onRind s.chip (fun r =>
        { r with
          clk := t, fsLow := fsLow
          spd0 := { r.spd0 with bad := (bad : BitVec 2).getLsbD 0 }, spd1 := { r.spd1 with bad := bad.getLsbD 1 } }) →
      d = (if speedsDiffer c t then some (c.rind.diffAt.getD t) else none) →
      e = onRind c (fun r =>
        { r with diffAt := d, diff := d.any fun x => decide (bits (rindPar c 9) 23 16 * 10000000 ≤ t - x) }) →
      decelCheck e (rindV e t) = (g, more) →
      exec (.rindCycle t bad fsLow) s = .next (s.afterAll (rindJudge g (lockedPresent s.chip) (rindDemands g) more))) ∧
    (∀ t (si low : BitVec 8) c, c = [0, 2, 4, 6].foldl (fun c i => judgePair c i t)
        ((List.range 8).foldl (fun c i => if low.getLsbD (bits (rindPsi c i) 26 24) then c else filterIn c i t (si.getLsbD i))
          (onRind s.chip fun r => { r with clk := t })) →
      exec (.safetyInputEval t si low) s = .next (s.afterAll
        (rindJudge c (lockedPresent s.chip) ((rindDemands c).filter fun x => x.1 = 2)))) ∧
    (∀ (k : Fin 8) (si : BitVec 8) c, c = onRind s.chip (fun r => { r with tpSeen := mapPut 0 r.tpSeen k.val r.clk }) →
      exec (.rindTpSample k si) s = .next (s.afterAll (rindJudge
        (((List.range 8).filter fun i => siEn c i && bits (rindPsi c i) 26 24 = k.val).foldl (fun c i => onIn c i fun x =>
          if si.getLsbD i then { x with badTp := x.badTp + 1, tpFail := decide (1 ≤ x.badTp) }
          else { x with badTp := 0, tpFail := false }) c) (lockedPresent s.chip) []))) ∧
    (∀ (n : Fin 2) t tl, (rindSpd s.chip n.val).tl = some tl →
      exec (.rindSpeedEdge n t) s = .next (s.afterAll (onRind s.chip fun r =>
        if n.val = 0 then { r with spd0 := { r.spd0 with p := t - tl, tl := some t } }
        else { r with spd1 := { r.spd1 with p := t - tl, tl := some t } }))) ∧
    (∀ (diff : BitVec 2) c, c = onRind s.chip (fun r => { r with teDiff := diff }) →
      (diff = 0 → exec (.teTest diff) s = .next (s.afterAll c)) ∧
      (diff ≠ 0 → exec (.teTest diff) s = .next (s.afterAll (rindFail c 12)))) ∧
    (7 ≤ s.chip.sys.step →
      (∀ count, 15680 ≤ count → count ≤ 16320 → exec (.oscillatorWindow count) s = .next (s.afterAll (onRind s.chip fun r =>
        { r with oscGood := r.oscGood + 1, oscBad := 0, oscPassed := r.oscPassed || decide (2 ≤ r.oscGood),
                 clockref := r.clockref && decide (r.oscGood < 9) }))) ∧
      (∀ count c, count < 15680 ∨ 16320 < count → c = onRind s.chip (fun r => { r with oscGood := 0, oscBad := r.oscBad + 1 }) →
        exec (.oscillatorWindow count) s = .next (s.afterAll (if 3 ≤ c.rind.oscBad then rindFail c 13 else c))) ∧
      exec .clockrefTimeout s = .next (s.afterAll (rindJudge
        (onRind s.chip fun r => { r with clockref := true, oscGood := 0 }) (lockedPresent s.chip) []))) ∧
    (∀ d : Fin 10,
      (d.val ≤ 4 → exec (.rindDiagnostic d false) s = .next (s.afterAll (rindFail s.chip 13))) ∧
      (d.val = 8 → exec (.rindDiagnostic d false) s = .next (s.afterAll (rindFail s.chip 12))) ∧
      (d.val = 9 → exec (.rindDiagnostic d false) s = .next (s.afterAll (rindFail s.chip 14)))) ∧
    (s.chip.rind.state = 0 →
      (exec (.rindStartEnd false) s = .next (s.afterAll
        (rindEnter (rindFail s.chip 13) (5, min 13 (s.chip.rind.startCause.getD 13), 0xFF)))) ∧
      (∀ k, s.chip.rind.startCause = some k → exec (.rindStartEnd true) s = .next (s.afterAll (rindEnter s.chip (5, k, 0xFF)))) ∧
      (s.chip.rind.startCause = none → bit (rindPar s.chip 0) 31 = false → rindDemands s.chip = [] → lockedPresent s.chip = [] →
        exec (.rindStartEnd true) s = .next (s.afterAll
          (raise (onRind s.chip fun r => { r with state := 2 }) 512 (2 + s.chip.rind.cause * 256)))) ∧
      (s.chip.rind.startCause = none → bit (rindPar s.chip 0) 31 = true → rindDemands s.chip = [] → lockedPresent s.chip = [] →
        exec (.rindStartEnd true) s = .next (s.afterAll (rindEnter s.chip (1, 16, 0xFF))))) ∧
    exec .rindStatusSend s = .next (s.afterAll (onRind s.chip fun r => { r with sent := some (rindBytes s.chip), sentAt := s.chip.core.tick })) ∧
    (s.chip.rind.sentAt + 5000 ≤ s.chip.core.tick →
      exec .rindStatusTimeout s = .next (s.afterAll (onRind s.chip fun r => { r with sent := none }))) ∧
    exec .rstHigh10s s = .next (s.afterAll (raise s.chip 523))

/-- A reset pulse of 100 ms to 3 s starts Rind from SAFE or LOCKED with nothing demanded and nothing locked, or accepts the settings
that wait for it; one too short or too long is refused with reason 3 (R449, R450, R465).
RIND_CMD from a session that may write it: UNLOCK with the password, ACCEPT of the proposal (at once, or for a reset pulse to
confirm), SETPW with a free salt, LOCK; the password words are cleared each time. An unanswered ACCEPT, an unlock and a block
end in time (R463 to R469). -/
def Obligations.RindCommandsComplete : Prop :=
  (∀ s : State, s.chip.rind.on = true →
     (∀ h, 100000 ≤ h → h ≤ 3000000 →
       (∀ t n, s.chip.rind.acceptAt = some (t, n) → s.chip.core.tick ≤ t + 61000000 →
         exec (.resetPulse (some h)) s = .next (s.afterAll (proofReset s.chip (acceptSet s.chip n)))) ∧
       (s.chip.rind.acceptAt = none → s.chip.rind.state = 1 ∨ s.chip.rind.state = 4 →
         (rindDemands s.chip ≠ [] → exec (.resetPulse (some h)) s = .next (s.afterAll (proofReset s.chip (refuseReset s.chip 1)))) ∧
         (rindDemands s.chip = [] → lockedPresent s.chip = [] →
           (s.chip.rind.state = 4 → s.chip.rind.faultAt + 1000000000 ≤ s.chip.rind.clk) →
           exec (.resetPulse (some h)) s = .next (s.afterAll (proofReset s.chip (raise (raise (bump
             (onRind s.chip fun r => { r with state := 2 }) Reg.rindCnt0.addr 15 0) 512 (2 + s.chip.rind.cause * 256)) 521 2)))))) ∧
     (∀ h, h < 100000 ∨ 3000000 < h → exec (.resetPulse (some h)) s = .next (s.afterAll (refuseReset s.chip 3)))) ∧
  (∀ s : State,
     (∀ (n : Fin 4) c, rindWritable s.chip (.session n) = true → Commanded s.chip (.session n) Reg.rindCmd.addr →
       c = (match s.chip.rind.unlock with
         | some (k, _) => if k = n then onRind s.chip fun r => { r with unlock := some (k, s.chip.core.tick) } else s.chip
         | none => s.chip) →
       let ok (d : Chip) : State := s.afterAll (answeredOk (clearPw d) Reg.rindCmd.addr)
       (rindCheckval c = false → c.rind.blockAt = none →
         (∀ salt d, c.rind.digest = some (salt, d) → pwValid (pwBytes c) = true → pwDigest salt (pwBytes c) = d →
           exec (.rindUnlock n) s = .next (ok (onRind c fun r => { r with unlock := some (n, c.core.tick), wrong := 0, cmdres := 1 }))) ∧
         (∀ salt d, c.rind.digest = some (salt, d) → pwValid (pwBytes c) = false ∨ pwDigest salt (pwBytes c) ≠ d → c.rind.wrong < 4 →
           exec (.rindUnlock n) s = .next (ok (raise (bump (onRind c fun r =>
             { r with wrong := c.rind.wrong + 1, cmdres := 2 }) Reg.rindCnt1.addr 15 0) 525 (4 - c.rind.wrong))))) ∧
       (rindCheckval c = true → (rawReg c Reg.rindArg.addr).toNat = akval (rindProposal c) →
         exec (.rindAccept n) s = .next (ok (onRind c fun r => { r with acceptAt := some (c.core.tick, fingerprintOf c n), cmdres := 8 }))) ∧
       (rindCheckval c = false → c.rind.unlock.isSome = true → (rawReg c Reg.rindArg.addr).toNat = rindCrc (rindProposal c) →
         exec (.rindAccept n) s = .next (ok (acceptSet c (fingerprintOf c n)))) ∧
       (∀ k d, rindCheckval c = false → c.rind.unlock.isSome = true ∨ c.rind.digest = none → pwValid (pwBytes c) = true →
         drawStamp c = (k, d) →
         exec (.rindSetpw n) s = .next (ok (rindLogEntry (onRind d fun r =>
           { r with digest := some ((Config.freeWord k).toNat, pwDigest (Config.freeWord k).toNat (pwBytes d)), cmdres := 1 })
           2 false (fingerprintOf d n)))) ∧
       (rindCheckval c = false → exec (.rindLock n) s = .next (ok (onRind c fun r => { r with unlock := none, cmdres := 1 })))) ∧
     (∀ t n, s.chip.rind.acceptAt = some (t, n) → t + 59000000 ≤ s.chip.core.tick →
       exec .acceptTimeout s = .next (s.afterAll (onRind s.chip fun r => { r with acceptAt := none, cmdres := 9 }))) ∧
     (∀ n t, s.chip.rind.unlock = some (n, t) → t + 840000000 ≤ s.chip.core.tick → s.chip.rind.blockAt = none →
       exec .unlockTimeout s = .next (s.afterAll (onRind s.chip fun r => { r with unlock := none }))) ∧
     (∀ t, s.chip.rind.unlock = none → s.chip.rind.blockAt = some t → t + 840 ≤ s.chip.cel.opsec →
       exec .unlockTimeout s = .next (s.afterAll (onRind s.chip fun r => { r with blockAt := none }))))

/-- Power: an interruption is detected, ends within 20 ms with its length recorded, or leads into the orderly power-down, whose
end writes the records and resets the module; the input switch opens and closes on an overvoltage; the store, the baseplate
and the regions are measured against their limits (R529 to R540). -/
def Obligations.PowerComplete : Prop :=
  ∀ s : State,
    (∀ mv run, powered s.chip = true → s.chip.pwr.downAt = none → s.chip.pwr.intrAt = none → mv ≤ 560 → intrFilter s.chip ≤ run →
      exec (.interruptionDetect ⟨mv, run⟩) s = .next (s.afterAll (raise (setPwrFlag (onPwr s.chip fun p =>
        { p with intrAt := some s.chip.core.tick, lowest := mv }) 31 false) 2112 mv))) ∧
    (∀ t lowest, s.chip.pwr.intrAt = some t → s.chip.pwr.downAt = none → t + 1000 ≤ s.chip.core.tick →
      s.chip.core.tick < t + 20000 → s.chip.pwr.openAt = none →
      exec (.interruptionEnd lowest) s = .next (s.afterAll (deviceRecord (raise (setReg (bump
        (setPwrFlag (onPwr s.chip fun p => { p with intrAt := none }) 31 true) Reg.pwrCnt.addr 31 16) Reg.pwrLastint.addr
        (word (s.chip.core.tick - t))) 2113 (s.chip.core.tick - t)) 0x1B 1 (s.chip.core.tick - t) (min lowest s.chip.pwr.lowest)))) ∧
    (∀ t c, s.chip.pwr.intrAt = some t → t + 20000 ≤ s.chip.core.tick → s.chip.pwr.downAt = none → powered s.chip = true →
      c = onPwr { deviceRecord s.chip 0x00 6 s.chip.pwr.lowest with
          ptp := { (deviceRecord s.chip 0x00 6 s.chip.pwr.lowest).ptp with stored := now (deviceRecord s.chip 0x00 6 s.chip.pwr.lowest) }
          cel := { (deviceRecord s.chip 0x00 6 s.chip.pwr.lowest).cel with accept := false } }
        (fun p => { p with downAt := some (deviceRecord s.chip 0x00 6 s.chip.pwr.lowest).core.tick }) →
      exec .interruptionTimeout s = .next (s.afterAll (if mustRelinquish s.chip then
        beginLeaving c ⟨c.core.tick, 0, true, false, .inert, 0⟩ else onLdl (setChg c false) fun l => { l with handover := none }))) ∧
    (∀ c, s.chip.pwr.downAt.isSome = true → c = deviceRecord (abortTest s.chip) 0x00 0x01 (s.chip.sys.mode.code * 256) →
      exec .powerDownEnd s = .next (s.afterAll (resetChip (if c.cel.ready then flushRecords c else c)))) ∧
    (∀ mv run, powered s.chip = true → s.chip.pwr.openAt = none → overvoltage mv run = true →
      exec (.inputOvervoltage ⟨mv, run⟩) s = .next (s.afterAll (interruption (raise (bump (setPwrFlag (onPwr s.chip fun p =>
        { p with openAt := some s.chip.core.tick, highest := mv }) 31 false) Reg.pwrCnt.addr 15 0) 2114 mv) mv))) ∧
    (∀ t highest, s.chip.pwr.openAt = some t → t + 10000 ≤ s.chip.core.tick →
      exec (.inputSwitchClose highest) s = .next (s.afterAll (deviceRecord (onPwr s.chip fun p => { p with openAt := none }) 0x1B 2
        (max highest s.chip.pwr.highest) (s.chip.core.tick - t)))) ∧
    (powered s.chip = true →
      (∀ cap hup w c, s.chip.pwr.intrAt = none → w = min 65535 hup * 65536 + min 65535 cap →
        c = setReg s.chip Reg.pwrHup.addr (word w) →
        exec (.storeMeasure cap hup) s = .next (s.afterAll
          (if decide (hup < 280) = pwrFlag c 28 then c
           else if hup < 280 then deviceRecord (raise (setPwrFlag c 28 true) 2117 1) 0x1B 4 w
           else raise (setPwrFlag c 28 false) 2117 0))) ∧
      (∀ t c warn, c = setReg s.chip (Reg.pwrTemp.addr 5) (word (signed16 t)) →
        warn = (if pwrFlag c 27 then decide (bpWarn c - 30 ≤ t) else decide (bpWarn c < t)) →
        exec (.baseplateWarning t) s = .next (s.afterAll
          (if warn = pwrFlag c 27 then c
           else if warn then deviceRecord (raise (setPwrFlag c 27 true) 2115 1) 0x1B 3 (unsigned 32 t)
           else raise (setPwrFlag c 27 false) 2115 0))) ∧
      (∀ (t : Tri Int) c d, c = allVats.foldl (fun c v => setReg c (Reg.pwrTemp.addr v.num) (word (signed16 (t.get v)))) s.chip →
        d = max t.a (max t.b t.c) - min t.a (min t.b t.c) →
        exec (.regionTempDiff t) s = .next (s.afterAll
          (if decide (150 < d) = pwrFlag c 26 then c
           else if 150 < d then deviceRecord (raise (setPwrFlag c 26 true) 2116 1) 0x01 4 d.toNat
           else raise (setPwrFlag c 26 false) 2116 0))))
end

