-- ==== Sys2Proof/Laws/Commands.lean ====
section
/-! SUPPORT. Everything that a write of a whole register can do at the configuration port, and a TSP request at its command, once
nothing refuses it. Cite these
instead of unfolding `writeCommand` or `tspRequest`. -/

namespace Sys2Proof.Machine

variable {c : Chip} {w : Writer} {a h : Nat} {x : Word} {r : RegDef}

theorem changesExpert_of_none (o n : Word) (he : (r.fields.any fun f => f.expert) = false) : changesExpert r o n = false := by
  simp only [changesExpert, List.any_eq_false, Bool.and_eq_true, not_and] at *
  intro f hf g
  exact absurd g.1 (he f hf)

/-- A whole-word write to a register that holds nothing staged and asks for no EXPERT acts on its word (R106, R107). -/
theorem portWrite_live (hw : Commanded c w a) (hr : (if a < 2 ^ 24 then regDef a else none) = some r) (hwr : writable r a = true)
    (hst : stMask r = 0) (he : (r.fields.any fun f => f.expert) = false)
    (hm : ∀ o, modeLocked c w r a false o x = false) (hl : loopBusy c a = false) :
    portWrite c w a x 0xFFFFFFFF h = writeWord c w r a (stagedRead c r w a) x x h false := by
  have hi : c.sys.mode ≠ .inert := by
    intro g; have := hw.reach; simp [reaches, g] at this
  have ha : x &&& (0xFFFFFFFF : Word) = x := BitVec.and_allOnes
  have hr' : regDef a = some r := by
    split at hr
    · exact hr
    · cases hr
  have hp : privOf c w = some .operate → operateActs r a = true := fun g => hw.acts g r hr'
  simp only [portWrite, hr, hwr, hst, ha, show (~~~(0xFFFFFFFF : Word)) = 0 by decide]
  have hq : ¬ (privOf c w = some .operate ∧ operateActs r a = false) := fun g => by simp [hp g.1] at g
  simp [hw.priv, changesExpert_of_none _ _ he, hi, hm, hl]
  intro g1 g2
  exact absurd ⟨g1, g2⟩ hq

/-- A command register's fields are all written and none is staged: the write is its command (R6). -/
theorem writeCommand_command (hw : Commanded c w a) (hr : (if a < 2 ^ 24 then regDef a else none) = some r)
    (hwr : writable r a = true) (hst : stMask r = 0) (hs : (r.fields.any fun f => f.acc = .st) = false)
    (he : (r.fields.any fun f => f.expert) = false) (hwo : maskWhere r (fun f => f.acc = .wo && !f.rsvd) ≠ 0)
    (hm : ∀ o, modeLocked c w r a false o x = false) (hl : loopBusy c a = false)
    {d : Chip} (hc : commandWrite c w a (x &&& maskWhere r (fun f => f.acc = .wo && !f.rsvd)) h = (d, 0)) :
    writeCommand c w a x h = answeredOk d a := by
  simp only [writeCommand, hw.reach, portWrite_live hw hr hwr hst he hm hl, writeWord, hs, hc, Bool.not_true,
    Bool.false_and, Bool.false_eq_true, if_false, ne_eq, hwo, not_false_eq_true, if_true, answeredOk]

/-- A TSP request that reaches its command: the session has been heard, and the command's answer is the reply (R213, R214). -/
theorem tspRequest_admitted {c d : Chip} {h : TspHead} {need : Priv} {p pl : List Byte} {x : Session} {cmd st : Nat}
    {lenOk : Nat → Bool} {act : Chip → Answer} (ha : Admitted c h cmd need p x) (hl : lenOk p.length = true)
    (hact : act (acceptMsg c h) = (d, st, pl)) : tspRequest c h cmd need lenOk p act = replied d h cmd st pl := by
  have h1 : ¬ (Priv.level x.priv < Priv.level need) := Nat.not_lt.mpr ha.priv
  have h2 : ¬ (1024 < p.length) := Nat.not_lt.mpr ha.size
  have h3 : ¬ (h.len.toNat ≠ p.length) := not_not.mpr ha.len
  have hm : onSession (onSession c h.session fun s => { s with heard := c.core.tick }) h.session
      (fun s => { s with lastSeq := some h.seq.toNat }) = acceptMsg c h := rfl
  simp only [tspRequest, ha.session, ha.up, ha.head, h1, h2, h3, hl, if_false, Bool.not_true, decide_false, Bool.or_false,
    Bool.false_eq_true]
  cases hx : x.lastSeq with
  | none => simp only [Bool.not_true, Bool.false_eq_true, if_false, hm, hact]; rfl
  | some l =>
    have hf := ha.fresh l hx
    simp only [hf, decide_true, Bool.not_true, Bool.false_eq_true, if_false, hm, hact]; rfl

end Sys2Proof.Machine
end

