-- ==== Sys2Proof/Laws/Issue.lean ====
section
/-! SUPPORT. Everything the issue of an instruction can do: nothing where no context can issue, an exception, or the
instruction's effect in one of its forms. Cite these instead of unfolding `issue`. -/

namespace Sys2Proof.Machine

/-- A command that is carried out on the module answers a next state with the queue as it was. -/
theorem run_eq (s : State) (f : Chip → Chip) : s.run f = .next { s with chip := f s.chip } := rfl

/-- The same for a command whose consequences are settled where there are any. -/
theorem run_settle (s : State) (c : Chip) (f : Chip → Chip) (h : f s.chip = c) :
    s.run (fun k => settle (f k)) = .next (s.after c) := by subst h; rfl

/-- The same for a command whose consequences are settled in any case. -/
theorem run_settleAll (s : State) (c : Chip) (f : Chip → Chip) (h : f s.chip = c) :
    s.run (fun k => settleAll (f k)) = .next (s.afterAll c) := by subst h; rfl

section
variable {c c' : Chip} {e : Eng} {len r : Nat} {ns ill : Bool} {x y : Ctx} {body : Nat → Ctx → Effect}

/-- No context that can issue: nothing happens. -/
theorem issue_idle (h : running c e = none) : issue c e len ns ill body = c := by
  simp only [issue, h]

/-- SEGLIMIT is judged before anything else (R50, R115). -/
theorem issue_seglimit (h : running c e = some (r, x)) (hs : 65536 ≤ x.seg) :
    issue c e len ns ill body = raiseExc c e.vat e.num.val r .seglimit := by
  simp only [issue, h, if_pos hs]

/-- An encoding that its rule does not allow raises ILLEGAL (R71, R115). -/
theorem issue_illegal (h : Ready c e len ns r x) (hi : ill = true) :
    issue c e len ns ill body = raiseExc c e.vat e.num.val r .illegal := by
  have hs : ¬ 65536 ≤ x.seg := Nat.not_le.mpr h.seg
  simp only [issue, h.run, if_neg hs, hi, Bool.or_true, if_true]

/-- An instruction, or its successor, beyond the buffer raises ILLEGAL (R70). -/
theorem issue_beyond (h : running c e = some (r, x)) (hs : x.seg < 65536) (hb : beyondBuffer x.p len ns = true) :
    issue c e len ns ill body = raiseExc c e.vat e.num.val r .illegal := by
  have hs : ¬ 65536 ≤ x.seg := Nat.not_le.mpr hs
  simp only [issue, h, if_neg hs, hb, Bool.true_or, if_true]

/-- A reserved major opcode in the buffer raises ILLEGAL (R71). -/
theorem issue_reserved (h : running c e = some (r, x)) (hs : x.seg < 65536) (hb : reservedAt c e x.p = true) :
    issue c e len ns ill body = raiseExc c e.vat e.num.val r .illegal := by
  have hs : ¬ 65536 ≤ x.seg := Nat.not_le.mpr hs
  simp only [issue, h, if_neg hs, hb, Bool.or_true, Bool.true_or, if_true]

/-- An instruction whose encoding is admitted does what its own rules give. -/
theorem issue_legal (h : Ready c e len ns r x) (hi : ill = false) :
    issue c e len ns ill body =
      match body r x with
      | .exc k => raiseExc c e.vat e.num.val r k
      | .done c x => retire c e r x
      | .boundary c' y => if x.stop then endAtBoundary c e r x else retireAtBoundary c' e r y
      | .wait c' y => storeCtx c' e r { y with atBnd := false }
      | .stop c => endChain c e.vat e.num.val r
      | .stall => c := by
  have hs : ¬ 65536 ≤ x.seg := Nat.not_le.mpr h.seg
  simp only [issue, h.run, if_neg hs, hi, h.fits, h.known, Bool.or_false, Bool.false_eq_true, if_false]
  cases body r x <;> rfl

/-- An instruction that completes. -/
theorem issue_done (h : Ready c e len ns r x) (hi : ill = false) (hb : body r x = .done c' y) :
    issue c e len ns ill body = retire c' e r y := by rw [issue_legal h hi, hb]

/-- An instruction that completes at a call boundary of a cycle that goes on. -/
theorem issue_boundary (h : Ready c e len ns r x) (hi : ill = false) (hx : x.stop = false) (hb : body r x = .boundary c' y) :
    issue c e len ns ill body = retireAtBoundary c' e r y := by rw [issue_legal h hi, hb]; simp [hx]

/-- An instruction that waits, in a cycle that goes on or has been ended: a wait is no call boundary (R98, R191). -/
theorem issue_wait (h : Ready c e len ns r x) (hi : ill = false) (hb : body r x = .wait c' y) :
    issue c e len ns ill body = storeCtx c' e r { y with atBnd := false } := by rw [issue_legal h hi, hb]

/-- A cycle that has been ended stops at the call boundary that it reaches (R191). -/
theorem issue_boundary_ended (h : Ready c e len ns r x) (hi : ill = false) (hx : x.stop = true) (hb : body r x = .boundary c' y) :
    issue c e len ns ill body = endAtBoundary c e r x := by rw [issue_legal h hi, hb]; simp [hx]

/-- An instruction that needs a frozen bank stalls (R184). -/
theorem issue_stall (h : Ready c e len ns r x) (hi : ill = false) (hb : body r x = .stall) :
    issue c e len ns ill body = c := by rw [issue_legal h hi, hb]

/-- An instruction that completes unless the bank that it needs is frozen (R184). -/
theorem issue_done_unless_frozen {b : Bool} (h : Ready c e len ns r x) (hi : ill = false)
    (hb : body r x = if b then .stall else .done c' y) :
    issue c e len ns ill body = if b then c else retire c' e r y := by rw [issue_legal h hi, hb]; cases b <;> rfl

/-- An instruction that reaches a call boundary, whether or not its cycle goes on. -/
theorem issue_at_boundary (h : Ready c e len ns r x) (hi : ill = false) (hb : body r x = .boundary c' y) :
    issue c e len ns ill body = if x.stop then endAtBoundary c e r x else retireAtBoundary c' e r y := by
  rw [issue_legal h hi, hb]

/-- An instruction that ends its chain. -/
theorem issue_stop (h : Ready c e len ns r x) (hi : ill = false) (hb : body r x = .stop c') :
    issue c e len ns ill body = endChain c' e.vat e.num.val r := by rw [issue_legal h hi, hb]

/-- An instruction whose own rules raise an exception. -/
theorem issue_exc {k : Xc} (h : Ready c e len ns r x) (hi : ill = false) (hb : body r x = .exc k) :
    issue c e len ns ill body = raiseExc c e.vat e.num.val r k := by rw [issue_legal h hi, hb]

end

end Sys2Proof.Machine
end

