-- ==== Sys2Proof/Laws/Map.lean ====
section
/-! SUPPORT. Sparse tables and memory: what a write leaves at every key, and that every operation keeps the canonical form. -/

namespace Sys2Proof.Machine

variable {α : Type} {d v : α} {m : SMap α} {k k' : Nat}

/-- Every key listed in a sorted table whose first key is not above `n` is above `n`. -/
theorem mapSorted_above {a : Nat × α} (h : mapSorted (a :: m) = true) : ∀ e ∈ m, a.1 < e.1 := by
  induction m generalizing a with
  | nil => intro e he; cases he
  | cons b l ih =>
    simp only [mapSorted, Bool.and_eq_true, decide_eq_true_eq] at h
    intro e he
    rcases List.mem_cons.mp he with rfl | he
    · exact h.1
    · exact Nat.lt_trans h.1 (ih h.2 e he)

theorem mapSorted_tail {a : Nat × α} (h : mapSorted (a :: m) = true) : mapSorted m = true := by
  cases m with
  | nil => rfl
  | cons b l => simp only [mapSorted, Bool.and_eq_true] at h; exact h.2

theorem mapSorted_cons {a : Nat × α} (hm : mapSorted m = true) (h : ∀ e ∈ m, a.1 < e.1) : mapSorted (a :: m) = true := by
  cases m with
  | nil => rfl
  | cons b l => simp only [mapSorted, Bool.and_eq_true, decide_eq_true_eq]; exact ⟨h b (by simp), hm⟩

theorem mapGet_absent (h : ∀ e ∈ m, e.1 ≠ k) : mapGet d m k = d := by
  induction m with
  | nil => rfl
  | cons a l ih =>
    simp only [mapGet, if_neg (h a (by simp))]
    exact ih fun e he => h e (by simp [he])

theorem mapGet_erase_ne (h : k' ≠ k) : mapGet d (mapErase m k) k' = mapGet d m k' := by
  induction m with
  | nil => rfl
  | cons a l ih =>
    simp only [mapErase]
    split
    · rename_i g; simp only [mapGet, g, if_neg (Ne.symm h)]
    · simp only [mapGet, ih]

theorem mapGet_insert_ne (h : k' ≠ k) : mapGet d (mapInsert m k v) k' = mapGet d m k' := by
  induction m with
  | nil => simp only [mapInsert, mapGet, if_neg (Ne.symm h)]
  | cons a l ih =>
    simp only [mapInsert]
    split
    · simp only [mapGet, if_neg (Ne.symm h)]
    · split
      · rename_i g; simp only [mapGet, ← g, if_neg (Ne.symm h)]
      · simp only [mapGet, ih]

theorem mapGet_insert_self : mapGet d (mapInsert m k v) k = v := by
  induction m with
  | nil => simp [mapInsert, mapGet]
  | cons a l ih =>
    simp only [mapInsert]
    split
    · simp [mapGet]
    · split
      · simp [mapGet]
      · rename_i g; simp only [mapGet, if_neg (Ne.symm g), ih]

theorem mapGet_erase_self (h : mapSorted m = true) : mapGet d (mapErase m k) k = d := by
  induction m with
  | nil => rfl
  | cons a l ih =>
    simp only [mapErase]
    split
    · rename_i g
      exact mapGet_absent fun e he => by have := mapSorted_above h e he; omega
    · rename_i g; simp only [mapGet, if_neg g]; exact ih (mapSorted_tail h)

theorem mem_insert {e : Nat × α} (h : e ∈ mapInsert m k v) : e ∈ m ∨ e = (k, v) := by
  induction m with
  | nil => simpa [mapInsert] using h
  | cons a l ih =>
    simp only [mapInsert] at h
    split at h
    · rcases List.mem_cons.mp h with h | h
      · exact .inr h
      · exact .inl h
    · split at h
      · rcases List.mem_cons.mp h with h | h
        · exact .inr h
        · exact .inl (by simp [h])
      · rcases List.mem_cons.mp h with h | h
        · exact .inl (by simp [h])
        · rcases ih h with h | h
          · exact .inl (by simp [h])
          · exact .inr h

theorem mem_erase {e : Nat × α} (h : e ∈ mapErase m k) : e ∈ m := by
  induction m with
  | nil => exact h
  | cons a l ih =>
    simp only [mapErase] at h
    split at h
    · simp [h]
    · rcases List.mem_cons.mp h with h | h
      · simp [h]
      · simp [ih h]

theorem mapSorted_insert (h : mapSorted m = true) : mapSorted (mapInsert m k v) = true := by
  induction m with
  | nil => rfl
  | cons a l ih =>
    simp only [mapInsert]
    have ht := mapSorted_above h
    split
    · rename_i g
      refine mapSorted_cons h fun e he => ?_
      rcases List.mem_cons.mp he with rfl | he
      · exact g
      · exact Nat.lt_trans g (ht e he)
    · split
      · rename_i g; exact mapSorted_cons (mapSorted_tail h) fun e he => by have := ht e he; simp only; omega
      · refine mapSorted_cons (ih (mapSorted_tail h)) fun e he => ?_
        rcases mem_insert he with he | rfl
        · exact ht e he
        · simp only; omega

theorem mapSorted_erase (h : mapSorted m = true) : mapSorted (mapErase m k) = true := by
  induction m with
  | nil => rfl
  | cons a l ih =>
    simp only [mapErase]
    split
    · exact mapSorted_tail h
    · exact mapSorted_cons (ih (mapSorted_tail h)) fun e he => mapSorted_above h e (mem_erase he)

variable [DecidableEq α]

/-- Another key keeps its value. -/
theorem mapGet_put_ne (h : k' ≠ k) : mapGet d (mapPut d m k v) k' = mapGet d m k' := by
  simp only [mapPut]; split
  · exact mapGet_erase_ne h
  · exact mapGet_insert_ne h

/-- The key itself takes the value. -/
theorem mapGet_put_self (h : mapSorted m = true) : mapGet d (mapPut d m k v) k = v := by
  simp only [mapPut]; split
  · rename_i g; rw [mapGet_erase_self h, g]
  · exact mapGet_insert_self

/-- A write keeps the canonical form. -/
theorem mapWf_put (h : mapWf d m = true) : mapWf d (mapPut d m k v) = true := by
  simp only [mapWf, Bool.and_eq_true, List.all_eq_true, decide_eq_true_eq] at h ⊢
  simp only [mapPut]; split
  · exact ⟨mapSorted_erase h.1, fun e he => h.2 e (mem_erase he)⟩
  · rename_i g
    refine ⟨mapSorted_insert h.1, fun e he => ?_⟩
    rcases mem_insert he with he | rfl
    · exact h.2 e he
    · exact g

theorem mapWf_sorted (h : mapWf d m = true) : mapSorted m = true := by
  simp only [mapWf, Bool.and_eq_true] at h; exact h.1

/-! ### Memory -/

/-- Writing bytes keeps the canonical form of a memory. -/
theorem memWrite_wf (m : Memory) (a : Nat) (bs : List Byte) (h : m.wf = true) : (memWrite m a bs).wf = true := by
  induction bs generalizing m a with
  | nil => exact h
  | cons b bs ih => exact ih _ _ (mapWf_put h)

/-- A byte below the bytes written keeps its value. -/
theorem memByte_write_below (m : Memory) (a : Nat) (bs : List Byte) (j : Nat) (h : j < a) :
    memByte (memWrite m a bs) j = memByte m j := by
  induction bs generalizing m a with
  | nil => rfl
  | cons b bs ih =>
    rw [memWrite, ih _ _ (by omega)]
    exact mapGet_put_ne (by omega)

/-- The frame of a write: a byte outside the bytes written keeps its value. -/
theorem memByte_write_outside (m : Memory) (a : Nat) (bs : List Byte) (j : Nat) (h : j < a ∨ a + bs.length ≤ j) :
    memByte (memWrite m a bs) j = memByte m j := by
  induction bs generalizing m a with
  | nil => rfl
  | cons b bs ih =>
    simp only [List.length_cons] at h
    rw [memWrite, ih _ _ (by omega)]
    exact mapGet_put_ne (by omega)

/-- A written byte holds what was written. -/
theorem memByte_write_inside (m : Memory) (a : Nat) (bs : List Byte) (j : Nat) (b : Byte) (hm : m.wf = true)
    (h : bs[j]? = some b) : memByte (memWrite m a bs) (a + j) = b := by
  induction bs generalizing m a j with
  | nil => simp at h
  | cons b' bs ih =>
    cases j with
    | zero =>
      simp only [List.getElem?_cons_zero, Option.some.injEq] at h
      rw [memWrite, memByte_write_below _ _ _ _ (by omega), ← h]
      exact mapGet_put_self (mapWf_sorted hm)
    | succ j =>
      rw [memWrite, show a + (j + 1) = (a + 1) + j by omega]
      exact ih _ _ _ (mapWf_put hm) (by simpa using h)

theorem memRead_length (m : Memory) (a n : Nat) : (memRead m a n).length = n := by
  induction n generalizing a with
  | zero => rfl
  | succ n ih => simp [memRead, ih]

/-! ### Live words -/

/-- Another word keeps its value. -/
theorem rawReg_set_ne (c : Chip) (a b : Nat) (w : Word) (h : b ≠ a) : rawReg (setReg c a w) b = rawReg c b := by
  simp only [rawReg, setReg, mapGet_put_ne h]

/-- The word itself takes the value. -/
theorem rawReg_set_self (c : Chip) (a : Nat) (w : Word) (h : mapSorted c.regs = true) : rawReg (setReg c a w) a = w := by
  simp only [rawReg, setReg, mapGet_put_self h, BitVec.xor_assoc, BitVec.xor_self, BitVec.xor_zero]

theorem rawReg_setField_ne (c : Chip) (a b hi lo v : Nat) (h : b ≠ a) : rawReg (setField c a hi lo v) b = rawReg c b :=
  rawReg_set_ne c a b _ h

theorem rawReg_raiseMax_ne (c : Chip) (a b hi lo v : Nat) (h : b ≠ a) : rawReg (raiseMax c a hi lo v) b = rawReg c b := by
  simp only [raiseMax]; split
  · exact rawReg_set_ne c a b _ h
  · rfl

end Sys2Proof.Machine
end

