-- ==== Sys2Proof/Laws/Raise.lean ====
section
/-! SUPPORT. What an arrival at the event controller and a record offered to the Cellar leave unchanged. Cite these instead of
unfolding `raise` and `deviceRecord`. -/

namespace Sys2Proof.Machine

/-- The parts of the module that neither an arrival nor a record touches. -/
structure UnitsKept (c d : Chip) : Prop where
  sys : d.sys = c.sys
  tasks : d.tasks = c.tasks
  culture : d.culture = c.culture
  ldl : d.ldl = c.ldl
  eth : d.eth = c.eth
  ptp : d.ptp = c.ptp
  mvb : d.mvb = c.mvb
  can : d.can = c.can
  brg : d.brg = c.brg
  fio : d.fio = c.fio
  rind : d.rind = c.rind
  upd : d.upd = c.upd
  tst : d.tst = c.tst
  pwr : d.pwr = c.pwr
  free : d.free = c.free
  tick : d.core.tick = c.core.tick

namespace UnitsKept

theorem refl (c : Chip) : UnitsKept c c := ⟨rfl, rfl, rfl, rfl, rfl, rfl, rfl, rfl, rfl, rfl, rfl, rfl, rfl, rfl, rfl, rfl⟩

theorem trans {c d e : Chip} (h : UnitsKept c d) (g : UnitsKept d e) : UnitsKept c e :=
  ⟨g.sys.trans h.sys, g.tasks.trans h.tasks, g.culture.trans h.culture, g.ldl.trans h.ldl, g.eth.trans h.eth, g.ptp.trans h.ptp,
    g.mvb.trans h.mvb, g.can.trans h.can, g.brg.trans h.brg, g.fio.trans h.fio, g.rind.trans h.rind, g.upd.trans h.upd,
    g.tst.trans h.tst, g.pwr.trans h.pwr, g.free.trans h.free, g.tick.trans h.tick⟩

theorem foldl {α : Type} {f : Chip → α → Chip} (hf : ∀ c a, UnitsKept c (f c a)) (l : List α) (c : Chip) :
    UnitsKept c (l.foldl f c) := by
  induction l generalizing c with
  | nil => exact refl c
  | cons a l ih => exact (hf c a).trans (ih _)

end UnitsKept

theorem setReg_kept (c : Chip) (a : Nat) (w : Word) : UnitsKept c (setReg c a w) :=
  ⟨rfl, rfl, rfl, rfl, rfl, rfl, rfl, rfl, rfl, rfl, rfl, rfl, rfl, rfl, rfl, rfl⟩

theorem bumpBy_kept (c : Chip) (a m l n : Nat) : UnitsKept c (bumpBy c a m l n) := setReg_kept _ _ _

theorem bump_kept (c : Chip) (a m l : Nat) : UnitsKept c (bump c a m l) := setReg_kept _ _ _

theorem descFails_kept (c : Chip) (v : Vat) (q : Nat) : UnitsKept c (descFails c v q) :=
  ⟨rfl, rfl, rfl, rfl, rfl, rfl, rfl, rfl, rfl, rfl, rfl, rfl, rfl, rfl, rfl, rfl⟩

theorem loseRecord_kept (c : Chip) (b : Bool) : UnitsKept c (loseRecord c b) := by
  cases b <;> exact ⟨rfl, rfl, rfl, rfl, rfl, rfl, rfl, rfl, rfl, rfl, rfl, rfl, rfl, rfl, rfl, rfl⟩

theorem cel_kept (c : Chip) (x : Cel) : UnitsKept c { c with cel := x } :=
  ⟨rfl, rfl, rfl, rfl, rfl, rfl, rfl, rfl, rfl, rfl, rfl, rfl, rfl, rfl, rfl, rfl⟩

theorem countRepeat_kept (c : Chip) : UnitsKept c (countRepeat c) := by
  unfold countRepeat; split
  · exact UnitsKept.refl c
  · exact (cel_kept c _).trans (bump_kept _ _ _ _)

theorem offerRecord_kept (c : Chip) (r : Rec) : UnitsKept c (offerRecord c r) := by
  unfold offerRecord
  split
  · exact UnitsKept.refl c
  split
  · exact bump_kept _ _ _ _
  split
  · exact countRepeat_kept c
  split <;> split <;> first | exact cel_kept _ _ | exact loseRecord_kept c _

theorem deviceRecord_kept (c : Chip) (b k w4 w5 w6 w7 : Nat) : UnitsKept c (deviceRecord c b k w4 w5 w6 w7) := offerRecord_kept _ _

theorem setPlane_kept (c : Chip) (v : Vat) (p : VatPlane) : UnitsKept c (setPlane c v p) :=
  ⟨rfl, rfl, rfl, rfl, rfl, rfl, rfl, rfl, rfl, rfl, rfl, rfl, rfl, rfl, rfl, rfl⟩

theorem appendVat_kept (c : Chip) (v : Vat) (q : Nat) (bs : List Byte) : UnitsKept c (appendVat c v q bs).1 := by
  simp only [appendVat]
  repeat' split
  all_goals first
    | exact UnitsKept.refl c
    | exact descFails_kept _ _ _
    | exact setPlane_kept _ _ _

theorem appendDev_kept (c : Chip) (q : Nat) (press : Bool) (bs : List Byte) : UnitsKept c (appendDev c q press bs).1 := by
  have hk : UnitsKept c (checkDescs c q).1 := UnitsKept.foldl (fun c v => descFails_kept c v q) _ c
  simp only [appendDev]
  split
  · exact UnitsKept.refl c
  · split
    · exact hk
    · exact hk.trans ⟨rfl, rfl, rfl, rfl, rfl, rfl, rfl, rfl, rfl, rfl, rfl, rfl, rfl, rfl, rfl, rfl⟩

theorem deliverRecords_kept (c : Chip) (x : Nat) (v : Vat) (rs : List (List Byte)) : UnitsKept c (deliverRecords c x v rs) :=
  UnitsKept.foldl (fun c r => by split; exacts [appendVat_kept _ _ _ _, appendDev_kept _ _ _ _]) rs c

theorem evc_kept (c : Chip) (e : Tri EvCopy) : UnitsKept c { c with evc := e } :=
  ⟨rfl, rfl, rfl, rfl, rfl, rfl, rfl, rfl, rfl, rfl, rfl, rfl, rfl, rfl, rfl, rfl⟩

theorem emitAll_kept (c : Chip) (x : Nat) (ok : Bool) (f : EvCopy → Nat → Emission) : UnitsKept c (emitAll c x ok f) := by
  simp only [emitAll]
  split
  · exact UnitsKept.refl c
  · refine UnitsKept.trans ?_ (bumpBy_kept _ _ _ _ _)
    have hf : ∀ vs : List Vat, UnitsKept c (vs.foldl (fun d v =>
        let e := f (d.evc.get v) (evCredits c x v)
        let d := { d with evc := d.evc.set v e.copy }
        if x = 0 then deliverRecords d 0 v e.recs else d) c) := fun vs =>
      UnitsKept.foldl (fun d v => by
        dsimp only
        split
        · exact (evc_kept d _).trans (deliverRecords_kept _ _ _ _)
        · exact evc_kept d _) vs c
    split
    · exact (hf _).trans (deliverRecords_kept _ _ _ _)
    · exact hf _

theorem countReal_kept (c : Chip) (v : Vat) : UnitsKept c (countReal c v) := by cases v <;> exact setReg_kept _ _ _

theorem compareCopies_kept (c : Chip) : UnitsKept c (compareCopies c).1 := by
  cases ha : agreedCopy c with
  | none => simp only [compareCopies, ha]; exact UnitsKept.refl c
  | some a =>
    obtain ⟨k, ok⟩ := a
    simp only [compareCopies, ha]
    exact UnitsKept.foldl (fun d v => by
      by_cases g : d.evc.get v = k
      · rw [if_pos g]; exact UnitsKept.refl d
      · rw [if_neg g]; exact (evc_kept d _).trans (countReal_kept _ v)) _ c

theorem countSat_kept (c : Chip) : UnitsKept c (countSat c) := by
  simp only [countSat]
  split
  · exact UnitsKept.refl c
  · exact bumpBy_kept _ _ _ _ _

theorem emitGroup_kept (c : Chip) (g x : Nat) (ok : Bool) : UnitsKept c (emitGroup c g x ok) := by
  unfold emitGroup; exact emitAll_kept _ _ _ _

theorem arrive_kept (c : Chip) (s : Nat) (info : Word) (lvl : Bool) (seen : Tri Bool) : UnitsKept c (arrive c s info lvl seen) :=
  UnitsKept.foldl (fun d v => by
    by_cases hs : seen.get v = true
    · rw [if_pos hs]; exact evc_kept d _
    · rw [if_neg hs]; exact UnitsKept.refl d) _ c

/-- An arrival touches the event controller, the queues, the counters and what is put off, and nothing else (R219 to R225). -/
theorem raise_kept (c : Chip) (s i : Nat) : UnitsKept c (raise c s i) := by
  simp only [raise]; split
  · exact arrive_kept _ _ _ _ _
  · exact UnitsKept.refl c

/-- A test that ends is DONE with its result, and touches besides counters, the depth of a LOOP, events and records alone (R516). -/
theorem testResult_tst (c : Chip) (n : Nat) : (testResult c n).tst = { c.tst with state := 2, result := n } := by
  simp only [testResult]
  refine (deviceRecord_kept _ _ _ _ _ _ _).tst.trans ((raise_kept _ _ _).tst.trans ?_)
  repeat' split
  all_goals rfl

end Sys2Proof.Machine
end

