-- ==== Sys2Proof/Laws/Settle.lean ====
section
/-! SUPPORT. What follows a command within its step: everything put off is done, and the quiet window is as R61 says. Cite these
instead of unfolding `settle`. -/

namespace Sys2Proof.Machine

/-- Everything put off has been done. -/
theorem runTodos_todo (n : Nat) (c : Chip) : (runTodos n c).core.todo = [] := by
  induction n generalizing c with
  | zero => rfl
  | succ n ih =>
    simp only [runTodos]
    split
    · assumption
    · exact ih _

theorem quietCheck_todo (c : Chip) : (quietCheck c).core.todo = c.core.todo := by
  simp only [quietCheck]
  split
  · rfl
  · split
    · rfl
    · split
      · rfl
      · split
        · rfl
        · simp only [raiseMax]; split <;> rfl
    · rfl

/-- Whether quiet windows are measured depends on the mode, the charge pair, power and TST_CTL alone. -/
theorem quietMeasured_congr {c d : Chip} (hs : d.sys = c.sys) (hl : d.ldl = c.ldl) (hp : d.pwr = c.pwr)
    (ht : rawReg d Reg.tstCtl.addr = rawReg c Reg.tstCtl.addr) : quietMeasured d = quietMeasured c := by
  simp only [quietMeasured, curdsRun, curdsStopped, testRuns, hs, hl, hp, ht]

theorem anyComputing_congr {c d : Chip} (h : d.vats = c.vats) : anyComputing d = anyComputing c := by
  have hs : serving d = serving c := by funext v; rw [serving, serving, plane, plane, h]
  simp only [anyComputing, servingVats, hs, plane, h]

/-- A quiet window that is judged from what is measured and computed. -/
theorem Chip.QuietOk.of {c : Chip} {q : Option Nat} {m a : Bool} (hq : c.core.quietSince = q) (hm : quietMeasured c = m)
    (ha : anyComputing c = a) (h : q.isSome = (m && !a)) : c.QuietOk := by
  rw [Chip.QuietOk, hq, hm, ha, h]

/-- After the check the quiet window is as R61 says. -/
theorem quietCheck_quiet (c : Chip) : (quietCheck c).QuietOk := by
  simp only [quietCheck]
  split
  · rename_i h
    have h : quietMeasured c = false := by simpa using h
    exact .of (q := none) (m := false) (a := anyComputing c) rfl h rfl rfl
  · rename_i h
    have h : quietMeasured c = true := by simpa using h
    split
    · rename_i h1 h2
      exact .of (q := some c.core.tick) (m := true) (a := false) rfl h h2 rfl
    · rename_i x h1 h2
      split
      · exact .of (q := none) (m := true) (a := true) rfl h h2 rfl
      · split
        · exact .of (q := none) (m := true) (a := true) rfl h h2 rfl
        · refine .of (q := none) (m := true) (a := true) ?_ (Eq.trans (quietMeasured_congr ?_ ?_ ?_ ?_) h)
            (Eq.trans (anyComputing_congr ?_) h2) rfl
          · simp only [raiseMax]; split <;> rfl
          · simp only [raiseMax]; split <;> rfl
          · simp only [raiseMax]; split <;> rfl
          · simp only [raiseMax]; split <;> rfl
          · exact rawReg_raiseMax_ne { c with core := { c.core with quietSince := none } } _ _ _ _ _ (by decide)
          · simp only [raiseMax]; split <;> rfl
    · rename_i h1 h2
      refine .of (q := c.core.quietSince) (m := true) (a := anyComputing c) rfl h rfl ?_
      cases hq : c.core.quietSince <;> cases ha : anyComputing c <;> simp_all

/-- What follows leaves the module settled. -/
theorem settleAll_settled (c : Chip) : (settleAll c).Settled :=
  ⟨by simp only [settleAll, quietCheck_todo, runTodos_todo], by simp only [settleAll]; exact quietCheck_quiet _⟩

theorem settle_settled (c : Chip) : (settle c).Settled := by
  simp only [settle]
  split
  · rename_i h
    exact ⟨by rw [quietCheck_todo]; exact h, quietCheck_quiet _⟩
  · exact settleAll_settled _

/-- The check changes nothing where the quiet window is already as R61 says, but the tick from which misses are counted where
none is measured. -/
theorem quietCheck_of_quiet {c : Chip} (h : c.QuietOk) (hm : quietMeasured c = true) : quietCheck c = c := by
  simp only [Chip.QuietOk, hm, Bool.true_and] at h
  simp only [quietCheck, hm]
  cases hq : c.core.quietSince <;> cases ha : anyComputing c <;> simp_all

/-- With nothing put off and no setup program, only the quiet window is judged. -/
theorem settle_calm {c : Chip} (h : c.Calm) : settle c = quietCheck c := by
  simp only [settle, setupCheck, h.setup, Bool.not_false, if_true, h.todo]

end Sys2Proof.Machine
end

