-- ==== Sys2Proof/Laws/State.lean ====
section
/-! SUPPORT. What each named update of the chip or of a Vat's plane leaves of every field: one lemma per field per update. -/

namespace Sys2Proof.Machine

/-! ### Updates of the chip -/

section
variable (c : Chip)

@[simp] theorem setReg_sys (a : Nat) (w : Word) : (setReg c a w).sys = c.sys := rfl
@[simp] theorem setReg_core (a : Nat) (w : Word) : (setReg c a w).core = c.core := rfl
@[simp] theorem setReg_vats (a : Nat) (w : Word) : (setReg c a w).vats = c.vats := rfl
@[simp] theorem setReg_tasks (a : Nat) (w : Word) : (setReg c a w).tasks = c.tasks := rfl
@[simp] theorem setReg_culture (a : Nat) (w : Word) : (setReg c a w).culture = c.culture := rfl
@[simp] theorem setReg_devq (a : Nat) (w : Word) : (setReg c a w).devq = c.devq := rfl
@[simp] theorem setReg_arbs (a : Nat) (w : Word) : (setReg c a w).arbs = c.arbs := rfl
@[simp] theorem setReg_evc (a : Nat) (w : Word) : (setReg c a w).evc = c.evc := rfl
@[simp] theorem setReg_cel (a : Nat) (w : Word) : (setReg c a w).cel = c.cel := rfl
@[simp] theorem setReg_ldl (a : Nat) (w : Word) : (setReg c a w).ldl = c.ldl := rfl
@[simp] theorem setReg_eth (a : Nat) (w : Word) : (setReg c a w).eth = c.eth := rfl
@[simp] theorem setReg_ptp (a : Nat) (w : Word) : (setReg c a w).ptp = c.ptp := rfl
@[simp] theorem setReg_mvb (a : Nat) (w : Word) : (setReg c a w).mvb = c.mvb := rfl
@[simp] theorem setReg_can (a : Nat) (w : Word) : (setReg c a w).can = c.can := rfl
@[simp] theorem setReg_brg (a : Nat) (w : Word) : (setReg c a w).brg = c.brg := rfl
@[simp] theorem setReg_fio (a : Nat) (w : Word) : (setReg c a w).fio = c.fio := rfl
@[simp] theorem setReg_rind (a : Nat) (w : Word) : (setReg c a w).rind = c.rind := rfl
@[simp] theorem setReg_upd (a : Nat) (w : Word) : (setReg c a w).upd = c.upd := rfl
@[simp] theorem setReg_tst (a : Nat) (w : Word) : (setReg c a w).tst = c.tst := rfl
@[simp] theorem setReg_pwr (a : Nat) (w : Word) : (setReg c a w).pwr = c.pwr := rfl
@[simp] theorem setReg_free (a : Nat) (w : Word) : (setReg c a w).free = c.free := rfl
@[simp] theorem plane_setReg (a : Nat) (w : Word) (v : Vat) : plane (setReg c a w) v = plane c v := rfl

@[simp] theorem setField_sys (a hi lo v : Nat) : (setField c a hi lo v).sys = c.sys := rfl
@[simp] theorem setField_core (a hi lo v : Nat) : (setField c a hi lo v).core = c.core := rfl
@[simp] theorem setField_vats (a hi lo v : Nat) : (setField c a hi lo v).vats = c.vats := rfl
@[simp] theorem setField_tasks (a hi lo v : Nat) : (setField c a hi lo v).tasks = c.tasks := rfl
@[simp] theorem setField_culture (a hi lo v : Nat) : (setField c a hi lo v).culture = c.culture := rfl
@[simp] theorem setField_devq (a hi lo v : Nat) : (setField c a hi lo v).devq = c.devq := rfl
@[simp] theorem setField_arbs (a hi lo v : Nat) : (setField c a hi lo v).arbs = c.arbs := rfl
@[simp] theorem setField_evc (a hi lo v : Nat) : (setField c a hi lo v).evc = c.evc := rfl
@[simp] theorem setField_cel (a hi lo v : Nat) : (setField c a hi lo v).cel = c.cel := rfl
@[simp] theorem setField_ldl (a hi lo v : Nat) : (setField c a hi lo v).ldl = c.ldl := rfl
@[simp] theorem setField_eth (a hi lo v : Nat) : (setField c a hi lo v).eth = c.eth := rfl
@[simp] theorem setField_ptp (a hi lo v : Nat) : (setField c a hi lo v).ptp = c.ptp := rfl
@[simp] theorem setField_mvb (a hi lo v : Nat) : (setField c a hi lo v).mvb = c.mvb := rfl
@[simp] theorem setField_can (a hi lo v : Nat) : (setField c a hi lo v).can = c.can := rfl
@[simp] theorem setField_brg (a hi lo v : Nat) : (setField c a hi lo v).brg = c.brg := rfl
@[simp] theorem setField_fio (a hi lo v : Nat) : (setField c a hi lo v).fio = c.fio := rfl
@[simp] theorem setField_rind (a hi lo v : Nat) : (setField c a hi lo v).rind = c.rind := rfl
@[simp] theorem setField_upd (a hi lo v : Nat) : (setField c a hi lo v).upd = c.upd := rfl
@[simp] theorem setField_tst (a hi lo v : Nat) : (setField c a hi lo v).tst = c.tst := rfl
@[simp] theorem setField_pwr (a hi lo v : Nat) : (setField c a hi lo v).pwr = c.pwr := rfl
@[simp] theorem setField_free (a hi lo v : Nat) : (setField c a hi lo v).free = c.free := rfl
@[simp] theorem plane_setField (a hi lo x : Nat) (v : Vat) : plane (setField c a hi lo x) v = plane c v := rfl

@[simp] theorem bump_sys (a hi lo : Nat) : (bump c a hi lo).sys = c.sys := rfl
@[simp] theorem bump_core (a hi lo : Nat) : (bump c a hi lo).core = c.core := rfl
@[simp] theorem bump_vats (a hi lo : Nat) : (bump c a hi lo).vats = c.vats := rfl
@[simp] theorem bump_tasks (a hi lo : Nat) : (bump c a hi lo).tasks = c.tasks := rfl
@[simp] theorem bump_culture (a hi lo : Nat) : (bump c a hi lo).culture = c.culture := rfl
@[simp] theorem bump_devq (a hi lo : Nat) : (bump c a hi lo).devq = c.devq := rfl
@[simp] theorem bump_arbs (a hi lo : Nat) : (bump c a hi lo).arbs = c.arbs := rfl
@[simp] theorem bump_evc (a hi lo : Nat) : (bump c a hi lo).evc = c.evc := rfl
@[simp] theorem bump_cel (a hi lo : Nat) : (bump c a hi lo).cel = c.cel := rfl
@[simp] theorem bump_ldl (a hi lo : Nat) : (bump c a hi lo).ldl = c.ldl := rfl
@[simp] theorem bump_eth (a hi lo : Nat) : (bump c a hi lo).eth = c.eth := rfl
@[simp] theorem bump_ptp (a hi lo : Nat) : (bump c a hi lo).ptp = c.ptp := rfl
@[simp] theorem bump_mvb (a hi lo : Nat) : (bump c a hi lo).mvb = c.mvb := rfl
@[simp] theorem bump_can (a hi lo : Nat) : (bump c a hi lo).can = c.can := rfl
@[simp] theorem bump_brg (a hi lo : Nat) : (bump c a hi lo).brg = c.brg := rfl
@[simp] theorem bump_fio (a hi lo : Nat) : (bump c a hi lo).fio = c.fio := rfl
@[simp] theorem bump_rind (a hi lo : Nat) : (bump c a hi lo).rind = c.rind := rfl
@[simp] theorem bump_upd (a hi lo : Nat) : (bump c a hi lo).upd = c.upd := rfl
@[simp] theorem bump_tst (a hi lo : Nat) : (bump c a hi lo).tst = c.tst := rfl
@[simp] theorem bump_pwr (a hi lo : Nat) : (bump c a hi lo).pwr = c.pwr := rfl
@[simp] theorem bump_free (a hi lo : Nat) : (bump c a hi lo).free = c.free := rfl
@[simp] theorem plane_bump (a hi lo : Nat) (v : Vat) : plane (bump c a hi lo) v = plane c v := rfl

@[simp] theorem setPlane_sys (v : Vat) (p : VatPlane) : (setPlane c v p).sys = c.sys := rfl
@[simp] theorem setPlane_core (v : Vat) (p : VatPlane) : (setPlane c v p).core = c.core := rfl
@[simp] theorem setPlane_regs (v : Vat) (p : VatPlane) : (setPlane c v p).regs = c.regs := rfl
@[simp] theorem setPlane_tasks (v : Vat) (p : VatPlane) : (setPlane c v p).tasks = c.tasks := rfl
@[simp] theorem setPlane_culture (v : Vat) (p : VatPlane) : (setPlane c v p).culture = c.culture := rfl
@[simp] theorem setPlane_devq (v : Vat) (p : VatPlane) : (setPlane c v p).devq = c.devq := rfl
@[simp] theorem setPlane_arbs (v : Vat) (p : VatPlane) : (setPlane c v p).arbs = c.arbs := rfl
@[simp] theorem setPlane_evc (v : Vat) (p : VatPlane) : (setPlane c v p).evc = c.evc := rfl
@[simp] theorem setPlane_cel (v : Vat) (p : VatPlane) : (setPlane c v p).cel = c.cel := rfl
@[simp] theorem setPlane_ldl (v : Vat) (p : VatPlane) : (setPlane c v p).ldl = c.ldl := rfl
@[simp] theorem setPlane_eth (v : Vat) (p : VatPlane) : (setPlane c v p).eth = c.eth := rfl
@[simp] theorem setPlane_ptp (v : Vat) (p : VatPlane) : (setPlane c v p).ptp = c.ptp := rfl
@[simp] theorem setPlane_mvb (v : Vat) (p : VatPlane) : (setPlane c v p).mvb = c.mvb := rfl
@[simp] theorem setPlane_can (v : Vat) (p : VatPlane) : (setPlane c v p).can = c.can := rfl
@[simp] theorem setPlane_brg (v : Vat) (p : VatPlane) : (setPlane c v p).brg = c.brg := rfl
@[simp] theorem setPlane_fio (v : Vat) (p : VatPlane) : (setPlane c v p).fio = c.fio := rfl
@[simp] theorem setPlane_rind (v : Vat) (p : VatPlane) : (setPlane c v p).rind = c.rind := rfl
@[simp] theorem setPlane_upd (v : Vat) (p : VatPlane) : (setPlane c v p).upd = c.upd := rfl
@[simp] theorem setPlane_tst (v : Vat) (p : VatPlane) : (setPlane c v p).tst = c.tst := rfl
@[simp] theorem setPlane_pwr (v : Vat) (p : VatPlane) : (setPlane c v p).pwr = c.pwr := rfl
@[simp] theorem setPlane_free (v : Vat) (p : VatPlane) : (setPlane c v p).free = c.free := rfl
@[simp] theorem rawReg_setPlane (v : Vat) (p : VatPlane) (b : Nat) : rawReg (setPlane c v p) b = rawReg c b := rfl

@[simp] theorem onPlane_sys (v : Vat) (f : VatPlane → VatPlane) : (onPlane c v f).sys = c.sys := rfl
@[simp] theorem onPlane_core (v : Vat) (f : VatPlane → VatPlane) : (onPlane c v f).core = c.core := rfl
@[simp] theorem onPlane_regs (v : Vat) (f : VatPlane → VatPlane) : (onPlane c v f).regs = c.regs := rfl
@[simp] theorem onPlane_tasks (v : Vat) (f : VatPlane → VatPlane) : (onPlane c v f).tasks = c.tasks := rfl
@[simp] theorem onPlane_culture (v : Vat) (f : VatPlane → VatPlane) : (onPlane c v f).culture = c.culture := rfl
@[simp] theorem onPlane_devq (v : Vat) (f : VatPlane → VatPlane) : (onPlane c v f).devq = c.devq := rfl
@[simp] theorem onPlane_arbs (v : Vat) (f : VatPlane → VatPlane) : (onPlane c v f).arbs = c.arbs := rfl
@[simp] theorem onPlane_evc (v : Vat) (f : VatPlane → VatPlane) : (onPlane c v f).evc = c.evc := rfl
@[simp] theorem onPlane_cel (v : Vat) (f : VatPlane → VatPlane) : (onPlane c v f).cel = c.cel := rfl
@[simp] theorem onPlane_ldl (v : Vat) (f : VatPlane → VatPlane) : (onPlane c v f).ldl = c.ldl := rfl
@[simp] theorem onPlane_eth (v : Vat) (f : VatPlane → VatPlane) : (onPlane c v f).eth = c.eth := rfl
@[simp] theorem onPlane_ptp (v : Vat) (f : VatPlane → VatPlane) : (onPlane c v f).ptp = c.ptp := rfl
@[simp] theorem onPlane_mvb (v : Vat) (f : VatPlane → VatPlane) : (onPlane c v f).mvb = c.mvb := rfl
@[simp] theorem onPlane_can (v : Vat) (f : VatPlane → VatPlane) : (onPlane c v f).can = c.can := rfl
@[simp] theorem onPlane_brg (v : Vat) (f : VatPlane → VatPlane) : (onPlane c v f).brg = c.brg := rfl
@[simp] theorem onPlane_fio (v : Vat) (f : VatPlane → VatPlane) : (onPlane c v f).fio = c.fio := rfl
@[simp] theorem onPlane_rind (v : Vat) (f : VatPlane → VatPlane) : (onPlane c v f).rind = c.rind := rfl
@[simp] theorem onPlane_upd (v : Vat) (f : VatPlane → VatPlane) : (onPlane c v f).upd = c.upd := rfl
@[simp] theorem onPlane_tst (v : Vat) (f : VatPlane → VatPlane) : (onPlane c v f).tst = c.tst := rfl
@[simp] theorem onPlane_pwr (v : Vat) (f : VatPlane → VatPlane) : (onPlane c v f).pwr = c.pwr := rfl
@[simp] theorem onPlane_free (v : Vat) (f : VatPlane → VatPlane) : (onPlane c v f).free = c.free := rfl
@[simp] theorem rawReg_onPlane (v : Vat) (f : VatPlane → VatPlane) (b : Nat) : rawReg (onPlane c v f) b = rawReg c b := rfl

@[simp] theorem setTask_sys (t : TaskId) (x : TaskSt) : (setTask c t x).sys = c.sys := rfl
@[simp] theorem setTask_core (t : TaskId) (x : TaskSt) : (setTask c t x).core = c.core := rfl
@[simp] theorem setTask_regs (t : TaskId) (x : TaskSt) : (setTask c t x).regs = c.regs := rfl
@[simp] theorem setTask_vats (t : TaskId) (x : TaskSt) : (setTask c t x).vats = c.vats := rfl
@[simp] theorem setTask_culture (t : TaskId) (x : TaskSt) : (setTask c t x).culture = c.culture := rfl
@[simp] theorem setTask_devq (t : TaskId) (x : TaskSt) : (setTask c t x).devq = c.devq := rfl
@[simp] theorem setTask_arbs (t : TaskId) (x : TaskSt) : (setTask c t x).arbs = c.arbs := rfl
@[simp] theorem setTask_evc (t : TaskId) (x : TaskSt) : (setTask c t x).evc = c.evc := rfl
@[simp] theorem setTask_cel (t : TaskId) (x : TaskSt) : (setTask c t x).cel = c.cel := rfl
@[simp] theorem setTask_ldl (t : TaskId) (x : TaskSt) : (setTask c t x).ldl = c.ldl := rfl
@[simp] theorem setTask_eth (t : TaskId) (x : TaskSt) : (setTask c t x).eth = c.eth := rfl
@[simp] theorem setTask_ptp (t : TaskId) (x : TaskSt) : (setTask c t x).ptp = c.ptp := rfl
@[simp] theorem setTask_mvb (t : TaskId) (x : TaskSt) : (setTask c t x).mvb = c.mvb := rfl
@[simp] theorem setTask_can (t : TaskId) (x : TaskSt) : (setTask c t x).can = c.can := rfl
@[simp] theorem setTask_brg (t : TaskId) (x : TaskSt) : (setTask c t x).brg = c.brg := rfl
@[simp] theorem setTask_fio (t : TaskId) (x : TaskSt) : (setTask c t x).fio = c.fio := rfl
@[simp] theorem setTask_rind (t : TaskId) (x : TaskSt) : (setTask c t x).rind = c.rind := rfl
@[simp] theorem setTask_upd (t : TaskId) (x : TaskSt) : (setTask c t x).upd = c.upd := rfl
@[simp] theorem setTask_tst (t : TaskId) (x : TaskSt) : (setTask c t x).tst = c.tst := rfl
@[simp] theorem setTask_pwr (t : TaskId) (x : TaskSt) : (setTask c t x).pwr = c.pwr := rfl
@[simp] theorem setTask_free (t : TaskId) (x : TaskSt) : (setTask c t x).free = c.free := rfl
@[simp] theorem plane_setTask (t : TaskId) (x : TaskSt) (v : Vat) : plane (setTask c t x) v = plane c v := rfl
@[simp] theorem rawReg_setTask (t : TaskId) (x : TaskSt) (b : Nat) : rawReg (setTask c t x) b = rawReg c b := rfl

@[simp] theorem setDevQueue_sys (q : Nat) (x : Queue) : (setDevQueue c q x).sys = c.sys := rfl
@[simp] theorem setDevQueue_core (q : Nat) (x : Queue) : (setDevQueue c q x).core = c.core := rfl
@[simp] theorem setDevQueue_regs (q : Nat) (x : Queue) : (setDevQueue c q x).regs = c.regs := rfl
@[simp] theorem setDevQueue_vats (q : Nat) (x : Queue) : (setDevQueue c q x).vats = c.vats := rfl
@[simp] theorem setDevQueue_tasks (q : Nat) (x : Queue) : (setDevQueue c q x).tasks = c.tasks := rfl
@[simp] theorem setDevQueue_culture (q : Nat) (x : Queue) : (setDevQueue c q x).culture = c.culture := rfl
@[simp] theorem setDevQueue_arbs (q : Nat) (x : Queue) : (setDevQueue c q x).arbs = c.arbs := rfl
@[simp] theorem setDevQueue_evc (q : Nat) (x : Queue) : (setDevQueue c q x).evc = c.evc := rfl
@[simp] theorem setDevQueue_cel (q : Nat) (x : Queue) : (setDevQueue c q x).cel = c.cel := rfl
@[simp] theorem setDevQueue_ldl (q : Nat) (x : Queue) : (setDevQueue c q x).ldl = c.ldl := rfl
@[simp] theorem setDevQueue_eth (q : Nat) (x : Queue) : (setDevQueue c q x).eth = c.eth := rfl
@[simp] theorem setDevQueue_ptp (q : Nat) (x : Queue) : (setDevQueue c q x).ptp = c.ptp := rfl
@[simp] theorem setDevQueue_mvb (q : Nat) (x : Queue) : (setDevQueue c q x).mvb = c.mvb := rfl
@[simp] theorem setDevQueue_can (q : Nat) (x : Queue) : (setDevQueue c q x).can = c.can := rfl
@[simp] theorem setDevQueue_brg (q : Nat) (x : Queue) : (setDevQueue c q x).brg = c.brg := rfl
@[simp] theorem setDevQueue_fio (q : Nat) (x : Queue) : (setDevQueue c q x).fio = c.fio := rfl
@[simp] theorem setDevQueue_rind (q : Nat) (x : Queue) : (setDevQueue c q x).rind = c.rind := rfl
@[simp] theorem setDevQueue_upd (q : Nat) (x : Queue) : (setDevQueue c q x).upd = c.upd := rfl
@[simp] theorem setDevQueue_tst (q : Nat) (x : Queue) : (setDevQueue c q x).tst = c.tst := rfl
@[simp] theorem setDevQueue_pwr (q : Nat) (x : Queue) : (setDevQueue c q x).pwr = c.pwr := rfl
@[simp] theorem setDevQueue_free (q : Nat) (x : Queue) : (setDevQueue c q x).free = c.free := rfl
@[simp] theorem plane_setDevQueue (q : Nat) (x : Queue) (v : Vat) : plane (setDevQueue c q x) v = plane c v := rfl
@[simp] theorem rawReg_setDevQueue (q : Nat) (x : Queue) (b : Nat) : rawReg (setDevQueue c q x) b = rawReg c b := rfl

@[simp] theorem setArb_sys (k : Nat) (x : Arbiter) : (setArb c k x).sys = c.sys := rfl
@[simp] theorem setArb_core (k : Nat) (x : Arbiter) : (setArb c k x).core = c.core := rfl
@[simp] theorem setArb_regs (k : Nat) (x : Arbiter) : (setArb c k x).regs = c.regs := rfl
@[simp] theorem setArb_vats (k : Nat) (x : Arbiter) : (setArb c k x).vats = c.vats := rfl
@[simp] theorem setArb_tasks (k : Nat) (x : Arbiter) : (setArb c k x).tasks = c.tasks := rfl
@[simp] theorem setArb_culture (k : Nat) (x : Arbiter) : (setArb c k x).culture = c.culture := rfl
@[simp] theorem setArb_devq (k : Nat) (x : Arbiter) : (setArb c k x).devq = c.devq := rfl
@[simp] theorem setArb_evc (k : Nat) (x : Arbiter) : (setArb c k x).evc = c.evc := rfl
@[simp] theorem setArb_cel (k : Nat) (x : Arbiter) : (setArb c k x).cel = c.cel := rfl
@[simp] theorem setArb_ldl (k : Nat) (x : Arbiter) : (setArb c k x).ldl = c.ldl := rfl
@[simp] theorem setArb_eth (k : Nat) (x : Arbiter) : (setArb c k x).eth = c.eth := rfl
@[simp] theorem setArb_ptp (k : Nat) (x : Arbiter) : (setArb c k x).ptp = c.ptp := rfl
@[simp] theorem setArb_mvb (k : Nat) (x : Arbiter) : (setArb c k x).mvb = c.mvb := rfl
@[simp] theorem setArb_can (k : Nat) (x : Arbiter) : (setArb c k x).can = c.can := rfl
@[simp] theorem setArb_brg (k : Nat) (x : Arbiter) : (setArb c k x).brg = c.brg := rfl
@[simp] theorem setArb_fio (k : Nat) (x : Arbiter) : (setArb c k x).fio = c.fio := rfl
@[simp] theorem setArb_rind (k : Nat) (x : Arbiter) : (setArb c k x).rind = c.rind := rfl
@[simp] theorem setArb_upd (k : Nat) (x : Arbiter) : (setArb c k x).upd = c.upd := rfl
@[simp] theorem setArb_tst (k : Nat) (x : Arbiter) : (setArb c k x).tst = c.tst := rfl
@[simp] theorem setArb_pwr (k : Nat) (x : Arbiter) : (setArb c k x).pwr = c.pwr := rfl
@[simp] theorem setArb_free (k : Nat) (x : Arbiter) : (setArb c k x).free = c.free := rfl
@[simp] theorem plane_setArb (k : Nat) (x : Arbiter) (v : Vat) : plane (setArb c k x) v = plane c v := rfl
@[simp] theorem rawReg_setArb (k : Nat) (x : Arbiter) (b : Nat) : rawReg (setArb c k x) b = rawReg c b := rfl

@[simp] theorem todoMode_sys (m : Mode) (k : Nat) : (todoMode c m k).sys = c.sys := rfl
@[simp] theorem todoMode_regs (m : Mode) (k : Nat) : (todoMode c m k).regs = c.regs := rfl
@[simp] theorem todoMode_vats (m : Mode) (k : Nat) : (todoMode c m k).vats = c.vats := rfl
@[simp] theorem todoMode_tasks (m : Mode) (k : Nat) : (todoMode c m k).tasks = c.tasks := rfl
@[simp] theorem todoMode_culture (m : Mode) (k : Nat) : (todoMode c m k).culture = c.culture := rfl
@[simp] theorem todoMode_devq (m : Mode) (k : Nat) : (todoMode c m k).devq = c.devq := rfl
@[simp] theorem todoMode_arbs (m : Mode) (k : Nat) : (todoMode c m k).arbs = c.arbs := rfl
@[simp] theorem todoMode_evc (m : Mode) (k : Nat) : (todoMode c m k).evc = c.evc := rfl
@[simp] theorem todoMode_cel (m : Mode) (k : Nat) : (todoMode c m k).cel = c.cel := rfl
@[simp] theorem todoMode_ldl (m : Mode) (k : Nat) : (todoMode c m k).ldl = c.ldl := rfl
@[simp] theorem todoMode_eth (m : Mode) (k : Nat) : (todoMode c m k).eth = c.eth := rfl
@[simp] theorem todoMode_ptp (m : Mode) (k : Nat) : (todoMode c m k).ptp = c.ptp := rfl
@[simp] theorem todoMode_mvb (m : Mode) (k : Nat) : (todoMode c m k).mvb = c.mvb := rfl
@[simp] theorem todoMode_can (m : Mode) (k : Nat) : (todoMode c m k).can = c.can := rfl
@[simp] theorem todoMode_brg (m : Mode) (k : Nat) : (todoMode c m k).brg = c.brg := rfl
@[simp] theorem todoMode_fio (m : Mode) (k : Nat) : (todoMode c m k).fio = c.fio := rfl
@[simp] theorem todoMode_rind (m : Mode) (k : Nat) : (todoMode c m k).rind = c.rind := rfl
@[simp] theorem todoMode_upd (m : Mode) (k : Nat) : (todoMode c m k).upd = c.upd := rfl
@[simp] theorem todoMode_tst (m : Mode) (k : Nat) : (todoMode c m k).tst = c.tst := rfl
@[simp] theorem todoMode_pwr (m : Mode) (k : Nat) : (todoMode c m k).pwr = c.pwr := rfl
@[simp] theorem todoMode_free (m : Mode) (k : Nat) : (todoMode c m k).free = c.free := rfl
@[simp] theorem plane_todoMode (m : Mode) (k : Nat) (v : Vat) : plane (todoMode c m k) v = plane c v := rfl
@[simp] theorem rawReg_todoMode (m : Mode) (k : Nat) (b : Nat) : rawReg (todoMode c m k) b = rawReg c b := rfl

@[simp] theorem onCan_sys (p : Nat) (f : CanCtl → CanCtl) : (onCan c p f).sys = c.sys := rfl
@[simp] theorem onCan_core (p : Nat) (f : CanCtl → CanCtl) : (onCan c p f).core = c.core := rfl
@[simp] theorem onCan_regs (p : Nat) (f : CanCtl → CanCtl) : (onCan c p f).regs = c.regs := rfl
@[simp] theorem onCan_vats (p : Nat) (f : CanCtl → CanCtl) : (onCan c p f).vats = c.vats := rfl
@[simp] theorem onCan_tasks (p : Nat) (f : CanCtl → CanCtl) : (onCan c p f).tasks = c.tasks := rfl
@[simp] theorem onCan_culture (p : Nat) (f : CanCtl → CanCtl) : (onCan c p f).culture = c.culture := rfl
@[simp] theorem onCan_devq (p : Nat) (f : CanCtl → CanCtl) : (onCan c p f).devq = c.devq := rfl
@[simp] theorem onCan_arbs (p : Nat) (f : CanCtl → CanCtl) : (onCan c p f).arbs = c.arbs := rfl
@[simp] theorem onCan_evc (p : Nat) (f : CanCtl → CanCtl) : (onCan c p f).evc = c.evc := rfl
@[simp] theorem onCan_cel (p : Nat) (f : CanCtl → CanCtl) : (onCan c p f).cel = c.cel := rfl
@[simp] theorem onCan_ldl (p : Nat) (f : CanCtl → CanCtl) : (onCan c p f).ldl = c.ldl := rfl
@[simp] theorem onCan_eth (p : Nat) (f : CanCtl → CanCtl) : (onCan c p f).eth = c.eth := rfl
@[simp] theorem onCan_ptp (p : Nat) (f : CanCtl → CanCtl) : (onCan c p f).ptp = c.ptp := rfl
@[simp] theorem onCan_mvb (p : Nat) (f : CanCtl → CanCtl) : (onCan c p f).mvb = c.mvb := rfl
@[simp] theorem onCan_brg (p : Nat) (f : CanCtl → CanCtl) : (onCan c p f).brg = c.brg := rfl
@[simp] theorem onCan_fio (p : Nat) (f : CanCtl → CanCtl) : (onCan c p f).fio = c.fio := rfl
@[simp] theorem onCan_rind (p : Nat) (f : CanCtl → CanCtl) : (onCan c p f).rind = c.rind := rfl
@[simp] theorem onCan_upd (p : Nat) (f : CanCtl → CanCtl) : (onCan c p f).upd = c.upd := rfl
@[simp] theorem onCan_tst (p : Nat) (f : CanCtl → CanCtl) : (onCan c p f).tst = c.tst := rfl
@[simp] theorem onCan_pwr (p : Nat) (f : CanCtl → CanCtl) : (onCan c p f).pwr = c.pwr := rfl
@[simp] theorem onCan_free (p : Nat) (f : CanCtl → CanCtl) : (onCan c p f).free = c.free := rfl
@[simp] theorem plane_onCan (p : Nat) (f : CanCtl → CanCtl) (v : Vat) : plane (onCan c p f) v = plane c v := rfl
@[simp] theorem rawReg_onCan (p : Nat) (f : CanCtl → CanCtl) (b : Nat) : rawReg (onCan c p f) b = rawReg c b := rfl

@[simp] theorem onSys_core (f : Sys → Sys) : (onSys c f).core = c.core := rfl
@[simp] theorem onSys_regs (f : Sys → Sys) : (onSys c f).regs = c.regs := rfl
@[simp] theorem onSys_vats (f : Sys → Sys) : (onSys c f).vats = c.vats := rfl
@[simp] theorem onSys_tasks (f : Sys → Sys) : (onSys c f).tasks = c.tasks := rfl
@[simp] theorem onSys_culture (f : Sys → Sys) : (onSys c f).culture = c.culture := rfl
@[simp] theorem onSys_devq (f : Sys → Sys) : (onSys c f).devq = c.devq := rfl
@[simp] theorem onSys_arbs (f : Sys → Sys) : (onSys c f).arbs = c.arbs := rfl
@[simp] theorem onSys_evc (f : Sys → Sys) : (onSys c f).evc = c.evc := rfl
@[simp] theorem onSys_cel (f : Sys → Sys) : (onSys c f).cel = c.cel := rfl
@[simp] theorem onSys_ldl (f : Sys → Sys) : (onSys c f).ldl = c.ldl := rfl
@[simp] theorem onSys_eth (f : Sys → Sys) : (onSys c f).eth = c.eth := rfl
@[simp] theorem onSys_ptp (f : Sys → Sys) : (onSys c f).ptp = c.ptp := rfl
@[simp] theorem onSys_mvb (f : Sys → Sys) : (onSys c f).mvb = c.mvb := rfl
@[simp] theorem onSys_can (f : Sys → Sys) : (onSys c f).can = c.can := rfl
@[simp] theorem onSys_brg (f : Sys → Sys) : (onSys c f).brg = c.brg := rfl
@[simp] theorem onSys_fio (f : Sys → Sys) : (onSys c f).fio = c.fio := rfl
@[simp] theorem onSys_rind (f : Sys → Sys) : (onSys c f).rind = c.rind := rfl
@[simp] theorem onSys_upd (f : Sys → Sys) : (onSys c f).upd = c.upd := rfl
@[simp] theorem onSys_tst (f : Sys → Sys) : (onSys c f).tst = c.tst := rfl
@[simp] theorem onSys_pwr (f : Sys → Sys) : (onSys c f).pwr = c.pwr := rfl
@[simp] theorem onSys_free (f : Sys → Sys) : (onSys c f).free = c.free := rfl
@[simp] theorem onSys_sys (f : Sys → Sys) : (onSys c f).sys = f c.sys := rfl
@[simp] theorem plane_onSys (f : Sys → Sys) (v : Vat) : plane (onSys c f) v = plane c v := rfl
@[simp] theorem rawReg_onSys (f : Sys → Sys) (b : Nat) : rawReg (onSys c f) b = rawReg c b := rfl

@[simp] theorem onLdl_sys (f : Ldl → Ldl) : (onLdl c f).sys = c.sys := rfl
@[simp] theorem onLdl_core (f : Ldl → Ldl) : (onLdl c f).core = c.core := rfl
@[simp] theorem onLdl_regs (f : Ldl → Ldl) : (onLdl c f).regs = c.regs := rfl
@[simp] theorem onLdl_vats (f : Ldl → Ldl) : (onLdl c f).vats = c.vats := rfl
@[simp] theorem onLdl_tasks (f : Ldl → Ldl) : (onLdl c f).tasks = c.tasks := rfl
@[simp] theorem onLdl_culture (f : Ldl → Ldl) : (onLdl c f).culture = c.culture := rfl
@[simp] theorem onLdl_devq (f : Ldl → Ldl) : (onLdl c f).devq = c.devq := rfl
@[simp] theorem onLdl_arbs (f : Ldl → Ldl) : (onLdl c f).arbs = c.arbs := rfl
@[simp] theorem onLdl_evc (f : Ldl → Ldl) : (onLdl c f).evc = c.evc := rfl
@[simp] theorem onLdl_cel (f : Ldl → Ldl) : (onLdl c f).cel = c.cel := rfl
@[simp] theorem onLdl_eth (f : Ldl → Ldl) : (onLdl c f).eth = c.eth := rfl
@[simp] theorem onLdl_ptp (f : Ldl → Ldl) : (onLdl c f).ptp = c.ptp := rfl
@[simp] theorem onLdl_mvb (f : Ldl → Ldl) : (onLdl c f).mvb = c.mvb := rfl
@[simp] theorem onLdl_can (f : Ldl → Ldl) : (onLdl c f).can = c.can := rfl
@[simp] theorem onLdl_brg (f : Ldl → Ldl) : (onLdl c f).brg = c.brg := rfl
@[simp] theorem onLdl_fio (f : Ldl → Ldl) : (onLdl c f).fio = c.fio := rfl
@[simp] theorem onLdl_rind (f : Ldl → Ldl) : (onLdl c f).rind = c.rind := rfl
@[simp] theorem onLdl_upd (f : Ldl → Ldl) : (onLdl c f).upd = c.upd := rfl
@[simp] theorem onLdl_tst (f : Ldl → Ldl) : (onLdl c f).tst = c.tst := rfl
@[simp] theorem onLdl_pwr (f : Ldl → Ldl) : (onLdl c f).pwr = c.pwr := rfl
@[simp] theorem onLdl_free (f : Ldl → Ldl) : (onLdl c f).free = c.free := rfl
@[simp] theorem onLdl_ldl (f : Ldl → Ldl) : (onLdl c f).ldl = f c.ldl := rfl
@[simp] theorem plane_onLdl (f : Ldl → Ldl) (v : Vat) : plane (onLdl c f) v = plane c v := rfl
@[simp] theorem rawReg_onLdl (f : Ldl → Ldl) (b : Nat) : rawReg (onLdl c f) b = rawReg c b := rfl

@[simp] theorem onEth_sys (f : Eth → Eth) : (onEth c f).sys = c.sys := rfl
@[simp] theorem onEth_core (f : Eth → Eth) : (onEth c f).core = c.core := rfl
@[simp] theorem onEth_regs (f : Eth → Eth) : (onEth c f).regs = c.regs := rfl
@[simp] theorem onEth_vats (f : Eth → Eth) : (onEth c f).vats = c.vats := rfl
@[simp] theorem onEth_tasks (f : Eth → Eth) : (onEth c f).tasks = c.tasks := rfl
@[simp] theorem onEth_culture (f : Eth → Eth) : (onEth c f).culture = c.culture := rfl
@[simp] theorem onEth_devq (f : Eth → Eth) : (onEth c f).devq = c.devq := rfl
@[simp] theorem onEth_arbs (f : Eth → Eth) : (onEth c f).arbs = c.arbs := rfl
@[simp] theorem onEth_evc (f : Eth → Eth) : (onEth c f).evc = c.evc := rfl
@[simp] theorem onEth_cel (f : Eth → Eth) : (onEth c f).cel = c.cel := rfl
@[simp] theorem onEth_ldl (f : Eth → Eth) : (onEth c f).ldl = c.ldl := rfl
@[simp] theorem onEth_ptp (f : Eth → Eth) : (onEth c f).ptp = c.ptp := rfl
@[simp] theorem onEth_mvb (f : Eth → Eth) : (onEth c f).mvb = c.mvb := rfl
@[simp] theorem onEth_can (f : Eth → Eth) : (onEth c f).can = c.can := rfl
@[simp] theorem onEth_brg (f : Eth → Eth) : (onEth c f).brg = c.brg := rfl
@[simp] theorem onEth_fio (f : Eth → Eth) : (onEth c f).fio = c.fio := rfl
@[simp] theorem onEth_rind (f : Eth → Eth) : (onEth c f).rind = c.rind := rfl
@[simp] theorem onEth_upd (f : Eth → Eth) : (onEth c f).upd = c.upd := rfl
@[simp] theorem onEth_tst (f : Eth → Eth) : (onEth c f).tst = c.tst := rfl
@[simp] theorem onEth_pwr (f : Eth → Eth) : (onEth c f).pwr = c.pwr := rfl
@[simp] theorem onEth_free (f : Eth → Eth) : (onEth c f).free = c.free := rfl
@[simp] theorem onEth_eth (f : Eth → Eth) : (onEth c f).eth = f c.eth := rfl
@[simp] theorem plane_onEth (f : Eth → Eth) (v : Vat) : plane (onEth c f) v = plane c v := rfl
@[simp] theorem rawReg_onEth (f : Eth → Eth) (b : Nat) : rawReg (onEth c f) b = rawReg c b := rfl

@[simp] theorem onPtp_sys (f : Ptp → Ptp) : (onPtp c f).sys = c.sys := rfl
@[simp] theorem onPtp_core (f : Ptp → Ptp) : (onPtp c f).core = c.core := rfl
@[simp] theorem onPtp_regs (f : Ptp → Ptp) : (onPtp c f).regs = c.regs := rfl
@[simp] theorem onPtp_vats (f : Ptp → Ptp) : (onPtp c f).vats = c.vats := rfl
@[simp] theorem onPtp_tasks (f : Ptp → Ptp) : (onPtp c f).tasks = c.tasks := rfl
@[simp] theorem onPtp_culture (f : Ptp → Ptp) : (onPtp c f).culture = c.culture := rfl
@[simp] theorem onPtp_devq (f : Ptp → Ptp) : (onPtp c f).devq = c.devq := rfl
@[simp] theorem onPtp_arbs (f : Ptp → Ptp) : (onPtp c f).arbs = c.arbs := rfl
@[simp] theorem onPtp_evc (f : Ptp → Ptp) : (onPtp c f).evc = c.evc := rfl
@[simp] theorem onPtp_cel (f : Ptp → Ptp) : (onPtp c f).cel = c.cel := rfl
@[simp] theorem onPtp_ldl (f : Ptp → Ptp) : (onPtp c f).ldl = c.ldl := rfl
@[simp] theorem onPtp_eth (f : Ptp → Ptp) : (onPtp c f).eth = c.eth := rfl
@[simp] theorem onPtp_mvb (f : Ptp → Ptp) : (onPtp c f).mvb = c.mvb := rfl
@[simp] theorem onPtp_can (f : Ptp → Ptp) : (onPtp c f).can = c.can := rfl
@[simp] theorem onPtp_brg (f : Ptp → Ptp) : (onPtp c f).brg = c.brg := rfl
@[simp] theorem onPtp_fio (f : Ptp → Ptp) : (onPtp c f).fio = c.fio := rfl
@[simp] theorem onPtp_rind (f : Ptp → Ptp) : (onPtp c f).rind = c.rind := rfl
@[simp] theorem onPtp_upd (f : Ptp → Ptp) : (onPtp c f).upd = c.upd := rfl
@[simp] theorem onPtp_tst (f : Ptp → Ptp) : (onPtp c f).tst = c.tst := rfl
@[simp] theorem onPtp_pwr (f : Ptp → Ptp) : (onPtp c f).pwr = c.pwr := rfl
@[simp] theorem onPtp_free (f : Ptp → Ptp) : (onPtp c f).free = c.free := rfl
@[simp] theorem onPtp_ptp (f : Ptp → Ptp) : (onPtp c f).ptp = f c.ptp := rfl
@[simp] theorem plane_onPtp (f : Ptp → Ptp) (v : Vat) : plane (onPtp c f) v = plane c v := rfl
@[simp] theorem rawReg_onPtp (f : Ptp → Ptp) (b : Nat) : rawReg (onPtp c f) b = rawReg c b := rfl

@[simp] theorem onMvb_sys (f : Mvb → Mvb) : (onMvb c f).sys = c.sys := rfl
@[simp] theorem onMvb_core (f : Mvb → Mvb) : (onMvb c f).core = c.core := rfl
@[simp] theorem onMvb_regs (f : Mvb → Mvb) : (onMvb c f).regs = c.regs := rfl
@[simp] theorem onMvb_vats (f : Mvb → Mvb) : (onMvb c f).vats = c.vats := rfl
@[simp] theorem onMvb_tasks (f : Mvb → Mvb) : (onMvb c f).tasks = c.tasks := rfl
@[simp] theorem onMvb_culture (f : Mvb → Mvb) : (onMvb c f).culture = c.culture := rfl
@[simp] theorem onMvb_devq (f : Mvb → Mvb) : (onMvb c f).devq = c.devq := rfl
@[simp] theorem onMvb_arbs (f : Mvb → Mvb) : (onMvb c f).arbs = c.arbs := rfl
@[simp] theorem onMvb_evc (f : Mvb → Mvb) : (onMvb c f).evc = c.evc := rfl
@[simp] theorem onMvb_cel (f : Mvb → Mvb) : (onMvb c f).cel = c.cel := rfl
@[simp] theorem onMvb_ldl (f : Mvb → Mvb) : (onMvb c f).ldl = c.ldl := rfl
@[simp] theorem onMvb_eth (f : Mvb → Mvb) : (onMvb c f).eth = c.eth := rfl
@[simp] theorem onMvb_ptp (f : Mvb → Mvb) : (onMvb c f).ptp = c.ptp := rfl
@[simp] theorem onMvb_can (f : Mvb → Mvb) : (onMvb c f).can = c.can := rfl
@[simp] theorem onMvb_brg (f : Mvb → Mvb) : (onMvb c f).brg = c.brg := rfl
@[simp] theorem onMvb_fio (f : Mvb → Mvb) : (onMvb c f).fio = c.fio := rfl
@[simp] theorem onMvb_rind (f : Mvb → Mvb) : (onMvb c f).rind = c.rind := rfl
@[simp] theorem onMvb_upd (f : Mvb → Mvb) : (onMvb c f).upd = c.upd := rfl
@[simp] theorem onMvb_tst (f : Mvb → Mvb) : (onMvb c f).tst = c.tst := rfl
@[simp] theorem onMvb_pwr (f : Mvb → Mvb) : (onMvb c f).pwr = c.pwr := rfl
@[simp] theorem onMvb_free (f : Mvb → Mvb) : (onMvb c f).free = c.free := rfl
@[simp] theorem onMvb_mvb (f : Mvb → Mvb) : (onMvb c f).mvb = f c.mvb := rfl
@[simp] theorem plane_onMvb (f : Mvb → Mvb) (v : Vat) : plane (onMvb c f) v = plane c v := rfl
@[simp] theorem rawReg_onMvb (f : Mvb → Mvb) (b : Nat) : rawReg (onMvb c f) b = rawReg c b := rfl

@[simp] theorem onBrg_sys (f : Brg → Brg) : (onBrg c f).sys = c.sys := rfl
@[simp] theorem onBrg_core (f : Brg → Brg) : (onBrg c f).core = c.core := rfl
@[simp] theorem onBrg_regs (f : Brg → Brg) : (onBrg c f).regs = c.regs := rfl
@[simp] theorem onBrg_vats (f : Brg → Brg) : (onBrg c f).vats = c.vats := rfl
@[simp] theorem onBrg_tasks (f : Brg → Brg) : (onBrg c f).tasks = c.tasks := rfl
@[simp] theorem onBrg_culture (f : Brg → Brg) : (onBrg c f).culture = c.culture := rfl
@[simp] theorem onBrg_devq (f : Brg → Brg) : (onBrg c f).devq = c.devq := rfl
@[simp] theorem onBrg_arbs (f : Brg → Brg) : (onBrg c f).arbs = c.arbs := rfl
@[simp] theorem onBrg_evc (f : Brg → Brg) : (onBrg c f).evc = c.evc := rfl
@[simp] theorem onBrg_cel (f : Brg → Brg) : (onBrg c f).cel = c.cel := rfl
@[simp] theorem onBrg_ldl (f : Brg → Brg) : (onBrg c f).ldl = c.ldl := rfl
@[simp] theorem onBrg_eth (f : Brg → Brg) : (onBrg c f).eth = c.eth := rfl
@[simp] theorem onBrg_ptp (f : Brg → Brg) : (onBrg c f).ptp = c.ptp := rfl
@[simp] theorem onBrg_mvb (f : Brg → Brg) : (onBrg c f).mvb = c.mvb := rfl
@[simp] theorem onBrg_can (f : Brg → Brg) : (onBrg c f).can = c.can := rfl
@[simp] theorem onBrg_fio (f : Brg → Brg) : (onBrg c f).fio = c.fio := rfl
@[simp] theorem onBrg_rind (f : Brg → Brg) : (onBrg c f).rind = c.rind := rfl
@[simp] theorem onBrg_upd (f : Brg → Brg) : (onBrg c f).upd = c.upd := rfl
@[simp] theorem onBrg_tst (f : Brg → Brg) : (onBrg c f).tst = c.tst := rfl
@[simp] theorem onBrg_pwr (f : Brg → Brg) : (onBrg c f).pwr = c.pwr := rfl
@[simp] theorem onBrg_free (f : Brg → Brg) : (onBrg c f).free = c.free := rfl
@[simp] theorem onBrg_brg (f : Brg → Brg) : (onBrg c f).brg = f c.brg := rfl
@[simp] theorem plane_onBrg (f : Brg → Brg) (v : Vat) : plane (onBrg c f) v = plane c v := rfl
@[simp] theorem rawReg_onBrg (f : Brg → Brg) (b : Nat) : rawReg (onBrg c f) b = rawReg c b := rfl

@[simp] theorem onFio_sys (f : Fio → Fio) : (onFio c f).sys = c.sys := rfl
@[simp] theorem onFio_core (f : Fio → Fio) : (onFio c f).core = c.core := rfl
@[simp] theorem onFio_regs (f : Fio → Fio) : (onFio c f).regs = c.regs := rfl
@[simp] theorem onFio_vats (f : Fio → Fio) : (onFio c f).vats = c.vats := rfl
@[simp] theorem onFio_tasks (f : Fio → Fio) : (onFio c f).tasks = c.tasks := rfl
@[simp] theorem onFio_culture (f : Fio → Fio) : (onFio c f).culture = c.culture := rfl
@[simp] theorem onFio_devq (f : Fio → Fio) : (onFio c f).devq = c.devq := rfl
@[simp] theorem onFio_arbs (f : Fio → Fio) : (onFio c f).arbs = c.arbs := rfl
@[simp] theorem onFio_evc (f : Fio → Fio) : (onFio c f).evc = c.evc := rfl
@[simp] theorem onFio_cel (f : Fio → Fio) : (onFio c f).cel = c.cel := rfl
@[simp] theorem onFio_ldl (f : Fio → Fio) : (onFio c f).ldl = c.ldl := rfl
@[simp] theorem onFio_eth (f : Fio → Fio) : (onFio c f).eth = c.eth := rfl
@[simp] theorem onFio_ptp (f : Fio → Fio) : (onFio c f).ptp = c.ptp := rfl
@[simp] theorem onFio_mvb (f : Fio → Fio) : (onFio c f).mvb = c.mvb := rfl
@[simp] theorem onFio_can (f : Fio → Fio) : (onFio c f).can = c.can := rfl
@[simp] theorem onFio_brg (f : Fio → Fio) : (onFio c f).brg = c.brg := rfl
@[simp] theorem onFio_rind (f : Fio → Fio) : (onFio c f).rind = c.rind := rfl
@[simp] theorem onFio_upd (f : Fio → Fio) : (onFio c f).upd = c.upd := rfl
@[simp] theorem onFio_tst (f : Fio → Fio) : (onFio c f).tst = c.tst := rfl
@[simp] theorem onFio_pwr (f : Fio → Fio) : (onFio c f).pwr = c.pwr := rfl
@[simp] theorem onFio_free (f : Fio → Fio) : (onFio c f).free = c.free := rfl
@[simp] theorem onFio_fio (f : Fio → Fio) : (onFio c f).fio = f c.fio := rfl
@[simp] theorem plane_onFio (f : Fio → Fio) (v : Vat) : plane (onFio c f) v = plane c v := rfl
@[simp] theorem rawReg_onFio (f : Fio → Fio) (b : Nat) : rawReg (onFio c f) b = rawReg c b := rfl

@[simp] theorem onRind_sys (f : Rind → Rind) : (onRind c f).sys = c.sys := rfl
@[simp] theorem onRind_core (f : Rind → Rind) : (onRind c f).core = c.core := rfl
@[simp] theorem onRind_regs (f : Rind → Rind) : (onRind c f).regs = c.regs := rfl
@[simp] theorem onRind_vats (f : Rind → Rind) : (onRind c f).vats = c.vats := rfl
@[simp] theorem onRind_tasks (f : Rind → Rind) : (onRind c f).tasks = c.tasks := rfl
@[simp] theorem onRind_culture (f : Rind → Rind) : (onRind c f).culture = c.culture := rfl
@[simp] theorem onRind_devq (f : Rind → Rind) : (onRind c f).devq = c.devq := rfl
@[simp] theorem onRind_arbs (f : Rind → Rind) : (onRind c f).arbs = c.arbs := rfl
@[simp] theorem onRind_evc (f : Rind → Rind) : (onRind c f).evc = c.evc := rfl
@[simp] theorem onRind_cel (f : Rind → Rind) : (onRind c f).cel = c.cel := rfl
@[simp] theorem onRind_ldl (f : Rind → Rind) : (onRind c f).ldl = c.ldl := rfl
@[simp] theorem onRind_eth (f : Rind → Rind) : (onRind c f).eth = c.eth := rfl
@[simp] theorem onRind_ptp (f : Rind → Rind) : (onRind c f).ptp = c.ptp := rfl
@[simp] theorem onRind_mvb (f : Rind → Rind) : (onRind c f).mvb = c.mvb := rfl
@[simp] theorem onRind_can (f : Rind → Rind) : (onRind c f).can = c.can := rfl
@[simp] theorem onRind_brg (f : Rind → Rind) : (onRind c f).brg = c.brg := rfl
@[simp] theorem onRind_fio (f : Rind → Rind) : (onRind c f).fio = c.fio := rfl
@[simp] theorem onRind_upd (f : Rind → Rind) : (onRind c f).upd = c.upd := rfl
@[simp] theorem onRind_tst (f : Rind → Rind) : (onRind c f).tst = c.tst := rfl
@[simp] theorem onRind_pwr (f : Rind → Rind) : (onRind c f).pwr = c.pwr := rfl
@[simp] theorem onRind_free (f : Rind → Rind) : (onRind c f).free = c.free := rfl
@[simp] theorem onRind_rind (f : Rind → Rind) : (onRind c f).rind = f c.rind := rfl
@[simp] theorem plane_onRind (f : Rind → Rind) (v : Vat) : plane (onRind c f) v = plane c v := rfl
@[simp] theorem rawReg_onRind (f : Rind → Rind) (b : Nat) : rawReg (onRind c f) b = rawReg c b := rfl

@[simp] theorem onUpd_sys (f : Upd → Upd) : (onUpd c f).sys = c.sys := rfl
@[simp] theorem onUpd_core (f : Upd → Upd) : (onUpd c f).core = c.core := rfl
@[simp] theorem onUpd_regs (f : Upd → Upd) : (onUpd c f).regs = c.regs := rfl
@[simp] theorem onUpd_vats (f : Upd → Upd) : (onUpd c f).vats = c.vats := rfl
@[simp] theorem onUpd_tasks (f : Upd → Upd) : (onUpd c f).tasks = c.tasks := rfl
@[simp] theorem onUpd_culture (f : Upd → Upd) : (onUpd c f).culture = c.culture := rfl
@[simp] theorem onUpd_devq (f : Upd → Upd) : (onUpd c f).devq = c.devq := rfl
@[simp] theorem onUpd_arbs (f : Upd → Upd) : (onUpd c f).arbs = c.arbs := rfl
@[simp] theorem onUpd_evc (f : Upd → Upd) : (onUpd c f).evc = c.evc := rfl
@[simp] theorem onUpd_cel (f : Upd → Upd) : (onUpd c f).cel = c.cel := rfl
@[simp] theorem onUpd_ldl (f : Upd → Upd) : (onUpd c f).ldl = c.ldl := rfl
@[simp] theorem onUpd_eth (f : Upd → Upd) : (onUpd c f).eth = c.eth := rfl
@[simp] theorem onUpd_ptp (f : Upd → Upd) : (onUpd c f).ptp = c.ptp := rfl
@[simp] theorem onUpd_mvb (f : Upd → Upd) : (onUpd c f).mvb = c.mvb := rfl
@[simp] theorem onUpd_can (f : Upd → Upd) : (onUpd c f).can = c.can := rfl
@[simp] theorem onUpd_brg (f : Upd → Upd) : (onUpd c f).brg = c.brg := rfl
@[simp] theorem onUpd_fio (f : Upd → Upd) : (onUpd c f).fio = c.fio := rfl
@[simp] theorem onUpd_rind (f : Upd → Upd) : (onUpd c f).rind = c.rind := rfl
@[simp] theorem onUpd_tst (f : Upd → Upd) : (onUpd c f).tst = c.tst := rfl
@[simp] theorem onUpd_pwr (f : Upd → Upd) : (onUpd c f).pwr = c.pwr := rfl
@[simp] theorem onUpd_free (f : Upd → Upd) : (onUpd c f).free = c.free := rfl
@[simp] theorem onUpd_upd (f : Upd → Upd) : (onUpd c f).upd = f c.upd := rfl
@[simp] theorem plane_onUpd (f : Upd → Upd) (v : Vat) : plane (onUpd c f) v = plane c v := rfl
@[simp] theorem rawReg_onUpd (f : Upd → Upd) (b : Nat) : rawReg (onUpd c f) b = rawReg c b := rfl

@[simp] theorem onTst_sys (f : Tst → Tst) : (onTst c f).sys = c.sys := rfl
@[simp] theorem onTst_core (f : Tst → Tst) : (onTst c f).core = c.core := rfl
@[simp] theorem onTst_regs (f : Tst → Tst) : (onTst c f).regs = c.regs := rfl
@[simp] theorem onTst_vats (f : Tst → Tst) : (onTst c f).vats = c.vats := rfl
@[simp] theorem onTst_tasks (f : Tst → Tst) : (onTst c f).tasks = c.tasks := rfl
@[simp] theorem onTst_culture (f : Tst → Tst) : (onTst c f).culture = c.culture := rfl
@[simp] theorem onTst_devq (f : Tst → Tst) : (onTst c f).devq = c.devq := rfl
@[simp] theorem onTst_arbs (f : Tst → Tst) : (onTst c f).arbs = c.arbs := rfl
@[simp] theorem onTst_evc (f : Tst → Tst) : (onTst c f).evc = c.evc := rfl
@[simp] theorem onTst_cel (f : Tst → Tst) : (onTst c f).cel = c.cel := rfl
@[simp] theorem onTst_ldl (f : Tst → Tst) : (onTst c f).ldl = c.ldl := rfl
@[simp] theorem onTst_eth (f : Tst → Tst) : (onTst c f).eth = c.eth := rfl
@[simp] theorem onTst_ptp (f : Tst → Tst) : (onTst c f).ptp = c.ptp := rfl
@[simp] theorem onTst_mvb (f : Tst → Tst) : (onTst c f).mvb = c.mvb := rfl
@[simp] theorem onTst_can (f : Tst → Tst) : (onTst c f).can = c.can := rfl
@[simp] theorem onTst_brg (f : Tst → Tst) : (onTst c f).brg = c.brg := rfl
@[simp] theorem onTst_fio (f : Tst → Tst) : (onTst c f).fio = c.fio := rfl
@[simp] theorem onTst_rind (f : Tst → Tst) : (onTst c f).rind = c.rind := rfl
@[simp] theorem onTst_upd (f : Tst → Tst) : (onTst c f).upd = c.upd := rfl
@[simp] theorem onTst_pwr (f : Tst → Tst) : (onTst c f).pwr = c.pwr := rfl
@[simp] theorem onTst_free (f : Tst → Tst) : (onTst c f).free = c.free := rfl
@[simp] theorem onTst_tst (f : Tst → Tst) : (onTst c f).tst = f c.tst := rfl
@[simp] theorem plane_onTst (f : Tst → Tst) (v : Vat) : plane (onTst c f) v = plane c v := rfl
@[simp] theorem rawReg_onTst (f : Tst → Tst) (b : Nat) : rawReg (onTst c f) b = rawReg c b := rfl

@[simp] theorem onPwr_sys (f : Pwr → Pwr) : (onPwr c f).sys = c.sys := rfl
@[simp] theorem onPwr_core (f : Pwr → Pwr) : (onPwr c f).core = c.core := rfl
@[simp] theorem onPwr_regs (f : Pwr → Pwr) : (onPwr c f).regs = c.regs := rfl
@[simp] theorem onPwr_vats (f : Pwr → Pwr) : (onPwr c f).vats = c.vats := rfl
@[simp] theorem onPwr_tasks (f : Pwr → Pwr) : (onPwr c f).tasks = c.tasks := rfl
@[simp] theorem onPwr_culture (f : Pwr → Pwr) : (onPwr c f).culture = c.culture := rfl
@[simp] theorem onPwr_devq (f : Pwr → Pwr) : (onPwr c f).devq = c.devq := rfl
@[simp] theorem onPwr_arbs (f : Pwr → Pwr) : (onPwr c f).arbs = c.arbs := rfl
@[simp] theorem onPwr_evc (f : Pwr → Pwr) : (onPwr c f).evc = c.evc := rfl
@[simp] theorem onPwr_cel (f : Pwr → Pwr) : (onPwr c f).cel = c.cel := rfl
@[simp] theorem onPwr_ldl (f : Pwr → Pwr) : (onPwr c f).ldl = c.ldl := rfl
@[simp] theorem onPwr_eth (f : Pwr → Pwr) : (onPwr c f).eth = c.eth := rfl
@[simp] theorem onPwr_ptp (f : Pwr → Pwr) : (onPwr c f).ptp = c.ptp := rfl
@[simp] theorem onPwr_mvb (f : Pwr → Pwr) : (onPwr c f).mvb = c.mvb := rfl
@[simp] theorem onPwr_can (f : Pwr → Pwr) : (onPwr c f).can = c.can := rfl
@[simp] theorem onPwr_brg (f : Pwr → Pwr) : (onPwr c f).brg = c.brg := rfl
@[simp] theorem onPwr_fio (f : Pwr → Pwr) : (onPwr c f).fio = c.fio := rfl
@[simp] theorem onPwr_rind (f : Pwr → Pwr) : (onPwr c f).rind = c.rind := rfl
@[simp] theorem onPwr_upd (f : Pwr → Pwr) : (onPwr c f).upd = c.upd := rfl
@[simp] theorem onPwr_tst (f : Pwr → Pwr) : (onPwr c f).tst = c.tst := rfl
@[simp] theorem onPwr_free (f : Pwr → Pwr) : (onPwr c f).free = c.free := rfl
@[simp] theorem onPwr_pwr (f : Pwr → Pwr) : (onPwr c f).pwr = f c.pwr := rfl
@[simp] theorem plane_onPwr (f : Pwr → Pwr) (v : Vat) : plane (onPwr c f) v = plane c v := rfl
@[simp] theorem rawReg_onPwr (f : Pwr → Pwr) (b : Nat) : rawReg (onPwr c f) b = rawReg c b := rfl

/-- The plane of the Vat that was set. -/
@[simp] theorem plane_setPlane_self (v : Vat) (p : VatPlane) : plane (setPlane c v p) v = p := by cases v <;> rfl

/-- The planes of the other Vats. -/
@[simp] theorem plane_setPlane_ne (v w : Vat) (p : VatPlane) (h : w ≠ v) : plane (setPlane c v p) w = plane c w := by
  cases v <;> cases w <;> first | rfl | exact absurd rfl h

/-- The plane of the Vat that was changed. -/
@[simp] theorem plane_onPlane_self (v : Vat) (f : VatPlane → VatPlane) : plane (onPlane c v f) v = f (plane c v) :=
  plane_setPlane_self c v _

end

/-! ### Updates of a plane -/

section
variable (p : VatPlane)

@[simp] theorem setEng_state (n : Nat) (x : Engine) : (setEng p n x).state = p.state := rfl
@[simp] theorem setEng_mem (n : Nat) (x : Engine) : (setEng p n x).mem = p.mem := rfl
@[simp] theorem setEng_marks (n : Nat) (x : Engine) : (setEng p n x).marks = p.marks := rfl
@[simp] theorem setEng_ibuf (n : Nat) (x : Engine) : (setEng p n x).ibuf = p.ibuf := rfl
@[simp] theorem setEng_ctxs (n : Nat) (x : Engine) : (setEng p n x).ctxs = p.ctxs := rfl
@[simp] theorem setEng_queues (n : Nat) (x : Engine) : (setEng p n x).queues = p.queues := rfl
@[simp] theorem setEng_descs (n : Nat) (x : Engine) : (setEng p n x).descs = p.descs := rfl
@[simp] theorem setEng_seq (n : Nat) (x : Engine) : (setEng p n x).seq = p.seq := rfl
@[simp] theorem setEng_time (n : Nat) (x : Engine) : (setEng p n x).time = p.time := rfl
@[simp] theorem setEng_frac (n : Nat) (x : Engine) : (setEng p n x).frac = p.frac := rfl
@[simp] theorem setEng_realigned (n : Nat) (x : Engine) : (setEng p n x).realigned = p.realigned := rfl
@[simp] theorem setEng_pending (n : Nat) (x : Engine) : (setEng p n x).pending = p.pending := rfl
@[simp] theorem setEng_acts (n : Nat) (x : Engine) : (setEng p n x).acts = p.acts := rfl
@[simp] theorem setEng_oldActs (n : Nat) (x : Engine) : (setEng p n x).oldActs = p.oldActs := rfl
@[simp] theorem setEng_dirty (n : Nat) (x : Engine) : (setEng p n x).dirty = p.dirty := rfl
@[simp] theorem setEng_ldirty (n : Nat) (x : Engine) : (setEng p n x).ldirty = p.ldirty := rfl
@[simp] theorem setEng_soured (n : Nat) (x : Engine) : (setEng p n x).soured = p.soured := rfl
@[simp] theorem setEng_late (n : Nat) (x : Engine) : (setEng p n x).late = p.late := rfl
@[simp] theorem setEng_owed (n : Nat) (x : Engine) : (setEng p n x).owed = p.owed := rfl
@[simp] theorem setEng_early (n : Nat) (x : Engine) : (setEng p n x).early = p.early := rfl
@[simp] theorem setEng_reqs (n : Nat) (x : Engine) : (setEng p n x).reqs = p.reqs := rfl
@[simp] theorem setEng_setupEnd (n : Nat) (x : Engine) : (setEng p n x).setupEnd = p.setupEnd := rfl
@[simp] theorem setEng_setupExc (n : Nat) (x : Engine) : (setEng p n x).setupExc = p.setupExc := rfl

@[simp] theorem setCtx_state (n k : Nat) (x : Ctx) : (setCtx p n k x).state = p.state := rfl
@[simp] theorem setCtx_mem (n k : Nat) (x : Ctx) : (setCtx p n k x).mem = p.mem := rfl
@[simp] theorem setCtx_marks (n k : Nat) (x : Ctx) : (setCtx p n k x).marks = p.marks := rfl
@[simp] theorem setCtx_ibuf (n k : Nat) (x : Ctx) : (setCtx p n k x).ibuf = p.ibuf := rfl
@[simp] theorem setCtx_engines (n k : Nat) (x : Ctx) : (setCtx p n k x).engines = p.engines := rfl
@[simp] theorem setCtx_queues (n k : Nat) (x : Ctx) : (setCtx p n k x).queues = p.queues := rfl
@[simp] theorem setCtx_descs (n k : Nat) (x : Ctx) : (setCtx p n k x).descs = p.descs := rfl
@[simp] theorem setCtx_seq (n k : Nat) (x : Ctx) : (setCtx p n k x).seq = p.seq := rfl
@[simp] theorem setCtx_time (n k : Nat) (x : Ctx) : (setCtx p n k x).time = p.time := rfl
@[simp] theorem setCtx_frac (n k : Nat) (x : Ctx) : (setCtx p n k x).frac = p.frac := rfl
@[simp] theorem setCtx_realigned (n k : Nat) (x : Ctx) : (setCtx p n k x).realigned = p.realigned := rfl
@[simp] theorem setCtx_pending (n k : Nat) (x : Ctx) : (setCtx p n k x).pending = p.pending := rfl
@[simp] theorem setCtx_acts (n k : Nat) (x : Ctx) : (setCtx p n k x).acts = p.acts := rfl
@[simp] theorem setCtx_oldActs (n k : Nat) (x : Ctx) : (setCtx p n k x).oldActs = p.oldActs := rfl
@[simp] theorem setCtx_dirty (n k : Nat) (x : Ctx) : (setCtx p n k x).dirty = p.dirty := rfl
@[simp] theorem setCtx_ldirty (n k : Nat) (x : Ctx) : (setCtx p n k x).ldirty = p.ldirty := rfl
@[simp] theorem setCtx_soured (n k : Nat) (x : Ctx) : (setCtx p n k x).soured = p.soured := rfl
@[simp] theorem setCtx_late (n k : Nat) (x : Ctx) : (setCtx p n k x).late = p.late := rfl
@[simp] theorem setCtx_owed (n k : Nat) (x : Ctx) : (setCtx p n k x).owed = p.owed := rfl
@[simp] theorem setCtx_early (n k : Nat) (x : Ctx) : (setCtx p n k x).early = p.early := rfl
@[simp] theorem setCtx_reqs (n k : Nat) (x : Ctx) : (setCtx p n k x).reqs = p.reqs := rfl
@[simp] theorem setCtx_setupEnd (n k : Nat) (x : Ctx) : (setCtx p n k x).setupEnd = p.setupEnd := rfl
@[simp] theorem setCtx_setupExc (n k : Nat) (x : Ctx) : (setCtx p n k x).setupExc = p.setupExc := rfl

@[simp] theorem setAct_state (t : TaskId) (a : Act) : (setAct p t a).state = p.state := rfl
@[simp] theorem setAct_mem (t : TaskId) (a : Act) : (setAct p t a).mem = p.mem := rfl
@[simp] theorem setAct_marks (t : TaskId) (a : Act) : (setAct p t a).marks = p.marks := rfl
@[simp] theorem setAct_ibuf (t : TaskId) (a : Act) : (setAct p t a).ibuf = p.ibuf := rfl
@[simp] theorem setAct_ctxs (t : TaskId) (a : Act) : (setAct p t a).ctxs = p.ctxs := rfl
@[simp] theorem setAct_engines (t : TaskId) (a : Act) : (setAct p t a).engines = p.engines := rfl
@[simp] theorem setAct_queues (t : TaskId) (a : Act) : (setAct p t a).queues = p.queues := rfl
@[simp] theorem setAct_descs (t : TaskId) (a : Act) : (setAct p t a).descs = p.descs := rfl
@[simp] theorem setAct_seq (t : TaskId) (a : Act) : (setAct p t a).seq = p.seq := rfl
@[simp] theorem setAct_time (t : TaskId) (a : Act) : (setAct p t a).time = p.time := rfl
@[simp] theorem setAct_frac (t : TaskId) (a : Act) : (setAct p t a).frac = p.frac := rfl
@[simp] theorem setAct_realigned (t : TaskId) (a : Act) : (setAct p t a).realigned = p.realigned := rfl
@[simp] theorem setAct_pending (t : TaskId) (a : Act) : (setAct p t a).pending = p.pending := rfl
@[simp] theorem setAct_oldActs (t : TaskId) (a : Act) : (setAct p t a).oldActs = p.oldActs := rfl
@[simp] theorem setAct_dirty (t : TaskId) (a : Act) : (setAct p t a).dirty = p.dirty := rfl
@[simp] theorem setAct_ldirty (t : TaskId) (a : Act) : (setAct p t a).ldirty = p.ldirty := rfl
@[simp] theorem setAct_soured (t : TaskId) (a : Act) : (setAct p t a).soured = p.soured := rfl
@[simp] theorem setAct_late (t : TaskId) (a : Act) : (setAct p t a).late = p.late := rfl
@[simp] theorem setAct_owed (t : TaskId) (a : Act) : (setAct p t a).owed = p.owed := rfl
@[simp] theorem setAct_early (t : TaskId) (a : Act) : (setAct p t a).early = p.early := rfl
@[simp] theorem setAct_reqs (t : TaskId) (a : Act) : (setAct p t a).reqs = p.reqs := rfl
@[simp] theorem setAct_setupEnd (t : TaskId) (a : Act) : (setAct p t a).setupEnd = p.setupEnd := rfl
@[simp] theorem setAct_setupExc (t : TaskId) (a : Act) : (setAct p t a).setupExc = p.setupExc := rfl

@[simp] theorem touch_state (l : List Nat) : (touch p l).state = p.state := rfl
@[simp] theorem touch_mem (l : List Nat) : (touch p l).mem = p.mem := rfl
@[simp] theorem touch_marks (l : List Nat) : (touch p l).marks = p.marks := rfl
@[simp] theorem touch_ibuf (l : List Nat) : (touch p l).ibuf = p.ibuf := rfl
@[simp] theorem touch_ctxs (l : List Nat) : (touch p l).ctxs = p.ctxs := rfl
@[simp] theorem touch_engines (l : List Nat) : (touch p l).engines = p.engines := rfl
@[simp] theorem touch_queues (l : List Nat) : (touch p l).queues = p.queues := rfl
@[simp] theorem touch_descs (l : List Nat) : (touch p l).descs = p.descs := rfl
@[simp] theorem touch_seq (l : List Nat) : (touch p l).seq = p.seq := rfl
@[simp] theorem touch_time (l : List Nat) : (touch p l).time = p.time := rfl
@[simp] theorem touch_frac (l : List Nat) : (touch p l).frac = p.frac := rfl
@[simp] theorem touch_realigned (l : List Nat) : (touch p l).realigned = p.realigned := rfl
@[simp] theorem touch_pending (l : List Nat) : (touch p l).pending = p.pending := rfl
@[simp] theorem touch_acts (l : List Nat) : (touch p l).acts = p.acts := rfl
@[simp] theorem touch_oldActs (l : List Nat) : (touch p l).oldActs = p.oldActs := rfl
@[simp] theorem touch_soured (l : List Nat) : (touch p l).soured = p.soured := rfl
@[simp] theorem touch_late (l : List Nat) : (touch p l).late = p.late := rfl
@[simp] theorem touch_owed (l : List Nat) : (touch p l).owed = p.owed := rfl
@[simp] theorem touch_early (l : List Nat) : (touch p l).early = p.early := rfl
@[simp] theorem touch_reqs (l : List Nat) : (touch p l).reqs = p.reqs := rfl
@[simp] theorem touch_setupEnd (l : List Nat) : (touch p l).setupEnd = p.setupEnd := rfl
@[simp] theorem touch_setupExc (l : List Nat) : (touch p l).setupExc = p.setupExc := rfl

@[simp] theorem setQueue_state (q : Nat) (x : Queue) : (setQueue p q x).state = p.state := rfl
@[simp] theorem setQueue_mem (q : Nat) (x : Queue) : (setQueue p q x).mem = p.mem := rfl
@[simp] theorem setQueue_marks (q : Nat) (x : Queue) : (setQueue p q x).marks = p.marks := rfl
@[simp] theorem setQueue_ibuf (q : Nat) (x : Queue) : (setQueue p q x).ibuf = p.ibuf := rfl
@[simp] theorem setQueue_ctxs (q : Nat) (x : Queue) : (setQueue p q x).ctxs = p.ctxs := rfl
@[simp] theorem setQueue_engines (q : Nat) (x : Queue) : (setQueue p q x).engines = p.engines := rfl
@[simp] theorem setQueue_descs (q : Nat) (x : Queue) : (setQueue p q x).descs = p.descs := rfl
@[simp] theorem setQueue_seq (q : Nat) (x : Queue) : (setQueue p q x).seq = p.seq := rfl
@[simp] theorem setQueue_time (q : Nat) (x : Queue) : (setQueue p q x).time = p.time := rfl
@[simp] theorem setQueue_frac (q : Nat) (x : Queue) : (setQueue p q x).frac = p.frac := rfl
@[simp] theorem setQueue_realigned (q : Nat) (x : Queue) : (setQueue p q x).realigned = p.realigned := rfl
@[simp] theorem setQueue_pending (q : Nat) (x : Queue) : (setQueue p q x).pending = p.pending := rfl
@[simp] theorem setQueue_acts (q : Nat) (x : Queue) : (setQueue p q x).acts = p.acts := rfl
@[simp] theorem setQueue_oldActs (q : Nat) (x : Queue) : (setQueue p q x).oldActs = p.oldActs := rfl
@[simp] theorem setQueue_soured (q : Nat) (x : Queue) : (setQueue p q x).soured = p.soured := rfl
@[simp] theorem setQueue_late (q : Nat) (x : Queue) : (setQueue p q x).late = p.late := rfl
@[simp] theorem setQueue_owed (q : Nat) (x : Queue) : (setQueue p q x).owed = p.owed := rfl
@[simp] theorem setQueue_early (q : Nat) (x : Queue) : (setQueue p q x).early = p.early := rfl
@[simp] theorem setQueue_reqs (q : Nat) (x : Queue) : (setQueue p q x).reqs = p.reqs := rfl
@[simp] theorem setQueue_setupEnd (q : Nat) (x : Queue) : (setQueue p q x).setupEnd = p.setupEnd := rfl
@[simp] theorem setQueue_setupExc (q : Nat) (x : Queue) : (setQueue p q x).setupExc = p.setupExc := rfl

@[simp] theorem pokeMem_state (a : Nat) (bs : List Byte) : (pokeMem p a bs).state = p.state := rfl
@[simp] theorem pokeMem_marks (a : Nat) (bs : List Byte) : (pokeMem p a bs).marks = p.marks := rfl
@[simp] theorem pokeMem_ibuf (a : Nat) (bs : List Byte) : (pokeMem p a bs).ibuf = p.ibuf := rfl
@[simp] theorem pokeMem_ctxs (a : Nat) (bs : List Byte) : (pokeMem p a bs).ctxs = p.ctxs := rfl
@[simp] theorem pokeMem_engines (a : Nat) (bs : List Byte) : (pokeMem p a bs).engines = p.engines := rfl
@[simp] theorem pokeMem_queues (a : Nat) (bs : List Byte) : (pokeMem p a bs).queues = p.queues := rfl
@[simp] theorem pokeMem_descs (a : Nat) (bs : List Byte) : (pokeMem p a bs).descs = p.descs := rfl
@[simp] theorem pokeMem_seq (a : Nat) (bs : List Byte) : (pokeMem p a bs).seq = p.seq := rfl
@[simp] theorem pokeMem_time (a : Nat) (bs : List Byte) : (pokeMem p a bs).time = p.time := rfl
@[simp] theorem pokeMem_frac (a : Nat) (bs : List Byte) : (pokeMem p a bs).frac = p.frac := rfl
@[simp] theorem pokeMem_realigned (a : Nat) (bs : List Byte) : (pokeMem p a bs).realigned = p.realigned := rfl
@[simp] theorem pokeMem_pending (a : Nat) (bs : List Byte) : (pokeMem p a bs).pending = p.pending := rfl
@[simp] theorem pokeMem_acts (a : Nat) (bs : List Byte) : (pokeMem p a bs).acts = p.acts := rfl
@[simp] theorem pokeMem_oldActs (a : Nat) (bs : List Byte) : (pokeMem p a bs).oldActs = p.oldActs := rfl
@[simp] theorem pokeMem_soured (a : Nat) (bs : List Byte) : (pokeMem p a bs).soured = p.soured := rfl
@[simp] theorem pokeMem_late (a : Nat) (bs : List Byte) : (pokeMem p a bs).late = p.late := rfl
@[simp] theorem pokeMem_owed (a : Nat) (bs : List Byte) : (pokeMem p a bs).owed = p.owed := rfl
@[simp] theorem pokeMem_early (a : Nat) (bs : List Byte) : (pokeMem p a bs).early = p.early := rfl
@[simp] theorem pokeMem_reqs (a : Nat) (bs : List Byte) : (pokeMem p a bs).reqs = p.reqs := rfl
@[simp] theorem pokeMem_setupEnd (a : Nat) (bs : List Byte) : (pokeMem p a bs).setupEnd = p.setupEnd := rfl
@[simp] theorem pokeMem_setupExc (a : Nat) (bs : List Byte) : (pokeMem p a bs).setupExc = p.setupExc := rfl

/-- The memory after a block has been written. -/
@[simp] theorem pokeMem_mem (a : Nat) (bs : List Byte) : (pokeMem p a bs).mem = memWrite p.mem a bs := rfl

/-- The engine that was set. -/
theorem engOf_setEng_self (n : Nat) (x : Engine) (h : mapSorted p.engines = true) : engOf (setEng p n x) n = x :=
  mapGet_put_self h

/-- The other engines. -/
theorem engOf_setEng_ne (n m : Nat) (x : Engine) (h : m ≠ n) : engOf (setEng p n x) m = engOf p m := mapGet_put_ne h

/-- The context that was set. -/
theorem ctxOf_setCtx_self (n k : Nat) (x : Ctx) (h : mapSorted p.ctxs = true) : ctxOf (setCtx p n k x) n k = x :=
  mapGet_put_self h

/-- The other contexts. -/
theorem ctxOf_setCtx_ne (n k m j : Nat) (x : Ctx) (h : ctxKey m j ≠ ctxKey n k) :
    ctxOf (setCtx p n k x) m j = ctxOf p m j := mapGet_put_ne h

end

/-! ### The state around the chip -/

@[simp] theorem after_chip (s : State) (c : Chip) : (s.after c).chip = settle c := by simp only [State.after]
@[simp] theorem after_pending (s : State) (c : Chip) : (s.after c).pending = s.pending := by simp only [State.after]
@[simp] theorem afterAll_chip (s : State) (c : Chip) : (s.afterAll c).chip = settleAll c := by simp only [State.afterAll]
@[simp] theorem afterAll_pending (s : State) (c : Chip) : (s.afterAll c).pending = s.pending := by simp only [State.afterAll]

end Sys2Proof.Machine
end

