-- ==== Sys2Proof/WellFormed.lean ====
section
/-! DEFINITION. What the operands of a command must satisfy beyond their types: lengths of messages and frames, and operands that
name two different Vats or a task with cycles. The machine gives every command a meaning; a command outside this form
is one that nothing outside the module can send. -/

namespace Sys2Proof

/-- At most 1024 bytes of payload (R214). -/
def tspPayloadOk (p : List (BitVec 8)) : Bool := decide (p.length ≤ 1024)

/-- The command codes that Table: TSP commands, Table: Cellar commands, Table: Update commands and Table: Test commands assign. -/
def tspAssigned : List Nat :=
  [0x01, 0x02, 0x03, 0x10, 0x11, 0x12, 0x13, 0x14, 0x30, 0x31, 0x32, 0x33, 0x34, 0x40, 0x41, 0x42, 0x43, 0x44, 0x45, 0x46, 0x47,
   0x48, 0x49, 0x4A, 0x4B, 0x50, 0x51, 0x52]

/-- At most 256 bytes of payload on each lane (R250). -/
def lanesOk (f : Lanes) : Bool :=
  let ok (x : Option LFrame) : Bool := match x with | some y => decide (y.payload.length ≤ 256) | none => true
  ok f.a && ok f.b && ok f.c

/-- A dataset of at most 1432 bytes (R291). -/
def pdFrameOk (f : PdFrame) : Bool := decide (f.dataset.length ≤ 1432)

/-- At most 64 bytes of data in an FD frame and 8 in a classic one, and an 11-bit identifier without IDE (R357). -/
def canRxOk (f : CanRx) : Bool :=
  decide (f.data.length ≤ if f.fdf then 64 else 8) && (f.ide || decide (f.id.toNat < 2048))

/-- 2, 4, 8, 16 or 32 bytes of data (R333). -/
def mvbDataOk (f : MvbSlave) : Bool := [2, 4, 8, 16, 32].contains f.data.length

/-- A task that has cycles or activations: not the setup program. -/
def cycleTask : TaskId → Bool
  | .periodic _ => true
  | .event _ => true
  | .setup => false

/-- Whether a command is well formed. -/
def Instr.wellFormed : Instr → Bool
  | .alu _ _ => true
  | .alu64 _ _ => true
  | .addi _ _ => true
  | .andi _ _ => true
  | .ori _ _ => true
  | .xori _ _ => true
  | .shi _ _ => true
  | .movi _ _ _ => true
  | .setq _ _ _ => true
  | .mfs _ _ => true
  | .mts _ _ => true
  | .fop32 _ _ => true
  | .fop64 _ _ => true
  | .fcvt _ _ => true
  | .fcmp _ _ => true
  | .cmp _ _ => true
  | .cmpi _ _ => true
  | .br _ _ => true
  | .sel _ _ => true
  | .dbnz _ _ => true
  | .call _ _ _ => true
  | .callr _ _ => true
  | .ret _ _ => true
  | .hnd _ _ => true
  | .nop _ _ => true
  | .halt _ _ => true
  | .ld _ _ => true
  | .st _ _ => true
  | .ldx _ _ _ => true
  | .stx _ _ _ => true
  | .copy _ _ => true
  | .push _ _ => true
  | .pop _ _ => true
  | .peek _ _ => true
  | .credit _ _ => true
  | .queueWaitEnd _ => true
  | .fence _ _ => true
  | .fenceComplete _ => true
  | .inPoint _ _ _ => true
  | .outPoint _ _ _ => true
  | .evr _ _ => true
  | .time _ _ => true
  | .waitt _ _ => true
  | .waittComplete _ => true
  | .raise _ _ => true
  | .cfgSet _ _ _ => true
  | .cfgGet _ _ _ => true
  | .commit _ _ => true
  | .abort _ _ => true
  | .cfgPortRequest _ _ => true
  | .cfgReply => true
  | .log _ _ => true
  | .hset _ _ => true
  | .hget _ _ => true
  | .noise _ _ => true
  | .noiseReply => true
  | .crc _ _ => true
  | .exceptionReraise _ => true
  | .storeBufferDrain _ => true
  | .fastPlaneTick _ => true
  | .curdInstant _ => true
  | .sampleSetArrival src dst t _ => decide (src ≠ dst) && cycleTask t
  | .postDeadline _ t => cycleTask t
  | .curdClose t => cycleTask t
  | .boundaryReached _ => true
  | .boundaryReportArrival src dst _ _ => decide (src ≠ dst)
  | .bndwaitTimeout e missing => decide (e.vat ≠ missing)
  | .waitReportArrival src dst _ _ _ => decide (src ≠ dst)
  | .pressImageArrival _ t _ => cycleTask t
  | .pressClose t => cycleTask t
  | .taskCommit t _ => cycleTask t
  | .pressHoldLimit t => cycleTask t
  | .quietMiss => true
  | .quietPoint => true
  | .setupTimeLimit => true
  | .vatClockFault _ => true
  | .supplyDomainFault _ _ => true
  | .recurdlePllLock => true
  | .selfProofDone _ => true
  | .copyPassDone => true
  | .finalCopyDone => true
  | .vatCmdTakeOut _ _ => true
  | .vatCmdRecurdle _ _ => true
  | .transferMessage _ q _ => decide (q < 32768)
  | .creditMessage _ q _ _ => decide (q < 32768)
  | .arbiterDecision _ _ _ _ => true
  | .eventArrival _ _ _ _ => true
  | .holdoffExpiry _ _ => true
  | .eventEmitDelayed _ _ => true
  | .dispatcherRecord _ => true
  | .eventCurdInstant _ => true
  | .affineurEventRecord => true
  | .powerOn => true
  | .rennetStart _ => true
  | .rngReady => true
  | .rngTestFail _ => true
  | .cultureLoad => true
  | .loopProofAttempt _ => true
  | .partnerWatchEnd => true
  | .sysCmdHold _ _ => true
  | .sysCmdRestart _ _ => true
  | .sysCmdMaint _ _ => true
  | .sysCmdExit _ _ => true
  | .sysCmdRejoin _ _ => true
  | .sysCmdHandover _ _ _ => true
  | .sysCmdReset _ _ => true
  | .commitApply _ _ => true
  | .affineurRestart => true
  | .affineurRestartDone => true
  | .managementTick _ => true
  | .dtlsHandshake _ _ => true
  | .tspOpen _ p => tspPayloadOk p
  | .tspClose _ p => tspPayloadOk p
  | .tspPing _ p => tspPayloadOk p
  | .cfgRead _ p => tspPayloadOk p
  | .cfgWrite _ p => tspPayloadOk p
  | .tspCommit _ p => tspPayloadOk p
  | .tspAbort _ p => tspPayloadOk p
  | .stgBreak _ p => tspPayloadOk p
  | .tspUnknown _ cmd p => !tspAssigned.contains cmd.toNat && tspPayloadOk p
  | .tspSessionTimeout _ => true
  | .chgInEdge _ => true
  | .togglingLost => true
  | .partnerSilent => true
  | .takeover => true
  | .handoverTick _ => true
  | .relinquishEnd => true
  | .ladleLaneUp _ _ => true
  | .ladleLaneDown _ _ => true
  | .ladleSlot => true
  | .stateFrame f => lanesOk f
  | .qstateFrame f => lanesOk f
  | .pressFrame f => lanesOk f
  | .endFrame f _ => lanesOk f
  | .fullFrame f => lanesOk f
  | .syncFrame f => lanesOk f
  | .healthFrame f => lanesOk f
  | .handoverFrame f => lanesOk f
  | .finalFrame f => lanesOk f
  | .timeFrame f _ => lanesOk f
  | .updateFrame f => lanesOk f
  | .affFrame f => lanesOk f
  | .syncreqFrame f => lanesOk f
  | .identFrame f => lanesOk f
  | .ladleReservedType f => lanesOk f
  | .ldlCmdResync _ => true
  | .ldlCmdLinkreset _ => true
  | .standbySelfTest _ _ => true
  | .pdFrameReceive f => pdFrameOk f
  | .announcementReceive f => pdFrameOk f
  | .announcementSend => true
  | .mdRequestReceive _ => true
  | .mdReplySend => true
  | .mdSessionTimeout _ => true
  | .ttdpTopologyChange => true
  | .inaugurationComplete _ => true
  | .partnerAgeing _ => true
  | .roleAgeing _ => true
  | .linkChange _ _ _ => true
  | .bypassRelay _ => true
  | .ptpMessageReceive _ => true
  | .domainLoss _ => true
  | .timeStepApply => true
  | .slewExpiry => true
  | .holdoverTimeout => true
  | .ladleTimeLoss => true
  | .compareFire _ => true
  | .ppsOutputEdge => true
  | .ppsInputEdge _ => true
  | .captureEdge _ _ _ => true
  | .ptpFreqhWrite _ _ => true
  | .ptpSlewWrite _ _ => true
  | .masterFrameReceive _ _ _ _ _ => true
  | .slaveFrameReceive f => mvbDataOk f
  | .mvbSilence => true
  | .basicPeriod => true
  | .mvbSlotEnd => true
  | .macroCycleBoundary => true
  | .mvbAselWrite _ _ => true
  | .mvbSourceEntry => true
  | .canFrameReceive _ f => canRxOk f
  | .canStoreFill _ => true
  | .canBusIdle _ => true
  | .canTxSuccess _ _ => true
  | .canArbLost _ => true
  | .canTxError _ _ => true
  | .canRecoveryDone _ => true
  | .referenceInstant _ => true
  | .canCmdRecover _ _ => true
  | .canCmdFlush _ _ => true
  | .canMonRead _ _ _ => true
  | .monitorLockTimeout _ => true
  | .outputWindowWrite => true
  | .inputWindowRead _ => true
  | .rackMasterWrite _ _ _ _ => true
  | .rackBreq _ => true
  | .rackWaitLimit _ _ => true
  | .rackBackoff _ _ _ => true
  | .backoffRepeat _ => true
  | .rackTransferEnd _ _ _ _ => true
  | .sidebandChange _ _ _ => true
  | .inputFrame _ _ => true
  | .commandFrame _ _ => true
  | .refreshFrame _ _ => true
  | .refreshLoss => true
  | .outputApply => true
  | .debounceAccept _ _ _ => true
  | .testPulse _ => true
  | .testPulseSample _ _ _ => true
  | .outputOverload _ => true
  | .faultClear _ => true
  | .readbackCheck _ _ => true
  | .openDetect _ _ => true
  | .outputStageTest _ => true
  | .fieldSupplyChange _ _ _ => true
  | .speedEdge _ _ _ _ => true
  | .stillTimeout _ => true
  | .speedSensorFault _ _ _ => true
  | .conversionEnd _ _ _ => true
  | .outerrTimer _ => true
  | .rindCycle _ _ _ => true
  | .safetyInputEval _ _ _ => true
  | .rindTpSample _ _ => true
  | .resetPulse _ => true
  | .rstHigh10s => true
  | .teTest _ => true
  | .oscillatorWindow _ => true
  | .clockrefTimeout => true
  | .rindDiagnostic _ _ => true
  | .rindStartEnd _ => true
  | .rindStatusSend => true
  | .rindStatusTimeout => true
  | .rindUnlock _ => true
  | .rindAccept _ => true
  | .rindSetpw _ => true
  | .rindLock _ => true
  | .acceptTimeout => true
  | .unlockTimeout => true
  | .recordOffer _ _ _ _ data => decide (data.length = 16)
  | .recordWrite _ => true
  | .clearSlotWrite => true
  | .celInfo _ p => tspPayloadOk p
  | .celSnap _ p => tspPayloadOk p
  | .celRead _ p => tspPayloadOk p
  | .celClose _ p => tspPayloadOk p
  | .celClear _ p => tspPayloadOk p
  | .updInfo _ p => tspPayloadOk p
  | .updBegin _ p => tspPayloadOk p
  | .updData _ p => tspPayloadOk p
  | .updEnd _ p => tspPayloadOk p
  | .updArm _ p => tspPayloadOk p
  | .updConfirm _ p => tspPayloadOk p
  | .updReject _ p => tspPayloadOk p
  | .updRevert _ p => tspPayloadOk p
  | .updKey _ p => tspPayloadOk p
  | .updPeer _ p => tspPayloadOk p
  | .updSvcaddr _ p => tspPayloadOk p
  | .updCancel _ p => tspPayloadOk p
  | .pieceAckTimeout => true
  | .selfConfirm => true
  | .interruptionDetect _ => true
  | .interruptionEnd _ => true
  | .interruptionTimeout => true
  | .powerDownEnd => true
  | .inputOvervoltage _ => true
  | .inputSwitchClose _ => true
  | .storeMeasure _ _ => true
  | .baseplateWarning _ => true
  | .regionTempDiff _ => true
  | .tstStart _ p => tspPayloadOk p
  | .tstStatus _ p => tspPayloadOk p
  | .tstStop _ p => tspPayloadOk p
  | .testEnd _ _ _ => true
  | .tstCtlWrite _ _ => true
  | .tstLbkWrite _ _ _ => true
  | .registerWrite _ _ _ => true
  | .rcRead _ _ => true
  | .hxkTicklRead _ => true
  | .arbWqst0Read _ => true
  | .arbWqst2Read _ => true
  | .ethPt0Read _ => true
  | .ptpNowlRead _ => true
  | .ptpLsteplRead _ => true
  | .celNewlRead _ => true
  | .rindLog0Read _ => true
  | .tstBitslRead _ => true
  | .waitReportTimeout e missing => decide (e.vat ≠ missing)
  | .affineurSelfProofDone _ => true
  | .vatStartProofDone _ => true
  | .fieldUnitSelfTestDone _ => true
  | .fieldLaneRefreshTimeout _ => true
  | .testPulseCurrentLimit _ => true
  | .coldJunctionChange _ _ _ => true
  | .rindSpeedEdge _ _ => true
  | .pdTelegramSend => true

end Sys2Proof
end

