-- ==== Sys2Proof/Tests/Slice0.lean ====
section
/-! SUPPORT. Tests of well-formedness, a few tests of single steps against values computed by hand from the spec, and the
witnesses of the statements. A witness takes its statement `H` and applies it to a concrete state and concrete operands:
every hypothesis of the clause is discharged there, at the ends of its ranges where it has some, so that no
clause of a statement is empty. -/

namespace Sys2Proof.Tests

set_option Elab.async false

open Machine

/-! ### Small states -/

/-- Engine 3 of Vat A. -/
def e3 : Eng := ⟨.a, 3⟩

/-- A base word from its fields. -/
def enc (d a b : BitVec 4) (m : BitVec 14) : Enc := ⟨d, a, b, m⟩

/-- A chain of periodic task 5 at address `p`, in frame 1, with general registers g0 to g7. -/
def ctx (p : Nat) (g : List Word) : Ctx :=
  { Ctx.empty with on := true, task := .periodic 5, p := p, frames := [⟨none, 0, 0, 0, none⟩]
                   g := #v[g.getD 0 0, g.getD 1 0, g.getD 2 0, g.getD 3 0, g.getD 4 0, g.getD 5 0, g.getD 6 0, g.getD 7 0,
                           0, 0, 0, 0, 0, 0, 0, 0] }

/-- A SERVING Vat whose engine 3 runs `x` at priority 2. -/
def planeOf (x : Ctx) : VatPlane :=
  { VatPlane.reset with state := .serving, ctxs := [(ctxKey 3 2, x)], engines := [(3, { Engine.idle with cur := some 2 })] }

/-- A module in SERVICE whose Vat A is `p`, with the other two SERVING. -/
def chipOf (p : VatPlane) : Chip :=
  { Chip.reset with vats := ⟨p, { VatPlane.reset with state := .serving }, { VatPlane.reset with state := .serving }⟩
                    sys := { Sys.reset with mode := .service, step := 13, affUp := true, rngReady := true } }

/-- The state around a chip, with no command waiting. -/
def st (c : Chip) : State := { State.reset with chip := c }

/-- The state in which engine 3 of Vat A runs `x`. -/
def run (x : Ctx) : State := st (chipOf (planeOf x))

/-- The four facts of `Ready`, each by evaluation. -/
theorem ready {c : Chip} {e : Eng} {len r : Nat} {ns : Bool} {x : Ctx} (h1 : running c e = some (r, x)) (h2 : x.seg < 65536)
    (h3 : beyondBuffer x.p len ns = false) (h4 : reservedAt c e x.p = false := by rfl) : Ready c e len ns r x := ⟨h1, h2, h3, h4⟩

/-! ### Well-formedness -/

def header : TspHead := ⟨0, 1, 0, 0, 0, 0, 0⟩
def noLanes : Lanes := ⟨none, none, none⟩
def longLane : Lanes := ⟨some ⟨0, 0, 0, 0, List.replicate 257 0⟩, none, none⟩
def pdFrame (d : List Byte) : PdFrame := ⟨0, 0, 0, 0, 0, 0, 0, true, true, d⟩
def canRx (ide fdf : Bool) (id : BitVec 29) (d : List Byte) : CanRx := ⟨true, ide, fdf, false, false, false, id, d, 0, 0, 0⟩
def mvbSlave (d : List Byte) : MvbSlave := ⟨true, true, 2000, 0, d⟩

theorem test_wf_tsp : (Instr.tspPing header (List.replicate 1025 0)).wellFormed = false ∧
    (Instr.tspPing header []).wellFormed = true := by decide +kernel
theorem test_wf_unknown : (Instr.tspUnknown header 0x34 []).wellFormed = false ∧ (Instr.tspUnknown header 0x55 []).wellFormed = true := by
  decide +kernel
theorem test_wf_lanes : (Instr.healthFrame longLane).wellFormed = false ∧ (Instr.healthFrame noLanes).wellFormed = true := by
  decide +kernel
theorem test_wf_pd : (Instr.pdFrameReceive (pdFrame (List.replicate 1433 0))).wellFormed = false ∧
    (Instr.pdFrameReceive (pdFrame [])).wellFormed = true := by decide +kernel
theorem test_wf_can_length : (Instr.canFrameReceive 0 (canRx true false 0 (List.replicate 9 0))).wellFormed = false ∧
    (Instr.canFrameReceive 0 (canRx true true 0 (List.replicate 64 0))).wellFormed = true := by decide
theorem test_wf_can_id : (Instr.canFrameReceive 0 (canRx false false 2048 [])).wellFormed = false ∧
    (Instr.canFrameReceive 0 (canRx false false 2047 [])).wellFormed = true := by decide
theorem test_wf_mvb : (Instr.slaveFrameReceive (mvbSlave [1, 2, 3])).wellFormed = false ∧
    (Instr.slaveFrameReceive (mvbSlave [1, 2])).wellFormed = true := by decide
theorem test_wf_task : (Instr.curdClose .setup).wellFormed = false ∧ (Instr.curdClose (.event 255)).wellFormed = true := by decide
theorem test_wf_vats : (Instr.boundaryReportArrival .a .a 0 0).wellFormed = false ∧
    (Instr.bndwaitTimeout ⟨.b, 1⟩ .b).wellFormed = false ∧ (Instr.bndwaitTimeout ⟨.b, 1⟩ .c).wellFormed = true := by decide
theorem test_wf_queue : (Instr.transferMessage none 32768 true).wellFormed = false ∧
    (Instr.transferMessage none 32767 true).wellFormed = true := by decide
theorem test_wf_record : (Instr.recordOffer false 0 0 0 (List.replicate 15 0)).wellFormed = false ∧
    (Instr.recordOffer false 0 0 0 (List.replicate 16 0)).wellFormed = true := by decide

/-! ### Witnesses: the module as a whole -/

theorem witness_StepRunsFrontCommand (H : Obligations.StepRunsFrontCommand) :
    (∃ t, step { State.reset with pending := [.cfgReply, .noiseReply] } = .next t) ∧ step State.reset = .next State.reset :=
  ⟨⟨_, H.1 .cfgReply [.noiseReply] _ rfl⟩, H.2 _ rfl⟩

theorem quietOk {c : Chip} (h : c.core.quietSince.isSome = (quietMeasured c && !anyComputing c)) : c.QuietOk := h

/-- A settled module with a command waiting takes a step. -/
theorem witness_StepKeepsSettled (H : Obligations.StepKeepsSettled) :
    ∃ t, step { State.reset with pending := [.quietMiss] } = .next t ∧ t.chip.Settled :=
  ⟨_, rfl, H (s := { State.reset with pending := [.quietMiss] }) _ ⟨rfl, quietOk rfl⟩ rfl⟩

theorem witness_SettlingFrame (H : Obligations.SettlingFrame) : rawReg (settle Chip.reset) 0 = rawReg Chip.reset 0 :=
  (H Chip.reset ⟨rfl, rfl⟩).1 0 (by decide)

/-- Sessions 0, 1 and 2 hold MAINTAIN, OPERATE and READ. -/
def session (p : Priv) : Session := ⟨p, 0, none, none, none, 0, none⟩
def sessions : SMap (Option Session) := [(0, some (session .maintain)), (1, some (session .operate)), (2, some (session .read))]
/-- The module with the three sessions open, in a mode. -/
def ported (m : Mode) : Chip :=
  { Chip.reset with sys := { Sys.reset with mode := m, affUp := true, sessions := sessions } }

/-- A writer that is not stopped on the way to a command. -/
theorem cmd {c : Chip} {w : Writer} {a : Nat} (h1 : reaches c w = true) (h2 : privOf c w ≠ some .read) (h3 : privOf c w ≠ some .operate) :
    Commanded c w a := ⟨h1, h2, fun h => absurd h h3⟩

/-- SYS_CMD (17) has no ST field, SYS_CTL (18) is ST, the word at 0 is read-only, 1 is unassigned, 65537 holds expert fields. -/
theorem witness_PortJudgesInOrder (H : Obligations.PortJudgesInOrder) :
    (∃ c, portWrite (ported .prove) (.session 0) 1 5 = (c, 1)) ∧ (∃ c, portWrite (ported .prove) (.session 0) 0 5 = (c, 2)) ∧
    (∃ c, portWrite (ported .prove) (.session 2) 17 5 = (c, 0x40)) ∧ (∃ c, portWrite (ported .prove) (.session 1) 18 5 = (c, 0x40)) ∧
    (∃ c, portWrite (ported .prove) (.session 0) 65537 0xFFFFFFFF = (c, 3)) ∧
    (∃ c, portWrite (ported .inert) (.session 0) 17 5 = (c, 6)) ∧ (∃ c, portWrite (ported .service) (.session 0) 18 0 = (c, 6)) ∧
    (∃ c, portWrite { ported .prove with sys := { (ported .prove).sys with owner := .culture } } (.session 0) 18 0 = (c, 4)) ∧
    (∃ c, portWrite { ported .maintenance with tst := { Tst.reset with state := 1, testid := 1, target := 3 } } (.session 0)
      (Reg.tstLbk.base + 3) 0 = (c, 7)) := by
  refine ⟨⟨_, (H _ _ 1 5).1 (by decide) rfl⟩, ⟨_, ((H _ _ 0 5).2 _ (by decide) rfl).1 rfl⟩,
    ⟨_, (((H _ _ 17 5).2 _ (by decide) rfl).2 rfl).1 rfl⟩, ⟨_, (((H _ _ 18 5).2 _ (by decide) rfl).2 rfl).2.1 rfl (by decide)⟩,
    ⟨_, (((H _ _ 65537 _).2 _ (by decide) rfl).2 rfl).2.2 (by decide) (by decide) |>.1 rfl rfl⟩,
    ⟨_, ((((H _ _ 17 5).2 _ (by decide) rfl).2 rfl).2.2 (by decide) (by decide) |>.2 (.inr rfl)).1 rfl⟩,
    ⟨_, ((((H _ _ 18 0).2 _ (by decide) rfl).2 rfl).2.2 (by decide) (by decide) |>.2 (.inr rfl)).2.1 rfl⟩,
    ⟨_, ((((H _ _ 18 0).2 _ (by decide) rfl).2 rfl).2.2 (by decide) (by decide) |>.2 (.inr rfl)).2.2 (by decide) rfl |>.1
      (by decide) rfl⟩,
    ⟨_, ((((H _ _ (Reg.tstLbk.base + 3) 0).2 _ (by decide) rfl).2 rfl).2.2 (by decide) (by decide) |>.2 (.inr rfl)).2.2
      (by decide) rfl |>.2 (.inl rfl) rfl⟩⟩

/-! ### Witnesses: Hexelku instructions -/

/-- The same with the quiet window open. -/
def quiet (s : State) : State := { s with chip := { s.chip with core := { s.chip.core with quietSince := some 0 } } }

theorem witness_InstructionFrame (H : Obligations.InstructionFrame) :
    ∃ c, (plane (State.after (quiet (run (ctx 16 []))) c).chip .b) = plane (run (ctx 16 [])).chip .b :=
  ⟨_, (H (quiet (run (ctx 16 []))) e3 2 (ctx 16 []) (adv (ctx 16 []) 4) ⟨rfl, quietOk rfl⟩ rfl rfl rfl).2.2.1 .b (by decide)⟩

/-- A full store buffer's oldest entry, a block and an entry that waits. -/
theorem witness_MemoryWritesFrame (H : Obligations.MemoryWritesFrame) :
    (bufStore VatPlane.reset 3 64 [1, 2]).mem = [] ∧
    memByte (drainOne (setEng VatPlane.reset 3 { Engine.idle with stbuf := [(64, [1, 2])] }) 3).mem 65 = 2 ∧
    memByte (pokeMem VatPlane.reset 64 [1, 2]).mem 66 = 0 :=
  ⟨(H VatPlane.reset 3 rfl).1 64 [1, 2] (by decide),
    ((H (setEng VatPlane.reset 3 { Engine.idle with stbuf := [(64, [1, 2])] }) 3 rfl).2.1 64 [1, 2] [] rfl rfl).2.2.1 1 2 rfl,
    ((H VatPlane.reset 3 rfl).2.2.1 64 [1, 2]).2.2 66 (.inr (by decide))⟩

/-- Division by a number that is not 0, the saturation of a sum, and a function that clears C and V. -/
theorem witness_IntegerFlags (H : Obligations.IntegerFlags) :
    (∃ o, alu32 0x14 0x80000000 0xFFFFFFFF false = .ok o ∧ o.r = BitVec.sdiv (0x80000000 : Word) 0xFFFFFFFF) ∧
    (∃ o, alu32 0x1C 0x7FFFFFFF 1 false = .ok o ∧ o.r = 0x7FFFFFFF) ∧
    (∀ o, alu32 0x04 3 6 true = .ok o → o.c = false) :=
  ⟨let ⟨o, h, r, _⟩ := ((H 0x80000000 0xFFFFFFFF false).2.2.2.2.2.2.1 (by decide)).1; ⟨o, h, r⟩,
    let ⟨o, h, _, _, _, r⟩ := (H 0x7FFFFFFF 1 false).2.2.2.2.1; ⟨o, h, r rfl⟩,
    fun o h => ((H 3 6 true).2.2.2.2.2.2.2.2.2 0x04 o (by decide) h).1⟩

/-- A frame with a handler, and one without whose caller has one more frame. -/
def handled : Ctx := { ctx 16 [] with frames := [⟨some 40, 36, 8, 16, some 0x7000⟩, ⟨none, 0, 0, 0, none⟩] }
def unhandled : Ctx := { ctx 16 [] with frames := [⟨some 40, 36, 8, 16, none⟩, ⟨none, 0, 0, 0, none⟩] }

/-- Engine 3 at a word of major opcode 0x3F, where it runs a chain with a handler. -/
def reserved40 : State := st (chipOf { planeOf handled with ibuf := [(3 * 8192 + handled.p / 4, 0xFC000000)] })

theorem witness_ExceptionsTaken (H : Obligations.ExceptionsTaken) :
    (∃ t, exec (.nop e3 (enc 0 0 0 0x2000)) (run { handled with seg := 65536 }) = .next t) ∧
    (∃ t, exec (.nop e3 (enc 0 0 0 0x2000)) reserved40 = .next t) ∧
    (∃ t, exec (.alu e3 (enc 1 2 3 1)) (run handled) = .next t) ∧ (∃ t, exec (.alu64 e3 (enc 1 2 4 0)) (run handled) = .next t) ∧
    (∃ t, exec (.alu e3 (enc 1 2 3 0x500)) (run handled) = .next t) ∧
    (∃ c, raiseExc (run handled).chip .a 3 2 .illegal = c) ∧ (∃ c, raiseExc (run unhandled).chip .a 3 2 .illegal = c) ∧
    (∃ c, raiseExc (run { unhandled with stop := true }).chip .a 3 2 .illegal = c) :=
  ⟨⟨_, H.1 _ _ e3 2 _ rfl rfl (by decide)⟩, ⟨_, H.2.1 _ _ e3 2 _ rfl rfl (by decide) rfl⟩,
    ⟨_, ((H.2.2.1 _ e3 (enc 1 2 3 1) 2 handled (ready rfl (by decide) rfl)).1 (by decide)).1⟩,
    ⟨_, (H.2.2.1 _ e3 (enc 1 2 4 0) 2 handled (ready rfl (by decide) rfl)).2.1 rfl⟩,
    ⟨_, (H.2.2.1 _ e3 (enc 1 2 3 0x500) 2 handled (ready rfl (by decide) rfl)).2.2 rfl rfl (.inl rfl)⟩,
    ⟨_, (H.2.2.2 _ e3 2 handled .illegal _ _ rfl rfl).1 0x7000 rfl⟩, ⟨_, ((H.2.2.2 _ e3 2 unhandled .illegal _ _ rfl rfl).2 _ _ 40 rfl rfl rfl).1 rfl⟩,
    ⟨_, ((H.2.2.2 _ e3 2 { unhandled with stop := true } .illegal _ _ rfl rfl).2 _ _ 40 rfl rfl rfl).2 rfl⟩⟩

/-- ADD with F and SHL of a pair by 63. -/
theorem witness_AluInstructionsComplete (H : Obligations.AluInstructionsComplete) :
    (∃ t, exec (.alu e3 (enc 1 2 3 0x2000)) (run (ctx 16 [0, 0, 7, 9])) = .next t) ∧
    (∃ t, exec (.alu64 e3 (enc 4 2 1 0x200)) (run (ctx 16 [0, 63, 7, 9])) = .next t) :=
  ⟨⟨_, (H _ e3 (enc 1 2 3 0x2000) 2 (ctx 16 [0, 0, 7, 9]) (ready rfl (by decide) rfl)).1 _ rfl (by decide) rfl⟩,
    ⟨_, (H _ e3 (enc 4 2 1 0x200) 2 (ctx 16 [0, 63, 7, 9]) (ready rfl (by decide) rfl)).2 _ rfl (by decide) rfl rfl (by decide) rfl⟩⟩

/-- The immediate forms at the last address at which they fit, and each of their ILLEGAL forms. -/
theorem witness_ImmediateFormsFollowR80 (H : Obligations.ImmediateFormsFollowR80) :
    (∃ t, exec (.addi e3 (enc 1 2 0 0x3FFF)) (run (ctx 0x7FF8 [0, 0, 7])) = .next t) ∧
    (∃ t, exec (.andi e3 (enc 1 2 3 5)) (run (ctx 16 [])) = .next t) ∧
    (∃ t, exec (.shi e3 (enc 1 2 0 0x001F)) (run (ctx 16 [])) = .next t) ∧ (∃ t, exec (.shi e3 (enc 1 2 0 0x1000)) (run (ctx 16 [])) = .next t) ∧
    (∃ t, exec (.shi e3 (enc 1 2 0 0x2000)) (run (ctx 16 [])) = .next t) ∧ (∃ t, exec (.shi e3 (enc 1 2 0 0x301F)) (run (ctx 16 [])) = .next t) ∧
    (∃ t, exec (.shi e3 (enc 1 2 0 0x0020)) (run (ctx 16 [])) = .next t) ∧
    (∃ t, exec (.movi e3 (enc 1 0 0 0) 0xFFFFFFFF) (run (ctx 0x7FF4 [])) = .next t) ∧
    (∃ t, exec (.setq e3 (enc 0 0 0 0) 0x7FFF) (run (ctx 16 [])) = .next t) ∧
    (∃ t, exec (.movi e3 (enc 0 0 0 1) 0) (run (ctx 16 [])) = .next t) ∧ (∃ t, exec (.setq e3 (enc 0 0 0 0) 0x8000) (run (ctx 16 [])) = .next t) :=
  ⟨⟨_, (((H _ e3 (enc 1 2 0 0x3FFF) 0 2 (ctx 0x7FF8 [0, 0, 7])).1 (ready rfl (by decide) rfl)).1 rfl).1⟩,
    ⟨_, (((H _ e3 (enc 1 2 3 5) 0 2 (ctx 16 [])).1 (ready rfl (by decide) rfl)).2.1 (by decide)).2.1⟩,
    ⟨_, (((H _ e3 (enc 1 2 0 0x001F) 0 2 (ctx 16 [])).1 (ready rfl (by decide) rfl)).2.2.1 rfl rfl).1 rfl⟩,
    ⟨_, (((H _ e3 (enc 1 2 0 0x1000) 0 2 (ctx 16 [])).1 (ready rfl (by decide) rfl)).2.2.1 rfl rfl).2.1 rfl⟩,
    ⟨_, (((H _ e3 (enc 1 2 0 0x2000) 0 2 (ctx 16 [])).1 (ready rfl (by decide) rfl)).2.2.1 rfl rfl).2.2.1 rfl⟩,
    ⟨_, (((H _ e3 (enc 1 2 0 0x301F) 0 2 (ctx 16 [])).1 (ready rfl (by decide) rfl)).2.2.1 rfl rfl).2.2.2 rfl⟩,
    ⟨_, ((H _ e3 (enc 1 2 0 0x0020) 0 2 (ctx 16 [])).1 (ready rfl (by decide) rfl)).2.2.2 (.inr (by decide))⟩,
    ⟨_, ((H _ e3 (enc 1 0 0 0) 0xFFFFFFFF 2 (ctx 0x7FF4 [])).2 (ready rfl (by decide) rfl)).1 rfl rfl rfl⟩,
    ⟨_, ((H _ e3 (enc 0 0 0 0) 0x7FFF 2 (ctx 16 [])).2 (ready rfl (by decide) rfl)).2.1 rfl rfl rfl rfl rfl⟩,
    ⟨_, (((H _ e3 (enc 0 0 0 1) 0 2 (ctx 16 [])).2 (ready rfl (by decide) rfl)).2.2.1 (.inl (by decide))).1⟩,
    ⟨_, ((H _ e3 (enc 0 0 0 0) 0x8000 2 (ctx 16 [])).2 (ready rfl (by decide) rfl)).2.2.2 (.inr (by decide))⟩⟩

/-- MFS of the last register, MTS of q and of s, and of k, which is read-only. -/
theorem witness_SpecialRegistersComplete (H : Obligations.SpecialRegistersComplete) :
    (∃ t, exec (.mfs e3 (enc 1 0 0 8)) (run (ctx 16 [])) = .next t) ∧ (∃ t, exec (.mts e3 (enc 0 2 0 0x402)) (run (ctx 16 [])) = .next t) ∧
    (∃ t, exec (.mts e3 (enc 0 2 0 0x404)) (run (ctx 16 [])) = .next t) ∧ (∃ t, exec (.mts e3 (enc 0 2 0 0x401)) (run (ctx 16 [])) = .next t) :=
  ⟨⟨_, (H _ e3 (enc 1 0 0 8) 2 (ctx 16 []) (ready rfl (by decide) rfl) rfl rfl).1 rfl (by decide) rfl⟩,
    ⟨_, ((H _ e3 (enc 0 2 0 0x402) 2 (ctx 16 []) (ready rfl (by decide) rfl) rfl rfl).2 rfl rfl).1 rfl⟩,
    ⟨_, ((H _ e3 (enc 0 2 0 0x404) 2 (ctx 16 []) (ready rfl (by decide) rfl) rfl rfl).2 rfl rfl).2.1 rfl⟩,
    ⟨_, ((H _ e3 (enc 0 2 0 0x401) 2 (ctx 16 []) (ready rfl (by decide) rfl) rfl rfl).2 rfl rfl).2.2 (by decide) (by decide)⟩⟩

theorem witness_CompareFollowsR81 (H : Obligations.CompareFollowsR81) :
    (∃ t, exec (.cmp e3 (enc 0 2 3 0)) (run (ctx 16 [0, 0, 7, 9])) = .next t) ∧
    (∃ t, exec (.cmp e3 (enc 0 2 4 0x2000)) (run (ctx 16 [])) = .next t) ∧ (∃ t, exec (.cmp e3 (enc 1 2 4 0)) (run (ctx 16 [])) = .next t) ∧
    (∃ t, exec (.cmp e3 (enc 0 2 3 0x2000)) (run (ctx 16 [])) = .next t) ∧ (∃ t, exec (.cmpi e3 (enc 0 2 0 0x3FFF)) (run (ctx 16 [])) = .next t) ∧
    (∃ t, exec (.cmpi e3 (enc 0 2 1 0)) (run (ctx 16 [])) = .next t) :=
  ⟨⟨_, (H _ e3 (enc 0 2 3 0) 2 (ctx 16 [0, 0, 7, 9]) (ready rfl (by decide) rfl)).1 rfl rfl rfl⟩,
    ⟨_, (H _ e3 (enc 0 2 4 0x2000) 2 (ctx 16 []) (ready rfl (by decide) rfl)).2.1 rfl rfl rfl rfl rfl⟩,
    ⟨_, (H _ e3 (enc 1 2 4 0) 2 (ctx 16 []) (ready rfl (by decide) rfl)).2.2.1 (.inl (by decide))⟩,
    ⟨_, (H _ e3 (enc 0 2 3 0x2000) 2 (ctx 16 []) (ready rfl (by decide) rfl)).2.2.2.1 rfl (.inr rfl)⟩,
    ⟨_, (H _ e3 (enc 0 2 0 0x3FFF) 2 (ctx 16 []) (ready rfl (by decide) rfl)).2.2.2.2.1 rfl rfl⟩,
    ⟨_, (H _ e3 (enc 0 2 1 0) 2 (ctx 16 []) (ready rfl (by decide) rfl)).2.2.2.2.2 (.inr (by decide))⟩⟩

/-- Targets 0 and 7FFC hexadecimal, one beyond each end, and SEL. -/
theorem witness_BranchesFollowR86 (H : Obligations.BranchesFollowR86) :
    (∃ t, exec (.br e3 (enc 0xF 0 0 0x3FFC)) (run (ctx 16 [])) = .next t) ∧ (∃ t, exec (.dbnz e3 (enc 1 0 0 3)) (run (ctx 0x7FF0 [])) = .next t) ∧
    (∃ t, exec (.br e3 (enc 0 0 0 0x3FFB)) (run (ctx 16 [])) = .next t) ∧ (∃ t, exec (.dbnz e3 (enc 1 0 0 4)) (run (ctx 0x7FF0 [])) = .next t) ∧
    (∃ t, exec (.sel e3 (enc 1 2 3 0x400)) (run (ctx 16 [])) = .next t) ∧ (∃ t, exec (.sel e3 (enc 1 2 3 0x401)) (run (ctx 16 [])) = .next t) :=
  ⟨⟨_, ((H _ e3 (enc 0xF 0 0 0x3FFC) 2 (ctx 16 [])).1 0 (by decide) (by decide) rfl rfl).1 (ready rfl (by decide) rfl)⟩,
    ⟨_, ((H _ e3 (enc 1 0 0 3) 2 (ctx 0x7FF0 [])).1 0x7FFC (by decide) (by decide) rfl rfl).2 (ready rfl (by decide) rfl)⟩,
    ⟨_, ((H _ e3 (enc 0 0 0 0x3FFB) 2 (ctx 16 [])).2.1 (.inl (by decide))).1 (ready rfl (by decide) rfl)⟩,
    ⟨_, ((H _ e3 (enc 1 0 0 4) 2 (ctx 0x7FF0 [])).2.1 (.inr (.inl (by decide)))).2 (ready rfl (by decide) rfl)⟩,
    ⟨_, ((H _ e3 (enc 1 2 3 0x400) 2 (ctx 16 [])).2.2 (ready rfl (by decide) rfl)).1 rfl⟩,
    ⟨_, ((H _ e3 (enc 1 2 3 0x401) 2 (ctx 16 [])).2.2 (ready rfl (by decide) rfl)).2 (by decide)⟩⟩

/-- An instance of engine 3 and task 5 at 64, 65,536 bytes long, its header marked. -/
def instMem : Memory := [(66, 0xA0), (68, 0xFF), (69, 0xDF)]
/-- The state in which engine 3 of Vat A runs `x` with that instance placed. -/
def runInst (x : Ctx) : State := st (chipOf { planeOf x with mem := instMem, marks := [64] })
/-- The context in the block at 64. -/
def inst (p : Nat) (g : List Word) : Ctx := { ctx p g with i := 64, frames := [⟨none, 0, 0, 0, none⟩] }
/-- In a called block. -/
def callee (p : Nat) : Ctx := { inst p [] with frames := [⟨some 40, 36, 8, 16, none⟩, ⟨none, 0, 0, 0, none⟩] }
/-- With an exception to be raised again. -/
def raised : Ctx := { handled with exc := some ⟨2, 16, 7, 36⟩ }

theorem witness_CallsAndControlComplete (H : Obligations.CallsAndControlComplete) :
    (∃ t, exec (.hnd e3 (enc 0 0 0 0x1FFB)) (run (ctx 0x4010 [])) = .next t) ∧ (∃ t, exec (.hnd e3 (enc 0 0 0 0x1000)) (run (ctx 16 [])) = .next t) ∧
    (∃ t, exec (.nop e3 (enc 0 0 0 0x2000)) (run (ctx 16 [])) = .next t) ∧ (∃ t, exec (.ret e3 (enc 0 0 0 0)) (run (callee 0x7FFC)) = .next t) ∧
    (∃ t, exec (.ret e3 (enc 0 0 0 0)) (run { ctx 16 [] with calls := [9] }) = .next t) ∧ (∃ t, exec (.ret e3 (enc 0 0 0 0)) (run (ctx 16 [])) = .next t) ∧
    (∃ t, exec (.halt e3 (enc 0 0 0 0x3000)) (run (ctx 0x7FFC [])) = .next t) ∧ (∃ t, exec (.call e3 (enc 0 0 0 0x1FFF) 64) (runInst (inst 16 [])) = .next t) ∧
    (∃ t, exec (.callr e3 (enc 0 1 0 0)) (runInst { inst 16 [0, 64] with frames := List.replicate 15 ⟨none, 0, 0, 0, none⟩ }) = .next t) ∧
    (∃ t, exec (.exceptionReraise e3) (run raised) = .next t) :=
  ⟨⟨_, ((H _ e3 (enc 0 0 0 0x1FFB) 2 (ctx 0x4010 [])).1 rfl rfl rfl).1 _ _ (ready rfl (by decide) rfl) rfl (by decide) rfl⟩,
    ⟨_, ((H _ e3 (enc 0 0 0 0x1000) 2 (ctx 16 [])).1 rfl rfl rfl).1 _ _ (ready rfl (by decide) rfl) rfl (by decide) rfl⟩,
    ⟨_, ((H _ e3 (enc 0 0 0 0x2000) 2 (ctx 16 [])).1 rfl rfl rfl).2.1 (ready rfl (by decide) rfl) rfl⟩,
    ⟨_, ((H _ e3 (enc 0 0 0 0) 2 (callee 0x7FFC)).1 rfl rfl rfl).2.2.1 _ _ _ 40 (ready rfl (by decide) rfl) rfl rfl rfl⟩,
    ⟨_, ((H _ e3 (enc 0 0 0 0) 2 { ctx 16 [] with calls := [9] }).1 rfl rfl rfl).2.2.2.1 _ _ _ (ready rfl (by decide) rfl) rfl rfl rfl⟩,
    ⟨_, ((H _ e3 (enc 0 0 0 0) 2 (ctx 16 [])).1 rfl rfl rfl).2.2.2.2.1 _ (ready rfl (by decide) rfl) rfl rfl rfl⟩,
    ⟨_, ((H _ e3 (enc 0 0 0 0x3000) 2 (ctx 0x7FFC [])).1 rfl rfl rfl).2.2.2.2.2 (ready rfl (by decide) rfl) rfl⟩,
    ⟨_, ((H _ e3 (enc 0 0 0 0x1FFF) 2 (inst 16 [])).2.1 64 64 8 (ready rfl (by decide) rfl) rfl rfl rfl rfl rfl (by decide) rfl rfl).1
      rfl rfl rfl rfl⟩,
    ⟨_, ((H _ e3 (enc 0 1 0 0) 2 { inst 16 [0, 64] with frames := List.replicate 15 ⟨none, 0, 0, 0, none⟩ }).2.1 0 64 4
      (ready rfl (by decide) rfl) rfl rfl rfl rfl rfl (by decide) rfl rfl).2 rfl rfl⟩,
    ⟨_, (H _ e3 (enc 0 0 0 0) 2 raised).2.2 _ _ _ 0x7000 rfl rfl rfl rfl rfl rfl rfl rfl⟩⟩

/-- FADD of 1.0 and 2.0, an FCVT to a word and one to a pair, FCMP of words and of pairs. -/
theorem witness_FloatingPointComplete (H : Obligations.FloatingPointComplete) :
    (∃ t, exec (.fop32 e3 (enc 1 2 3 0)) (run (ctx 16 [0, 0, 0x3F800000, 0x40000000])) = .next t) ∧
    (∃ t, exec (.fop64 e3 (enc 0 2 4 0)) (run (ctx 16 [])) = .next t) ∧ (∃ t, exec (.fcvt e3 (enc 1 2 0 0x0B00)) (run (ctx 16 [])) = .next t) ∧
    (∃ t, exec (.fcvt e3 (enc 4 2 0 0x2F00)) (run (ctx 16 [])) = .next t) ∧ (∃ t, exec (.fcmp e3 (enc 0 2 3 0xC00)) (run (ctx 16 [])) = .next t) ∧
    (∃ t, exec (.fcmp e3 (enc 0 2 4 0x2000)) (run (ctx 16 [])) = .next t) :=
  ⟨⟨_, (H _ e3 (enc 1 2 3 0) 2 (ctx 16 [0, 0, 0x3F800000, 0x40000000]) (ready rfl (by decide) rfl)).1 _ rfl rfl (by decide) rfl⟩,
    ⟨_, (H _ e3 (enc 0 2 4 0) 2 (ctx 16 []) (ready rfl (by decide) rfl)).2.1 _ rfl rfl (by decide) rfl rfl rfl rfl⟩,
    ⟨_, ((H _ e3 (enc 1 2 0 0x0B00) 2 (ctx 16 []) (ready rfl (by decide) rfl)).2.2.1 _ _ rfl rfl (by decide) (by decide) (by decide) rfl rfl).1
      rfl⟩,
    ⟨_, ((H _ e3 (enc 4 2 0 0x2F00) 2 (ctx 16 []) (ready rfl (by decide) rfl)).2.2.1 _ _ rfl rfl (by decide) (by decide) (by decide) rfl rfl).2
      rfl rfl⟩,
    ⟨_, ((H _ e3 (enc 0 2 3 0xC00) 2 (ctx 16 []) (ready rfl (by decide) rfl)).2.2.2 _ rfl rfl).1 rfl rfl⟩,
    ⟨_, ((H _ e3 (enc 0 2 4 0x2000) 2 (ctx 16 []) (ready rfl (by decide) rfl)).2.2.2 _ rfl rfl).2 rfl rfl rfl rfl⟩⟩

/-- The window of the instance at 64 for a load and for a store. -/
def rdWin : Window := ⟨false, 64, 64, 64 + 65536, none⟩
def wrWin : Window := ⟨false, 64, 72, 64 + 65536, none⟩

/-- A load of the instance's last doubleword and a store to the first word behind its header; COPY of nothing and of the longest
range; CRC of a register and of a range. -/
theorem witness_MemoryInstructionsComplete (H : Obligations.MemoryInstructionsComplete) :
    (∃ t, exec (.ldx e3 (enc 2 0 0 0x3000) 65528) (runInst (inst 16 [])) = .next t) ∧
    (∃ t, exec (.ld e3 (enc 2 0 0 0x2000)) (runInst (inst 16 [])) = .next t) ∧
    (∃ t, exec (.st e3 (enc 2 0 0 0x2002)) (runInst (inst 16 [])) = .next t) ∧
    (∃ t, exec (.stx e3 (enc 2 0 0 0x2000) 8) (runInst (inst 16 [])) = .next t) ∧
    (∃ t, exec (.copy e3 (enc 2 1 0 0)) (runInst (inst 16 [])) = .next t) ∧
    (∃ t, exec (.copy e3 (enc 2 1 3 0)) (runInst (inst 16 [0, 0, 8, 4096])) = .next t) ∧
    (∃ t, exec (.crc e3 (enc 2 1 0 0x2600)) (runInst (inst 16 [])) = .next t) ∧
    (∃ t, exec (.crc e3 (enc 2 1 3 0x0000)) (runInst (inst 16 [0, 0, 0, 8])) = .next t) ∧
    (∃ t, exec (.storeBufferDrain e3) (run (ctx 16 [])) = .next t) :=
  ⟨⟨_, ((H.1 _ e3 (enc 2 0 0 0x3000) 65528 2 (inst 16 []) 8 _ _ rdWin (some 65528) (ready rfl (by decide) rfl) rfl rfl (by decide)
      (.inr (by decide)) rfl rfl).1 _ rfl rfl rfl).2 rfl⟩,
    ⟨_, ((H.1 _ e3 (enc 2 0 0 0x2000) 0 2 (inst 16 []) 4 _ _ rdWin none (ready rfl (by decide) rfl) rfl rfl (by decide)
      (.inl (by decide)) rfl rfl).1 _ rfl rfl rfl).1 rfl⟩,
    ⟨_, ((H.1 _ e3 (enc 2 0 0 0x2002) 0 2 (inst 16 []) 4 _ _ wrWin none (ready rfl (by decide) rfl) rfl rfl (by decide)
      (.inl (by decide)) rfl rfl).2 _ _ rfl rfl rfl).1 rfl⟩,
    ⟨_, ((H.1 _ e3 (enc 2 0 0 0x2000) 8 2 (inst 16 []) 8 _ _ wrWin (some 8) (ready rfl (by decide) rfl) rfl rfl (by decide)
      (.inr (by decide)) rfl rfl).2 _ _ rfl rfl rfl).2 rfl⟩,
    ⟨_, ((H.2 _ e3 (enc 2 1 0 0) 2 (inst 16 [])).1 rdWin wrWin 0 (ready rfl (by decide) rfl) rfl (by decide) (by decide) rfl (by decide)
      rfl rfl).1 rfl⟩,
    ⟨_, ((H.2 _ e3 (enc 2 1 3 0) 2 (inst 16 [0, 0, 8, 4096])).1 rdWin wrWin 4096 (ready rfl (by decide) rfl) rfl (by decide) (by decide) rfl
      (by decide) rfl rfl).2 _ _ (by decide) rfl⟩,
    ⟨_, (H.2 _ e3 (enc 2 1 0 0x2600) 2 (inst 16 [])).2.1 _ _ _ (ready rfl (by decide) rfl) rfl (.inl ⟨rfl, rfl, rfl, rfl, rfl⟩) rfl⟩,
    ⟨_, (H.2 _ e3 (enc 2 1 3 0x0000) 2 (inst 16 [0, 0, 0, 8])).2.1 _ _ _ (ready rfl (by decide) rfl) rfl
      (.inr ⟨rdWin, rfl, by decide, by decide, rfl, rfl, rfl⟩) rfl⟩,
    ⟨_, (H.2 _ e3 (enc 0 0 0 0) 2 (ctx 16 [])).2.2 rfl⟩⟩

/-! ### Witnesses: queues, the fabric, the slot arbiters, the image, requests -/

/-- Queue 9: 4-byte entries, depth 1, both ends engine 3 of periodic task 5. -/
def desc9 : Desc := ⟨0x80000000, 0x503, 0x503, descChk 0x80000000 0x503 0x503⟩
def entry9 : Entry := ⟨[1, 2, 3, 4], 0, 0, 0, 0⟩
/-- Engine 3 runs `x` with queue 9 as `y`. -/
def planeQ (x : Ctx) (y : Queue) : VatPlane := { planeOf x with descs := [(9, desc9)], queues := [(9, y)] }
def runQ (x : Ctx) (y : Queue) : State := st (chipOf (planeQ x y))
def ctxQ (g : List Word) : Ctx := { ctx 16 g with q := 9 }
/-- A queue with one entry in transit, and one with an entry that has arrived. -/
def moving : Queue := { Queue.empty with spent := 1, transit := [entry9] }
def fullQ : Queue := { Queue.empty with spent := 1, entries := [entry9] }
def waitQ (w : Wait) : Ctx := { ctxQ [] with wait := w }

set_option maxRecDepth 4000 in
theorem witness_QueuesComplete (H : Obligations.QueuesComplete) :
    (∃ t, exec (.push e3 (enc 1 0 0 0)) (runQ (ctxQ []) Queue.empty) = .next t) ∧
    (∃ t, exec (.pop e3 (enc 1 0 0 0)) (runQ (ctxQ []) fullQ) = .next t) ∧ (∃ t, exec (.pop e3 (enc 1 0 0 0x80)) (runQ (ctxQ []) fullQ) = .next t) ∧
    (∃ t, exec (.peek e3 (enc 1 0 2 0)) (runQ (ctxQ []) fullQ) = .next t) ∧
    (∃ t, exec (.credit e3 (enc 0 1 0 0)) (runQ (ctxQ [0, 1]) { Queue.empty with spent := 1, deferred := 1 }) = .next t) ∧
    (∃ t, exec (.queueWaitEnd e3) (runQ (waitQ (.queue .pop (enc 1 0 0 0) 0)) fullQ) = .next t) ∧
    (∃ t, exec (.fence e3 (enc 0 0 0 0)) (runQ (ctxQ []) fullQ) = .next t) ∧ (∃ t, exec (.fenceComplete e3) (runQ (waitQ .fence) fullQ) = .next t) ∧
    (∃ t, exec (.push e3 (enc 1 0 0 0)) (runQ (ctxQ []) fullQ) = .next t) ∧ (∃ t, exec (.pop e3 (enc 1 0 0 0)) (runQ (ctxQ []) Queue.empty) = .next t) ∧
    (∃ t, exec (.peek e3 (enc 1 0 2 0)) (runQ (ctxQ []) Queue.empty) = .next t) ∧ (∃ t, exec (.fence e3 (enc 0 0 0 0)) (runQ (ctxQ []) moving) = .next t) :=
  ⟨⟨_, (H.1 _ e3 (enc 1 0 0 0) 2 (ctxQ []) _ _ _ (ready rfl (by decide) rfl) rfl rfl rfl).1 rfl rfl (by decide)⟩,
    ⟨_, (H.1 _ e3 (enc 1 0 0 0) 2 (ctxQ []) _ _ _ (ready rfl (by decide) rfl) rfl rfl rfl).2.1 entry9 [] _ _ _ rfl rfl rfl rfl rfl⟩,
    ⟨_, (H.1 _ e3 (enc 1 0 0 0x80) 2 (ctxQ []) _ _ _ (ready rfl (by decide) rfl) rfl rfl rfl).2.1 entry9 [] _ _ _ rfl rfl rfl rfl rfl⟩,
    ⟨_, (H.1 _ e3 (enc 1 0 2 0) 2 (ctxQ []) _ _ _ (ready rfl (by decide) rfl) rfl rfl rfl).2.2.1 entry9 _ _ rfl rfl rfl rfl⟩,
    ⟨_, (H.1 _ e3 (enc 0 1 0 0) 2 (ctxQ [0, 1]) _ _ _ (ready rfl (by decide) rfl) rfl rfl rfl).2.2.2 rfl rfl rfl rfl rfl rfl (by decide)⟩,
    ⟨_, (H.2.2 _ e3 2 (waitQ (.queue .pop (enc 1 0 0 0) 0))).1 _ _ _ _ _ _ rfl rfl rfl rfl⟩,
    ⟨_, (H.2.2 _ e3 2 (ctxQ [])).2.1 (enc 0 0 0 0) (ready rfl (by decide) rfl) rfl rfl rfl rfl rfl⟩,
    ⟨_, (H.2.2 _ e3 2 (waitQ .fence)).2.2 rfl rfl rfl⟩,
    ⟨_, ((H.2.1 _ e3 (enc 1 0 0 0) 2 (ctxQ []) _ _ (ready rfl (by decide) rfl) rfl rfl).1 .push _ rfl rfl rfl (by decide)).1 rfl⟩,
    ⟨_, ((H.2.1 _ e3 (enc 1 0 0 0) 2 (ctxQ []) _ _ (ready rfl (by decide) rfl) rfl rfl).1 .pop _ rfl rfl rfl rfl).2.1 rfl⟩,
    ⟨_, ((H.2.1 _ e3 (enc 1 0 2 0) 2 (ctxQ []) _ _ (ready rfl (by decide) rfl) rfl rfl).1 .peek _ rfl rfl rfl (by decide)).2.2 rfl⟩,
    ⟨_, (H.2.1 _ e3 (enc 0 0 0 0) 2 (ctxQ []) _ _ (ready rfl (by decide) rfl) rfl rfl).2 rfl rfl rfl rfl rfl⟩⟩

/-- A queue of which 16 credits are out. -/
def owing16 : Queue := { Queue.empty with spent := 16, back := 16 }
def devQ (y : Queue) : State := st { chipOf (planeOf (ctx 16 [])) with devq := [(9, y)] }
/-- An arbiter about to wrap, with a table staged, and requester 2 waiting. -/
def wrapping : Arbiter := { Arbiter.reset with ptr := 255, staged := some [], reqs := [(2, some 0)], clock := 5 }
def arbSt (x : Arbiter) : State := st { chipOf (planeOf (ctx 16 [])) with arbs := [(arbKey 35 .a, x)] }

theorem witness_FabricAndArbiterComplete (H : Obligations.FabricAndArbiterComplete) :
    (∃ t, exec (.transferMessage (some .a) 9 true) (runQ (ctxQ []) moving) = .next t) ∧
    (∃ t, exec (.transferMessage none 9 true) (devQ moving) = .next t) ∧
    (∃ t, exec (.creditMessage (some .a) 9 1 true) (runQ (ctxQ []) moving) = .next t) ∧
    (∃ t, exec (.creditMessage none 9 16 true) (devQ owing16) = .next t) ∧
    (∃ t, exec (.arbiterDecision 0 .a [] 1) (run (ctx 16 [])) = .next t) ∧
    (∃ t, exec (.arbiterDecision 35 .a [(5, 0)] 1) (arbSt wrapping) = .next t) :=
  ⟨⟨_, (H.1 _ .a 9 0).1 _ _ _ rfl rfl rfl⟩, ⟨_, (H.1 _ .a 9 0).2.1 _ _ _ rfl rfl⟩,
    ⟨_, (H.1 _ .a 9 1).2.2.1 _ _ _ rfl rfl (by decide) (by decide) (by decide) rfl⟩,
    ⟨_, (H.1 _ .a 9 16).2.2.2 _ _ _ rfl (by decide) (by decide) (by decide) rfl⟩,
    ⟨_, (H.2 _ 0 .a [] 1 _ _ _ _ _ 0 none rfl rfl rfl rfl (.inl ⟨rfl, rfl, rfl⟩)).1 (.inl rfl)⟩,
    ⟨_, (H.2 _ 35 .a [(5, 0)] 1 _ _ _ _ _ 6 (some 2) rfl rfl rfl rfl (.inr ⟨2, 0, rfl, rfl, rfl, rfl⟩)).2 _ rfl rfl⟩⟩

/-- Point 7 is a curd point of periodic task 5, point 8 a press point of it; both are 8 bytes long. -/
def pointed (x : Ctx) : State :=
  st (setReg (setReg (chipOf { planeOf x with mem := instMem, marks := [64] }) (Reg.hxkPt.addr 7) 0x80A00000) (Reg.hxkPt.addr 8) 0xC0A00000)
/-- A context of event task 9 in the instance at 64. -/
def evCtx : Ctx := { inst 16 [0, 8] with task := .event 9 }
/-- A cycle of task 5 with curd time 100, commit time 300, press time 200. -/
def act5 : Act := { Act.empty with curdTime := 100, commitTime := 300, pressTime := 200 }
def timed (x : Ctx) : State := st (chipOf { planeOf x with acts := [(5, act5)], time := 150 })

/-- A command answers a next state. -/
abbrev goes (i : Instr) (s : State) : Prop := ∃ t, exec i s = .next t

/-- An instruction at 7FFC hexadecimal, one with an extension word at 7FF8, and at address 16 a form of each instruction that is ILLEGAL. -/
theorem witness_EncodingsTrap (H : Obligations.EncodingsTrap) :
    goes (.alu e3 (enc 1 2 3 0)) (run (ctx 0x7FFC [])) ∧ goes (.fence e3 (enc 0 0 0 0)) (run (ctx 0x7FFC [])) ∧
    goes (.movi e3 (enc 1 0 0 0) 0) (run (ctx 0x7FF8 [])) ∧ goes (.cfgGet e3 (enc 2 0 0 0) 0) (run (ctx 0x7FFC [])) ∧
    goes (.alu e3 (enc 1 2 3 0x800)) (run (ctx 16 [])) ∧ goes (.alu e3 (enc 1 2 3 0x340)) (run (ctx 16 [])) ∧
    goes (.alu64 e3 (enc 2 3 4 0)) (run (ctx 16 [])) ∧ goes (.alu64 e3 (enc 2 4 3 0)) (run (ctx 16 [])) ∧
    goes (.alu64 e3 (enc 2 4 6 0x500)) (run (ctx 16 [])) ∧ goes (.mfs e3 (enc 1 0 1 0)) (run (ctx 16 [])) ∧
    goes (.mfs e3 (enc 1 0 0 9)) (run (ctx 16 [])) ∧ goes (.mts e3 (enc 0 1 0 0x403)) (run (ctx 16 [])) ∧
    goes (.fop32 e3 (enc 1 2 3 0x2C0)) (run (ctx 16 [])) ∧ goes (.fop64 e3 (enc 1 2 4 0)) (run (ctx 16 [])) ∧
    goes (.fcvt e3 (enc 2 4 0 0x3000)) (run (ctx 16 [])) ∧ goes (.fcmp e3 (enc 0 2 4 0x1000)) (run (ctx 16 [])) ∧
    goes (.callr e3 (enc 0 1 0 0x2000)) (run (ctx 16 [])) ∧ goes (.ld e3 (enc 1 0 0 0x600)) (run (ctx 16 [])) ∧
    goes (.st e3 (enc 1 0 0 0x800)) (run (ctx 16 [])) ∧ goes (.copy e3 (enc 1 2 3 0)) (run (ctx 16 [0, 0, 0, 4097])) ∧
    goes (.crc e3 (enc 1 2 3 0)) (run (ctx 16 [0, 0, 0, 4097])) ∧ goes (.push e3 (enc 1 0 0 0x80)) (run (ctx 16 [])) ∧
    goes (.pop e3 (enc 1 0 0 0x100)) (run { ctx 16 [] with task := .setup }) ∧ goes (.peek e3 (enc 1 1 0 0)) (run (ctx 16 [])) ∧
    goes (.credit e3 (enc 1 1 0 0)) (run (ctx 16 [])) ∧ goes (.fence e3 (enc 0 0 0 1)) (run (ctx 16 [])) ∧
    goes (.evr e3 (enc 0 1 0 0x3000)) (run (ctx 16 [])) ∧ goes (.time e3 (enc 1 0 0 0)) (run (ctx 16 [])) ∧
    goes (.waitt e3 (enc 0 1 0 0)) (run (ctx 16 [])) ∧ goes (.raise e3 (enc 0 0 0 64)) (run (ctx 16 [])) ∧
    goes (.abort e3 (enc 1 0 1 0)) (run (ctx 16 [])) ∧ goes (.noise e3 (enc 1 0 0 0)) (run (ctx 16 [])) ∧
    goes (.log e3 (enc 0 1 2 0x3000)) (run (ctx 16 [])) ∧ goes (.hset e3 (enc 0 1 0 0x2000)) (run (ctx 16 [])) ∧
    goes (.hset e3 (enc 0 1 0 1)) (run (ctx 16 [])) ∧ goes (.hget e3 (enc 1 0 0 0x1005)) (run (ctx 16 [])) ∧
    goes (.ret e3 (enc 0 0 0 1)) (run (ctx 0x7FFC [])) ∧ goes (.halt e3 (enc 0 0 1 0x3000)) (run (ctx 0x7FFC [])) ∧
    goes (.nop e3 (enc 1 0 0 0x2000)) (run (ctx 16 [])) ∧ goes (.hnd e3 (enc 0 0 0 0x1FFB)) (run (ctx 0x4014 [])) ∧
    goes (.call e3 (enc 0 0 0 0x2000) 64) (run (ctx 16 [])) ∧ goes (.ldx e3 (enc 1 0 0 0) 0x01000000) (run (ctx 16 [])) ∧
    goes (.stx e3 (enc 1 0 0 1) 0) (run (ctx 16 [])) ∧ goes (.inPoint e3 (enc 1 0 0 0x3000) 0x00010000) (run (ctx 16 [])) ∧
    goes (.outPoint e3 (enc 1 0 0 0x3000) 0) (run (ctx 16 [])) ∧ goes (.cfgSet e3 (enc 1 2 1 0) 0) (run (ctx 16 [])) ∧
    goes (.cfgGet e3 (enc 1 0 0 0) 0) (run (ctx 16 [])) :=
  have P := fun w => (H (run (ctx 0x7FFC [])) e3 w 0 2 (ctx 0x7FFC [])).1 rfl (by decide) (by decide)
  have R := fun w => (H (run (ctx 16 [])) e3 w 0 2 (ctx 16 [])).2.2.1 (ready rfl (by decide) rfl)
  have R' := fun w => (H (run (ctx 16 [0, 0, 0, 4097])) e3 w 0 2 (ctx 16 [0, 0, 0, 4097])).2.2.1 (ready rfl (by decide) rfl)
  have R2 := fun w => (H (run { ctx 16 [] with task := .setup }) e3 w 0 2 { ctx 16 [] with task := .setup }).2.2.1 (ready rfl (by decide) rfl)
  have X := fun w y => (H (run (ctx 16 [])) e3 w y 2 (ctx 16 [])).2.2.2.2.2.2 (ready rfl (by decide) rfl)
  ⟨⟨_, (P (enc 1 2 3 0)).1⟩, ⟨_, (P (enc 0 0 0 0)).2.2.2.2.2.2.2.2.2.2.2.2.2.2.2.2.2.2.2.2.2.2.2.2.2.2.2.2.2.2.2.2.2.2.2.2.2.2.2⟩,
    ⟨_, ((H _ e3 (enc 1 0 0 0) 0 2 (ctx 0x7FF8 [])).2.1 rfl (by decide) (by decide)).1⟩,
    ⟨_, ((H _ e3 (enc 2 0 0 0) 0 2 (ctx 0x7FFC [])).2.1 rfl (by decide) (by decide)).2.2.2.2.2.2.2.2⟩,
    ⟨_, ((R (enc 1 2 3 0x800)).1 (by decide) (by decide)).1⟩, ⟨_, (R (enc 1 2 3 0x340)).2.1 rfl (fun h => absurd h (by decide)) rfl⟩,
    ⟨_, (R (enc 2 3 4 0)).2.2.1 rfl⟩, ⟨_, (R (enc 2 4 3 0)).2.2.2.1 rfl rfl⟩, ⟨_, (R (enc 2 4 6 0x500)).2.2.2.2.1 (by decide)⟩,
    ⟨_, ((R (enc 1 0 1 0)).2.2.2.2.2.1 (by decide)).1⟩, ⟨_, (R (enc 1 0 0 9)).2.2.2.2.2.2.1 rfl (by decide)⟩, ⟨_, (R (enc 0 1 0 0x403)).2.2.2.2.2.2.2.1 rfl (by decide)⟩,
    ⟨_, ((R (enc 1 2 3 0x2C0)).2.2.2.2.2.2.2.2.1 (by decide)).1⟩, ⟨_, (R (enc 1 2 4 0)).2.2.2.2.2.2.2.2.2.1 (by decide)⟩, ⟨_, (R (enc 2 4 0 0x3000)).2.2.2.2.2.2.2.2.2.2.1 (by decide)⟩,
    ⟨_, (R (enc 0 2 4 0x1000)).2.2.2.2.2.2.2.2.2.2.2.1 (by decide)⟩, ⟨_, (R (enc 0 1 0 0x2000)).2.2.2.2.2.2.2.2.2.2.2.2.1 (by decide)⟩, ⟨_, (R (enc 1 0 0 0x600)).2.2.2.2.2.2.2.2.2.2.2.2.2.1 rfl⟩,
    ⟨_, (R (enc 1 0 0 0x800)).2.2.2.2.2.2.2.2.2.2.2.2.2.2.1 rfl⟩, ⟨_, (R' (enc 1 2 3 0)).2.2.2.2.2.2.2.2.2.2.2.2.2.2.2.1 (.inr (.inr (.inr (by decide))))⟩,
    ⟨_, (R' (enc 1 2 3 0)).2.2.2.2.2.2.2.2.2.2.2.2.2.2.2.2.1 (.inr (.inr ⟨rfl, .inr (by decide)⟩))⟩, ⟨_, (R (enc 1 0 0 0x80)).2.2.2.2.2.2.2.2.2.2.2.2.2.2.2.2.2.1 rfl⟩,
    ⟨_, (R2 (enc 1 0 0 0x100)).2.2.2.2.2.2.2.2.2.2.2.2.2.2.2.2.2.2.1 rfl⟩, ⟨_, (R (enc 1 1 0 0)).2.2.2.2.2.2.2.2.2.2.2.2.2.2.2.2.2.2.2.1 rfl⟩, ⟨_, (R (enc 1 1 0 0)).2.2.2.2.2.2.2.2.2.2.2.2.2.2.2.2.2.2.2.2.1 (by decide)⟩,
    ⟨_, (R (enc 0 0 0 1)).2.2.2.2.2.2.2.2.2.2.2.2.2.2.2.2.2.2.2.2.2.1 (by decide)⟩, ⟨_, (R (enc 0 1 0 0x3000)).2.2.2.2.2.2.2.2.2.2.2.2.2.2.2.2.2.2.2.2.2.2.1 (by decide)⟩, ⟨_, (R (enc 1 0 0 0)).2.2.2.2.2.2.2.2.2.2.2.2.2.2.2.2.2.2.2.2.2.2.2.1 (by decide)⟩,
    ⟨_, (R (enc 0 1 0 0)).2.2.2.2.2.2.2.2.2.2.2.2.2.2.2.2.2.2.2.2.2.2.2.2.1 (by decide)⟩, ⟨_, (R (enc 0 0 0 64)).2.2.2.2.2.2.2.2.2.2.2.2.2.2.2.2.2.2.2.2.2.2.2.2.2.1 (by decide)⟩, ⟨_, ((R (enc 1 0 1 0)).2.2.2.2.2.2.2.2.2.2.2.2.2.2.2.2.2.2.2.2.2.2.2.2.2.2.1 (by decide)).2.1⟩,
    ⟨_, ((R (enc 1 0 0 0)).2.2.2.2.2.2.2.2.2.2.2.2.2.2.2.2.2.2.2.2.2.2.2.2.2.2.2.1 rfl).2⟩, ⟨_, (R (enc 0 1 2 0x3000)).2.2.2.2.2.2.2.2.2.2.2.2.2.2.2.2.2.2.2.2.2.2.2.2.2.2.2.2.1 (by decide)⟩, ⟨_, ((R (enc 0 1 0 0x2000)).2.2.2.2.2.2.2.2.2.2.2.2.2.2.2.2.2.2.2.2.2.2.2.2.2.2.2.2.2.1 (by decide)).1⟩,
    ⟨_, (R (enc 0 1 0 1)).2.2.2.2.2.2.2.2.2.2.2.2.2.2.2.2.2.2.2.2.2.2.2.2.2.2.2.2.2.2.1 rfl (by decide)⟩, ⟨_, (R (enc 1 0 0 0x1005)).2.2.2.2.2.2.2.2.2.2.2.2.2.2.2.2.2.2.2.2.2.2.2.2.2.2.2.2.2.2.2 rfl (by decide)⟩,
    ⟨_, ((H _ e3 (enc 0 0 0 1) 0 2 (ctx 0x7FFC [])).2.2.2.1 (ready rfl (by decide) rfl) (by decide)).1 rfl⟩,
    ⟨_, ((H _ e3 (enc 0 0 1 0x3000) 0 2 (ctx 0x7FFC [])).2.2.2.1 (ready rfl (by decide) rfl) (by decide)).2 rfl⟩,
    ⟨_, (H _ e3 (enc 1 0 0 0x2000) 0 2 (ctx 16 [])).2.2.2.2.1 (ready rfl (by decide) rfl) rfl (by decide)⟩,
    ⟨_, (H _ e3 (enc 0 0 0 0x1FFB) 0 2 (ctx 0x4014 [])).2.2.2.2.2.1 (ready rfl (by decide) rfl) rfl (.inr (.inr (.inr (by decide))))⟩,
    ⟨_, (X (enc 0 0 0 0x2000) 64).1 (by decide)⟩, ⟨_, (X (enc 1 0 0 0) 0x01000000).2.1 (by decide)⟩, ⟨_, (X (enc 1 0 0 1) 0).2.2.1 (by decide)⟩,
    ⟨_, (X (enc 1 0 0 0x3000) 0x00010000).2.2.2.1 rfl⟩, ⟨_, (X (enc 1 0 0 0x3000) 0).2.2.2.2.1 rfl⟩, ⟨_, (X (enc 1 2 1 0) 0).2.2.2.2.2.1 (by decide)⟩,
    ⟨_, (X (enc 1 0 0 0) 0).2.2.2.2.2.2 (by decide)⟩⟩

set_option maxRecDepth 4000 in
/-- LD of a misaligned and of an outside address, an empty instance for COPY, CRC, EVR and LOG, a queue whose descriptor fails its check, and one
byte too many for OUT; the setup program; CALL of a base with no mark, from frame 16, and of another engine's instance. -/
theorem witness_AccessesTrap (H : Obligations.AccessesTrap) :
    goes (.ld e3 (enc 2 0 0 0x2104)) (runInst (inst 16 [1])) ∧ goes (.ld e3 (enc 2 0 0 0x2100)) (runInst (inst 16 [65536])) ∧
    goes (.st e3 (enc 2 0 0 0x2001)) (runInst (inst 16 [])) ∧ goes (.ldx e3 (enc 2 0 0 0x2000) 0x00FFFFFC) (runInst (inst 16 [])) ∧
    goes (.stx e3 (enc 2 0 0 0x2000) 0x00FFFFFC) (runInst (inst 16 [])) ∧
    goes (.copy e3 (enc 2 1 3 0)) (runInst (inst 16 [0, 65536, 8, 1])) ∧ goes (.crc e3 (enc 2 1 3 0)) (runInst (inst 16 [0, 65536, 0, 1])) ∧
    goes (.evr e3 (enc 0 2 0 0)) (runInst (inst 16 [0, 0, 7])) ∧ goes (.evr e3 (enc 0 2 0 0)) (runInst (inst 16 [0, 0, 8])) ∧
    goes (.log e3 (enc 0 1 2 0)) (runInst (inst 16 [0, 7, 65521])) ∧ goes (.push e3 (enc 1 0 0 0)) (run (ctxQ [])) ∧
    goes (.pop e3 (enc 1 0 0 0)) (run (ctxQ [])) ∧ goes (.peek e3 (enc 1 0 2 0)) (runQ (ctxQ [0, 0, 1]) fullQ) ∧
    goes (.credit e3 (enc 0 1 0 0)) (runQ (ctxQ [0, 1]) fullQ) ∧ goes (.time e3 (enc 2 0 0 0)) (run { ctx 16 [] with task := .setup }) ∧
    goes (.waitt e3 (enc 0 2 0 0)) (timed (ctx 16 [0, 0, 200])) ∧ goes (.raise e3 (enc 0 0 0 63)) (run { ctx 16 [] with task := .setup }) ∧
    goes (.inPoint e3 (enc 1 0 0 0) 0x00020007) (pointed (ctx 16 [])) ∧ goes (.outPoint e3 (enc 1 0 0 0) 0x00080008) (pointed (ctx 16 [])) ∧
    goes (.call e3 (enc 0 0 0 0) 72) (runInst (inst 16 [])) ∧
    goes (.callr e3 (enc 0 1 0 0)) (runInst { inst 16 [0, 64] with frames := List.replicate 16 ⟨none, 0, 0, 0, none⟩ }) ∧
    goes (.call e3 (enc 0 0 0 0) 64) (runInst { inst 16 [] with task := .periodic 6 }) :=
  have M := fun x (h : running (runInst x).chip e3 = some (2, x)) (hs : x.seg < 65536) (hp : beyondBuffer x.p 4 false = false)
      (hr : reservedAt (runInst x).chip e3 x.p = false) w => (H (runInst x) e3 w 0 2 x).2.1 (ready h hs hp hr)
  ⟨⟨_, ((H _ e3 (enc 2 0 0 0x2104) 0 2 (inst 16 [1])).1 4 _ _ none false _ (ready rfl (by decide) rfl) rfl rfl rfl (.inl ⟨rfl, rfl⟩) rfl .align
      (.inl ⟨by decide, rfl⟩)).1 rfl rfl⟩,
    ⟨_, ((H _ e3 (enc 2 0 0 0x2100) 0 2 (inst 16 [65536])).1 4 _ _ none false _ (ready rfl (by decide) rfl) rfl rfl rfl (.inl ⟨rfl, rfl⟩) rfl
      .protect (.inr ⟨by decide, .inr rfl, rfl⟩)).1 rfl rfl⟩,
    ⟨_, ((H _ e3 (enc 2 0 0 0x2001) 0 2 (inst 16 [])).1 4 _ _ none true _ (ready rfl (by decide) rfl) rfl rfl rfl (.inl ⟨rfl, rfl⟩) rfl
      .protect (.inr ⟨by decide, .inr rfl, rfl⟩)).2.1 rfl rfl⟩,
    ⟨_, ((H _ e3 (enc 2 0 0 0x2000) 0x00FFFFFC 2 (inst 16 [])).1 8 _ _ (some 0x00FFFFFC) false _ (ready rfl (by decide) rfl) rfl rfl rfl
      (.inr ⟨rfl, rfl, rfl, by decide⟩) rfl .protect (.inr ⟨by decide, .inr rfl, rfl⟩)).2.2.1 rfl rfl⟩,
    ⟨_, ((H _ e3 (enc 2 0 0 0x2000) 0x00FFFFFC 2 (inst 16 [])).1 8 _ _ (some 0x00FFFFFC) true _ (ready rfl (by decide) rfl) rfl rfl rfl
      (.inr ⟨rfl, rfl, rfl, by decide⟩) rfl .protect (.inr ⟨by decide, .inr rfl, rfl⟩)).2.2.2 rfl rfl⟩,
    ⟨_, (M (inst 16 [0, 65536, 8, 1]) rfl (by decide) rfl rfl (enc 2 1 3 0)).1 rfl (by decide) (by decide) (by decide) (.inl rfl)⟩,
    ⟨_, (M (inst 16 [0, 65536, 0, 1]) rfl (by decide) rfl rfl (enc 2 1 3 0)).2.1 rfl rfl (by decide) (by decide) rfl⟩,
    ⟨_, ((M (inst 16 [0, 0, 7]) rfl (by decide) rfl rfl (enc 0 2 0 0)).2.2.1 rfl rfl rfl (by decide)).1 rfl⟩,
    ⟨_, ((M (inst 16 [0, 0, 8]) rfl (by decide) rfl rfl (enc 0 2 0 0)).2.2.1 rfl rfl rfl (by decide)).2 wrWin rfl rfl⟩,
    ⟨_, (M (inst 16 [0, 7, 65521]) rfl (by decide) rfl rfl (enc 0 1 2 0)).2.2.2.1 rfl rfl (by decide) rfl⟩,
    ⟨_, (((H _ e3 (enc 1 0 0 0) 0 2 (ctxQ [])).2.1 (ready rfl (by decide) rfl)).2.2.2.2.1 .push .queue rfl rfl).1 rfl⟩,
    ⟨_, (((H _ e3 (enc 1 0 0 0) 0 2 (ctxQ [])).2.1 (ready rfl (by decide) rfl)).2.2.2.2.1 .pop .queue rfl rfl).2.1 rfl⟩,
    ⟨_, (((H _ e3 (enc 1 0 2 0) 0 2 (ctxQ [0, 0, 1])).2.1 (ready rfl (by decide) rfl)).2.2.2.2.1 .peek .queue rfl rfl).2.2 rfl⟩,
    ⟨_, ((H _ e3 (enc 0 1 0 0) 0 2 (ctxQ [0, 1])).2.1 (ready rfl (by decide) rfl)).2.2.2.2.2.1 _ rfl rfl rfl rfl (.inr (.inr (.inr (by decide))))⟩,
    ⟨_, ((H _ e3 (enc 2 0 0 0) 0 2 { ctx 16 [] with task := .setup }).2.1 (ready rfl (by decide) rfl)).2.2.2.2.2.2.1 rfl rfl rfl rfl rfl⟩,
    ⟨_, ((H _ e3 (enc 0 2 0 0) 0 2 (ctx 16 [0, 0, 200])).2.1 (ready rfl (by decide) rfl)).2.2.2.2.2.2.2.1 rfl rfl rfl rfl (by decide)
      (by decide) (by decide)⟩,
    ⟨_, ((H _ e3 (enc 0 0 0 63) 0 2 { ctx 16 [] with task := .setup }).2.1 (ready rfl (by decide) rfl)).2.2.2.2.2.2.2.2 rfl rfl rfl rfl rfl⟩,
    ⟨_, ((H _ e3 (enc 1 0 0 0) 0x00020007 2 (ctx 16 [])).2.2.1 (ready rfl (by decide) rfl) .align).1 rfl rfl⟩,
    ⟨_, ((H _ e3 (enc 1 0 0 0) 0x00080008 2 (ctx 16 [])).2.2.1 (ready rfl (by decide) rfl) .image).2 rfl rfl⟩,
    ⟨_, ((H _ e3 (enc 0 0 0 0) 72 2 (inst 16 [])).2.2.2 72 8 .protect _ _ (ready rfl (by decide) rfl) rfl rfl rfl
      (.inl ⟨rfl, rfl, rfl, rfl, rfl, rfl⟩) (.inl ⟨.inr rfl, rfl⟩)).1 rfl⟩,
    ⟨_, ((H _ e3 (enc 0 1 0 0) 0 2 { inst 16 [0, 64] with frames := List.replicate 16 ⟨none, 0, 0, 0, none⟩ }).2.2.2 64 4 .calldepth _ _
      (ready rfl (by decide) rfl) rfl rfl rfl (.inr ⟨rfl, rfl, rfl, rfl⟩) (.inr ⟨rfl, rfl, rfl, .inl ⟨by decide, rfl⟩⟩)).2 rfl⟩,
    ⟨_, ((H _ e3 (enc 0 0 0 0) 64 2 { inst 16 [] with task := .periodic 6 }).2.2.2 64 8 .owner _ _ (ready rfl (by decide) rfl) rfl rfl rfl
      (.inl ⟨rfl, rfl, rfl, rfl, rfl, rfl⟩) (.inr ⟨rfl, rfl, rfl, .inr ⟨by decide, rfl, .inr (by decide)⟩⟩)).1 rfl⟩⟩

theorem witness_ImageAndTimeComplete (H : Obligations.ImageAndTimeComplete) :
    (∃ t, exec (.inPoint e3 (enc 1 0 0 0) 0x00040007) (pointed (ctx 16 [])) = .next t) ∧
    (∃ t, exec (.inPoint e3 (enc 2 0 0 0x1000) 7) (pointed (ctx 16 [])) = .next t) ∧
    (∃ t, exec (.inPoint e3 (enc 0 1 2 0x2000) 7) (pointed (inst 16 [0, 8, 8])) = .next t) ∧
    (∃ t, exec (.inPoint e3 (enc 1 0 0 0x3000) 7) (pointed (ctx 16 [])) = .next t) ∧
    (∃ t, exec (.outPoint e3 (enc 1 0 0 0) 0x00040008) (pointed (ctx 16 [])) = .next t) ∧
    (∃ t, exec (.outPoint e3 (enc 2 0 0 0x1000) 8) (pointed (ctx 16 [])) = .next t) ∧
    (∃ t, exec (.outPoint e3 (enc 0 1 2 0x2000) 8) (pointed (inst 16 [0, 8, 8])) = .next t) ∧
    (∃ t, exec (.evr e3 (enc 0 1 0 0)) (pointed evCtx) = .next t) ∧ (∃ t, exec (.raise e3 (enc 0 0 0 63)) (run (ctx 16 [])) = .next t) ∧
    (∃ t, exec (.time e3 (enc 2 0 0 0)) (timed (ctx 16 [])) = .next t) ∧ (∃ t, exec (.time e3 (enc 2 0 0 0x1000)) (timed (ctx 16 [])) = .next t) ∧
    (∃ t, exec (.time e3 (enc 2 0 0 0x2000)) (timed (ctx 16 [])) = .next t) ∧ (∃ t, exec (.time e3 (enc 2 0 0 0x3000)) (timed (ctx 16 [])) = .next t) ∧
    (∃ t, exec (.waitt e3 (enc 0 2 0 0)) (timed (ctx 16 [0, 0, 100])) = .next t) ∧ (∃ t, exec (.waitt e3 (enc 0 2 0 0)) (timed (ctx 16 [0, 0, 199])) = .next t) ∧
    (∃ t, exec (.waittComplete e3) (timed { ctx 16 [] with wait := .time 150 }) = .next t) :=
  ⟨⟨_, ((H.1 _ e3 (enc 1 0 0 0) 0x00040007 2 (ctx 16 [])).1 _ (ready rfl (by decide) rfl) rfl rfl rfl).1 rfl⟩,
    ⟨_, ((H.1 _ e3 (enc 2 0 0 0x1000) 7 2 (ctx 16 [])).1 _ (ready rfl (by decide) rfl) rfl rfl rfl).2.1 rfl⟩,
    ⟨_, ((H.1 _ e3 (enc 0 1 2 0x2000) 7 2 (inst 16 [0, 8, 8])).1 _ (ready rfl (by decide) rfl) rfl rfl rfl).2.2.1 wrWin _ _ rfl (by decide)
      rfl rfl⟩,
    ⟨_, ((H.1 _ e3 (enc 1 0 0 0x3000) 7 2 (ctx 16 [])).1 _ (ready rfl (by decide) rfl) rfl rfl rfl).2.2.2 rfl⟩,
    ⟨_, ((H.1 _ e3 (enc 1 0 0 0) 0x00040008 2 (ctx 16 [])).2.1 (ready rfl (by decide) rfl) rfl rfl).1 rfl⟩,
    ⟨_, ((H.1 _ e3 (enc 2 0 0 0x1000) 8 2 (ctx 16 [])).2.1 (ready rfl (by decide) rfl) rfl rfl).2.1 rfl⟩,
    ⟨_, ((H.1 _ e3 (enc 0 1 2 0x2000) 8 2 (inst 16 [0, 8, 8])).2.1 (ready rfl (by decide) rfl) rfl rfl).2.2 rdWin rfl (by decide) rfl⟩,
    ⟨_, (H.1 _ e3 (enc 0 1 0 0) 0 2 evCtx).2.2.1 wrWin _ _ (ready rfl (by decide) rfl) rfl rfl rfl (by decide) rfl rfl rfl⟩,
    ⟨_, (H.1 _ e3 (enc 0 0 0 63) 0 2 (ctx 16 [])).2.2.2 (ready rfl (by decide) rfl) rfl rfl rfl rfl (by decide)⟩,
    ⟨_, ((H.2 _ e3 (enc 2 0 0 0) 2 (ctx 16 []) _ rfl).1 (ready rfl (by decide) rfl) rfl rfl rfl rfl (by decide)).1 rfl⟩,
    ⟨_, ((H.2 _ e3 (enc 2 0 0 0x1000) 2 (ctx 16 []) _ rfl).1 (ready rfl (by decide) rfl) rfl rfl rfl rfl (by decide)).2.1 rfl⟩,
    ⟨_, ((H.2 _ e3 (enc 2 0 0 0x2000) 2 (ctx 16 []) _ rfl).1 (ready rfl (by decide) rfl) rfl rfl rfl rfl (by decide)).2.2.1 rfl⟩,
    ⟨_, ((H.2 _ e3 (enc 2 0 0 0x3000) 2 (ctx 16 []) _ rfl).1 (ready rfl (by decide) rfl) rfl rfl rfl rfl (by decide)).2.2.2 rfl⟩,
    ⟨_, ((H.2 _ e3 (enc 0 2 0 0) 2 (ctx 16 [0, 0, 100]) _ rfl).2.1 (ready rfl (by decide) rfl) rfl rfl rfl rfl (by decide)).1 (by decide)⟩,
    ⟨_, ((H.2 _ e3 (enc 0 2 0 0) 2 (ctx 16 [0, 0, 199]) _ rfl).2.1 (ready rfl (by decide) rfl) rfl rfl rfl rfl (by decide)).2
      (by decide) (by decide) (by decide)⟩,
    ⟨_, (H.2 _ e3 (enc 0 0 0 0) 2 { ctx 16 [] with wait := .time 150 } _ rfl).2.2 150 rfl rfl (by decide)⟩⟩

theorem witness_RequestsAndHealthComplete (H : Obligations.RequestsAndHealthComplete) :
    (∃ t, exec (.cfgSet e3 (enc 1 2 0 0) 0x00FFFFFF) (run (ctx 16 [])) = .next t) ∧
    (∃ t, exec (.cfgGet e3 (enc 2 0 3 0x3000) 0) (run (ctx 16 [])) = .next t) ∧ (∃ t, exec (.commit e3 (enc 2 0 0 0)) (run (ctx 16 [])) = .next t) ∧
    (∃ t, exec (.abort e3 (enc 1 0 0 0)) (run (ctx 16 [])) = .next t) ∧ (∃ t, exec (.noise e3 (enc 2 0 0 0)) (run (ctx 16 [])) = .next t) ∧
    (∃ t, exec (.log e3 (enc 0 1 2 0)) (runInst (inst 16 [0, 7, 65520])) = .next t) ∧ (∃ t, exec (.hset e3 (enc 0 1 0 0)) (run (ctx 16 [])) = .next t) ∧
    (∃ t, exec (.hget e3 (enc 1 0 0 0x1004)) (run (ctx 16 [])) = .next t) ∧
    (∃ t, exec .noiseReply (st { ported .service with sys := { (ported .service).sys with noise := [50], rngReady := true } }) = .next t) :=
  ⟨⟨_, (H.1 _ e3 (enc 1 2 0 0) 0x00FFFFFF 2 (ctx 16 []) rfl).1 (ready rfl (by decide) rfl) rfl (by decide) rfl⟩,
    ⟨_, (H.1 _ e3 (enc 2 0 3 0x3000) 0 2 (ctx 16 []) rfl).2.1 (ready rfl (by decide) rfl) rfl (by decide) rfl rfl rfl⟩,
    ⟨_, (H.1 _ e3 (enc 2 0 0 0) 0 2 (ctx 16 []) rfl).2.2.1 (ready rfl (by decide) rfl) rfl rfl rfl rfl⟩,
    ⟨_, (H.1 _ e3 (enc 1 0 0 0) 0 2 (ctx 16 []) rfl).2.2.2.1 (ready rfl (by decide) rfl) rfl rfl rfl⟩,
    ⟨_, (H.1 _ e3 (enc 2 0 0 0) 0 2 (ctx 16 []) rfl).2.2.2.2 (ready rfl (by decide) rfl) rfl rfl rfl rfl⟩,
    ⟨_, (H.2 _ e3 (enc 0 1 2 0) 2 (inst 16 [0, 7, 65520])).1 rdWin (ready rfl (by decide) rfl) rfl rfl (by decide) (by decide) rfl⟩,
    ⟨_, (H.2 _ e3 (enc 0 1 0 0) 2 (ctx 16 [])).2.1 (ready rfl (by decide) rfl) rfl rfl rfl (by decide)⟩,
    ⟨_, (H.2 _ e3 (enc 1 0 0 0x1004) 2 (ctx 16 [])).2.2.1 (ready rfl (by decide) rfl) rfl rfl (by decide) rfl rfl (by decide)⟩,
    ⟨_, (H.2 _ e3 (enc 0 0 0 0) 2 (ctx 16 [])).2.2.2 50 [] rfl rfl rfl⟩⟩

/-! ### Witnesses: task cycles, the press, the Vats -/

/-- Vats A and B have the same request at their head, Vat C none. -/
def asking : State :=
  let p : VatPlane := { planeOf (ctx 16 []) with reqs := [(ctxKey 3 2, [.commit])] }
  st { chipOf p with vats := ⟨p, p, { VatPlane.reset with state := .serving }⟩ }
/-- The port's reply to engine 3 at priority 2, and a COMMIT of the culture whose check has ended. -/
def replying : State := st { chipOf (planeOf (ctx 16 [])) with sys := { (chipOf VatPlane.reset).sys with replies := [(50, [[0]])] } }
def checkingC : State := st { chipOf (planeOf (ctx 16 [])) with sys := { (chipOf VatPlane.reset).sys with checking := [50] } }

theorem witness_PortRequestsAndRepliesComplete (H : Obligations.PortRequestsAndRepliesComplete) :
    (∃ t, exec (.cfgPortRequest 3 2) asking = .next t) ∧ (∃ t, exec .cfgReply replying = .next t) ∧ (∃ t, exec .cfgReply checkingC = .next t) :=
  ⟨⟨_, (H _ 3 2).1 _ .commit _ rfl rfl rfl⟩, ⟨_, (H _ 0 0).2.1 50 [0] [] [] rfl⟩,
    ⟨_, (H checkingC 0 0).2.2 50 [] _ _ (fun _ _ _ _ h => nomatch h) rfl rfl rfl⟩⟩

/-- Task T5 every 50 µs with phase 0, event task V9 enabled with a record whose instant is now. -/
def tasked (c : Chip) : Chip := setReg (setReg c (Reg.hxkTcfg.addr 5) 0x80000001) (Reg.hxkVcfg.addr 9) 0x80000000
def record : List Byte := [0, 0, 0, 0, 48, 0, 0, 0, 0, 0, 0, 0, 0, 0, 0, 0]
def dueV9 : State :=
  let p : VatPlane := { VatPlane.reset with state := .serving, pending := [(9, [record])] }
  let c := tasked { chipOf p with vats := ⟨p, p, p⟩ }
  st { c with core := { c.core with tick := 50 } }
/-- The same with a record of Vat A alone, Vat C in a state. -/
def loneV9 (s : VatState) : State :=
  st { dueV9.chip with vats := ⟨dueV9.chip.vats.a, { VatPlane.reset with state := .serving }, { VatPlane.reset with state := s }⟩ }
/-- T5's cycle has begun at tick 0 and it is tick `k`; the Vats hold the sets `p`. -/
def cycle (k : Nat) (p : VatPlane) (x : TaskSt) : State :=
  let c := tasked { chipOf p with vats := ⟨p, p, p⟩ }
  st { c with core := { c.core with tick := k }, tasks := [(5, x)] }
def begun : TaskSt := { TaskSt.empty with active := true, commitTick := 50, guard := 4 }
/-- The same in STANDBY. -/
def standing (s : State) : State := st { s.chip with sys := { s.chip.sys with mode := .standby } }
def set0 : SampleSet := ⟨0, 0, [], []⟩
def holding (a : Act) : VatPlane := { VatPlane.reset with state := .serving, acts := [(5, a)] }

theorem witness_CyclesAndCurdComplete (H : Obligations.CyclesAndCurdComplete) :
    (∃ t, exec (.curdInstant 5) (st (tasked (chipOf (planeOf (ctx 16 []))))) = .next t) ∧ (∃ t, exec (.eventCurdInstant 9) dueV9 = .next t) ∧
    (∃ t, exec (.eventCurdInstant 9) (loneV9 .serving) = .next t) ∧ (∃ t, exec (.eventCurdInstant 9) (loneV9 .out) = .next t) ∧
    (∃ t, exec (.sampleSetArrival .a .b (.periodic 5) true) (cycle 1 (holding { Act.empty with own := some set0 }) begun) = .next t) ∧
    (∃ t, exec (.postDeadline .a (.periodic 5)) (cycle 2 (holding Act.empty) begun) = .next t) ∧
    (∃ t, exec (.curdClose (.periodic 5)) (cycle 3 (holding Act.empty) begun) = .next t) ∧
    (∃ t, exec (.curdClose (.periodic 5)) (cycle 3 (holding { Act.empty with own := some set0, sets := Tri.all (some set0) }) begun) = .next t) ∧
    (∃ t, exec (.curdClose (.periodic 5)) (standing (cycle 3 (holding Act.empty) begun)) = .next t) ∧
    (∃ t, exec (.curdClose (.periodic 5)) (standing (cycle 3 (holding { Act.empty with own := some set0, sets := Tri.all (some set0) }) begun)) = .next t) :=
  ⟨⟨_, (H.1 _).1 5 rfl rfl rfl rfl (by decide)⟩,
    ⟨_, ((H.1 dueV9).2 9 [(.a, record), (.b, record), (.c, record)] _ rfl rfl rfl (by decide) rfl rfl).1 (.inl (by decide))⟩,
    ⟨_, (((H.1 (loneV9 .serving)).2 9 [(.a, record)] _ rfl rfl rfl (by decide) rfl rfl).2 .a record rfl).1 rfl⟩,
    ⟨_, (((H.1 (loneV9 .out)).2 9 [(.a, record)] _ rfl rfl rfl (by decide) rfl rfl).2 .a record rfl).2 rfl⟩,
    ⟨_, (H.2 _ (.periodic 5) begun rfl rfl rfl).1 .a .b set0 (by decide) rfl rfl rfl rfl rfl⟩,
    ⟨_, (H.2 _ (.periodic 5) begun rfl rfl rfl).2.1 .a (by decide) (fun u _ => by cases u <;> rfl)⟩,
    ⟨_, ((H.2 _ (.periodic 5) begun rfl rfl rfl).2.2.1 _ _ (by decide) rfl rfl (by decide) rfl).1 rfl⟩,
    ⟨_, ((H.2 _ (.periodic 5) begun rfl rfl rfl).2.2.1 _ _ (by decide) rfl rfl (by decide) rfl).2 .a [.b, .c] _ rfl rfl (by decide)⟩,
    ⟨_, ((H.2 (standing (cycle 3 (holding Act.empty) begun)) (.periodic 5) begun rfl rfl rfl).2.2.2 _ _ _ false true (by decide) rfl rfl rfl
      rfl rfl).1 rfl rfl⟩,
    ⟨_, ((H.2 (standing (cycle 3 (holding { Act.empty with own := some set0, sets := Tri.all (some set0) }) begun)) (.periodic 5) begun rfl rfl
      rfl).2.2.2 _ _ _ false true (by decide) rfl rfl rfl rfl rfl).2 .a [.b, .c] _ rfl rfl rfl (.inl rfl)⟩⟩

/-- Long after tick 0. -/
def late (c : Chip) : Chip := { c with core := { c.core with tick := 100000 } }
/-- Engine 3 with an urgent chain of priority 1; `own` has been posted by Vat A, and `goal` is the count agreed. -/
def agreeing (own goal : Option Word) : State :=
  st (late (chipOf { planeOf { ctx 16 [] with atBnd := true, bnd := 7 } with
    engines := [(3, { Engine.idle with cur := some 2, urgent := some 1, reports := ⟨own, none, none⟩, postAt := own.map fun _ => 0, goal := goal })] }))
/-- POP of queue 9 waits, with the limit of 1 close passed, and Vat A has reported. -/
def limited : State :=
  st (late (chipOf { planeQ (waitQ (.queue .pop (enc 1 0 0 0x100) 1)) Queue.empty with
    engines := [(3, { Engine.idle with cur := some 2, qreports := ⟨some (0, 16), none, none⟩, qpostAt := some 0 })] }))

theorem witness_BoundaryAndWaitReportsComplete (H : Obligations.BoundaryAndWaitReportsComplete) :
    (∃ t, exec (.boundaryReached e3) (agreeing none none) = .next t) ∧ (∃ t, exec (.boundaryReached e3) (agreeing (some 7) (some 7)) = .next t) ∧
    (∃ t, exec (.boundaryReportArrival .b .a 3 9) (agreeing none none) = .next t) ∧
    (∃ t, exec (.bndwaitTimeout e3 .c) (agreeing (some 7) none) = .next t) ∧
    (∃ t, exec (.waitReportArrival .b .a 3 0 16) limited = .next t) ∧ (∃ t, exec (.waitReportTimeout e3 .c) limited = .next t) :=
  ⟨⟨_, ((H.1 _ e3 _ rfl rfl rfl).1 2 _ rfl rfl rfl rfl rfl).1 rfl⟩,
    ⟨_, ((H.1 _ e3 _ rfl rfl rfl).1 2 _ rfl rfl rfl rfl rfl).2 7 rfl rfl⟩,
    ⟨_, (H.1 _ e3 _ rfl rfl rfl).2.1 .b 9 _ (by decide) rfl rfl⟩,
    ⟨_, (H.1 _ e3 _ rfl rfl rfl).2.2 .c 2 7 rfl rfl rfl rfl rfl⟩,
    ⟨_, (H.2 _ e3 2 _ _ rfl rfl rfl).1 .b 0 16 (by decide) rfl⟩,
    ⟨_, (H.2 _ e3 2 _ _ rfl rfl rfl).2 .c rfl rfl rfl⟩⟩

def formed (x : PressTask) : TaskSt := { begun with formed := true, press := x }
/-- Event task V9 computes past its hold limit, before its press close. -/
def eventHeld : State :=
  st { dueV9.chip with tasks := [(256 + 9, { begun with formed := true, commitTick := 1000 })], core := { dueV9.chip.core with tick := 500 } }
/-- A standby in which task T5's cycle is under way, with no END due. -/
def latching : State := standing (cycle 10 (holding Act.empty) begun)
def quietAt (k : Core) : State := st { chipOf (planeOf (ctx 16 [])) with core := k }

theorem witness_PressAndQuietPointsComplete (H : Obligations.PressAndQuietPointsComplete) :
    (∃ t, exec (.pressImageArrival .a (.periodic 5) true) (cycle 40 (holding Act.empty) (formed PressTask.empty)) = .next t) ∧
    (∃ t, exec (.pressImageArrival .a (.periodic 5) false) (cycle 40 (holding Act.empty) (formed PressTask.empty)) = .next t) ∧
    (∃ t, exec (.pressImageArrival .a (.periodic 5) true)
      (cycle 40 (holding Act.empty) (formed { PressTask.empty with held := some Image.empty, owing := ⟨true, false, false⟩ })) = .next t) ∧
    (∃ t, exec (.pressClose (.periodic 5)) (cycle 46 (holding Act.empty) (formed { PressTask.empty with result := some Image.empty })) = .next t) ∧
    (∃ t, exec (.pressClose (.periodic 5)) (cycle 46 (holding Act.empty) (formed PressTask.empty)) = .next t) ∧
    (∃ t, exec (.taskCommit (.periodic 5) true) (standing (cycle 50 (holding Act.empty) (formed PressTask.empty))) = .next t) ∧
    (∃ t, exec (.taskCommit (.periodic 5) true)
      (cycle 50 (holding Act.empty) (formed { PressTask.empty with closed := true, result := some Image.empty })) = .next t) ∧
    (∃ t, exec (.taskCommit (.periodic 5) true) (cycle 50 (holding Act.empty) { formed PressTask.empty with overrun := true }) = .next t) ∧
    (∃ t, exec (.pressHoldLimit (.periodic 5)) (cycle 46 (holding Act.empty) (formed PressTask.empty)) = .next t) ∧
    (∃ t, exec (.pressHoldLimit (.event 9)) eventHeld = .next t) ∧
    (∃ t, exec .quietMiss (quietAt { Core.reset with tick := 10000 }) = .next t) ∧
    (∃ t, exec .quietMiss (quietAt { Core.reset with tick := 10000, quietSince := some 9981 }) = .next t) ∧
    (∃ t, exec .quietPoint (run (ctx 16 [])) = .next t) ∧ (∃ t, exec .quietPoint latching = .next t) :=
  ⟨⟨_, ((H.1 _ (.periodic 5) _ rfl rfl rfl).1 .a rfl (by decide) rfl rfl rfl rfl).1 _ rfl⟩, ⟨_, ((H.1 _ (.periodic 5) _ rfl rfl rfl).1 .a rfl (by decide) rfl rfl rfl rfl).2⟩,
    ⟨_, (H.1 _ (.periodic 5) _ rfl rfl rfl).2.1 .a true _ rfl (by decide) rfl rfl⟩,
    ⟨_, ((H.1 _ (.periodic 5) _ rfl rfl rfl).2.2.1 (by decide) rfl rfl (by decide)).1 _ rfl⟩,
    ⟨_, ((H.1 _ (.periodic 5) _ rfl rfl rfl).2.2.1 (by decide) rfl rfl (by decide)).2 _ rfl rfl⟩,
    ⟨_, (H.1 (standing (cycle 50 (holding Act.empty) (formed PressTask.empty))) (.periodic 5) _ rfl rfl rfl).2.2.2.1 rfl (by decide) true⟩,
    ⟨_, ((H.1 _ (.periodic 5) _ rfl rfl rfl).2.2.2.2.1 (by decide) (by decide)).1 _ true rfl rfl rfl⟩,
    ⟨_, ((H.1 _ (.periodic 5) _ rfl rfl rfl).2.2.2.2.1 (by decide) (by decide)).2 true rfl rfl (.inl rfl)⟩,
    ⟨_, (H.1 _ (.periodic 5) _ rfl rfl rfl).2.2.2.2.2.1 _ (by decide) rfl⟩,
    ⟨_, (H.1 eventHeld (.event 9) _ rfl rfl rfl).2.2.2.2.2.2 9 rfl (by decide) (by decide)⟩,
    ⟨_, (H.2 _).1 _ rfl rfl (by decide) (.inl rfl)⟩, ⟨_, (H.2 _).1 _ rfl rfl (by decide) (.inr ⟨9981, rfl, by decide⟩)⟩,
    ⟨_, (H.2 _).2.1 _ rfl rfl⟩, ⟨_, (H.2 latching).2.2 rfl rfl⟩⟩

/-- Vat B is being re-curdled from Vat A: its state, whether the clock is locked, whether the final copy runs, A's dirty pages. -/
def curdling (b : VatState) (locked fin : Bool) (dirty : List Nat) : State :=
  let c := chipOf { VatPlane.reset with state := .serving, dirty := dirty }
  st { c with vats := c.vats.set .b { VatPlane.reset with state := b }
              core := { c.core with recurdle := some (.a, .b), rcLocked := locked, rcFinal := fin } }
/-- Vat C is being re-curdled, and Vat B waits for it. -/
def queued : State :=
  let c := chipOf VatPlane.reset
  st { c with vats := ⟨{ VatPlane.reset with state := .serving }, { VatPlane.reset with state := .proving }, { VatPlane.reset with state := .copying }⟩
              core := { c.core with recurdle := some (.a, .c), rcNext := [(.b, 0)] }
              sys := { c.sys with sessions := sessions } }
def rindOn : State := let c := chipOf VatPlane.reset; st { c with rind := { c.rind with on := true } }
/-- The module in SERVICE with the three sessions open. -/
def commanded : State := st { chipOf (planeOf (ctx 16 [])) with sys := { (chipOf VatPlane.reset).sys with sessions := sessions } }
def commandedOut : State := { commanded with chip := { commanded.chip with vats := commanded.chip.vats.set .b { VatPlane.reset with state := .out } } }

theorem witness_VatsComplete (H : Obligations.VatsComplete) :
    (∃ t, exec (.vatClockFault .b) (run (ctx 16 [])) = .next t) ∧ (∃ t, exec (.vatClockFault .b) queued = .next t) ∧ (∃ t, exec (.vatClockFault .b) (curdling .proving true false []) = .next t) ∧
    (∃ t, exec (.supplyDomainFault 1 ⟨900, 1000, false⟩) (run (ctx 16 [])) = .next t) ∧
    (∃ t, exec (.supplyDomainFault 0 ⟨18000, 0, false⟩) (run (ctx 16 [])) = .next t) ∧ (∃ t, exec (.supplyDomainFault 3 ⟨900, 1001, false⟩) (run (ctx 16 [])) = .next t) ∧
    (∃ t, exec (.supplyDomainFault 2 ⟨900, 1001, false⟩) queued = .next t) ∧ (∃ t, exec (.supplyDomainFault 2 ⟨900, 1001, false⟩) (curdling .proving true false []) = .next t) ∧
    (∃ t, exec (.supplyDomainFault 4 ⟨800, 1001, false⟩) (run (ctx 16 [])) = .next t) ∧ (∃ t, exec (.supplyDomainFault 5 ⟨2000, 0, true⟩) (run (ctx 16 [])) = .next t) ∧
    (∃ t, exec (.supplyDomainFault 6 ⟨4499, 0, false⟩) (run (ctx 16 [])) = .next t) ∧ (∃ t, exec (.supplyDomainFault 7 ⟨3631, 0, false⟩) rindOn = .next t) ∧
    (∃ t, exec .recurdlePllLock (curdling .proving false false []) = .next t) ∧ (∃ t, exec (.selfProofDone true) (curdling .proving true false []) = .next t) ∧
    (∃ t, exec (.selfProofDone false) (curdling .proving true false []) = .next t) ∧
    (∃ t, exec .copyPassDone (curdling .copying true false (List.range 16)) = .next t) ∧
    (∃ t, exec .copyPassDone (curdling .copying true false (List.range 17)) = .next t) ∧
    (∃ t, exec .copyPassDone (curdling .waitq true false []) = .next t) ∧ (∃ t, exec .finalCopyDone (curdling .waitq true true []) = .next t) ∧
    (∃ t, exec (.vatCmdTakeOut (.session 0) .b) commanded = .next t) ∧ (∃ t, exec (.vatCmdTakeOut .culture .b) (curdling .waitq true false []) = .next t) ∧
    (∃ t, exec (.vatCmdTakeOut (.session 0) .b) queued = .next t) ∧
    (∃ t, exec (.vatCmdRecurdle .culture .b) commandedOut = .next t) :=
  ⟨⟨_, (H.1 _).1 .b (fun _ h => nomatch h) rfl⟩, ⟨_, (H.1 queued).2.1 .b (fun u h => by cases u <;> exact absurd h (by decide)) rfl⟩,
    ⟨_, (H.1 _).2.2.1 .a .b _ rfl rfl rfl⟩, ⟨_, (H.1 _).2.2.2.1 ⟨900, 1000, false⟩ 1 rfl rfl⟩,
    ⟨_, ((H.1 _).2.2.2.2 ⟨18000, 0, false⟩ 0 rfl rfl).1 rfl⟩, ⟨_, ((H.1 _).2.2.2.2 ⟨900, 1001, false⟩ 3 rfl rfl).2.1 .c rfl (fun _ h => nomatch h) rfl⟩,
    ⟨_, ((H.1 queued).2.2.2.2 ⟨900, 1001, false⟩ 2 rfl rfl).2.2.1 .b rfl (fun u h => by cases u <;> exact absurd h (by decide)) rfl⟩,
    ⟨_, ((H.1 (curdling .proving true false [])).2.2.2.2 ⟨900, 1001, false⟩ 2 rfl rfl).2.2.2.1 .a .b _ (by decide) (by decide +kernel) rfl (by decide +kernel)⟩,
    ⟨_, ((H.1 _).2.2.2.2 ⟨800, 1001, false⟩ 4 rfl rfl).2.2.2.2.1 rfl⟩, ⟨_, ((H.1 _).2.2.2.2 ⟨2000, 0, true⟩ 5 rfl rfl).2.2.2.2.2.1 rfl⟩,
    ⟨_, ((H.1 _).2.2.2.2 ⟨4499, 0, false⟩ 6 rfl rfl).2.2.2.2.2.2.1 rfl⟩, ⟨_, ((H.1 _).2.2.2.2 ⟨3631, 0, false⟩ 7 rfl rfl).2.2.2.2.2.2.2 rfl⟩,
    ⟨_, (H.2.1 _ .a .b rfl).1 rfl⟩, ⟨_, ((H.2.1 _ .a .b rfl).2.1 rfl rfl).1⟩, ⟨_, ((H.2.1 _ .a .b rfl).2.1 rfl rfl).2⟩,
    ⟨_, ((H.2.1 _ .a .b rfl).2.2.1 _ rfl rfl rfl).1 rfl (by decide)⟩, ⟨_, ((H.2.1 _ .a .b rfl).2.2.1 _ rfl rfl rfl).2.1 rfl (by decide)⟩,
    ⟨_, ((H.2.1 _ .a .b rfl).2.2.1 _ rfl rfl rfl).2.2 rfl rfl⟩, let ⟨t, h, _⟩ := (H.2.1 _ .a .b rfl).2.2.2 rfl rfl rfl rfl; ⟨t, h⟩,
    ⟨_, (H.2.2 _ (.session 0) .b (cmd rfl (by decide) (by decide)) rfl).1 rfl⟩,
    ⟨_, (H.2.2 (curdling .waitq true false []) .culture .b (cmd rfl (by decide) (by decide)) rfl).2.1 .a (by decide) rfl⟩,
    ⟨_, (H.2.2 queued (.session 0) .b (cmd rfl (by decide) (by decide)) rfl).2.2.1 (by decide) rfl rfl⟩,
    ⟨_, (H.2.2 _ .culture .b (cmd rfl (by decide) (by decide)) rfl).2.2.2 (.inr rfl) (fun u h => by cases u <;> first | (exact absurd rfl h) | decide)⟩⟩

/-! ### Witnesses: events, the Cellar, start-up, the configuration port -/

/-- The copies of the event controller all hold `k`. -/
def eventful (k : EvCopy) : State := st { chipOf (planeOf (ctx 16 [])) with evc := Tri.all k }
/-- Source 100 is the source of event task V9; its record waits in Q32513 of Vat A. -/
def desc513 : Desc := ⟨0x80600000, 0, 0, descChk 0x80600000 0 0⟩
def dispatching : State :=
  st (setReg (chipOf { planeOf (ctx 16 []) with
    descs := [(32513, desc513)], queues := [(32513, { Queue.empty with entries := [⟨bytesLE 4 100, 0, 0, 0, 0⟩] })] })
    (Reg.hxkVcfg.addr 9) 0x80000064)
/-- Its task's pending list full, and no task for its record. -/
def crowded : State :=
  { dispatching with chip := onPlane dispatching.chip .a fun p => { p with pending := [(9, List.replicate (pDepth dispatching.chip) (bytesLE 16 1))] } }
def taskless : State := { dispatching with chip := setReg dispatching.chip (Reg.hxkVcfg.addr 9) 0 }
/-- A record of source 64 waits for a credit of Q32513, of which Vat A has one. -/
def owedRecord : State :=
  st { (dispatching).chip with
    evc := Tri.all { EvCopy.zero with waiting := [128] }, core := { (dispatching).chip.core with evcDone := 0 } }
/-- The controller has acted on this tick. -/
def actedOn : State := st { (run (ctx 16 [])).chip with core := { (run (ctx 16 [])).chip.core with evcDone := 1 } }

set_option maxRecDepth 4000 in
theorem witness_EventsComplete (H : Obligations.EventsComplete) :
    (∃ t, exec (.eventArrival ⟨64, 0⟩ true true true) (run (ctx 16 [])) = .next t) ∧
    (∃ t, exec (.eventArrival ⟨4032, 7⟩ true true true) (run (ctx 16 [])) = .next t) ∧
    (∃ t, exec (.eventArrival ⟨63, 0⟩ true true true) (eventful { EvCopy.zero with levels := 1 <<< 63 }) = .next t) ∧
    (∃ t, exec (.holdoffExpiry 1 0) (eventful { EvCopy.zero with groups := [(2, 1)] }) = .next t) ∧
    (∃ t, exec (.eventEmitDelayed 64 0) owedRecord = .next t) ∧ evcTick actedOn.chip = actedOn.chip ∧
    groupTick true (eventful EvCopy.zero).chip 0 = (eventful EvCopy.zero).chip ∧
    groupTick true (eventful { EvCopy.zero with groups := [(127, 2)] }).chip 127 = (eventful { EvCopy.zero with groups := [(127, 2)] }).chip ∧ (∃ t, exec (.dispatcherRecord .a) dispatching = .next t) ∧
    (∃ t, exec (.dispatcherRecord .a) crowded = .next t) ∧ (∃ t, exec (.dispatcherRecord .a) taskless = .next t) ∧
    (∃ t, exec .affineurEventRecord (st { (run (ctx 16 [])).chip with devq := [(32512, { Queue.empty with entries := [entry9] })] }) = .next t) :=
  ⟨⟨_, (H.1 _).1 64 0 0 _ _ _ rfl (by decide) rfl⟩, ⟨_, (H.1 _).1 4032 7 0 _ _ _ rfl (by decide) rfl⟩,
    let ⟨_, h, _⟩ := (H.1 (eventful { EvCopy.zero with levels := 1 <<< 63 })).2.1 63 0 _ _ (Tri.all true) (by decide) rfl rfl; ⟨_, h⟩,
    ⟨_, (H.1 _).2.2.1 1 0 { EvCopy.zero with groups := [(2, 1)] } _ rfl (by decide) (by decide)⟩,
    ⟨_, (H.1 owedRecord).2.2.2.1 64 0 _ _ .a rfl rfl (by decide) (by decide)⟩, (H.1 actedOn).2.2.2.2.1 rfl,
    ((H.1 (eventful EvCopy.zero)).2.2.2.2.2 0 0 _ _ true rfl rfl).1 (by decide),
    ((H.1 (eventful { EvCopy.zero with groups := [(127, 2)] })).2.2.2.2.2 63 1 _ _ true rfl rfl).2 (by decide),
    ⟨_, ((H.2 dispatching).1 .a _ _ 9 _ rfl rfl rfl rfl rfl).1 (by decide)⟩,
    ⟨_, ((H.2 crowded).1 .a _ _ 9 _ rfl rfl rfl rfl rfl).2 _ _ rfl (by decide) rfl⟩, ⟨_, (H.2 taskless).2.1 .a _ _ _ rfl rfl rfl rfl rfl⟩,
    ⟨_, (H.2 _).2.2 _ _ rfl rfl⟩⟩

def cellared (x : Cel) : State := st { (run (ctx 16 [])).chip with cel := x }
def devRec : Rec := ⟨0, 1, 5, 0, 0, 0, 1, 0, record⟩
def culRec : Rec := ⟨0, 2, 0, 0, 0, 0, 7, 3, record⟩

/-- The newest record is `devRec`, of this power cycle. -/
def written : Cel := { Cel.reset with ready := true, since := true, newest := 1, slots := [(1, some { devRec with seq := 1 })] }

/-- A device record, a culture record, a slot to clear, and nothing left to clear. -/
def celDev : State := cellared { Cel.reset with ready := true, devBuf := [devRec] }
def celCul : State := cellared { Cel.reset with ready := true, culBuf := [culRec] }
def celSlot : State :=
  cellared { Cel.reset with ready := true, clearing := some 20000, slots := [(16385, some { devRec with seq := 16385 })] }
def celBare : State := cellared { Cel.reset with ready := true, clearing := some 20000 }
/-- The chip after arbiter 34 has granted requester `w`. -/
def grantIn (s : State) (w : Nat) : Chip := (celGrant s.chip w).getD Chip.reset
/-- Arbiter 34 is frozen. -/
def frozenCellar : State := st (setReg (cellared { written with clearing := some 20000 }).chip 0x042200 0x80000000)

set_option maxRecDepth 4000 in
/-- A repeat of the newest device record, of the newest culture record, and a culture record beyond CRATE. -/
def celAgain : State := cellared { written with devBuf := [devRec] }
def celCulAgain : State := cellared { written with slots := [(16385, some { culRec with seq := 16385 })], newest := 16385, culBuf := [culRec] }
def celCrate : State := cellared { Cel.reset with ready := true, culBuf := [culRec], made := 1000000 }

theorem witness_CellarComplete (H : Obligations.CellarComplete) :
    (∃ t, exec (.recordOffer false 5 1 0 record) (cellared written) = .next t) ∧
    (∃ t, exec (.recordOffer false 5 1 0 record) (cellared { Cel.reset with devBuf := List.replicate 1023 devRec }) = .next t) ∧
    (∃ t, exec (.recordOffer false 5 1 0 record) (cellared { Cel.reset with devBuf := List.replicate 1024 devRec }) = .next t) ∧
    (∃ t, exec (.recordOffer true 0 7 3 record) (cellared { Cel.reset with culBuf := List.replicate 511 culRec }) = .next t) ∧
    (∃ t, exec (.recordOffer true 0 7 3 record) (cellared { Cel.reset with culBuf := List.replicate 512 culRec }) = .next t) ∧
    (∃ t, exec (.recordWrite false) celDev = .next t) ∧
    (∃ t, exec (.recordWrite true) celCul = .next t) ∧
    (∃ t, exec .clearSlotWrite celSlot = .next t) ∧ (∃ t, exec .clearSlotWrite celBare = .next t) ∧
    (∃ t, exec (.recordWrite false) (cellared { Cel.reset with devBuf := [devRec] }) = .next t) ∧
    (∃ t, exec (.recordWrite true) frozenCellar = .next t) ∧ (∃ t, exec .clearSlotWrite frozenCellar = .next t) ∧
    (∃ t, exec (.recordOffer true 0 7 3 record) (cellared { Cel.reset with accept := false }) = .next t) ∧
    (∃ t, exec (.recordOffer false 5 1 0 record) (cellared { Cel.reset with seqEnd := true }) = .next t) ∧
    (∃ t, exec (.recordOffer true 0 7 3 record) (cellared { Cel.reset with seqEnd := true }) = .next t) ∧
    (∃ t, exec (.recordWrite false) celAgain = .next t) ∧ (∃ t, exec (.recordWrite true) celCulAgain = .next t) ∧
    (∃ t, exec (.recordWrite true) celCrate = .next t) :=
  ⟨⟨_, ((H.1.1 _ 5 1 0 record devRec _ true rfl rfl).1 rfl rfl).1 rfl⟩,
    ⟨_, ((H.1.1 _ 5 1 0 record devRec _ false rfl rfl).1 rfl rfl).2.1 rfl (lt_of_eq_of_lt List.length_replicate (by decide))⟩,
    ⟨_, ((H.1.1 _ 5 1 0 record devRec _ false rfl rfl).1 rfl rfl).2.2 rfl (ge_of_eq List.length_replicate)⟩,
    ⟨_, ((H.1.1 _ 0 7 3 record culRec _ false rfl rfl).2 rfl rfl rfl rfl).2.1 rfl (lt_of_eq_of_lt List.length_replicate (by decide))⟩,
    ⟨_, ((H.1.1 _ 0 7 3 record culRec _ false rfl rfl).2 rfl rfl rfl rfl).2.2 rfl (ge_of_eq List.length_replicate)⟩,
    ⟨_, (H.2 celDev (grantIn celDev 0) devRec [] _ rfl rfl).1 rfl rfl (by decide) rfl (by decide) rfl rfl⟩,
    ⟨_, (H.2 celCul (grantIn celCul 1) culRec [] _ rfl rfl).2.1 rfl rfl (by decide) rfl rfl rfl rfl⟩,
    ⟨_, (H.2 celSlot (grantIn celSlot 3) devRec [] _ rfl rfl).2.2.2.2.1 20000 16385 [] _ rfl rfl rfl rfl⟩,
    ⟨_, (H.2 celBare (grantIn celBare 3) devRec [] _ rfl rfl).2.2.2.2.2.1 20000 rfl rfl rfl⟩,
    ⟨_, (H.2 (cellared { Cel.reset with devBuf := [devRec] }) Chip.reset devRec [] _ rfl rfl).2.2.2.2.2.2.1
      ((H.2 (cellared { Cel.reset with devBuf := [devRec] }) Chip.reset devRec [] _ rfl rfl).2.2.2.2.2.2.2.2.2 (.inl rfl) 0)⟩,
    ⟨_, (H.2 frozenCellar Chip.reset devRec [] _ rfl rfl).2.2.2.2.2.2.2.1
      ((H.2 frozenCellar Chip.reset devRec [] _ rfl rfl).2.2.2.2.2.2.2.2.2 (.inr rfl) 1)⟩,
    ⟨_, (H.2 frozenCellar Chip.reset devRec [] _ rfl rfl).2.2.2.2.2.2.2.2.1 rfl⟩,
    ⟨_, (H.1.2 _ 0 7 3 record).1 (.inr rfl)⟩, ⟨_, ((H.1.2 _ 5 1 0 record).2 rfl).1⟩, ⟨_, ((H.1.2 _ 0 7 3 record).2 rfl).2 rfl rfl⟩,
    ⟨_, (H.2 celAgain (grantIn celAgain 0) devRec [] _ rfl rfl).2.2.1 rfl rfl rfl (by decide) rfl⟩,
    ⟨_, ((H.2 celCulAgain (grantIn celCulAgain 1) culRec [] _ rfl rfl).2.2.2.1 rfl rfl rfl).1 rfl⟩,
    ⟨_, ((H.2 celCrate (grantIn celCrate 1) culRec [] _ rfl rfl).2.2.2.1 rfl rfl rfl).2 rfl (by decide)⟩⟩

/-- A module in a mode at a step of the power-up sequence. -/
def atStep (m : Mode) (n : Nat) : State := st { Chip.reset with sys := { Sys.reset with mode := m, step := n, affUp := true } }

theorem witness_StartSequenceComplete (H : Obligations.StartSequenceComplete) :
    (∃ t, exec .powerOn State.reset = .next t) ∧ (∃ t, exec .powerOn (atStep .prove 3) = .next t) ∧ (∃ t, exec (.rennetStart true) (atStep .inert 1) = .next t) ∧
    (∃ t, exec .rngReady (atStep .prove 3) = .next t) ∧ (∃ t, exec (.affineurSelfProofDone none) (atStep .prove 4) = .next t) ∧
    (∃ t, exec (.vatStartProofDone none) (atStep .prove 5) = .next t) ∧ (∃ t, exec (.fieldUnitSelfTestDone none) (atStep .prove 7) = .next t) ∧
    (∃ t, exec (.affineurSelfProofDone (some 2)) (atStep .prove 3) = .next t) ∧
    (∃ t, exec (.vatStartProofDone (some (2, 1))) (atStep .prove 5) = .next t) ∧
    (∃ t, exec (.fieldUnitSelfTestDone (some 1)) (atStep .prove 7) = .next t) ∧ (∃ t, exec (.rngTestFail 1) (run (ctx 16 [])) = .next t) :=
  ⟨⟨_, ((H.1 _).1 rfl).1 rfl⟩, ⟨_, ((H.1 (atStep .prove 3)).1 rfl).2 _ (by decide) rfl⟩, ⟨_, (H.1 _).2.1 _ _ _ rfl rfl rfl rfl rfl⟩, ⟨_, (H.1 _).2.2.1 (by decide)⟩,
    ⟨_, ((H.1 _).2.2.2 rfl rfl).1 (.inr rfl)⟩, ⟨_, ((H.1 _).2.2.2 rfl rfl).2.1 _ _ rfl rfl rfl⟩, ⟨_, ((H.1 _).2.2.2 rfl rfl).2.2 rfl⟩,
    ⟨_, ((H.2 _).1 rfl rfl).1 2 (.inl rfl)⟩, ⟨_, ((H.2 _).1 rfl rfl).2.1 2 1 rfl⟩, ⟨_, ((H.2 _).1 rfl rfl).2.2 1 rfl⟩, ⟨_, (H.2 _).2 1 rfl⟩⟩

/-- A culture slot with something in it. -/
def cultured : State :=
  let s := atStep .prove 9
  { s with chip := { s.chip with upd := { Upd.reset with slot2 := { Slot.empty with state := 7, held := .bytes [1, 2, 3] } } } }
/-- Step 11: what attempts have found, and how many. -/
def proving (fail : BitVec 32) (tries : Nat) : State :=
  let s := atStep .prove 11
  { s with chip := { s.chip with fio := { s.chip.fio with lpFail := fail, lpTries := tries }, core := { s.chip.core with tick := 500000 } } }
/-- Step 12 with Rind ready, and whether the partner has been TOGGLING in the watch. -/
def ending (tog : Bool) (epoch : Word) : State :=
  let s := atStep .prove 12
  { s with chip := { setReg s.chip Reg.ldlEpoch.addr epoch with
    core := { s.chip.core with tick := 10000 }
    rind := { Rind.reset with on := true, state := 1, oscPassed := true, accepted := some (rindProposal Chip.reset) }
    ldl := { s.chip.ldl with watchAt := some 0, watchTog := tog } } }
def unready : State := { ending true 7 with chip := { (ending true 7).chip with rind := Rind.reset } }
def restarted (k : List Nat) : State :=
  let s := atStep .service 14
  { s with chip := { s.chip with sys := { s.chip.sys with affUp := false, checking := k } } }
def overdue : State :=
  let s := atStep .prove 10
  { s with chip := { s.chip with sys := { s.chip.sys with setupRun := true }, vats := Tri.all { VatPlane.reset with time := 3000000000 } } }

theorem witness_CultureStartsAndRestartsComplete (H : Obligations.CultureStartsAndRestartsComplete) :
    (∃ t, exec .cultureLoad (atStep .prove 9) = .next t) ∧ (∃ t, exec .cultureLoad cultured = .next t) ∧
    (∃ t, exec (.loopProofAttempt []) (proving 0 0) = .next t) ∧ (∃ t, exec (.loopProofAttempt []) (proving 4 2) = .next t) ∧
    (∃ t, exec (.loopProofAttempt []) (proving 4 3) = .next t) ∧ (∃ t, exec .partnerWatchEnd unready = .next t) ∧ (∃ t, exec .partnerWatchEnd (ending true 0xFFFFFFFF) = .next t) ∧
    (∃ t, exec .partnerWatchEnd (ending false 0xFFFFFFFE) = .next t) ∧ (∃ t, exec .partnerWatchEnd (ending false 0xFFFFFFFF) = .next t) ∧ (∃ t, exec .affineurRestart (atStep .prove 2) = .next t) ∧
    (∃ t, exec .affineurRestartDone (restarted []) = .next t) ∧ (∃ t, exec .affineurRestartDone (restarted [50]) = .next t) ∧
    (∃ t, exec .setupTimeLimit overdue = .next t) :=
  ⟨⟨_, ((H.1 _ rfl rfl).1 _ _ rfl rfl rfl rfl).1 rfl⟩, ⟨_, ((H.1 _ rfl rfl).1 _ _ rfl rfl rfl rfl).2 2 _ rfl rfl⟩,
    ⟨_, ((H.1 _ rfl rfl).2.1 [] _ rfl (.inl rfl) rfl).1 rfl⟩, ⟨_, ((H.1 _ rfl rfl).2.1 [] _ rfl (.inr (by decide)) rfl).2.1 (by decide) (by decide)⟩,
    ⟨_, ((H.1 _ rfl rfl).2.1 [] _ rfl (.inr (by decide)) rfl).2.2 (by decide) (by decide)⟩,
    ⟨_, ((H.1 unready rfl rfl).2.2 _ _ _ rfl rfl rfl rfl rfl).1 (by decide +kernel)⟩,
    ⟨_, ((H.1 (ending true 0xFFFFFFFF) rfl rfl).2.2 _ _ _ rfl rfl rfl rfl rfl).2.1 (by decide +kernel) rfl⟩,
    ⟨_, (((H.1 (ending false 0xFFFFFFFE) rfl rfl).2.2 _ _ _ rfl rfl rfl rfl rfl).2.2 (by decide +kernel) rfl).2 (by decide +kernel)⟩,
    ⟨_, (((H.1 (ending false 0xFFFFFFFF) rfl rfl).2.2 _ _ _ rfl rfl rfl rfl rfl).2.2 (by decide +kernel) rfl).1 (by decide +kernel)⟩,
    ⟨_, (H.2 _).1 (by decide) rfl⟩, ⟨_, (H.2 _).2.1 (by decide) rfl rfl⟩, ⟨_, (H.2 _).2.2.1 50 [] (by decide) rfl rfl⟩,
    ⟨_, (H.2 _).2.2.2 rfl (by decide)⟩⟩

/-- What the Affineur measures. -/
def mgmt : Mgmt := ⟨[], 2400, 100, 2400, 2400, Tri.all 900, 0, Tri.all 250, 250, 250, 250, 0xFF⟩

theorem witness_TicksComplete (H : Obligations.TicksComplete) :
    (∃ t, exec (.fastPlaneTick (Tri.all 0)) (atStep .prove 7) = .next t) ∧ (∃ t, exec (.managementTick mgmt) (atStep .prove 7) = .next t) :=
  ⟨⟨_, (H _ (by decide)).1 (Tri.all 0) _ rfl⟩, ⟨_, (H _ (by decide)).2 mgmt _ _ rfl rfl rfl⟩⟩

/-- The module in a mode with the sessions, its partner toggling and ready. -/
def paired (m : Mode) : State :=
  st (setReg { ported m with ldl := { Ldl.reset with chgIn := .toggling, healthAt := some 0 } } (Reg.ldlPh.addr 3) 0x80000000)

theorem witness_SystemCommandsComplete (H : Obligations.SystemCommandsComplete) :
    (∃ t, exec (.sysCmdHold .culture 0xC4E5) (paired .service) = .next t) ∧ (∃ t, exec (.sysCmdHold (.session 1) 0xC4E5) (paired .standby) = .next t) ∧
    (∃ t, exec (.sysCmdRestart (.session 0) 0xC4E5) (paired .hold) = .next t) ∧ (∃ t, exec (.sysCmdMaint (.session 0) 0xC4E5) (paired .service) = .next t) ∧
    (∃ t, exec (.sysCmdExit (.session 0) 0xC4E5) (paired .maintenance) = .next t) ∧ (∃ t, exec (.sysCmdRejoin (.session 0) 0xC4E5) (paired .hold) = .next t) ∧
    (∃ t, exec (.sysCmdHandover (.session 0) 0xC4E5 100) (paired .service) = .next t) ∧
    (∃ t, exec (.sysCmdReset (.session 0) 0xC4E5) (paired .prove) = .next t) :=
  ⟨⟨_, (H _ .culture 0xC4E5 _ rfl rfl rfl).1 (by decide) rfl⟩, ⟨_, (H _ (.session 1) 0xC4E5 _ rfl rfl rfl).1 (by decide) rfl⟩,
    ⟨_, ((H _ (.session 0) 0xC4E5 _ rfl rfl rfl).2 rfl).1 rfl⟩, ⟨_, ((H _ (.session 0) 0xC4E5 _ rfl rfl rfl).2 rfl).2.1 rfl⟩,
    ⟨_, ((H _ (.session 0) 0xC4E5 _ rfl rfl rfl).2 rfl).2.2.1 rfl⟩, ⟨_, ((H _ (.session 0) 0xC4E5 _ rfl rfl rfl).2 rfl).2.2.2.1 rfl rfl⟩,
    ⟨_, ((H _ (.session 0) 0xC4E5 _ rfl rfl rfl).2 rfl).2.2.2.2.1 100 rfl rfl rfl⟩,
    ⟨_, ((H _ (.session 0) 0xC4E5 _ rfl rfl rfl).2 rfl).2.2.2.2.2⟩⟩

/-- SYS_CTL (18) is staged, ARB_CTL0 (0x040000) is RW, SYS_CFGERR (23) is RC. -/
theorem witness_RegisterAccessComplete (H : Obligations.RegisterAccessComplete) :
    (∃ t, exec (.registerWrite (.session 0) 18 1) (paired .prove) = .next t) ∧
    (∃ t, exec (.registerWrite (.session 1) 0x040000 5) (paired .prove) = .next t) ∧
    (∃ t, exec (.hxkTicklRead (.session 2)) (paired .prove) = .next t) ∧ (∃ t, exec (.arbWqst0Read .culture) (paired .prove) = .next t) ∧
    (∃ t, exec (.ethPt0Read .culture) (paired .prove) = .next t) ∧ (∃ t, exec (.ptpNowlRead .culture) (paired .prove) = .next t) ∧
    (∃ t, exec (.ptpLsteplRead .culture) (paired .prove) = .next t) ∧ (∃ t, exec (.celNewlRead .culture) (paired .prove) = .next t) ∧
    (∃ t, exec (.rindLog0Read .culture) (paired .prove) = .next t) ∧ (∃ t, exec (.tstBitslRead .culture) (paired .prove) = .next t) ∧
    (∃ t, exec (.arbWqst2Read .culture) (paired .prove) = .next t) ∧ (∃ t, exec (.rcRead .culture 23) (paired .prove) = .next t) ∧
    (∃ t, exec (.rcRead .culture 0x042302) (paired .prove) = .next t) :=
  have h (w : Writer) (hw : reaches (paired .prove).chip w = true) := H.2 (paired .prove) w hw
  ⟨⟨_, (H.1 _ (.session 0) 18 1 _ rfl rfl rfl (by decide) (.inr rfl) rfl).1 (by decide) (by decide) rfl rfl⟩,
    ⟨_, (H.1 _ (.session 1) 0x040000 5 _ rfl rfl rfl (by decide) (.inr rfl) rfl).2 rfl rfl rfl (by decide) (by decide) (by decide) rfl⟩,
    ⟨_, (h (.session 2) rfl).1⟩, ⟨_, (h .culture rfl).2.1⟩, ⟨_, (h .culture rfl).2.2.1⟩, ⟨_, (h .culture rfl).2.2.2.1⟩,
    ⟨_, (h .culture rfl).2.2.2.2.1⟩, ⟨_, (h .culture rfl).2.2.2.2.2.1⟩, ⟨_, (h .culture rfl).2.2.2.2.2.2.1⟩,
    ⟨_, (h .culture rfl).2.2.2.2.2.2.2.1⟩, ⟨_, (h .culture rfl).2.2.2.2.2.2.2.2.1⟩,
    ⟨_, (h .culture rfl).2.2.2.2.2.2.2.2.2.2 23 _ rfl rfl (by decide) (by decide) rfl (by decide)⟩,
    ⟨_, (h .culture rfl).2.2.2.2.2.2.2.2.2.1 35 0x042302 _ rfl rfl⟩⟩

set_option maxRecDepth 4000 in
theorem witness_CommitAppliesComplete (H : Obligations.CommitAppliesComplete) :
    (∃ t, exec (.commitApply 1 3) (run (ctx 16 [])) = .next t) ∧ (∃ t, exec (.commitApply 16 0) (paired .prove) = .next t) ∧
    (∃ t, exec (.commitApply 4 0) (paired .prove) = .next t) ∧ (∃ t, exec (.commitApply 2 0) (paired .prove) = .next t) ∧
    (∃ t, exec (.commitApply 27 0) (paired .prove) = .next t) :=
  ⟨⟨_, (H _ 1 3 _ _ rfl (by decide) rfl).1 rfl⟩, ⟨_, ((H _ 16 0 16 _ (by decide) (by decide) rfl).2 rfl).1 rfl⟩,
    ⟨_, ((H _ 4 0 4 _ (by decide) (by decide) rfl).2 rfl).2.1 rfl⟩, ⟨_, ((H _ 2 0 2 _ (by decide) (by decide) rfl).2 rfl).2.2.1 rfl⟩,
    ⟨_, ((H _ 27 0 27 _ (by decide) (by decide) rfl).2 rfl).2.2.2 (by decide) (by decide) (by decide)⟩⟩

/-! ### Witnesses: the Thenicor Service Protocol -/

/-- A request of session 0, 1 or 2 with its command code and length, its HCRC right. -/
def req (n : Fin 4) (cmd len : Nat) : TspHead :=
  let h : TspHead := ⟨n, 1, 0, 0, 0, BitVec.ofNat 32 len, 0⟩
  { h with hcrc := BitVec.ofNat 32 (crc32c (headBytes h cmd)) }
/-- The module in a mode with the sessions open, otherwise as `f` makes it. -/
def served (m : Mode) (f : Chip → Chip) : State :=
  st (f { ported m with sys := { (ported m).sys with step := 14, rngReady := true } })
/-- The settings hold a trust anchor. -/
def anchored (c : Chip) : Chip :=
  { c with upd := { c.upd with areaA := some { Settings.factory with keys := [⟨1, 0, 0, 8⟩], whole := true }, areaB := none } }
def bytes (l : List Nat) : List Byte := l.map (BitVec.ofNat 8)

theorem admitted {c : Chip} {h : TspHead} {cmd : Nat} {need : Priv} {p : List Byte} {q : Priv}
    (h1 : mapGet none c.sys.sessions h.session.val = some (session q)) (h2 : c.sys.affUp = true)
    (h4 : Priv.level need ≤ Priv.level q) (h5 : p.length ≤ 1024) (h3 : headOk h cmd = true := by decide +kernel)
    (h6 : h.len.toNat = p.length := by decide) : Admitted c h cmd need p (session q) :=
  ⟨h1, h2, h3, h6, (fun _ h => nomatch h), h4, h5⟩

set_option maxRecDepth 4000 in
theorem witness_SessionsAndConfigurationComplete (H : Obligations.SessionsAndConfigurationComplete) :
    (∃ t, exec (.dtlsHandshake .read 7) (served .prove fun c => anchored { c with sys := { c.sys with rngReady := false } }) = .next t) ∧
    (∃ t, exec (.dtlsHandshake .read 7) (served .prove anchored) = .next t) ∧
    (∃ t, exec (.tspSessionTimeout 2) (served .prove fun c => { c with core := { c.core with tick := 29000000 } }) = .next t) ∧
    (∃ t, exec (.tspOpen (req 2 0x01 0) []) (served .prove id) = .next t) ∧ (∃ t, exec (.tspUnknown (req 2 0x55 1) 0x55 [1]) (served .prove id) = .next t) ∧
    (∃ t, exec (.tspPing (req 2 0x03 0) []) (served .prove id) = .next t) ∧ (∃ t, exec (.tspClose (req 2 0x02 0) []) (served .prove id) = .next t) ∧
    (∃ t, exec (.cfgRead (req 2 0x10 8) (bytes [0, 0, 0, 0, 0, 1, 0, 0])) (served .prove id) = .next t) ∧
    (∃ t, exec (.cfgRead (req 2 0x10 8) (bytes [0, 0, 0, 0, 1, 0, 0, 0])) (served .prove id) = .next t) ∧
    (∃ t, exec (.cfgWrite (req 0 0x11 16) (bytes [1, 0, 0, 0, 18, 0, 0, 0, 1, 0, 0, 0, 255, 255, 255, 255])) (served .prove id) = .next t) :=
  ⟨⟨_, (H.1 (served .prove fun c => anchored { c with sys := { c.sys with rngReady := false } })).1 .read 7 rfl (by decide) (by decide) rfl rfl⟩,
    ⟨_, (H.1 (served .prove anchored)).2.1 .read 7 3 rfl (by decide) (by decide) rfl rfl rfl (by decide)⟩,
    ⟨_, (H.1 _).2.2.1 2 _ rfl (by decide)⟩, ⟨_, (H.1 _).2.2.2.1 _ _ (admitted rfl rfl (by decide) (by decide))⟩,
    ⟨_, (H.1 _).2.2.2.2.2.2 _ _ 0x55 [1] rfl (admitted rfl rfl (by decide) (by decide))⟩, ⟨_, (H.1 _).2.2.2.2.1 _ _ (admitted rfl rfl (by decide) (by decide))⟩, ⟨_, (H.1 _).2.2.2.2.2.1 _ _ (admitted rfl rfl (by decide) (by decide))⟩,
    ⟨_, (H.2 _ _ _ _ _).1 _ _ (admitted rfl rfl (by decide) (by decide)) rfl (by decide) (by decide) rfl⟩,
    ⟨_, (H.2 _ _ _ _ _).1 _ _ (admitted rfl rfl (by decide) (by decide)) rfl (by decide) (by decide) rfl⟩,
    ⟨_, (H.2 _ _ _ _ _).2 1 18 (admitted rfl rfl (by decide) (by decide)) (by decide) (by decide) rfl rfl⟩⟩

def owned (o : Owner) (c : Chip) : Chip := { c with sys := { c.sys with owner := o } }

set_option maxRecDepth 4000 in
theorem witness_StagingCommandsComplete (H : Obligations.StagingCommandsComplete) :
    (∃ t, exec (.tspCommit (req 0 0x12 0) []) (served .prove id) = .next t) ∧ (∃ t, exec (.tspAbort (req 1 0x13 0) []) (served .prove (owned (.session 1))) = .next t) ∧
    (∃ t, exec (.stgBreak (req 0 0x14 0) []) (served .prove (owned (.session 0))) = .next t) ∧
    (∃ t, exec (.stgBreak (req 0 0x14 0) []) (served .hold (owned .culture)) = .next t) ∧
    (∃ t, exec (.stgBreak (req 0 0x14 0) []) (served .maintenance (owned (.session 3))) = .next t) :=
  ⟨⟨_, (H _ _ _ _ rfl).1 (admitted rfl rfl (by decide) (by decide)) rfl rfl rfl rfl⟩,
    ⟨_, (H _ _ _ _ rfl).2.1 (admitted rfl rfl (by decide) (by decide)) (.inr rfl)⟩,
    ⟨_, ((H _ _ _ _ rfl).2.2 (admitted rfl rfl (by decide) (by decide)) (.inl rfl)).1 rfl⟩,
    ⟨_, ((H _ _ _ _ rfl).2.2 (admitted rfl rfl (by decide) (by decide)) (.inr (.inl rfl))).2.1 _ rfl rfl⟩,
    ⟨_, ((H _ _ _ _ rfl).2.2 (admitted rfl rfl (by decide) (by decide)) (.inr (.inr rfl))).2.2 _ 3 rfl (by decide) rfl⟩⟩

/-- Session 2 holds a snapshot of the founding record. -/
def snapped (c : Chip) : Chip := { c with sys := { c.sys with sessions := [(2, some { session .read with snap := some ⟨0, 0, 0⟩ })] } }

theorem snapAdmitted {h : TspHead} {cmd : Nat} {p : List Byte} (hs : h.session = 2) (h5 : p.length ≤ 1024 := by decide)
    (h3 : headOk h cmd = true := by decide +kernel) (h6 : h.len.toNat = p.length := by decide) :
    Admitted (served .prove snapped).chip h cmd .read p { session .read with snap := some ⟨0, 0, 0⟩ } :=
  ⟨by rw [hs]; rfl, rfl, h3, h6, (fun _ h => nomatch h), by decide, h5⟩

theorem witness_CellarCommandsComplete (H : Obligations.CellarCommandsComplete) :
    (∃ t, exec (.celInfo (req 2 0x30 0) []) (served .prove id) = .next t) ∧ (∃ t, exec (.celSnap (req 2 0x31 0) []) (served .prove id) = .next t) ∧
    (∃ t, exec (.celClose (req 2 0x33 0) []) (served .prove snapped) = .next t) ∧
    (∃ t, exec (.celRead (req 2 0x32 12) (bytes [0, 0, 0, 0, 0, 0, 0, 0, 31, 0, 0, 0])) (served .prove snapped) = .next t) ∧
    (∃ t, exec (.celClear (req 0 0x34 0) []) (served .maintenance id) = .next t) :=
  ⟨⟨_, (H _ _ _ _ rfl).1 (admitted rfl rfl (by decide) (by decide))⟩, ⟨_, (H _ _ _ _ rfl).2.1 (admitted rfl rfl (by decide) (by decide))⟩, ⟨_, (H _ _ _ _ rfl).2.2.1 _ (snapAdmitted rfl) rfl⟩,
    ⟨_, (H _ _ _ _ rfl).2.2.2.1 _ _ _ rfl (snapAdmitted rfl) rfl rfl (by decide) (by decide) (by decide) rfl⟩,
    ⟨_, (H _ _ _ _ rfl).2.2.2.2 (admitted rfl rfl (by decide) (by decide)) rfl rfl rfl (by decide)⟩⟩

/-- A load of 4 bytes of session 0 in slot 3, with what has come so far. -/
def loading (got : List Byte) (c : Chip) : Chip :=
  { c with upd := { c.upd with load := some ⟨.session 0, 2, false, 4, 3, got⟩, slot3 := { Slot.empty with state := 1 } } }
/-- Slot 3 in a state. -/
def slot3 (n : Nat) (c : Chip) : Chip := { c with upd := { c.upd with slot3 := { Slot.empty with state := n, held := .bytes [] } } }
/-- Firmware of settings format 5 LOADED in slot 1, the settings in use being of format 5. -/
def firmware5 (c : Chip) : Chip :=
  { c with upd := { c.upd with slot1 := { Slot.empty with state := 2, held := .bytes (List.replicate 12 0 ++ [5, 0, 0, 0, 0, 0, 0, 0]) }
                               areaA := some { Settings.factory with sfmt := 5 } } }
/-- The partner is in MAINTENANCE and the Ladle up. -/
def partnered (c : Chip) : Chip :=
  setReg { slot3 2 c with ldl := { c.ldl with rxUp := Tri.all true, txUp := Tri.all true, healthAt := some 0 } } (Reg.ldlPh.addr 0) 0x80000000

theorem witness_UpdateComplete (H : Obligations.UpdateComplete) :
    (∃ t, exec (.updInfo (req 2 0x40 0) []) (served .prove id) = .next t) ∧
    (∃ t, exec (.updBegin (req 0 0x41 8) (bytes [2, 0, 0, 0, 0, 0, 0, 4])) (served .prove id) = .next t) ∧
    (∃ t, exec (.updBegin (req 0 0x41 8) (bytes [1, 1, 0, 0, 0, 0, 0, 4])) (served .prove id) = .next t) ∧
    (∃ t, exec (.updData (req 0 0x42 5) (bytes [3, 0, 0, 0, 9])) (served .prove (loading [1, 2, 3])) = .next t) ∧
    (∃ t, exec (.updEnd (req 0 0x43 0) []) (served .prove (loading [1, 2, 3, 4])) = .next t) ∧
    (∃ t, exec (.updCancel (req 0 0x4B 0) []) (served .prove (loading [])) = .next t) ∧
    (∃ t, exec (.updArm (req 0 0x44 4) (bytes [2, 0, 0, 0])) (served .prove (slot3 2)) = .next t) ∧
    (∃ t, exec (.updArm (req 0 0x44 4) (bytes [1, 0, 0, 0])) (served .prove firmware5) = .next t) ∧
    (∃ t, exec (.updConfirm (req 0 0x45 4) (bytes [2, 0, 0, 0])) (served .prove (slot3 4)) = .next t) ∧
    (∃ t, exec (.updReject (req 0 0x46 4) (bytes [2, 0, 0, 0])) (served .prove (slot3 4)) = .next t) ∧
    (∃ t, exec (.updRevert (req 0 0x47 4) (bytes [2, 0, 0, 0])) (served .prove (slot3 6)) = .next t) ∧
    (∃ t, exec (.updPeer (req 0 0x49 4) (bytes [3, 0, 0, 0])) (served .prove partnered) = .next t) ∧
    (∃ t, exec (.updSvcaddr (req 0 0x4A 8) (bytes [1, 2, 3, 4, 8, 0, 0, 0])) (served .prove id) = .next t) ∧
    (∃ t, exec (.updSvcaddr (req 0 0x4A 8) (bytes [1, 2, 3, 4, 30, 0, 0, 0])) (served .prove id) = .next t) ∧
    (∃ t, exec (.updKey (req 0 0x48 256) (List.replicate 256 0)) (served .prove id) = .next t) :=
  ⟨⟨_, (H.1 _ _ _ _ rfl).1 (admitted rfl rfl (by decide) (by decide))⟩,
    ⟨_, (H.1 _ _ _ _ rfl).2.1 _ 2 2 rfl (admitted rfl rfl (by decide) (by decide)) rfl rfl (.inr rfl) (.inl rfl) (by decide) (by decide) rfl rfl
      (by decide) (by decide)⟩,
    ⟨_, (H.1 _ _ _ _ rfl).2.1 _ 1 1 rfl (admitted rfl rfl (by decide) (by decide)) rfl rfl (.inl rfl) (.inr ⟨rfl, rfl⟩) (by decide) (by decide) rfl
      rfl (by decide) (by decide)⟩,
    ⟨_, (H.1 _ _ _ _ rfl).2.2.1 _ _ rfl (admitted rfl rfl (by decide) (by decide)) (by decide) (by decide) rfl rfl rfl (by decide)⟩,
    ⟨_, (H.1 _ _ _ _ rfl).2.2.2.1 _ rfl (admitted rfl rfl (by decide) (by decide)) rfl rfl (by decide) rfl⟩,
    ⟨_, (H.1 _ _ _ _ rfl).2.2.2.2 rfl (admitted rfl rfl (by decide) (by decide)) rfl⟩,
    ⟨_, ((H.2 _ _ _ _ _ 0x44 rfl rfl (admitted rfl rfl (by decide) (by decide))).1 2 rfl rfl (.inr rfl)).1 3 rfl rfl (fun h => nomatch h) rfl⟩,
    ⟨_, ((H.2 _ _ _ _ _ 0x44 rfl rfl (admitted rfl rfl (by decide) (by decide))).1 1 rfl rfl (.inl rfl)).1 1 rfl rfl (fun _ => .inl (by decide)) rfl⟩,
    ⟨_, (((H.2 _ _ _ _ _ 0x45 rfl rfl (admitted rfl rfl (by decide) (by decide))).1 2 rfl rfl (.inr rfl)).2.1 3 rfl).1 rfl⟩, ⟨_, (((H.2 _ _ _ _ _ 0x46 rfl rfl (admitted rfl rfl (by decide) (by decide))).1 2 rfl rfl (.inr rfl)).2.1 3 rfl).2 rfl⟩,
    ⟨_, ((H.2 _ _ _ _ _ 0x47 rfl rfl (admitted rfl rfl (by decide) (by decide))).1 2 rfl rfl (.inr rfl)).2.2 3 rfl rfl rfl (fun h => nomatch h) rfl⟩,
    ⟨_, (H.2 _ _ _ _ _ 0x49 rfl rfl (admitted rfl rfl (by decide) (by decide))).2.1 3 rfl rfl rfl rfl (by decide) rfl rfl⟩,
    ⟨_, (H.2 _ _ _ _ _ 0x4A rfl rfl (admitted rfl rfl (by decide) (by decide))).2.2.1 rfl rfl (by decide) (by decide) rfl⟩,
    ⟨_, (H.2 _ _ _ _ _ 0x4A rfl rfl (admitted rfl rfl (by decide) (by decide))).2.2.1 rfl rfl (by decide) (by decide) rfl⟩,
    ⟨_, (H.2 _ _ _ _ (List.replicate 256 0) 0x48 rfl rfl (admitted rfl rfl (by decide) (by rw [List.length_replicate]; decide) (by decide +kernel)
      (by rw [List.length_replicate]; decide))).2.2.2 rfl List.length_replicate⟩⟩

/-- A test that runs. -/
def testing (id : Nat) (c : Chip) : Chip := { c with tst := { Tst.reset with state := 1, testid := id, target := 1, dur := 10 }, core := { c.core with tick := 10000000 } }
/-- A LOOP PROOF's attempts are over. -/
def looped4 (c : Chip) : Chip := { c with tst := { c.tst with loopDone := true } }
/-- The voter test has been run, with every vote right. -/
def voted3 (c : Chip) : Chip := { testing 3 c with tst := { (testing 3 c).tst with votes := some true } }
def onTrial (c : Chip) : Chip := { slot3 4 c with upd := { (slot3 4 c).upd with confok := true, held := 65535 } }

/-- A piece sent to the partner 10 ms ago. -/
def acked (c : Chip) : Chip :=
  { c with upd := { c.upd with peer := some ⟨3, 0, 0, 0, 0, false⟩ }, core := { c.core with tick := 10000 } }

theorem witness_TestsComplete (H : Obligations.TestsComplete) :
    (∃ t, exec (.tstStart (req 0 0x50 8) (bytes [1, 14, 1, 0, 1, 0, 0, 0])) (served .maintenance id) = .next t) ∧
    (∃ t, exec (.tstStart (req 0 0x50 8) (bytes [6, 0, 0, 0, 16, 14, 0, 0])) (served .service id) = .next t) ∧
    (∃ t, exec (.tstStatus (req 0 0x51 0) []) (served .prove id) = .next t) ∧ (∃ t, exec (.tstStop (req 0 0x52 0) []) (served .maintenance (testing 1)) = .next t) ∧
    (∃ t, exec (.testEnd (Tri.all 0) 0 []) (served .maintenance (testing 1)) = .next t) ∧
    (∃ t, exec (.testEnd ⟨1, 2, 3⟩ 4 []) (served .maintenance fun c => { testing 1 c with core := { c.core with tick := 9999999 } }) = .next t) ∧
    (∃ t, exec (.testEnd (Tri.all 0) 0 []) (served .maintenance (testing 2)) = .next t) ∧
    (∃ t, exec (.testEnd (Tri.all 0) 0 []) (served .maintenance (testing 6)) = .next t) ∧ (∃ t, exec (.testEnd (Tri.all 0) 0 []) (served .maintenance voted3) = .next t) ∧
    (∃ t, exec (.testEnd (Tri.all 0) 0 []) (served .maintenance fun c => looped4 (testing 4 c)) = .next t) ∧ (∃ t, exec (.testEnd (Tri.all 0) 0 []) (served .maintenance (testing 5)) = .next t) ∧
    (∃ t, exec .pieceAckTimeout (served .prove acked) = .next t) ∧
    (∃ t, exec .selfConfirm (served .service onTrial) = .next t) ∧ (∃ t, exec (.tstCtlWrite (.session 0) 0) (served .maintenance id) = .next t) ∧
    (∃ t, exec (.tstLbkWrite (.session 0) 14 1) (served .maintenance id) = .next t) :=
  ⟨⟨_, (H.1 _ _ _ _ rfl).1 _ (admitted rfl rfl (by decide) (by decide)) rfl rfl (by decide) (by decide) (by decide) (.inl rfl) (fun _ => rfl)⟩,
    ⟨_, (H.1 _ _ _ _ rfl).1 _ (admitted rfl rfl (by decide) (by decide)) rfl rfl (by decide) (by decide) (by decide) (.inr ⟨rfl, rfl⟩)
      (fun h => nomatch h)⟩,
    ⟨_, (H.1 _ _ _ _ rfl).2.1 (admitted rfl rfl (by decide) (by decide))⟩,
    ⟨_, (H.1 _ _ _ _ rfl).2.2 (admitted rfl rfl (by decide) (by decide)) (.inr rfl)⟩,
    ⟨_, ((H.2.1 _).1 (Tri.all 0) 0 [] rfl).2.1 (by decide) |>.1 rfl⟩,
    ⟨_, ((H.2.1 (served .maintenance fun c => { testing 1 c with core := { c.core with tick := 9999999 } })).1 ⟨1, 2, 3⟩ 4 [] rfl).1 rfl (by decide)⟩,
    ⟨_, ((H.2.1 _).1 (Tri.all 0) 0 [] rfl).2.1 (by decide) |>.2.1 rfl⟩,
    ⟨_, ((H.2.1 _).1 (Tri.all 0) 0 [] rfl).2.1 (by decide) |>.2.2 rfl⟩, ⟨_, ((H.2.1 _).1 (Tri.all 0) 0 [] rfl).2.2.1 _ rfl rfl⟩,
    ⟨_, ((H.2.1 _).1 (Tri.all 0) 0 [] rfl).2.2.2.1 rfl rfl⟩,
    ⟨_, ((H.2.1 _).1 (Tri.all 0) 0 [] rfl).2.2.2.2 rfl⟩, ⟨_, (H.2.1 _).2.1 _ rfl (by decide)⟩, ⟨_, (H.2.1 _).2.2 3 rfl rfl rfl (by decide)⟩,
    ⟨_, (H.2.2 _ 0 0 rfl rfl rfl).1 (.inl rfl)⟩, ⟨_, (H.2.2 _ 0 1 rfl rfl rfl).2 14 rfl rfl⟩⟩

/-- The three Vats in SERVING, none sour, and test 2 over with Vat A back in SERVING. -/
def vatsServing (c : Chip) : Chip := { c with vats := { a := { c.vats.a with state := .serving }, b := { c.vats.b with state := .serving }, c := { c.vats.c with state := .serving } } }
def vatTested (ok : Bool) (c : Chip) : Chip := let d := testing 2 c; { d with tst := { d.tst with vatBack := some 1000, vatOk := ok } }
/-- A BIT ERROR RUN of an interface. -/
def bitRun (target : Nat) (c : Chip) : Chip := let d := testing 1 c; { d with tst := { d.tst with target := target } }

theorem witness_TestEffectsComplete (H : Obligations.TestEffectsComplete) :
    (∃ t, exec (.tstStart (req 0 0x50 8) (bytes [1, 14, 1, 0, 1, 0, 0, 0])) (served .maintenance id) = .next t) ∧
    (∃ t, exec (.tstStart (req 0 0x50 8) (bytes [6, 0, 0, 0, 16, 14, 0, 0])) (served .service id) = .next t) ∧
    (∃ t, exec (.tstStart (req 0 0x50 8) (bytes [2, 0, 0, 0, 1, 0, 0, 0])) (served .maintenance vatsServing) = .next t) ∧
    (∃ t, exec (.tstStart (req 0 0x50 8) (bytes [2, 0, 0, 0, 1, 0, 0, 0])) (served .maintenance id) = .next t) ∧
    (∃ t, exec (.tstStatus (req 0 0x51 0) []) (served .prove id) = .next t) ∧
    (∃ t, exec (.tstStop (req 0 0x52 0) []) (served .maintenance (testing 1)) = .next t) ∧
    (∃ t, exec (.tstStop (req 0 0x52 0) []) (served .maintenance id) = .next t) := by
  refine ⟨?_, ?_, ?_, ?_, ?_, ?_, ?_⟩
  · obtain ⟨d, h, -⟩ := (H (served .maintenance id)).1 (req 0 0x50 8) _ _ (bytes [1, 14, 1, 0, 1, 0, 0, 0]) rfl (admitted rfl rfl (by decide) (by decide)) rfl rfl (by decide)
      (by decide) (by decide) (.inl rfl) (fun _ => rfl)
    exact ⟨_, h⟩
  · obtain ⟨d, h, -⟩ := (H (served .service id)).1 (req 0 0x50 8) _ _ (bytes [6, 0, 0, 0, 16, 14, 0, 0]) rfl (admitted rfl rfl (by decide) (by decide)) rfl rfl (by decide)
      (by decide) (by decide) (.inr ⟨rfl, rfl⟩) (fun h => nomatch h)
    exact ⟨_, h⟩
  · obtain ⟨d, h, -, -, -, -, -, -, -, -, k, -⟩ := (H (served .maintenance vatsServing)).1 (req 0 0x50 8) _ _ (bytes [2, 0, 0, 0, 1, 0, 0, 0]) rfl
      (admitted rfl rfl (by decide) (by decide)) rfl rfl (by decide) (by decide) (by decide) (.inl rfl) (fun h => nomatch h)
    have := k rfl rfl
    exact ⟨_, h⟩
  · obtain ⟨d, h, -, -, -, -, -, -, -, -, -, k⟩ := (H (served .maintenance id)).1 (req 0 0x50 8) _ _ (bytes [2, 0, 0, 0, 1, 0, 0, 0]) rfl
      (admitted rfl rfl (by decide) (by decide)) rfl rfl (by decide) (by decide) (by decide) (.inl rfl) (fun h => nomatch h)
    have := k rfl rfl
    exact ⟨_, h⟩
  · obtain ⟨d, h, -⟩ := (H (served .prove id)).2.1 (req 0 0x51 0) _ (admitted rfl rfl (by decide) (by decide))
    exact ⟨_, h⟩
  · obtain ⟨d, h, -⟩ := ((H (served .maintenance (testing 1))).2.2.1 (req 0 0x52 0) _ (admitted rfl rfl (by decide) (by decide))).1 rfl rfl
    exact ⟨_, h⟩
  · obtain ⟨d, h, -⟩ := ((H (served .maintenance id)).2.2.1 (req 0 0x52 0) _ (admitted rfl rfl (by decide) (by decide))).2 (by decide)
    exact ⟨_, h⟩

/-- The clauses of a test's end, of the trial and of the TST registers are met. -/
theorem witness_TestEffectsComplete_ends (H : Obligations.TestEffectsComplete) :
    (∃ t, exec (.testEnd (Tri.all 0) 1 []) (served .maintenance (bitRun 11)) = .next t) ∧ (∃ t, exec (.testEnd (Tri.all 0) 0 []) (served .maintenance (bitRun 11)) = .next t) ∧
    (∃ t, exec (.testEnd (Tri.all 100000000000) 0 []) (served .maintenance (bitRun 11)) = .next t) ∧
    (∃ t, exec (.testEnd (Tri.all 0) 0 []) (served .maintenance (bitRun 12)) = .next t) ∧
    (∃ t, exec (.testEnd (Tri.all 0) 0 []) (served .maintenance (vatTested true)) = .next t) ∧
    (∃ t, exec (.testEnd (Tri.all 0) 0 []) (served .maintenance (vatTested false)) = .next t) ∧
    (∃ t, exec (.testEnd (Tri.all 0) 0 []) (served .maintenance voted3) = .next t) ∧
    (∃ t, exec (.testEnd (Tri.all 0) 0 []) (served .maintenance fun c => looped4 (testing 4 c)) = .next t) ∧
    (∃ t, exec (.testEnd (Tri.all 0) 0 []) (served .maintenance (testing 5)) = .next t) ∧ (∃ t, exec (.testEnd (Tri.all 0) 0 []) (served .maintenance (testing 6)) = .next t) ∧
    (∃ t, exec .pieceAckTimeout (served .prove acked) = .next t) ∧
    (∃ t, exec .selfConfirm (served .service onTrial) = .next t) ∧ (∃ t, exec (.tstCtlWrite (.session 0) 0) (served .maintenance id) = .next t) ∧
    (∃ t, exec (.tstLbkWrite (.session 0) 14 1) (served .maintenance id) = .next t) := by
  refine ⟨?_, ?_, ?_, ?_, ?_, ?_, ?_, ?_, ?_, ?_, ?_, ?_, ?_, ?_⟩
  · obtain ⟨d, h, -, -, -, k, -⟩ := ((H (served .maintenance (bitRun 11))).2.2.2.1 (Tri.all 0) 1 [] rfl).1 rfl (by decide)
    have := k (by decide) (by decide)
    exact ⟨_, h⟩
  · obtain ⟨d, h, -, -, -, -, k, -⟩ := ((H (served .maintenance (bitRun 11))).2.2.2.1 (Tri.all 0) 0 [] rfl).1 rfl (by decide)
    have := k (by decide) rfl (by decide)
    exact ⟨_, h⟩
  · obtain ⟨d, h, -, -, -, -, -, k, -⟩ := ((H (served .maintenance (bitRun 11))).2.2.2.1 (Tri.all 100000000000) 0 [] rfl).1 rfl (by decide)
    have := k (by decide) rfl (by decide)
    exact ⟨_, h⟩
  · obtain ⟨d, h, -, -, -, -, -, -, k⟩ := ((H (served .maintenance (bitRun 12))).2.2.2.1 (Tri.all 0) 0 [] rfl).1 rfl (by decide)
    have := k (by decide)
    exact ⟨_, h⟩
  · obtain ⟨d, h, -⟩ := (((H (served .maintenance (vatTested true))).2.2.2.1 (Tri.all 0) 0 [] rfl).2.1 rfl (by decide) 1000 rfl).1 rfl
    exact ⟨_, h⟩
  · obtain ⟨d, h, -⟩ := (((H (served .maintenance (vatTested false))).2.2.2.1 (Tri.all 0) 0 [] rfl).2.1 rfl (by decide) 1000 rfl).2 rfl (by decide)
    exact ⟨_, h⟩
  · obtain ⟨d, -, h, -⟩ := ((H (served .maintenance voted3)).2.2.2.1 (Tri.all 0) 0 [] rfl).2.2 (.inl ⟨rfl, rfl⟩)
    exact ⟨_, h⟩
  · obtain ⟨d, -, h, -⟩ := ((H (served .maintenance fun c => looped4 (testing 4 c))).2.2.2.1 (Tri.all 0) 0 [] rfl).2.2 (.inr (.inl ⟨rfl, rfl⟩))
    exact ⟨_, h⟩
  · obtain ⟨d, -, h, -⟩ := ((H (served .maintenance (testing 5))).2.2.2.1 (Tri.all 0) 0 [] rfl).2.2 (.inr (.inr (.inl rfl)))
    exact ⟨_, h⟩
  · obtain ⟨d, -, h, -⟩ := ((H (served .maintenance (testing 6))).2.2.2.1 (Tri.all 0) 0 [] rfl).2.2 (.inr (.inr (.inr ⟨rfl, by decide⟩)))
    exact ⟨_, h⟩
  · obtain ⟨d, h, -⟩ := (H (served .prove acked)).2.2.2.2.1 ⟨3, 0, 0, 0, 0, false⟩ rfl (by decide)
    exact ⟨_, h⟩
  · obtain ⟨d, h, -⟩ := (H (served .service onTrial)).2.2.2.2.2.1 3 rfl rfl rfl (by decide)
    exact ⟨_, h⟩
  · obtain ⟨d, h, -⟩ := ((H (served .maintenance id)).2.2.2.2.2.2 0 0 rfl rfl rfl).1 (.inl rfl)
    exact ⟨_, h⟩
  · obtain ⟨d, h, -⟩ := ((H (served .maintenance id)).2.2.2.2.2.2 0 1 rfl rfl rfl).2 14 rfl rfl
    exact ⟨_, h⟩

/-! ### Witnesses: the charge pair and the Ladle link -/

/-- A module in a mode, paired, with its link up and its Ladle changed by `f`. -/
def ladle (m : Mode) (f : Ldl → Ldl) : State :=
  st (setReg { ported m with ldl := f { Ldl.reset with rxUp := Tri.all true, txUp := Tri.all true } } Reg.ldlCtl.addr 0x80000000)
/-- The same 10 s later. -/
def later (s : State) : State := st { s.chip with core := { s.chip.core with tick := 10000000 } }
/-- The same with TAKEANY too. -/
def takeAll (s : State) : State := st (setReg s.chip Reg.ldlCtl.addr 0xC0000000)
def lastEpoch (s : State) : State := st (setReg s.chip Reg.ldlEpoch.addr 0xFFFFFFFF)
/-- Event task V9 is enabled and active. -/
def busy (s : State) : State :=
  st { setReg s.chip (Reg.hxkVcfg.addr 9) 0x80000064 with tasks := [(265, { TaskSt.empty with active := true })] }
/-- Task T5 computes in Vat A. -/
def computing9 (s : State) : State :=
  st { s.chip with vats := s.chip.vats.set .a { VatPlane.reset with state := .serving, acts := [(5, { Act.empty with running := [3], computing := true })] } }
def leave (begun final : Bool) (m : Mode) (n : Nat) (l : Ldl) : Ldl :=
  { l with handover := some { tick := 9999730, moves := n, begun := begun, final := final, mode := m, cause := 5 } }

theorem witness_ChargeComplete (H : Obligations.ChargeComplete) :
    (∃ t, exec (.chgInEdge 21) (ladle .standby id) = .next t) ∧ (∃ t, exec (.chgInEdge 21) (ladle .standby fun l => { l with chgIn := .toggling }) = .next t) ∧
    (∃ t, exec (.chgInEdge 21) (ladle .standby fun l => { l with chgIn := .silent, toggles := [0, 0] }) = .next t) ∧
    (∃ t, exec (.chgInEdge 21) (ladle .service fun l => { l with chgIn := .silent, toggles := [0, 0] }) = .next t) ∧
    (∃ t, exec .togglingLost (later (ladle .service fun l => { l with chgIn := .toggling, quietFrom := 9999700 })) = .next t) ∧
    (∃ t, exec .partnerSilent (later (ladle .service fun l => { l with chgIn := .notToggling, quietFrom := 9997000 })) = .next t) ∧
    (∃ t, exec .takeover (later (ladle .standby fun l => { l with chgIn := .silent, sync := 4 })) = .next t) ∧
    (∃ t, exec .takeover (lastEpoch (takeAll (ladle .standby fun l => { l with chgIn := .silent }))) = .next t) ∧
    (∃ t, exec (.handoverTick 7) (later (ladle .service (leave false false .standby 0))) = .next t) ∧
    (∃ t, exec (.handoverTick 7) (computing9 (later (ladle .service (leave false false .standby 0)))) = .next t) ∧
    (∃ t, exec (.handoverTick 7) (busy (later (ladle .service (leave false false .standby 15)))) = .next t) ∧
    (∃ t, exec (.handoverTick 7) (busy (later (ladle .service (leave false false .standby 16)))) = .next t) ∧
    (∃ t, exec .relinquishEnd (later (ladle .service (leave true true .standby 0))) = .next t) ∧
    (∃ t, exec .relinquishEnd (later (ladle .service (leave true true .inert 0))) = .next t) :=
  ⟨⟨_, ((H.1 _).1 21 [0] (by decide) rfl).1 (by decide) (by decide)⟩, ⟨_, ((H.1 _).1 21 [0] (by decide) rfl).2.1 rfl⟩,
    ⟨_, ((H.1 _).1 21 [0, 0, 0] (by decide) rfl).2.2.1 (by decide) rfl (.inl rfl)⟩,
    ⟨_, ((H.1 _).1 21 [0, 0, 0] (by decide) rfl).2.2.2 (by decide) rfl rfl rfl⟩,
    ⟨_, (H.1 _).2.1 rfl (by decide)⟩, ⟨_, (H.1 _).2.2.1 rfl (by decide)⟩,
    ⟨_, ((H.1 _).2.2.2 rfl rfl rfl (.inl rfl)).1 (by decide)⟩,
    ⟨_, ((H.1 _).2.2.2 rfl rfl rfl (.inr rfl)).2 (by decide)⟩,
    ⟨_, (((H.2 _ _ rfl rfl).1 7 rfl (by decide)).1 rfl (by decide)).1 (by decide +kernel)⟩,
    ⟨_, (((H.2 (computing9 (later (ladle .service (leave false false .standby 0)))) _ rfl rfl).1 7 rfl (by decide)).1 rfl (by decide)).2 (by decide +kernel)⟩,
    ⟨_, (((H.2 _ _ rfl rfl).1 7 rfl (by decide)).2 (.inr rfl)).1 _ (by decide) rfl⟩,
    ⟨_, (((H.2 _ _ rfl rfl).1 7 rfl (by decide)).2 (.inr rfl)).2 (by decide)⟩,
    ⟨_, ((H.2 _ _ rfl rfl).2 rfl (by decide) (.inl rfl)).1 (by decide)⟩,
    ⟨_, ((H.2 _ _ rfl rfl).2 rfl (by decide) (.inl rfl)).2 rfl⟩⟩

def queued9 : TxFrame := ⟨1, 3, false, 5, 0, bytes [1, 2, 3, 4, 5, 6, 7, 8]⟩
def copying : FullCopy := ⟨0, 61440, [], []⟩

theorem witness_LadleLinkComplete (H : Obligations.LadleLinkComplete) :
    (∃ t, exec (.ladleLaneUp .b true) (st (vatsServing (ladle .standby fun l => { l with txUp := ⟨true, false, false⟩ }).chip)) = .next t) ∧
    (∃ t, exec (.ladleLaneUp .b false) (ladle .standby fun l => { l with rxUp := ⟨true, false, false⟩ }) = .next t) ∧
    (∃ t, exec (.ladleLaneDown .b false) (ladle .standby fun l => { l with rxUp := ⟨true, true, false⟩ }) = .next t) ∧
    (∃ t, exec .ladleSlot (ladle .service fun l => { l with rxUp := Tri.all false }) = .next t) ∧ (∃ t, exec .ladleSlot (ladle .service id) = .next t) ∧ (∃ t, exec .ladleSlot (ladle .service fun l => { l with txq := [queued9] }) = .next t) ∧
    (∃ t, exec .ladleSlot (ladle .service fun l => { l with full := some copying, fullSlots := 6 }) = .next t) ∧
    (∃ t, exec (.ldlCmdResync (.session 0)) (ladle .standby id) = .next t) ∧ (∃ t, exec (.ldlCmdLinkreset (.session 0)) (ladle .standby id) = .next t) ∧
    (∃ t, exec (.standbySelfTest 2 (Tri.all false)) (ladle .standby id) = .next t) ∧
    (∃ t, exec (.standbySelfTest 2 (Tri.all true)) (ladle .standby id) = .next t) :=
  have w : Commanded (ladle .standby id).chip (.session 0) Reg.ldlCmd.addr := cmd rfl (by decide) (by decide)
  ⟨⟨_, (H _).1 .b true _ (.inr rfl) rfl⟩, ⟨_, (H _).1 .b false _ (.inl rfl) rfl⟩, ⟨_, (H _).2.1 .b false _ rfl⟩, ⟨_, (H _).2.2.1 (.inr rfl)⟩,
    ⟨_, ((H _).2.2.2.1 rfl rfl _ _ _ _ _ rfl rfl rfl rfl).1 rfl⟩,
    ⟨_, ((H _).2.2.2.1 rfl rfl _ _ _ _ _ rfl rfl rfl rfl).2.1 1 _ rfl rfl⟩,
    ⟨_, ((H _).2.2.2.1 rfl rfl _ _ _ _ _ rfl rfl rfl rfl).2.2 0 copying _ _ rfl rfl rfl rfl⟩,
    ⟨_, ((H _).2.2.2.2.1 _ _ w rfl).1 rfl⟩, ⟨_, ((H _).2.2.2.2.1 _ _ w rfl).2 (.inl rfl)⟩,
    ⟨_, ((H _).2.2.2.2.2 2 _ Chip.reset rfl).1 rfl⟩, ⟨_, ((H _).2.2.2.2.2 2 (Tri.all true) _ rfl).2 (by decide) rfl⟩⟩

/-- A frame of TYPE `k` with task code `n` and `f` as its third word; it passes HCRC. -/
def laneFrame (k n : Nat) (a : Word) (p : List Byte) : LFrame :=
  let f : LFrame := ⟨BitVec.ofNat 32 (k * 2 ^ 28 + n * 2 ^ 19 + p.length / 8 * 2 ^ 13), 1, a, 0, p⟩
  { f with h3 := BitVec.ofNat 32 (crc32c (lfHead f)) }

theorem crc32c_lt (bs : List Byte) : crc32c bs < 2 ^ 32 := by
  have hb (s : Nat) (h : s < 2 ^ 32) : crcBit s < 2 ^ 32 := by
    unfold crcBit; split
    · exact Nat.xor_lt_two_pow (by omega) (by decide)
    · omega
  have hs (s : Nat) (b : Byte) (h : s < 2 ^ 32) : crcByte s b < 2 ^ 32 := by
    have : b.toNat < 2 ^ 32 := by have := b.isLt; omega
    exact hb _ (hb _ (hb _ (hb _ (hb _ (hb _ (hb _ (hb _ (Nat.xor_lt_two_pow h this))))))))
  have hl (s : Nat) (h : s < 2 ^ 32) : crcBytes s bs < 2 ^ 32 := by
    unfold crcBytes
    induction bs generalizing s with
    | nil => exact h
    | cons b bs ih => exact ih _ (hs s b h)
  exact Nat.xor_lt_two_pow (hl _ (by decide)) (by decide)

/-- The frame as the vote of two lanes forms it. -/
def votedOut (f : LFrame) : LFrame := { f with payload := padTo (8 * bits f.h0 18 13) f.payload }

theorem usable (k n : Nat) (a : Word) (p : List Byte) : lfUsable (some (laneFrame k n a p)) = true := by
  simp only [lfUsable, laneFrame, lfHead, BitVec.toNat_ofNat, decide_eq_true_eq]
  exact (Nat.mod_eq_of_lt (crc32c_lt _)).symm

/-- The chip that has formed a frame. -/
def frameFormed (c : Chip) (f : LFrame) : Chip :=
  onLdl (noteSeq c f.h1.toNat) fun l => { l with lastRx := some (noteSeq c f.h1.toNat).core.tick }

/-- Two lanes bring the frame, the third nothing: it is formed. -/
theorem voted_of (c : Chip) (f : LFrame) (t : Nat) (hu : lfUsable (some f) = true) (ht : lfType f = t) (ho : turned c 10 = false) :
    Voted c ⟨some f, some f, none⟩ t (frameFormed c f) (votedOut f) := by
  have hn : lfUsable none = false := rfl
  have hh : headLanes ⟨some f, some f, none⟩ = [(.a, f), (.b, f)] := by
    simp only [headLanes, allVats, List.filterMap_cons, List.filterMap_nil, Tri.get, hu, if_true, Option.map_some, hn, Bool.false_eq_true, if_false, sameHead, decide_true, Bool.and_self]
  exact ⟨by simp only [fromOutside, ho, Bool.false_and], by simp only [voteFrame, hh, if_true, formFrame, frameFormed, votedOut, lfLen], ht⟩

def two (f : LFrame) : Lanes := ⟨some f, some f, none⟩
/-- A standby whose SYNC is `n`. -/
def syncing (n : Nat) : State := ladle .standby fun l => { l with sync := n }
/-- A module in MAINTENANCE that takes a load of 8 bytes from its partner, with `got` of them. -/
def taking (got : List Byte) : State :=
  st { (ladle .maintenance id).chip with upd := { Chip.reset.upd with load := some ⟨.partner, 2, false, 8, 3, got⟩, slot3 := { Slot.empty with state := 1 } } }
/-- The load has ended, and its END has been acknowledged. -/
def taken (c : Chip) : Chip := { c with upd := { c.upd with load := none, endAck := some (1, 0) } }
/-- The third word of an IDENT frame of the module's own revision. -/
def ownRev : Word := BitVec.ofNat 32 (256 * (ladleRev / 256))
theorem ownRev_major : bits ownRev 15 8 = ladleRev / 256 := by
  have : ladleRev < 65536 := Config.ladleRev.isLt
  simp only [bits, ownRev, BitVec.toNat_ofNat]; omega
/-- An IDENT payload of part 3192, paired, at position `b`. -/
def identity (b : Byte) : List Byte := bytesLE 4 3192 ++ [1, b] ++ List.replicate 90 0

/-- The chip that has formed a lane frame in a state. -/
def got (s : State) (k i : Nat) (a : Word) (p : List Byte) : Chip := frameFormed s.chip (laneFrame k i a p)
theorem came (s : State) (k i : Nat) (a : Word) (p : List Byte) (hk : lfType (laneFrame k i a p) = k := by decide)
    (ho : turned s.chip 10 = false := by rfl) :
    Voted s.chip (two (laneFrame k i a p)) k (got s k i a p) (votedOut (laneFrame k i a p)) := voted_of _ _ _ (usable k i a p) hk ho

theorem witness_CycleFramesComplete (H : Obligations.LadleFramesComplete) :
    (∃ t, exec (.stateFrame (two (laneFrame 1 5 0 []))) (syncing 4) = .next t) ∧ (∃ t, exec (.qstateFrame (two (laneFrame 2 5 0 []))) (syncing 4) = .next t) ∧
    (∃ t, exec (.pressFrame (two (laneFrame 3 5 0 []))) (syncing 4) = .next t) ∧ (∃ t, exec (.fullFrame (two (laneFrame 5 5 0 []))) (syncing 3) = .next t) ∧
    (∃ t, exec (.fullFrame (two (laneFrame 5 5 0 []))) (syncing 5) = .next t) ∧
    (∃ t, exec (.qstateFrame (two (laneFrame 2 5 0 []))) (syncing 3) = .next t) ∧
    (∃ t, exec (.pressFrame (two (laneFrame 3 5 0 []))) (syncing 3) = .next t) ∧ (∃ t, exec (.syncFrame (two (laneFrame 6 5 0 []))) (syncing 3) = .next t) ∧
    (∃ t, exec (.endFrame (two (laneFrame 4 5 0 [])) none) (syncing 3) = .next t) ∧
    (∃ t, exec (.endFrame (two (laneFrame 4 5 0 (bytes [1, 0, 0, 0, 0, 0, 0, 0]))) none) (syncing 4) = .next t) ∧
    (∃ t, exec (.endFrame (two (laneFrame 4 265 0 [])) (some .b)) (syncing 4) = .next t) :=
  have h (n k i : Nat) (p : List Byte) := H.1 (syncing n) (two (laneFrame k i 0 p)) (got (syncing n) k i 0 p) (votedOut (laneFrame k i 0 p)) rfl
  ⟨⟨_, ((h 4 1 5 []).1 rfl).1 (came _ 1 5 0 [])⟩, ⟨_, ((h 4 2 5 []).1 rfl).2.1 (came _ 2 5 0 [])⟩, ⟨_, ((h 4 3 5 []).1 rfl).2.2 (came _ 3 5 0 [])⟩,
    ⟨_, (h 3 5 5 []).2.1 (by decide) (by decide) (came _ 5 5 0 [])⟩, ⟨_, (h 5 5 5 []).2.1 (by decide) (by decide) (came _ 5 5 0 [])⟩,
    ⟨_, ((h 3 2 5 []).2.2.1 rfl).1 (came _ 2 5 0 [])⟩, ⟨_, ((h 3 3 5 []).2.2.1 rfl).2.1 (came _ 3 5 0 [])⟩,
    ⟨_, ((h 3 6 5 []).2.2.1 rfl).2.2 _ (came _ 6 5 0 []) rfl⟩,
    ⟨_, (h 3 4 5 []).2.2.2.1 none (by decide) (came _ 4 5 0 [])⟩,
    ⟨_, ((h 4 4 5 (bytes [1, 0, 0, 0, 0, 0, 0, 0])).2.2.2.2 none _ _ _ rfl (came _ 4 5 0 _) rfl rfl rfl).1 (by decide)⟩,
    ⟨_, ((h 4 4 265 []).2.2.2.2 (some .b) _ _ _ rfl (came _ 4 265 0 _) rfl rfl rfl).2 _ _ _ _ rfl rfl rfl rfl rfl⟩⟩

theorem witness_PartnerFramesComplete (H : Obligations.LadleFramesComplete) :
    (∃ t, exec (.healthFrame (two (laneFrame 7 0 9 []))) (syncing 4) = .next t) ∧ (∃ t, exec (.handoverFrame (two (laneFrame 8 0 9 []))) (syncing 4) = .next t) ∧
    (∃ t, exec (.finalFrame (two (laneFrame 9 0 0 []))) (syncing 4) = .next t) ∧ (∃ t, exec (.finalFrame (two (laneFrame 9 0 6 []))) (syncing 4) = .next t) ∧
    (∃ t, exec (.timeFrame (two (laneFrame 10 0 0 [])) none) (syncing 4) = .next t) ∧ (∃ t, exec (.timeFrame (two (laneFrame 10 0 0 [])) (some 1)) (syncing 4) = .next t) ∧
    (∃ t, exec (.timeFrame (two (laneFrame 10 0 0 [])) (some 20002)) (syncing 4) = .next t) ∧
    (∃ t, exec (.timeFrame (two (laneFrame 10 0 0 [])) (some 20001)) (syncing 4) = .next t) ∧
    (∃ t, exec (.updateFrame (two (laneFrame 11 0 0x80000002 []))) (syncing 4) = .next t) ∧
    (∃ t, exec (.updateFrame (two (laneFrame 11 0 0x10000000 (bytes [2, 0, 0, 0, 0, 0, 0, 4])))) (taking []) = .next t) ∧
    (∃ t, exec (.updateFrame (two (laneFrame 11 0 0x20000000 (bytes [1, 2, 3, 4, 5, 6, 7, 8])))) (taking []) = .next t) ∧
    (∃ t, exec (.updateFrame (two (laneFrame 11 0 0x2000003F []))) (taking (List.replicate 20000 0)) = .next t) ∧
    (∃ t, exec (.updateFrame (two (laneFrame 11 0 0x30000000 []))) (st (taken (taking []).chip)) = .next t) ∧
    (∃ t, exec (.updateFrame (two (laneFrame 11 0 0x30000000 []))) (taking (bytes [1, 2, 3, 4, 5, 6, 7, 8])) = .next t) ∧
    (∃ t, exec (.affFrame (two (laneFrame 12 0 9 []))) (syncing 4) = .next t) ∧ (∃ t, exec (.syncreqFrame (two (laneFrame 13 0 9 []))) (ladle .service id) = .next t) ∧
    (∃ t, exec (.ladleReservedType (two (laneFrame 0 0 9 []))) (syncing 4) = .next t) ∧
    (∃ t, exec (.ladleReservedType (two (laneFrame 15 0 9 []))) (syncing 4) = .next t) :=
  have h (s : State) (k : Nat) (a : Word) (p : List Byte) := H.2 s (two (laneFrame k 0 a p)) (got s k 0 a p) (votedOut (laneFrame k 0 a p))
  ⟨⟨_, (h (syncing 4) 7 9 []).1 _ _ (came _ 7 0 9 []) rfl rfl⟩, ⟨_, (h (syncing 4) 8 9 []).2.1 (came _ 8 0 9 [])⟩,
    ⟨_, ((h (syncing 4) 9 0 []).2.2.1 (came _ 9 0 0 []) rfl rfl).1 rfl⟩,
    ⟨_, ((h (syncing 4) 9 6 []).2.2.1 (came _ 9 0 6 []) rfl rfl).2 _ (by decide) rfl (.inl rfl)⟩,
    ⟨_, ((h (syncing 4) 10 0 []).2.2.2.1 none _ (came _ 10 0 0 []) rfl rfl).1 rfl⟩,
    ⟨_, (((h (syncing 4) 10 0 []).2.2.2.1 (some 1) _ (came _ 10 0 0 []) rfl rfl).2 _ _ rfl rfl).1 rfl⟩,
    ⟨_, (((h (syncing 4) 10 0 []).2.2.2.1 (some 20002) _ (came _ 10 0 0 []) rfl rfl).2 _ _ rfl rfl).2.1 (by decide) rfl⟩,
    ⟨_, (((h (syncing 4) 10 0 []).2.2.2.1 (some 20001) _ (came _ 10 0 0 []) rfl rfl).2 _ _ rfl rfl).2.2 _ _ _ (by decide) (by decide) rfl rfl⟩,
    ⟨_, ((h (syncing 4) 11 0x80000002 []).2.2.2.2.1 (came _ 11 0 0x80000002 [])).1 rfl⟩,
    ⟨_, (((h (taking []) 11 0x10000000 _).2.2.2.2.1 (came _ 11 0 0x10000000 _)).2 rfl rfl).1 _ rfl rfl⟩,
    ⟨_, (((h (taking []) 11 0x20000000 _).2.2.2.2.1 (came _ 11 0 0x20000000 _)).2 rfl rfl).2.1 _ _ _ rfl rfl rfl rfl⟩,
    ⟨_, (((h (taking (List.replicate 20000 0)) 11 0x2000003F []).2.2.2.2.1 (came _ 11 0 0x2000003F [])).2 rfl rfl).2.2.1 _ rfl rfl
      (by simp only [List.length_replicate]; decide) rfl⟩,
    ⟨_, (((h (st (taken (taking []).chip)) 11 0x30000000 []).2.2.2.2.1 (came _ 11 0 0x30000000 [])).2 rfl rfl).2.2.2.1 _ _ rfl rfl rfl⟩,
    ⟨_, (((h (taking (bytes [1, 2, 3, 4, 5, 6, 7, 8])) 11 0x30000000 []).2.2.2.2.1 (came _ 11 0 0x30000000 [])).2 rfl rfl).2.2.2.2 _ _ _ _ rfl rfl rfl rfl rfl⟩,
    ⟨_, (h (syncing 4) 12 9 []).2.2.2.2.2.1 (came _ 12 0 9 [])⟩,
    ⟨_, (h (ladle .service id) 13 9 []).2.2.2.2.2.2.1 (came _ 13 0 9 []) rfl (by decide) (by decide)⟩,
    ⟨_, (h (syncing 4) 0 9 []).2.2.2.2.2.2.2.2 0 (.inl rfl) (came _ 0 0 9 [])⟩,
    ⟨_, (h (syncing 4) 15 9 []).2.2.2.2.2.2.2.2 15 (.inr rfl) (came _ 15 0 9 [])⟩⟩

/-- A culture whose digests differ from those of zeros. -/
def unlike (s : State) : State := st { s.chip with culture := { s.chip.culture with digest := 1, layout := 1 } }
/-- A module that is not paired. -/
def single (s : State) : State := st (setReg s.chip Reg.ldlCtl.addr 0)

theorem witness_IdentComplete (H : Obligations.LadleFramesComplete) :
    (∃ t, exec (.identFrame (two (laneFrame 14 0 0 []))) (single (syncing 2)) = .next t) ∧
    (∃ t, exec (.identFrame (two (laneFrame 14 0 0 []))) (syncing 2) = .next t) ∧
    (∃ t, exec (.identFrame (two (laneFrame 14 0 0 (bytes [1, 0, 0, 0, 1, 0, 0, 0])))) (syncing 2) = .next t) ∧
    (∃ t, exec (.identFrame (two (laneFrame 14 0 ownRev (identity 0)))) (syncing 2) = .next t) ∧
    (∃ t, exec (.identFrame (two (laneFrame 14 0 ownRev (identity 1)))) (unlike (syncing 2)) = .next t) ∧
    (∃ t, exec (.identFrame (two (laneFrame 14 0 ownRev (identity 1)))) (syncing 2) = .next t) ∧
    (∃ t, exec (.identFrame (two (laneFrame 14 0 ownRev (identity 1)))) (ladle .service id) = .next t) ∧
    (∃ t, exec (.identFrame (two (laneFrame 14 0 ownRev (identity 1)))) (ladle .maintenance id) = .next t) :=
  have h (s : State) (a : Word) (p : List Byte) (hk : lfType (laneFrame 14 0 a p) = 14) (ho : turned s.chip 10 = false := by rfl) :=
    (H.2 s (two (laneFrame 14 0 a p)) (got s 14 0 a p) (votedOut (laneFrame 14 0 a p))).2.2.2.2.2.2.2.1 _ (came _ 14 0 a p hk ho) rfl
  ⟨⟨_, (h (single (syncing 2)) 0 [] (by decide)).1 rfl⟩, ⟨_, ((h (syncing 2) 0 [] (by decide)).2 rfl).1 rfl⟩,
    ⟨_, ((h (syncing 2) 0 (bytes [1, 0, 0, 0, 1, 0, 0, 0]) (by decide)).2 rfl).2.1 (by decide) (fun k => absurd k.1 (by decide))⟩,
    ⟨_, ((h (syncing 2) ownRev (identity 0) rfl).2 rfl).2.2.1 (by decide) ⟨by decide, ownRev_major⟩ rfl⟩,
    ⟨_, (((h (unlike (syncing 2)) ownRev (identity 1) rfl).2 rfl).2.2.2 (by decide) ⟨by decide, ownRev_major⟩ (by decide)).1 (by decide) (by decide)⟩,
    ⟨_, ((((h (syncing 2) ownRev (identity 1) rfl).2 rfl).2.2.2 (by decide) ⟨by decide, ownRev_major⟩ (by decide)).2 (.inl rfl)).1 rfl⟩,
    ⟨_, ((((h (ladle .service id) ownRev (identity 1) rfl).2 rfl).2.2.2 (by decide) ⟨by decide, ownRev_major⟩ (by decide)).2 (.inl rfl)).2.1 rfl⟩,
    ⟨_, ((((h (ladle .maintenance id) ownRev (identity 1) rfl).2 rfl).2.2.2 (by decide) ⟨by decide, ownRev_major⟩ (by decide)).2 (.inl rfl)).2.2
      (by decide) rfl⟩⟩

/-! ### Witnesses: the train network and time -/

/-- Live words set. -/
def regs (l : List (Nat × Word)) (c : Chip) : Chip := l.foldl (fun c e => setReg c e.1 e.2) c
/-- A module in a mode, past the power-up sequence, with live words set and its state changed by `f`. -/
def net (m : Mode) (l : List (Nat × Word)) (f : Chip → Chip := id) : State := st (f (regs l (atStep m 14).chip))

/-- Subscription 1 of ComId 77 and any sender, of 8 bytes; subscription 2 of ComId 78, tagged, of role 3. -/
def subs : List (Nat × Word) :=
  [(Reg.ethSctl.addr 1, 0x80000000), (Reg.ethScom.addr 1, 77), (Reg.ethSpnt.addr 1, 8),
   (Reg.ethSctl.addr 2, 0xE0000003), (Reg.ethScom.addr 2, 78), (Reg.ethSpnt.addr 2, 24)]
def frame (fcs : Bool) (com : Word) (d : List Byte) : PdFrame := ⟨0, 5, 0x0A000001, 1, com, 1, 0, true, fcs, d⟩
/-- A tag of a device with role 3, role epoch 1, TVER 1 and RV: the role it names its own, or (TDST) the role it sends to. -/
def tagOf (dst : Bool) : List Byte :=
  let t := bytes [0, 0, if dst then 0x34 else 0x24, 3, 0, 0, 0, 1, 0, 0, 0, 0]
  t ++ bytesBE 4 (crc32c t)
def data8 : List Byte := bytes [1, 2, 3, 4, 5, 6, 7, 8]
/-- Station 0 has been heard. -/
def heard (c : Chip) : Chip := { c with eth := { c.eth with stations := [(0, some ⟨0x0A000001, 0, false, false, 0, 1, 0, false⟩)] } }
/-- The telegram of publisher 4 stands in Q32514, whole or without its last fragment, and another behind it. -/
def published (last : Nat) (c : Chip) : Chip :=
  { c with devq := [(32514, { Queue.empty with spent := 1, entries := [⟨bytes ([0, 0, 0, 0, 0, 0, 0, 0, 4, 0, 0, last, 0, 0, 2, 0] ++ [7, 9]), 0, 0, 1, 0⟩, ⟨[], 1, 0, 2, 0⟩] })]
           eth := { c.eth with released := [(1, 0, []), (2, 0, [])] } }
/-- Inbox 2 takes ComId 5. -/
def inbox : List (Nat × Word) := [(Reg.ethMdctl.addr 2, 0x80030000), (Reg.ethMdcom.addr 2, 5)]
def message (t : Bool) (d : List Byte) : MdMsg := ⟨true, 0, 5, 0x0A000001, 1, 5, 0, t, true, d⟩
/-- Role 3 is known, and held by this module. -/
def holds3 (c : Chip) : Chip := { c with eth := { c.eth with roles := [(3, ⟨true, 0, 1, true, 0⟩)] } }
/-- The reply of session 7 stands in Q32515 in five entries of 256 bytes. -/
def answering (c : Chip) : Chip :=
  { c with devq := [(32515, { Queue.empty with spent := 5, entries := (List.range 5).map fun k => ⟨bytes [7, 0, 0, 0, 1, 0, 0, 0, 9], k, 0, 1, k⟩ })]
           eth := { c.eth with sessions := [⟨7, 2, true, 9, 5⟩] } }

/-- 64 messages wait for room. -/
def mdFull (c : Chip) : Chip := { c with eth := { c.eth with mdHeld := List.replicate 64 (2, []) } }
/-- Port 0 is enabled. -/
def port0 (l : List (Nat × Word)) : List (Nat × Word) := (Reg.ethPcfg.addr 0, 0x80000000) :: l

set_option maxRecDepth 100000 in
theorem witness_TrainDataComplete (H : Obligations.TrainDataComplete) :
    (∃ t, exec (.pdFrameReceive (frame false 77 [])) (net .service (port0 subs) heard) = .next t) ∧
    (∃ t, exec (.pdFrameReceive (frame true 77 data8)) (net .service (port0 subs) heard) = .next t) ∧
    (∃ t, exec (.pdFrameReceive (frame true 78 (tagOf false ++ data8))) (net .service (port0 subs) heard) = .next t) ∧
    (∃ t, exec (.pdFrameReceive (frame true 78 (tagOf true ++ data8))) (net .service (port0 subs) heard) = .next t) ∧
    (∃ t, exec (.pdFrameReceive (frame true 78 (tagOf true ++ data8))) (net .service (port0 subs) fun c => holds3 (heard c)) = .next t) ∧
    (∃ t, exec .pdTelegramSend (net .service [] (published 1)) = .next t) ∧ (∃ t, exec .pdTelegramSend (net .service [] (published 0)) = .next t) := by
  refine ⟨?_, ?_, ?_, ?_, ?_, ?_, ?_⟩
  · exact ⟨_, ((H.1 (net .service (port0 subs) heard)).1 (frame false 77 []) rfl rfl).1 rfl⟩
  · exact ⟨_, (((H.1 (net .service (port0 subs) heard)).1 (frame true 77 data8) rfl rfl).2 rfl rfl rfl 1 [] rfl (.inl rfl) rfl).1 _ _ rfl rfl⟩
  · exact ⟨_, ((((H.1 (net .service (port0 subs) heard)).1 (frame true 78 (tagOf false ++ data8)) rfl rfl).2 rfl rfl rfl 2 [] rfl (.inl rfl) rfl).2
      _ _ _ _ _ rfl rfl rfl rfl).2 (fun h => nomatch h.2)⟩
  · exact ⟨_, ((((H.1 (net .service (port0 subs) heard)).1 (frame true 78 (tagOf true ++ data8)) rfl rfl).2 rfl rfl rfl 2 [] rfl (.inl rfl) rfl).2
      _ _ _ _ _ rfl rfl rfl rfl).1 rfl rfl rfl⟩
  · exact ⟨_, ((((H.1 (net .service (port0 subs) fun c => holds3 (heard c))).1 (frame true 78 (tagOf true ++ data8)) rfl rfl).2 rfl rfl rfl 2 [] rfl
      (.inl rfl) rfl).2 _ _ _ _ _ rfl rfl rfl rfl).2 (fun _ => rfl)⟩
  · exact ⟨_, ((H.1 (net .service [] (published 1))).2 _ _ _ _ rfl rfl rfl rfl).1 _ _ _ rfl rfl⟩
  · exact ⟨_, ((H.1 (net .service [] (published 0))).2 _ _ _ _ rfl rfl rfl rfl).2 rfl⟩

set_option maxRecDepth 100000 in
theorem witness_TrainDataComplete_messages (H : Obligations.TrainDataComplete) :
    (∃ t, exec (.mdRequestReceive (message true (tagOf true ++ [9]))) (net .service (port0 inbox) heard) = .next t) ∧
    (∃ t, exec (.mdRequestReceive (message false [9])) (net .service (port0 []) heard) = .next t) ∧
    (∃ t, exec (.mdRequestReceive (message false (List.replicate 1025 9))) (net .service (port0 inbox) heard) = .next t) ∧
    (∃ t, exec (.mdRequestReceive (message false [9])) (net .service (port0 inbox) fun c => mdFull (heard c)) = .next t) ∧
    (∃ t, exec (.mdRequestReceive (message false [9])) (net .service (port0 inbox) heard) = .next t) ∧
    (∃ t, exec (.mdRequestReceive (message true (tagOf true ++ [9]))) (net .service (port0 inbox) fun c => holds3 (heard c)) = .next t) ∧
    (∃ t, exec .mdReplySend (net .service [(Reg.whyCtl.addr 32515, 0x87E00000)] answering) = .next t) ∧
    (∃ t, exec .mdReplySend (net .service []) = .next t) ∧
    (∃ t, exec (.mdSessionTimeout 7) (net .service [] answering) = .next t) := by
  refine ⟨?_, ?_, ?_, ?_, ?_, ?_, ?_, ?_, ?_⟩
  · exact ⟨_, ((H.2 (net .service (port0 inbox) heard)).1 (message true (tagOf true ++ [9])) _ _ _ _ 0 rfl rfl rfl rfl rfl (.inl rfl) rfl (fun _ => rfl) rfl rfl).1
      _ _ rfl rfl rfl rfl rfl⟩
  · exact ⟨_, (((H.2 (net .service (port0 []) heard)).1 (message false [9]) _ _ _ _ 0 rfl rfl rfl rfl rfl (.inl rfl) rfl (fun h => nomatch h) rfl rfl).2
      (fun _ h => nomatch h)).1 rfl⟩
  · exact ⟨_, ((((H.2 (net .service (port0 inbox) heard)).1 (message false (List.replicate 1025 9)) _ _ _ _ 0 rfl rfl rfl rfl rfl (.inl rfl) rfl (fun h => nomatch h) rfl rfl).2
      (fun _ h => nomatch h)).2 2 rfl).1 (by decide +kernel)⟩
  · exact ⟨_, ((((H.2 (net .service (port0 inbox) fun c => mdFull (heard c))).1 (message false [9]) _ _ _ _ 0 rfl rfl rfl rfl rfl (.inl rfl) rfl (fun h => nomatch h) rfl rfl).2
      (fun _ h => nomatch h)).2 2 rfl).2.1 (by decide +kernel) (by decide +kernel)⟩
  · exact ⟨_, ((((H.2 (net .service (port0 inbox) heard)).1 (message false [9]) _ _ _ _ 0 rfl rfl rfl rfl rfl (.inl rfl) rfl (fun h => nomatch h) rfl rfl).2
      (fun _ h => nomatch h)).2 2 rfl).2.2 (by decide +kernel) (by decide +kernel)⟩
  · exact ⟨_, ((((H.2 (net .service (port0 inbox) fun c => holds3 (heard c))).1 (message true (tagOf true ++ [9])) _ _ _ _ 0 rfl rfl rfl rfl rfl (.inl rfl) rfl (fun _ => rfl) rfl rfl).2
      (fun t h _ _ => by cases h; rfl)).2 2 rfl).2.2 (by decide +kernel) (by decide +kernel)⟩
  · exact ⟨_, ((H.2 (net .service [(Reg.whyCtl.addr 32515, 0x87E00000)] answering)).2.1 _ _ _ _ rfl rfl rfl rfl rfl).2 _ _ _ _ _ rfl rfl rfl rfl rfl rfl⟩
  · exact ⟨_, ((H.2 (net .service [])).2.1 _ _ _ _ rfl rfl rfl rfl rfl).1 rfl⟩
  · exact ⟨_, (H.2 _).2.2 7⟩

def announced : List (Nat × Word) := [(Reg.ethAnncom.addr, 99), (Reg.ethCtl.addr, 0x8A000000), (Reg.ethPcfg.addr 1, 0x88000000), (Reg.ethPcfg.addr 0, 0x80000000), (Reg.ethPstat.addr 1, 0)]
/-- Roles 3, heard of long ago, and 4, held. -/
def roled (c : Chip) : Chip :=
  { heard c with eth := { (heard c).eth with roles := [(3, { known := true, holder := 0, epoch := 1, held := false, heard := 0 }),
                                                       (4, { known := true, holder := 0, epoch := 1, held := true, heard := 0 })] }
                 core := { c.core with tick := 20000000 } }

/-- The last announcement 20 s ago. -/
def annLong (c : Chip) : Chip := { roled c with eth := { (roled c).eth with annAt := some 0 } }

theorem witness_NetworkChangesComplete (H : Obligations.NetworkChangesComplete) :
    (∃ t, exec (.announcementReceive (frame false 99 [])) (net .service announced heard) = .next t) ∧
    (∃ t, exec (.announcementReceive (frame true 99 [])) (net .service announced heard) = .next t) ∧
    (∃ t, exec .announcementSend (net .service announced roled) = .next t) ∧ (∃ t, exec .announcementSend (net .service announced annLong) = .next t) ∧
    (∃ t, exec .ttdpTopologyChange (net .service announced) = .next t) ∧ (∃ t, exec (.inaugurationComplete ⟨7, 1, []⟩) (net .service announced heard) = .next t) ∧
    (∃ t, exec (.partnerAgeing 0) (net .service announced roled) = .next t) ∧ (∃ t, exec (.roleAgeing 3) (net .service announced roled) = .next t) ∧
    (∃ t, exec (.linkChange 1 true true) (net .service announced) = .next t) ∧ (∃ t, exec (.bypassRelay true) (atStep .prove 8) = .next t) :=
  ⟨⟨_, ((H _).1 (frame false 99 []) rfl rfl rfl).1 rfl⟩, ⟨_, ((H _).1 (frame true 99 []) rfl rfl rfl).2 rfl rfl rfl (.inl rfl)⟩,
    ⟨_, (H (net .service announced roled)).2.1 _ _ rfl (fun _ h => nomatch h) rfl rfl⟩,
    ⟨_, (H (net .service announced annLong)).2.1 _ _ rfl (fun t h => by cases h; decide) rfl rfl⟩,
    ⟨_, ((H _).2.2.1 (by rfl)).1⟩, ⟨_, ((H _).2.2.1 (by rfl)).2 7 1 []⟩,
    ⟨_, (H _).2.2.2.1 0 _ rfl (by decide)⟩, ⟨_, (H _).2.2.2.2.1 3 rfl rfl (by decide)⟩,
    ⟨_, (H _).2.2.2.2.2.1 1 true true⟩, ⟨_, (H _).2.2.2.2.2.2 true _ rfl⟩⟩

/-- Domain 0 takes PTP domain 1, domain 1 takes 2, both on every port; manual control; unit 3 armed once, unit 4 every 1 ms;
capture 1 takes both edges, capture 2 the rising ones, capture 5 the falling ones. -/
def ptpWords : List (Nat × Word) :=
  [(Reg.sysExpert.addr, 0x00000100), (Reg.ptpServo.addr, 0x80000000), (Reg.ptpDcfg0.addr, 0x80F00001), (Reg.ptpDcfg1.addr, 0x80F00002),
   (Reg.ptpCmpctl.addr 3, 0x80000000), (Reg.ptpCmpctl.addr 4, 0xC0000000), (Reg.ptpCmpper.addr 4, 1000),
   (Reg.ptpCapctl.addr 1, 0x80000000), (Reg.ptpCapctl.addr 2, 0xA0000000), (Reg.ptpCapctl.addr 5, 0xC0000000)]
def message' (d : BitVec 8) (ok : Bool) : PtpMsg := ⟨0, d, false, false, ok, .delay 5⟩
def timeless (c : Chip) : Chip :=
  { c with core := { c.core with tick := 90000000 }
           ptp := { c.ptp with d0 := { c.ptp.d0 with state := 3 }, d1 := { c.ptp.d1 with state := 3 }, step := some 5, slewAt := some 88810000, state := 2,
                               holdFrom := some 30000000 } }

/-- The second has turned since the last pulse. -/
def second1 (c : Chip) : Chip := { c with vats := c.vats.map fun p => { p with time := 1000000000 } }

theorem witness_NetworkTimeComplete (H : Obligations.NetworkTimeComplete) :
    (∃ t, exec (.ptpMessageReceive (message' 1 true)) (net .service ptpWords) = .next t) ∧
    (∃ t, exec (.ptpMessageReceive (message' 2 true)) (net .service ptpWords) = .next t) ∧
    (∃ t, exec (.ptpMessageReceive (message' 1 false)) (net .service ptpWords) = .next t) ∧
    (∃ t, exec (.ptpMessageReceive (message' 1 true)) (net .inert ptpWords) = .next t) ∧
    (∃ t, exec (.domainLoss 1) (net .service ptpWords timeless) = .next t) ∧ (∃ t, exec .timeStepApply (net .hold ptpWords timeless) = .next t) ∧
    (∃ t, exec .slewExpiry (net .hold ptpWords timeless) = .next t) ∧
    (∃ t, exec .holdoverTimeout (net .hold [(Reg.ptpCtl.addr, 1)] timeless) = .next t) ∧ (∃ t, exec .ladleTimeLoss (net .hold ptpWords) = .next t) ∧
    (∃ t, exec (.ptpFreqhWrite .culture 3) (net .service ptpWords) = .next t) ∧ (∃ t, exec (.ptpSlewWrite .culture 3) (net .service ptpWords) = .next t) ∧
    (∃ t, exec (.compareFire 3) (net .service ptpWords timeless) = .next t) ∧ (∃ t, exec (.compareFire 4) (net .service ptpWords timeless) = .next t) ∧
    (∃ t, exec .ppsOutputEdge (net .service [(Reg.ptpPps.addr, 0x80000000)] second1) = .next t) ∧
    (∃ t, exec (.ppsInputEdge 1499999999) (net .service [(Reg.ptpPps.addr, 0xC0000000)]) = .next t) ∧
    (∃ t, exec (.ppsInputEdge 1500000000) (net .service [(Reg.ptpPps.addr, 0xC0000000)]) = .next t) ∧
    (∃ t, exec (.ppsInputEdge 1500000001) (net .service [(Reg.ptpPps.addr, 0xC0000000)]) = .next t) ∧
    (∃ t, exec (.captureEdge 1 true (Tri.all (some 9))) (net .service ptpWords) = .next t) ∧
    (∃ t, exec (.captureEdge 2 true (Tri.all none)) (net .service ptpWords) = .next t) ∧
    (∃ t, exec (.captureEdge 5 false (Tri.all (some 9))) (net .service ptpWords) = .next t) :=
  have w (a : Nat) (h : reaches (net .service ptpWords).chip .culture = true := by rfl) : Commanded (net .service ptpWords).chip .culture a :=
    cmd h (by decide) (by decide)
  ⟨⟨_, ((H.1 (net .service ptpWords)).1 (message' 1 true) _ rfl rfl rfl).2.1 rfl (by decide) rfl⟩,
    ⟨_, ((H.1 (net .service ptpWords)).1 (message' 2 true) _ rfl rfl rfl).2.2.1 rfl (by decide) rfl rfl⟩,
    ⟨_, ((H.1 (net .service ptpWords)).1 (message' 1 false) _ rfl rfl rfl).1 rfl⟩,
    ⟨_, ((H.1 (net .inert ptpWords)).1 (message' 1 true) _ rfl rfl rfl).2.2.2 rfl rfl⟩, ⟨_, (H.1 _).2.1 1 rfl rfl⟩,
    ⟨_, (H.1 _).2.2.1 _ rfl (by decide) (by decide) (by decide)⟩, ⟨_, (H.1 _).2.2.2.1 88810000 rfl (by decide)⟩,
    ⟨_, (H.1 _).2.2.2.2.1 30000000 rfl rfl (by decide)⟩, ⟨_, (H.1 _).2.2.2.2.2.1⟩,
    ⟨_, ((H.1 _).2.2.2.2.2.2 .culture 3 (w _) (w _) rfl).1⟩, ⟨_, ((H.1 _).2.2.2.2.2.2 .culture 3 (w _) (w _) rfl).2⟩,
    ⟨_, ((H.2 (net .service ptpWords timeless)).1 3 _ _ _ _ rfl rfl rfl rfl rfl (by decide) (by decide) (fun _ h => nomatch h)).1 rfl⟩,
    ⟨_, ((H.2 (net .service ptpWords timeless)).1 4 _ _ _ _ rfl rfl rfl rfl rfl (by decide) (by decide) (fun _ h => nomatch h)).2 1000000 _ _ rfl rfl (by decide) rfl rfl⟩,
    ⟨_, (H.2 _).2.1 _ rfl rfl rfl (by decide) rfl⟩, ⟨_, ((H.2 _).2.2.1 rfl rfl).1 1499999999 _ (.inl ⟨by decide, rfl⟩)⟩,
    ⟨_, ((H.2 _).2.2.1 rfl rfl).2 1500000000 _ _ _ (by decide) rfl rfl⟩, ⟨_, ((H.2 _).2.2.1 rfl rfl).1 1500000001 _ (.inr ⟨by decide, rfl⟩)⟩,
    ⟨_, (H.2 _).2.2.2 1 true _ _ _ rfl (.inl rfl) rfl rfl⟩, ⟨_, (H.2 _).2.2.2 2 true _ _ _ rfl (.inr (.inl ⟨by decide, rfl⟩)) rfl rfl⟩,
    ⟨_, (H.2 _).2.2.2 5 false _ _ _ rfl (.inr (.inr ⟨by decide, rfl⟩)) rfl rfl⟩⟩

/-! ### Witnesses: the vehicle bus, CAN, the rack -/

/-- Queue 9 is enabled with a port of a block as its producer. -/
def queue9 (block port : Nat) : List (Nat × Word) := [(Reg.whyCtl.addr 9, 0x80000000), (Reg.whyProd.addr 9, word (portEnd block port))]
/-- One entry waits in a queue of one copy. -/
def waiting (q : Nat) (l : List Nat) (c : Chip) : Chip := { c with devq := [(q, { Queue.empty with spent := 1, entries := [⟨bytes l, 0, 0, 0, 0⟩] })] }
/-- MVB_CTL with EN, ADMIN and an RTO of 43 µs; port 5 a sink of F-code 1. -/
def mvb (l : List (Nat × Word)) (f : Mvb → Mvb) : State :=
  net .service ([(Reg.mvbCtl.addr, 0xC0AC0000), (Reg.mvbPcfg.addr 5, 0x88000000)] ++ l) fun c => { c with mvb := f c.mvb }
/-- The same without ADMIN. -/
def mvbMember (l : List (Nat × Word)) (f : Mvb → Mvb) : State := mvb ((Reg.mvbCtl.addr, 0x80AC0000) :: l) f
def slave (begins : Nat) : MvbSlave := ⟨true, true, begins, 5, bytes [1, 2, 3, 4]⟩
def switching (cdn : Nat) (m : Mvb) : Mvb := { m with cdn := cdn, next := 1, announced := true }
set_option maxRecDepth 10000 in
theorem witness_VehicleBusComplete (H : Obligations.VehicleBusComplete) :
    (∃ t, exec (.masterFrameReceive 1 5 3000 true false) (mvb [] id) = .next t) ∧
    (∃ t, exec (.slaveFrameReceive (slave 43001)) (mvb [] fun m => { m with last := some (1, 5) }) = .next t) ∧
    (∃ t, exec (.slaveFrameReceive (slave 43000)) (mvb [] fun m => { m with last := some (1, 6) }) = .next t) ∧
    (∃ t, exec (.slaveFrameReceive (slave 43000)) (mvb (queue9 9 0) fun m => { m with last := some (1, 5) }) = .next t) ∧
    (∃ t, exec .mvbSilence (later (mvbMember [] fun m => { m with lastValid := 9996100 })) = .next t) ∧
    (∃ t, exec .mvbSourceEntry (net .service [] (waiting 32516 [5, 0, 4, 0, 0, 0, 0, 0, 1, 2, 3, 4])) = .next t) ∧
    (∃ t, exec .macroCycleBoundary (mvbMember [] (switching 4)) = .next t) ∧
    (∃ t, exec (.masterFrameReceive 1 5 3000 true false) (mvbMember [] id) = .next t) ∧
    (∃ t, exec .basicPeriod (mvb [] id) = .next t) ∧ (∃ t, exec .mvbSlotEnd (mvb [] fun m => { m with await := some 5 }) = .next t) ∧
    (∃ t, exec .macroCycleBoundary (mvb [] id) = .next t) ∧ (∃ t, exec .macroCycleBoundary (mvb [] fun m => { switching 4 m with setChanged := true }) = .next t) ∧
    (∃ t, exec .macroCycleBoundary (mvb [] fun m => { switching 4 m with announced := false }) = .next t) ∧
    (∃ t, exec .macroCycleBoundary (mvb [] (switching 2)) = .next t) ∧
    (∃ t, exec .macroCycleBoundary (mvb [(Reg.mvbAgr.addr 0, 0x80000007)] (switching 1)) = .next t) ∧
    (∃ t, exec .macroCycleBoundary (mvb [] (switching 1)) = .next t) ∧ (∃ t, exec (.mvbAselWrite .culture 0x10000001) (mvb [] id) = .next t) :=
  have w : Commanded (mvb [] id).chip .culture Reg.mvbAsel.addr := cmd rfl (by decide) (by decide)
  ⟨⟨_, ((H.1 (mvb [] id)).1 rfl rfl).1 1 5 3000 true false _ rfl⟩, ⟨_, (((H.1 _).1 rfl rfl).2 (slave 43001) _ 1 5 rfl rfl).1 (by decide)⟩,
    ⟨_, ((((H.1 _).1 rfl rfl).2 (slave 43000) _ 1 6 rfl rfl).2 _ _ (by decide) (by decide) rfl rfl rfl).1 rfl⟩,
    ⟨_, ((((H.1 _).1 rfl rfl).2 (slave 43000) _ 1 5 rfl rfl).2 _ _ (by decide) (by decide) rfl rfl rfl).2 rfl _ 9 rfl rfl⟩,
    ⟨_, (H.1 _).2.1 (by decide) rfl⟩, ⟨_, (H.1 _).2.2 _ _ rfl⟩,
    ⟨_, ((H.2 (mvbMember [] (switching 4))).2.2.1 (by decide) _ rfl).1 (.inr rfl)⟩,
    ⟨_, ((H.1 (mvbMember [] id)).1 rfl rfl).1 1 5 3000 true false _ rfl⟩,
    ⟨_, (H.2 _).1 rfl (by decide) _ rfl⟩, ⟨_, (H.2 _).2.1 rfl⟩, ⟨_, ((H.2 _).2.2.1 (by decide) _ rfl).1 (.inl rfl)⟩,
    ⟨_, (((H.2 _).2.2.1 (by decide) _ rfl).2 (by decide) rfl).1 rfl⟩,
    ⟨_, ((((H.2 _).2.2.1 (by decide) _ rfl).2 (by decide) rfl).2 rfl).1 rfl⟩,
    ⟨_, (((((H.2 _).2.2.1 (by decide) _ rfl).2 (by decide) rfl).2 rfl).2 rfl).1 (by decide)⟩,
    ⟨_, (((((H.2 _).2.2.1 (by decide) _ rfl).2 (by decide) rfl).2 rfl).2 rfl).2.1 7 rfl rfl⟩,
    ⟨_, (((((H.2 _).2.2.1 (by decide) _ rfl).2 (by decide) rfl).2 rfl).2 rfl).2.2 rfl rfl⟩,
    ⟨_, (H.2 _).2.2.2 .culture 0x10000001 w rfl rfl rfl (by decide)⟩⟩

/-- Controller 2 enabled, with what CAN_CTL2 holds beside EN. -/
def can (w : Word) (l : List (Nat × Word)) (f : CanCtl → CanCtl) (g : Chip → Chip := id) : State :=
  net .service ((Reg.canCtl.addr 2, 0x80000000 ||| w) :: l) fun c => g (onCan c 2 f)
def canGot (ok : Bool) : CanRx := ⟨ok, false, false, false, false, false, 5, [1], 7, 6, 1⟩
/-- Queue 9 is full in every Vat. -/
def full9 (c : Chip) : Chip := { c with vats := Tri.all (planeQ (ctx 16 []) fullQ) }
def seen : MonFrame := ⟨canGot true, 3⟩
def locked (w : Writer) (x : CanCtl) : CanCtl := { x with window := some seen, lock := some (w, 0) }
def canTx : CanFrame := ⟨5, 1, 0, [1], false⟩

set_option maxRecDepth 10000 in
theorem witness_CanReceiveComplete (H : Obligations.CanComplete) :
    (∃ t, exec (.canFrameReceive 2 (canGot false)) (can 0 [] id) = .next t) ∧ (∃ t, exec (.canFrameReceive 2 (canGot true)) (can 0 [] id) = .next t) ∧
    (∃ t, exec (.canFrameReceive 2 (canGot true)) (can 0x01000000 (queue9 10 4) id) = .next t) ∧
    (∃ t, exec (.canFrameReceive 2 (canGot true)) (can 0x02000000 (queue9 10 5) id full9) = .next t) ∧
    (∃ t, exec (.canMonRead .culture 2 0) (can 0 [(Reg.canMonctl.addr 2, 0x80000000)] fun x => { x with window := some seen }) = .next t) ∧
    (∃ t, exec (.canMonRead .culture 2 0) (can 0 [(Reg.canMonctl.addr 2, 0x80000000)] id) = .next t) ∧
    (∃ t, exec (.canMonRead .culture 2 4) (can 0 [] (locked .culture)) = .next t) ∧
    (∃ t, exec (.canMonRead .culture 2 0) (can 0 [] (locked .culture)) = .next t) ∧
    (∃ t, exec (.canMonRead .culture 2 4) (can 0 [] (locked (.session 0))) = .next t) ∧
    (∃ t, exec (.monitorLockTimeout 2) (later (can 0 [] (locked .culture))) = .next t) :=
  ⟨⟨_, ((H.1 _ 2).1 (canGot false) rfl (by decide) rfl).1 rfl⟩, ⟨_, (((H.1 _ 2).1 (canGot true) rfl (by decide) rfl).2 _ _ _ rfl rfl rfl).1 (.inl rfl)⟩,
    ⟨_, ((((H.1 _ 2).1 (canGot true) rfl (by decide) rfl).2 _ _ _ rfl rfl rfl).2 9 _ _ (.inl rfl) rfl rfl).1 rfl⟩,
    ⟨_, ((((H.1 _ 2).1 (canGot true) rfl (by decide) rfl).2 _ _ _ rfl rfl rfl).2 9 _ _ (.inr rfl) rfl rfl).2 rfl⟩,
    ⟨_, ((H.1 _ 2).2.1 .culture 0 _ rfl rfl).1 rfl rfl rfl⟩,
    ⟨_, ((H.1 (can 0 [(Reg.canMonctl.addr 2, 0x80000000)] id) 2).2.1 .culture 0 _ rfl rfl).1 rfl rfl rfl⟩, ⟨_, ((H.1 _ 2).2.1 .culture 4 _ rfl rfl).2.1 0 rfl rfl⟩,
    ⟨_, ((H.1 _ 2).2.1 .culture 0 _ rfl rfl).2.2.1 0 rfl (by decide)⟩,
    ⟨_, ((H.1 _ 2).2.1 .culture 4 _ rfl rfl).2.2.2 (.session 0) 0 rfl (by decide)⟩,
    ⟨_, (H.1 _ 2).2.2 .culture 0 rfl (by decide)⟩⟩

set_option maxRecDepth 10000 in
theorem witness_CanSendComplete (H : Obligations.CanComplete) :
    (∃ t, exec (.canStoreFill 2) (can 0x40000000 [] id (waiting 32519 [5, 0, 0, 0, 1, 0, 0, 0, 9])) = .next t) ∧
    (∃ t, exec (.canStoreFill 2) (can 0 [] id (waiting 32519 [5, 0, 0, 0, 9, 0, 0, 0, 9])) = .next t) ∧
    (∃ t, exec (.canStoreFill 2) (can 0 [] (fun x => { x with store := List.replicate 63 canTx }) (waiting 32519 [5, 0, 0, 0, 1, 0, 0, 0, 9])) = .next t) ∧
    (∃ t, exec (.canBusIdle 2) (can 0 [] fun x => { x with store := [canTx] }) = .next t) ∧
    (∃ t, exec (.canBusIdle 2) (can 0 [] fun x => { x with store := [canTx], frozen := some canTx }) = .next t) ∧
    (∃ t, exec (.canTxSuccess 2 7) (can 0 [] fun x => { x with offered := some canTx }) = .next t) ∧
    (∃ t, exec (.canArbLost 2) (can 0 [] fun x => { x with offered := some canTx }) = .next t) ∧
    (∃ t, exec (.canTxError 2 true) (can 0 [] fun x => { x with offered := some canTx, tec := 248 }) = .next t) ∧
    (∃ t, exec (.canRecoveryDone 2) (can 0 [] fun x => { x with state := 2, recov := true }) = .next t) ∧
    (∃ t, exec (.referenceInstant 2) (can 0 [(Reg.canRefctl.addr 2, 0x80000000), (Reg.canRefper.addr 2, 1000)] id) = .next t) ∧
    (∃ t, exec (.canCmdRecover .culture 2) (can 0 [] fun x => { x with state := 2 }) = .next t) ∧
    (∃ t, exec (.canCmdFlush .culture 2) (can 0 [] id) = .next t) :=
  ⟨⟨_, ((H.2 _ 2 _ rfl).1 _ _ rfl (by decide) rfl).1 rfl⟩, ⟨_, ((H.2 _ 2 _ rfl).1 _ _ rfl (by decide) rfl).2.1 rfl rfl⟩,
    ⟨_, ((H.2 _ 2 _ rfl).1 _ _ rfl (by decide) rfl).2.2 _ rfl rfl rfl⟩, ⟨_, (H.2 _ 2 _ rfl).2.1 rfl (by decide) rfl⟩,
    ⟨_, (H.2 _ 2 _ rfl).2.1 rfl (by decide) rfl⟩,
    ⟨_, ((H.2 _ 2 _ rfl).2.2.1 canTx rfl).1 7 _ _ rfl rfl⟩, ⟨_, ((H.2 _ 2 _ rfl).2.2.1 canTx rfl).2.1⟩,
    ⟨_, ((H.2 _ 2 _ rfl).2.2.1 canTx rfl).2.2 true _ _ rfl rfl⟩, ⟨_, (H.2 _ 2 _ rfl).2.2.2.1 rfl rfl⟩,
    ⟨_, (H.2 _ 2 _ rfl).2.2.2.2.1 _ _ _ _ rfl rfl rfl rfl (by decide) (by decide) (by decide) rfl rfl⟩,
    ⟨_, ((H.2 _ 2 _ rfl).2.2.2.2.2 .culture (cmd rfl (by decide) (by decide))).1 rfl rfl rfl⟩, ⟨_, ((H.2 _ 2 _ rfl).2.2.2.2.2 .culture (cmd rfl (by decide) (by decide))).2⟩⟩

/-- The bridge enabled, with what BRG_CTL holds beside EN. -/
def rack (m : Mode) (w : Word) (l : List (Nat × Word)) (f : Brg → Brg := id) (g : Chip → Chip := id) : State :=
  net m ((Reg.brgCtl.addr, 0x80000000 ||| w) :: l) fun c => g { c with brg := f c.brg }
def outEntry : List Nat := [3, 0, 4, 0, 0, 0, 0, 0, 0, 0, 0, 0, 0, 0, 0, 0, 1, 2, 3, 4]
/-- Window 3 enabled as INPUT, of 2 words, fed by point 0, which belongs to event task V9. -/
def window3 : List (Nat × Word) := [(Reg.brgWctl.addr 3, 0xA0000002), (Reg.hxkPt.addr 0, 0x21200000)]
def inTransfer (x : BrgXfer) (b : Brg) : Brg := { b with xfers := [(3, some x)], trans := if x.backed.isNone then some ⟨3, x.write, 0, []⟩ else none }

set_option maxRecDepth 10000 in
theorem witness_RackComplete (H : Obligations.RackComplete) :
    (∃ t, exec .outputWindowWrite (rack .maintenance 0 [(Reg.tstCtl.addr, 0x80000000)] id fun c => { waiting 32521 outEntry c with tst := { c.tst with depths := [(9, 1)] } }) = .next t) ∧
    (∃ t, exec .outputWindowWrite (rack .service 0 [] id (waiting 32521 outEntry)) = .next t) ∧
    (∃ t, exec (.inputWindowRead 3) (rack .service 0 (queue9 11 3 ++ window3)) = .next t) ∧
    (∃ t, exec (.inputWindowRead 3) (rack .service 0 (queue9 11 3 ++ window3) (inTransfer BrgXfer.read)) = .next t) ∧
    (∃ t, exec (.rackMasterWrite 3 0xC0000300 5 [1])
      (rack .service 0 (queue9 11 3 ++ [(Reg.brgWctl.addr 3, 0xC0000002)]) (fun b => { b with grant := some 3 }) (waiting 32521 outEntry)) = .next t) ∧
    (∃ t, exec (.rackMasterWrite 3 0xC0000300 5 [1]) (rack .service 0 (queue9 11 3 ++ [(Reg.brgWctl.addr 3, 0xC0000002)]) fun b => { b with grant := some 3 }) = .next t) ∧
    (∃ t, exec (.rackMasterWrite 3 0xC0000304 5 [1]) (rack .hold 0x40000000 [(Reg.brgWctl.addr 3, 0xC0000002)] fun b => { b with gathered := [(3, [7])] }) = .next t) ∧
    (∃ t, exec (.rackBreq 0x8001) (rack .service 0 []) = .next t) ∧ (∃ t, exec (.rackWaitLimit 3 ⟨64, 5⟩) (rack .service 0 [] (inTransfer BrgXfer.read)) = .next t) ∧
    (∃ t, exec (.rackBackoff 3 [] 5) (rack .service 0 [] (inTransfer ⟨false, [], 0, [], 16, none⟩)) = .next t) ∧
    (∃ t, exec (.rackBackoff 3 [7] 5) (rack .service 0 window3 (inTransfer ⟨false, [], 0, [], 15, none⟩)) = .next t) ∧
    (∃ t, exec (.backoffRepeat 3) (rack .service 0 [] (inTransfer ⟨false, [], 0, [], 1, some 0⟩)) = .next t) ∧
    (∃ t, exec (.rackTransferEnd 3 5 5 [1]) (rack .service 0 [] (inTransfer BrgXfer.read)) = .next t) ∧
    (∃ t, exec (.rackTransferEnd 3 0 5 [1]) (rack .service 0 [(Reg.brgWctl.addr 3, 0xA0000011)] (inTransfer BrgXfer.read)) = .next t) ∧
    (∃ t, exec (.rackTransferEnd 3 0 5 [1, 2]) (rack .hold 0x40000000 window3) = .next t) ∧
    (∃ t, exec (.sidebandChange 1 2 true) (rack .service 0 []) = .next t) :=
  ⟨⟨_, ((H.1 _).1 _ _ rfl).1 rfl rfl⟩, ⟨_, ((H.1 _).1 _ _ rfl).2 rfl rfl rfl⟩,
    ⟨_, ((H.1 (rack .service 0 (queue9 11 3 ++ window3))).2.1 3 rfl rfl rfl (fun k h => TaskId.noConfusion (show TaskId.event 9 = .periodic k from h))).1 rfl⟩,
    ⟨_, ((H.1 (rack .service 0 (queue9 11 3 ++ window3) (inTransfer BrgXfer.read))).2.1 3 rfl rfl rfl
      (fun k h => TaskId.noConfusion (show TaskId.event 9 = .periodic k from h))).2 rfl⟩,
    ⟨_, ((H.1 (rack .service 0 (queue9 11 3 ++ [(Reg.brgWctl.addr 3, 0xC0000002)]) (fun b => { b with grant := some 3 }) (waiting 32521 outEntry))).2.2.1
      3 0xC0000300 5 [1] rfl).1 rfl rfl⟩,
    ⟨_, ((H.1 _).2.2.1 3 0xC0000300 5 [1] rfl).2 (.inr rfl) 3 0 _ _ rfl rfl (.inl ⟨rfl, rfl⟩) (by decide) (by decide) (by decide) rfl⟩,
    ⟨_, ((H.1 _).2.2.1 3 0xC0000304 5 [1] rfl).2 (.inl rfl) 3 1 _ _ rfl rfl (.inr ⟨by decide, rfl⟩) (by decide) (by decide) (by decide) rfl⟩,
    ⟨_, (H.1 _).2.2.2 0x8001 0 rfl rfl rfl rfl⟩, ⟨_, ((H.2 _).1 3 _ rfl).1 64 5 rfl (by decide)⟩, ⟨_, (((H.2 _).1 3 _ rfl).2.1 [] 5 _ rfl rfl).1 (by decide)⟩,
    ⟨_, (((H.2 (rack .service 0 window3 (inTransfer ⟨false, [], 0, [], 15, none⟩))).1 3 _ rfl).2.1 [7] 5 _ rfl rfl).2 (by decide)⟩, ⟨_, ((H.2 _).1 3 _ rfl).2.2 rfl⟩,
    ⟨_, ((H.2 _).2.1 3 5 5 [1] _ _ _ _ rfl (.inr (.inr rfl)) (.inl ⟨rfl, rfl⟩) rfl rfl rfl).1 (.inl (by decide))⟩,
    ⟨_, ((H.2 (rack .service 0 [(Reg.brgWctl.addr 3, 0xA0000011)] (inTransfer BrgXfer.read))).2.1 3 0 5 [1] _ _ _ _ rfl (.inl rfl) (.inl ⟨rfl, rfl⟩) rfl rfl rfl).2 rfl (by decide)⟩, ⟨_, ((H.2 (rack .hold 0x40000000 window3)).2.1 3 0 5 [1, 2] _ _ _ _ rfl (.inl rfl) (.inr ⟨rfl, rfl, rfl⟩) rfl rfl rfl).1 (.inr (by decide))⟩,
    ⟨_, (H.2 _).2.2 1 2 true _ _ rfl rfl rfl⟩⟩

/-! ### Witnesses: field inputs and outputs -/

/-- The field unit as `f` makes it, in SERVICE. -/
def field (l : List (Nat × Word)) (f : Fio → Fio) : State := net .service l fun c => { c with fio := f c.fio }
theorem takes {i : Instr} {s : State} {p : Chip → Prop} (h : ∃ c, exec i s = .next (s.afterAll c) ∧ p c) : ∃ t, exec i s = .next t :=
  let ⟨_, h, _⟩ := h; ⟨_, h⟩
/-- The outputs are driven: all three lanes command every output, every field supply is there. -/
def driving (f : Fio → Fio) : State :=
  net .service [] fun c => vatsServing { c with
    fio := f { c.fio with lanes := Tri.all ⟨⟨0xFFFFFFFF, []⟩, [], false, some 0⟩, eff := 0xFFFFFFFF, fsok := 15, inert := false }
    ldl := { c.ldl with chgOut := Tri.all true } }
/-- Gate 0 on at a commit. -/
def patch (t : Nat) : FPatch := ⟨t, 1, 1, []⟩
/-- Two commands wait for their commit ticks in lane B, and one in its module. -/
def laneCommand (x : Fio) : Fio :=
  { x with tx := x.tx.set .b [patch 5], lanes := x.lanes.upd .b fun l => { l with pend := [patch 0, patch 3] } }

theorem witness_FieldLanesComplete (H : Obligations.FieldLanesComplete) :
    (∃ t, exec (.inputFrame .b ⟨true, 4⟩) (field [] id) = .next t) ∧ (∃ t, exec (.inputFrame .b ⟨true, 4⟩) (field [] fun x => { x with seqUp := Tri.all (some 4) }) = .next t) ∧
    (∃ t, exec (.refreshFrame .b ⟨true, 0⟩) (field [] fun x => { x with seqDown := Tri.all (some 255) }) = .next t) ∧ (∃ t, exec (.refreshFrame .b ⟨false, 0⟩) (field [] id) = .next t) ∧
    (∃ t, exec (.commandFrame .b ⟨true, 9⟩) (field [] laneCommand) = .next t) ∧ (∃ t, exec (.commandFrame .b ⟨false, 9⟩) (field [] laneCommand) = .next t) ∧
    (∃ t, exec .refreshLoss (field [] id) = .next t) ∧ (∃ t, exec (.fieldLaneRefreshTimeout .c) (field [] id) = .next t) ∧
    (∃ t, exec .outputApply (field [] laneCommand) = .next t) ∧
    (∃ t, exec .outputApply (driving fun x => { laneCommand x with inert := true }) = .next t) ∧ (∃ t, exec (.debounceAccept .a 63 ⟨⟨150, false⟩, 9850⟩) (field [(Reg.dioDicfg.addr 63, 0x000A0000)] id) = .next t) ∧
    (∃ t, exec (.debounceAccept .a 0 ⟨⟨96, true⟩, 0⟩) (field [(Reg.dioDicfg.addr 0, 0)] id) = .next t) ∧
    (∃ t, exec (.debounceAccept .a 0 ⟨⟨149, true⟩, 0⟩) (field [(Reg.dioDicfg.addr 0, 0)] id) = .next t) := by
  refine ⟨⟨_, (((H _).1 .b 4 rfl rfl).1 true _ rfl).1 rfl⟩, ⟨_, (((H _).1 .b 4 rfl rfl).1 true _ rfl).2 rfl⟩, ⟨_, (((H _).1 .b 0 rfl rfl).2.1 true).1 rfl⟩,
    ⟨_, (((H _).1 .b 0 rfl rfl).2.1 false).2 rfl⟩, ⟨_, (((H _).1 .b 9 rfl rfl).2.2 true _ _ rfl).1 rfl⟩, ⟨_, (((H _).1 .b 9 rfl rfl).2.2 false _ _ rfl).2 rfl⟩,
    ⟨_, (H _).2.1 (by decide)⟩, ⟨_, (H _).2.2.1 .c rfl⟩, ?_, ?_, ⟨_, ((H (field [(Reg.dioDicfg.addr 63, 0x000A0000)] id)).2.2.2.2 .a 63 ⟨150, false⟩ 9850 rfl (by decide)).1 (by decide)⟩,
    ⟨_, ((H (field [(Reg.dioDicfg.addr 0, 0)] id)).2.2.2.2 .a 0 ⟨96, true⟩ 0 rfl (by decide)).2.1 (by decide)⟩,
    ⟨_, ((H (field [(Reg.dioDicfg.addr 0, 0)] id)).2.2.2.2 .a 0 ⟨149, true⟩ 0 rfl (by decide)).2.2 (by decide) (by decide)⟩⟩
  · obtain ⟨c, h, -, k, -⟩ := (H (field [] laneCommand)).2.2.2.1 .b (patch 0) (.head _) (by decide)
    have := k (by decide)
    exact ⟨_, h⟩
  · obtain ⟨c, h, k, -⟩ := (H (driving fun x => { laneCommand x with inert := true })).2.2.2.1 .b (patch 0) (.head _) (by decide)
    have := k (by decide) rfl (fun _ h => nomatch h)
    exact ⟨_, h⟩

/-- Test-pulse supply 2: 1 ms period, pulses of 20 µs, one of which began at tick 0. -/
def pulsing : State := field [(Reg.dioTpcfg0.addr + 2, 0x82800800)] fun x => { x with pulses := [(2, some (0, 20))] }

theorem witness_FieldChecksComplete (H : Obligations.FieldChecksComplete) :
    (∃ t, exec (.testPulse 2) (field [(Reg.dioTpcfg0.addr + 2, 0x82800800)] id) = .next t) ∧ (∃ t, exec (.testPulseCurrentLimit ⟨2, 1001⟩) pulsing = .next t) ∧
    (∃ t, exec (.outputOverload ⟨31, 0, true⟩) (driving id) = .next t) ∧ (∃ t, exec (.outputOverload ⟨0, 20000, false⟩) (driving id) = .next t) ∧
    (∃ t, exec (.outputOverload ⟨35, 0, true⟩) (driving id) = .next t) ∧
    (∃ t, exec (.readbackCheck 31 (Tri.all true)) pulsing = .next t) ∧ (∃ t, exec (.fieldSupplyChange 3 1679 65536) pulsing = .next t) ∧
    (∃ t, exec (.fieldSupplyChange 3 3600 0) pulsing = .next t) ∧ (∃ t, exec (.testPulseSample 2 (Tri.all 0) true) pulsing = .next t) ∧
    (∃ t, exec (.faultClear 31) (later (field [] fun x => { x with changed := [(31, 9999000)] })) = .next t) ∧
    (∃ t, exec (.faultClear 35) (later (field [] id)) = .next t) ∧
    (∃ t, exec (.openDetect 12 ⟨false, 0⟩) pulsing = .next t) ∧ (∃ t, exec (.openDetect 12 ⟨true, 10000⟩) (driving id) = .next t) ∧
    (∃ t, exec (.outputStageTest 1) (net .standby []) = .next t) ∧ (∃ t, exec (.outputStageTest 0) (served .maintenance (testing 3)) = .next t) :=
  ⟨⟨_, ((H (field [(Reg.dioTpcfg0.addr + 2, 0x82800800)] id)).1 2 _ _ _ rfl rfl rfl rfl).1 (by decide) (by decide) (by decide) (by decide) rfl⟩, ⟨_, ((H _).1 2 _ _ _ rfl rfl rfl rfl).2 1001 (by decide)⟩,
    ⟨_, ((H (driving id)).2.1 rfl).1 31 0 true _ rfl (.inl rfl) |>.1 (by decide) (by rfl)⟩,
    ⟨_, ((H (driving id)).2.1 rfl).1 0 20000 false _ rfl (.inr (by decide)) |>.1 (by decide) (by rfl)⟩,
    ⟨_, ((H (driving id)).2.1 rfl).1 35 0 true _ rfl (.inl rfl) |>.2 (by decide) (by rfl)⟩,
    (let ⟨_, _, h, _⟩ := ((H pulsing).2.1 rfl).2 31 (Tri.all true); ⟨_, h⟩),
    ⟨_, ((H _).2.2.1 rfl) 3 1679 65536 _ rfl⟩, ⟨_, ((H _).2.2.1 rfl) 3 3600 0 _ rfl⟩,
    ⟨_, (H pulsing).2.2.2.1 2 (Tri.all 0) true 20 _ _ rfl (by decide) (by decide) rfl rfl⟩,
    ⟨_, ((H _).2.2.2.2.1 31 _ _ rfl rfl).1 (by decide) (by decide)⟩, ⟨_, ((H _).2.2.2.2.1 35 _ _ rfl rfl).2 (by decide) (by decide) (by decide)⟩,
    ⟨_, ((H _).2.2.2.2.2.1 12 0).1⟩, ⟨_, ((H (driving id)).2.2.2.2.2.1 12 10000).2 _ (by rfl) (by decide) rfl⟩, ⟨_, (H _).2.2.2.2.2.2.1 1 rfl rfl⟩,
    ⟨_, (H (served .maintenance (testing 3))).2.2.2.2.2.2.2 0 (by decide) rfl⟩⟩

/-- Speed input 3 is enabled; analog channel 4 is a loop input, channel 5 a sensor with detection of a break. -/
def measured (x : AlpCh) : State :=
  field [(Reg.spdCfg.addr 3, 0x80000005), (Reg.alpCfg.addr 4, 0xC8000000), (Reg.alpCfg.addr 5, 0x90000000)] fun y =>
    { y with alp := [(4, { x with row := 1 }), (5, { x with row := 1 })] }

theorem witness_SpeedAndAnalogComplete (H : Obligations.SpeedAndAnalogComplete) :
    (∃ t, exec (.speedEdge 3 true false ⟨⟨some 5, none, some 6⟩, 2000⟩) (measured AlpCh.zero) = .next t) ∧
    (∃ t, exec (.stillTimeout 3) (measured AlpCh.zero) = .next t) ∧
    (∃ t, exec (.speedSensorFault 3 (Tri.all true) ⟨(Tri.all false), 1000⟩) (measured AlpCh.zero) = .next t) ∧
    (∃ t, exec (.speedSensorFault 3 (Tri.all false) ⟨(Tri.all false), 0⟩) (measured AlpCh.zero) = .next t) ∧
    (∃ c, exec (.conversionEnd 4 3600000 false) (measured { AlpCh.zero with settle := [(2, 5)] }) = .next ((measured { AlpCh.zero with settle := [(2, 5)] }).afterAll c) ∧
      (alpOf c 4).settle = [(1, 5)]) ∧
    (∃ c, exec (.conversionEnd 4 3600000 false) (measured { AlpCh.zero with settle := [(0, 5)], loRun := 3 }) =
        .next ((measured { AlpCh.zero with settle := [(0, 5)], loRun := 3 }).afterAll c) ∧ ((alpOf c 4).lo, (alpOf c 4).loRun) = (true, 0)) ∧
    (∃ c, exec (.conversionEnd 5 7 true) (measured { AlpCh.zero with brkRun := 3 }) = .next ((measured { AlpCh.zero with brkRun := 3 }).afterAll c) ∧
      ((alpOf c 5).brk, (alpOf c 5).brkRun) = (true, 0) ∧ (alpOf c 5).last = none) ∧
    (∃ t, exec (.outerrTimer 4) (later (measured { AlpCh.zero with outerr := true, okFrom := some 0 })) = .next t) ∧
    (∃ t, exec (.outerrTimer 4) (later (measured { AlpCh.zero with errFrom := some 0 })) = .next t) ∧
    (∃ t, exec (.coldJunctionChange 3 true (-5)) (measured AlpCh.zero) = .next t) := by
  refine ⟨takes ((H _).1 3 true false _ 2000 rfl rfl (by decide)), takes ((H _).2.1 3), takes ((H _).2.2.1 3 _ _ 1000 rfl rfl rfl (.inl (by decide))),
    takes ((H _).2.2.1 3 (Tri.all false) (Tri.all false) 0 rfl rfl rfl (.inr fun v => by cases v <;> exact ⟨rfl, rfl⟩)), ?_, ?_, ?_,
    ⟨_, ((H _).2.2.2.2.1 4 0).1 rfl rfl (by decide)⟩, ⟨_, ((H _).2.2.2.2.1 4 0).2 rfl rfl (by decide)⟩, ⟨_, (H _).2.2.2.2.2 3 true (-5) _ rfl⟩⟩
  · obtain ⟨c, h, _, k, _⟩ := (H (measured { AlpCh.zero with settle := [(2, 5)] })).2.2.2.1 4 3600000 false _ _ _ rfl (by decide) rfl rfl
    exact ⟨c, h, (k ⟨(2, 5), .head _, by decide⟩).2.2.2.2⟩
  · obtain ⟨c, h, _, _, k⟩ := (H (measured { AlpCh.zero with settle := [(0, 5)], loRun := 3 })).2.2.2.1 4 3600000 false _ _ _ rfl (by decide) rfl rfl
    exact ⟨c, h, ((k (by decide)).2.1 (by decide) rfl).1⟩
  · obtain ⟨c, h, _, _, k⟩ := (H (measured { AlpCh.zero with brkRun := 3 })).2.2.2.1 5 7 true _ _ _ rfl (by decide) rfl rfl
    have b := (k (by decide)).2.2.1 (by decide) rfl
    exact ⟨c, h, b, (k (by decide)).2.2.2 (congrArg Prod.fst b)⟩

/-! ### Witnesses: Rind and power -/

/-- Rind is on, as `f` makes it, in a module in PROVE with the sessions open and the sequence past step 7. -/
def rindly (l : List (Nat × Word)) (f : Rind → Rind) : State :=
  st (regs l { ported .prove with sys := { (ported .prove).sys with step := 8 }, rind := f { Rind.reset with on := true } })
/-- The same in SERVICE with every output driven. -/
def teDriven : State := st { (net .service []).chip with fio := { Fio.reset with inert := false }, rind := { Rind.reset with on := true, state := 2 } }
/-- SI0 is an enabled input that demands STOP. -/
def demanding (r : Rind) : Rind := { r with accepted := some [0, 0xC0000000], inputs := [(0, { RindIn.zero with dem := true })] }

/-- Rind's last status frame went 5 ms ago. -/
def stale4 : State := st { (rindly [] fun r => { r with sentAt := 5 }).chip with core := { Chip.reset.core with tick := 5005 } }

theorem witness_RindJudgesComplete (H : Obligations.RindJudgesComplete) :
    (∃ t, exec (.rindCycle 1000000 1 true) (rindly [] demanding) = .next t) ∧ (∃ t, exec (.safetyInputEval 500000 1 2) (rindly [] demanding) = .next t) ∧
    (∃ t, exec (.rindTpSample 7 1) (rindly [] demanding) = .next t) ∧
    (∃ t, exec (.rindSpeedEdge 1 9) (rindly [] fun r => { r with spd1 := { r.spd1 with tl := some 3 } }) = .next t) ∧
    (∃ t, exec (.teTest 0) teDriven = .next t) ∧ (∃ t, exec (.teTest 3) (rindly [] id) = .next t) ∧
    (∃ t, exec (.oscillatorWindow 15680) (rindly [] id) = .next t) ∧ (∃ t, exec (.oscillatorWindow 16320) (rindly [] id) = .next t) ∧
    (∃ t, exec (.oscillatorWindow 15679) (rindly [] id) = .next t) ∧ (∃ t, exec (.oscillatorWindow 16321) (rindly [] id) = .next t) ∧
    (∃ t, exec .clockrefTimeout (rindly [] id) = .next t) ∧ (∃ t, exec (.rindDiagnostic 4 false) (rindly [] id) = .next t) ∧
    (∃ t, exec (.rindDiagnostic 8 false) (rindly [] id) = .next t) ∧ (∃ t, exec (.rindDiagnostic 9 false) (rindly [] id) = .next t) ∧
    (∃ t, exec (.rindStartEnd true) (rindly [] fun r => { r with startCause := some 12 }) = .next t) ∧
    (∃ t, exec (.rindStartEnd false) (rindly [] id) = .next t) ∧ (∃ t, exec (.rindStartEnd true) (rindly [] id) = .next t) ∧
    (∃ t, exec (.rindStartEnd true) (rindly [] fun r => { r with accepted := some [0x80000000] }) = .next t) ∧
    (∃ t, exec .rindStatusSend (rindly [] id) = .next t) ∧ (∃ t, exec .rindStatusTimeout stale4 = .next t) ∧
    (∃ t, exec .rstHigh10s (rindly [] id) = .next t) := by
  have h (l f) (hr : (rindly l f).chip.rind.on = true) := H (rindly l f) hr
  exact ⟨⟨_, (h [] demanding rfl).1 1000000 1 true _ _ _ _ _ rfl rfl rfl rfl⟩, ⟨_, (h [] demanding rfl).2.1 500000 1 2 _ rfl⟩,
    ⟨_, (h [] demanding rfl).2.2.1 7 1 _ rfl⟩, ⟨_, (h [] _ rfl).2.2.2.1 1 9 3 rfl⟩, ⟨_, ((H teDriven rfl).2.2.2.2.1 0 _ rfl).1 rfl⟩,
    ⟨_, ((h [] id rfl).2.2.2.2.1 3 _ rfl).2 (by decide)⟩, ⟨_, ((h [] id rfl).2.2.2.2.2.1 (by decide)).1 15680 (by decide) (by decide)⟩,
    ⟨_, ((h [] id rfl).2.2.2.2.2.1 (by decide)).1 16320 (by decide) (by decide)⟩,
    ⟨_, ((h [] id rfl).2.2.2.2.2.1 (by decide)).2.1 15679 _ (.inl (by decide)) rfl⟩,
    ⟨_, ((h [] id rfl).2.2.2.2.2.1 (by decide)).2.1 16321 _ (.inr (by decide)) rfl⟩,
    ⟨_, ((h [] id rfl).2.2.2.2.2.1 (by decide)).2.2⟩, ⟨_, ((h [] id rfl).2.2.2.2.2.2.1 4).1 (by decide)⟩,
    ⟨_, ((h [] id rfl).2.2.2.2.2.2.1 8).2.1 rfl⟩, ⟨_, ((h [] id rfl).2.2.2.2.2.2.1 9).2.2 rfl⟩,
    ⟨_, ((h [] _ rfl).2.2.2.2.2.2.2.1 rfl).2.1 12 rfl⟩,
    ⟨_, ((h [] id rfl).2.2.2.2.2.2.2.1 rfl).1⟩, ⟨_, ((h [] id rfl).2.2.2.2.2.2.2.1 rfl).2.2.1 rfl rfl rfl rfl⟩,
    ⟨_, ((h [] _ rfl).2.2.2.2.2.2.2.1 rfl).2.2.2 rfl rfl rfl rfl⟩, ⟨_, (h [] id rfl).2.2.2.2.2.2.2.2.1⟩,
    ⟨_, (H stale4 rfl).2.2.2.2.2.2.2.2.2.1 (by decide)⟩, ⟨_, (h [] id rfl).2.2.2.2.2.2.2.2.2.2⟩⟩

/-- The password words hold eight exclamation marks. -/
def marks : List (Nat × Word) := [(Reg.rindPw.addr 0, 0x21212121), (Reg.rindPw.addr 1, 0x21212121)]
def markBytes : List Byte := List.replicate 8 0x21 ++ List.replicate 24 0
/-- CHECKVAL, and the check value of the proposal in RIND_ARG. -/
def checkval : State :=
  rindly [(Reg.rindPgen.addr, 0x10000000), (Reg.rindArg.addr, word (akval (rindProposal (rindly [(Reg.rindPgen.addr, 0x10000000)] id).chip)))] id
/-- Session 0 has unlocked, and RIND_ARG holds the check word of the proposal. -/
def unlocked : State := rindly [(Reg.rindArg.addr, word (rindCrc (rindProposal (rindly [] id).chip)))] fun r => { r with unlock := some (0, 0) }

theorem witness_RindResetComplete (H : Obligations.RindCommandsComplete) :
    (∃ t, exec (.resetPulse (some 100000)) (rindly [] fun r => { r with acceptAt := some (0, 77) }) = .next t) ∧
    (∃ t, exec (.resetPulse (some 3000000)) (rindly [] fun r => { demanding r with state := 1 }) = .next t) ∧
    (∃ t, exec (.resetPulse (some 3000000)) (rindly [] fun r => { r with state := 4, clk := 1000000000 }) = .next t) ∧
    (∃ t, exec (.resetPulse (some 99999)) (rindly [] id) = .next t) ∧ (∃ t, exec (.resetPulse (some 3000001)) (rindly [] id) = .next t) ∧
    (∃ t, exec .acceptTimeout (st { (rindly [] fun r => { r with acceptAt := some (0, 77) }).chip with core := { Chip.reset.core with tick := 59000000 } }) = .next t) ∧
    (∃ t, exec .unlockTimeout (st { (rindly [] fun r => { r with unlock := some (0, 0) }).chip with core := { Chip.reset.core with tick := 840000000 } }) = .next t) ∧
    (∃ t, exec .unlockTimeout (st { (rindly [] fun r => { r with blockAt := some 0 }).chip with cel := { Cel.reset with opsec := 840 } }) = .next t) :=
  ⟨⟨_, ((H.1 _ rfl).1 100000 (by decide) (by decide)).1 0 77 rfl (by decide)⟩,
    ⟨_, (((H.1 _ rfl).1 3000000 (by decide) (by decide)).2 rfl (.inl rfl)).1 (by decide)⟩,
    ⟨_, (((H.1 _ rfl).1 3000000 (by decide) (by decide)).2 rfl (.inr rfl)).2 rfl rfl (fun _ => by decide)⟩,
    ⟨_, (H.1 _ rfl).2 99999 (.inl (by decide))⟩, ⟨_, (H.1 _ rfl).2 3000001 (.inr (by decide))⟩,
    ⟨_, (H.2 _).2.1 0 77 rfl (by decide)⟩, ⟨_, (H.2 _).2.2.1 0 0 rfl (by decide) rfl⟩, ⟨_, (H.2 _).2.2.2 0 rfl rfl (by decide)⟩⟩

set_option maxRecDepth 20000 in
theorem witness_RindCommandsComplete (H : Obligations.RindCommandsComplete) :
    (∃ t, exec (.rindUnlock 0) (rindly marks fun r => { r with digest := some (7, pwDigest 7 markBytes) }) = .next t) ∧
    (∃ t, exec (.rindUnlock 0) (rindly marks fun r => { r with digest := some (7, pwDigest 7 markBytes + 1), wrong := 3 }) = .next t) ∧
    (∃ t, exec (.rindUnlock 0) (rindly [] fun r => { r with digest := some (7, 0) }) = .next t) ∧
    (∃ t, exec (.rindAccept 0) checkval = .next t) ∧ (∃ t, exec (.rindAccept 0) unlocked = .next t) ∧
    (∃ t, exec (.rindSetpw 0) (rindly marks id) = .next t) ∧ (∃ t, exec (.rindLock 0) unlocked = .next t) :=
  have w (s : State) (h1 : reaches s.chip (.session 0) = true := by rfl) (h2 : privOf s.chip (.session 0) ≠ some .read := by decide)
      (h3 : privOf s.chip (.session 0) ≠ some .operate := by decide) : Commanded s.chip (.session 0) Reg.rindCmd.addr := cmd h1 h2 h3
  ⟨⟨_, ((H.2 _).1 0 _ rfl (w _) rfl).1 rfl rfl |>.1 7 (pwDigest 7 markBytes) rfl (by decide) (congrArg (pwDigest 7) (by decide))⟩,
    ⟨_, ((H.2 _).1 0 _ rfl (w _) rfl).1 rfl rfl |>.2 7 (pwDigest 7 markBytes + 1) rfl
      (.inr fun h => Nat.succ_ne_self _ (h.symm.trans (congrArg (pwDigest 7) (by decide : _ = markBytes)))) (by decide)⟩,
    ⟨_, ((H.2 (rindly [] fun r => { r with digest := some (7, 0) })).1 0 _ rfl (w _) rfl).1 rfl rfl |>.2 7 0 rfl (.inl (by decide)) (by decide)⟩,
    ⟨_, ((H.2 checkval).1 0 checkval.chip rfl (w _) rfl).2.1 rfl (by decide +kernel)⟩,
    ⟨_, ((H.2 unlocked).1 0 _ rfl (w _) rfl).2.2.1 rfl rfl (by decide +kernel)⟩,
    ⟨_, ((H.2 (rindly marks id)).1 0 (rindly marks id).chip rfl (w _) rfl).2.2.2.1 _ _ rfl (.inr rfl) (by decide) rfl⟩,
    ⟨_, ((H.2 unlocked).1 0 _ rfl (w _) rfl).2.2.2.2 rfl⟩⟩

/-- The module powered, as `f` makes the power unit, at tick 19999. -/
def fed (f : Pwr → Pwr) : State := st { (net .service []).chip with pwr := f Pwr.reset, core := { Chip.reset.core with tick := 19999 } }

theorem witness_PowerComplete (H : Obligations.PowerComplete) :
    (∃ t, exec (.interruptionDetect ⟨560, 1000⟩) (fed id) = .next t) ∧ (∃ t, exec (.interruptionEnd 800) (fed fun p => { p with intrAt := some 0 }) = .next t) ∧
    (∃ t, exec .interruptionTimeout (later (fed fun p => { p with intrAt := some 9980000 })) = .next t) ∧
    (∃ t, exec .powerDownEnd (fed fun p => { p with downAt := some 0 }) = .next t) ∧ (∃ t, exec (.inputOvervoltage ⟨4801, 1000000⟩) (fed id) = .next t) ∧ (∃ t, exec (.inputOvervoltage ⟨10001, 0⟩) (fed id) = .next t) ∧
    (∃ t, exec (.inputSwitchClose 4100) (fed fun p => { p with openAt := some 0 }) = .next t) ∧ (∃ t, exec (.storeMeasure 70000 279) (fed id) = .next t) ∧
    (∃ t, exec (.baseplateWarning (-10)) (fed id) = .next t) ∧ (∃ t, exec (.regionTempDiff ⟨-20, 131, 5⟩) (fed id) = .next t) :=
  ⟨⟨_, (H _).1 560 1000 rfl rfl rfl (by decide) (by decide)⟩, ⟨_, (H _).2.1 0 800 rfl rfl (by decide) (by decide) rfl⟩, ⟨_, (H _).2.2.1 9980000 _ rfl (by decide) rfl rfl rfl⟩,
    ⟨_, (H _).2.2.2.1 _ rfl rfl⟩, ⟨_, (H _).2.2.2.2.1 4801 1000000 rfl rfl (by decide)⟩, ⟨_, (H _).2.2.2.2.1 10001 0 rfl rfl (by decide)⟩, ⟨_, (H _).2.2.2.2.2.1 0 4100 rfl (by decide)⟩,
    ⟨_, ((H _).2.2.2.2.2.2 rfl).1 70000 279 _ _ rfl rfl rfl⟩, ⟨_, ((H _).2.2.2.2.2.2 rfl).2.1 (-10) _ _ rfl rfl⟩,
    ⟨_, ((H _).2.2.2.2.2.2 rfl).2.2 ⟨-20, 131, 5⟩ _ _ rfl rfl⟩⟩

/-! ### Single steps against values computed by hand from the spec -/

/-- Engine 3's context after an instruction, where a chain still runs there. -/
def stepped (i : Instr) (x : Ctx) : Option Ctx := match exec i (run x) with | .next t => (running t.chip e3).map (·.2) | _ => none
def reg (i : Instr) (x : Ctx) (n : Nat) : Option Word := (stepped i x).map fun y => y.g.toList.getD n 0
def answer (i : Instr) (s : State) : List Word := match exec i s with | .next t => t.chip.sys.answer | _ => []

-- R78, Table: Integer functions and Table: flags: 0xFFFFFFFF + 1 = 0 with carry; F = 1.
theorem test_add_wraps : reg (.alu e3 (enc 1 2 3 0x2000)) (ctx 16 [0, 9, 0xFFFFFFFF, 1]) 1 = some 0 ∧
    (stepped (.alu e3 (enc 1 2 3 0x2000)) (ctx 16 [0, 9, 0xFFFFFFFF, 1])).map (fun y => (y.s.z, y.s.n, y.s.c, y.s.v)) = some (true, false, true, false) := by decide
-- R79: DIV of −2^31 by −1 gives −2^31 and sets V with F = 1 (FUNC 0x14).
theorem test_div_most_negative : reg (.alu e3 (enc 1 2 3 0x2500)) (ctx 16 [0, 9, 0x80000000, 0xFFFFFFFF]) 1 = some 0x80000000 ∧
    (stepped (.alu e3 (enc 1 2 3 0x2500)) (ctx 16 [0, 9, 0x80000000, 0xFFFFFFFF])).map (·.s.v) = some true := by decide
-- R79: a shift in ALU takes its amount from gb [4:0], so 33 shifts by 1 (FUNC 0x0A, SAR).
theorem test_sar_amount : reg (.alu e3 (enc 1 2 3 0x280)) (ctx 16 [0, 9, 0x80000000, 33]) 1 = some 0xC0000000 := by decide
-- R80: ADDI sign-extends MINOR [13:0]; 0x3FFF is −1.
theorem test_addi_negative : reg (.addi e3 (enc 1 1 0 0x3FFF)) (ctx 16 [0, 5]) 1 = some 4 := by decide
-- R80: ANDI zero-extends MINOR.
theorem test_andi_zero_extends : reg (.andi e3 (enc 1 1 0 0x3FFF)) (ctx 16 [0, 0xFFFFFFFF]) 1 = some 0x3FFF := by decide
-- R80: SHI of kind 3 (ROR) by 4.
theorem test_shi_ror : reg (.shi e3 (enc 1 2 0 0x3004)) (ctx 16 [0, 0, 0x12345678]) 1 = some 0x81234567 := by decide
-- R106: an unassigned address answers status 1 with data 0.
theorem test_unassigned : answer (.registerWrite (.session 0) 1 5) (served .prove id) = [0x01000001] := by decide +kernel
-- R204, worked example: with PHASE 400 live, PERIOD 5 staged (250 ticks) fails at HXK_TPHASE1, field [23:0].
def example204 : State :=
  let c := regs [(Reg.hxkTcfg.addr 1, 0xAA6000C8), (Reg.hxkTphase.addr 1, 400)] (served .prove id).chip
  st { c with culture := { c.culture with chains := [⟨1, 0, []⟩] } }
theorem test_commit_names_field : (match exec (.registerWrite (.session 0) (BitVec.ofNat 24 (Reg.hxkTcfg.addr 1)) 0xAA600005) example204 with
    | .next t => (match exec (.tspCommit (req 0 0x12 0) []) t with
      | .next t => (mapGet none t.chip.sys.sessions 0).bind fun x => x.reply.map fun r => (leAt r.payload 0 4, leAt r.payload 4 4)
      | _ => none)
    | _ => none) = some (0x05021009, 0x1700) := by decide +kernel
-- 03, worked example of CRC: the nine bytes "123456789".
theorem test_crc32c : crc32c (bytes [49, 50, 51, 52, 53, 54, 55, 56, 57]) = 0xE3069283 := by decide +kernel
-- 05, worked example of a queue: the descriptor of Q00300 starts at 0x1004B0.
theorem test_descriptor_address : Reg.whyCtl.addr 300 = 0x1004B0 ∧ Reg.whyCtl.addr 32767 = 0x11FFFC := by decide
-- 16, worked example of a deceleration: at 1,922 ms the limit is 517,000; at 701 ms it is 2,348,500 and slow braking is above it.
def ramp (el : Nat) : State := rindly [] fun r =>
  { r with state := 3, vd := 3000000, clk := el * 1000000, accepted := some (List.replicate 10 0 ++ [5000, 100000, 1500, 0x002800C8]) }
theorem test_ramp_limit : rampLimit (ramp 1922).chip 1922000000 = 517000 * 1000000 ∧ (decelCheck (ramp 700).chip 2350000).2 = [] ∧
    (decelCheck (ramp 701).chip 2349000).2 = [(4, 4, 0xFF)] := by decide

end Sys2Proof.Tests
end

section
/-! The configuration port: what a write of a whole register can answer (`portWrite_whole` and one lemma per verdict), what an
accepted write does (`writeWord_staged`, `writeWord_live`), and what each kind of read latches or clears (`readEffects_…`). The
statements on the order of the port's checks and on whole registers follow from these. -/

namespace Sys2Proof.Machine

/-! ### The verdicts on a write of a whole register -/

section
variable {c : Chip} {w : Writer} {a h : Nat} {x : Word} {r : RegDef}

/-- The register map of an assigned address of 24 bits, as the port looks it up. -/
theorem mapped_of_lt (ha : a < 2 ^ 24) (hr : regDef a = some r) : (if a < 2 ^ 24 then regDef a else none) = some r := by
  rw [if_pos ha, hr]

theorem portWrite_unmapped (hr : (if a < 2 ^ 24 then regDef a else none) = none) :
    portWrite c w a x 0xFFFFFFFF h = (bump c Reg.sysCfgerr.addr 31 16, 1) := by
  simp only [portWrite, hr]

theorem portWrite_readOnly (ha : a < 2 ^ 24) (hr : regDef a = some r) (hw : writable r a = false) :
    portWrite c w a x 0xFFFFFFFF h = (bump c Reg.sysCfgerr.addr 15 0, 2) := by
  simp only [portWrite, mapped_of_lt ha hr, hw, Bool.not_false, if_true]

/-- The checks of R106 in their order, where the write covers every bit: the new word is the one written. -/
theorem portWrite_whole (ha : a < 2 ^ 24) (hr : regDef a = some r) (hw : writable r a = true) :
    portWrite c w a x 0xFFFFFFFF h =
      if privOf c w = some .read ∨ (privOf c w = some .operate ∧ (stMask r ≠ 0 ∨ operateActs r a = false)) then (c, 0x40)
      else if expertFor c w a = false ∧ changesExpert r (stagedRead c r w a) x = true then (c, 3)
      else if c.sys.mode = .inert ∨ modeLocked c w r a (stMask r ≠ 0) (stagedRead c r w a) x = true then (c, 6)
      else if stMask r ≠ 0 ∧ notOwner c w = true then (c, 4)
      else if loopBusy c a = true then (c, 7)
      else writeWord c w r a (stagedRead c r w a) x x h (stMask r ≠ 0) := by
  have hs : (0xFFFFFFFF : Word) &&& stMask r = stMask r := BitVec.allOnes_and
  have hx : x &&& (0xFFFFFFFF : Word) = x := BitVec.and_allOnes
  simp only [portWrite, mapped_of_lt ha hr, hs, hx]
  simp [hw]

/-! #### The checks that a write has passed -/

theorem privilege_passed (hp : privOf c w ≠ some .read) (ho : privOf c w = some .operate → stMask r = 0 ∧ operateActs r a = true) :
    ¬ (privOf c w = some .read ∨ (privOf c w = some .operate ∧ (stMask r ≠ 0 ∨ operateActs r a = false))) := by
  rintro (g | ⟨g, g'⟩)
  · exact hp g
  · obtain ⟨hs, ha⟩ := ho g
    simp [hs, ha] at g'

theorem expert_passed {o : Word} (he : expertFor c w a = true ∨ changesExpert r o x = false) :
    ¬ (expertFor c w a = false ∧ changesExpert r o x = true) := by
  rintro ⟨g, g'⟩
  simp [g, g'] at he

theorem mode_passed {st : Bool} {o : Word} (hi : c.sys.mode ≠ .inert) (hm : modeLocked c w r a st o x = false) :
    ¬ (c.sys.mode = .inert ∨ modeLocked c w r a st o x = true) := by
  simp [hi, hm]

theorem owner_passed (hn : stMask r = 0 ∨ notOwner c w = false) : ¬ (stMask r ≠ 0 ∧ notOwner c w = true) := by
  rintro ⟨g, g'⟩
  exact hn.elim g (by simp [g'])

/-! #### One verdict each -/

variable (ha : a < 2 ^ 24) (hr : regDef a = some r) (hw : writable r a = true)
include ha hr hw

theorem portWrite_lacksPrivilege
    (hp : privOf c w = some .read ∨ (privOf c w = some .operate ∧ (stMask r ≠ 0 ∨ operateActs r a = false))) :
    portWrite c w a x 0xFFFFFFFF h = (c, 0x40) := by
  rw [portWrite_whole ha hr hw, if_pos hp]

variable (hp : privOf c w ≠ some .read) (ho : privOf c w = some .operate → stMask r = 0 ∧ operateActs r a = true)
include hp ho

theorem portWrite_lacksExpert (he : expertFor c w a = false) (hx : changesExpert r (stagedRead c r w a) x = true) :
    portWrite c w a x 0xFFFFFFFF h = (c, 3) := by
  rw [portWrite_whole ha hr hw, if_neg (privilege_passed hp ho), if_pos ⟨he, hx⟩]

variable (he : expertFor c w a = true ∨ changesExpert r (stagedRead c r w a) x = false)
include he

theorem portWrite_locked
    (hm : c.sys.mode = .inert ∨ modeLocked c w r a (stMask r ≠ 0) (stagedRead c r w a) x = true) :
    portWrite c w a x 0xFFFFFFFF h = (c, 6) := by
  rw [portWrite_whole ha hr hw, if_neg (privilege_passed hp ho), if_neg (expert_passed he), if_pos hm]

variable (hi : c.sys.mode ≠ .inert) (hm : modeLocked c w r a (stMask r ≠ 0) (stagedRead c r w a) x = false)
include hi hm

theorem portWrite_notOwner (hs : stMask r ≠ 0) (hn : notOwner c w = true) : portWrite c w a x 0xFFFFFFFF h = (c, 4) := by
  rw [portWrite_whole ha hr hw, if_neg (privilege_passed hp ho), if_neg (expert_passed he), if_neg (mode_passed hi hm),
    if_pos ⟨hs, hn⟩]

variable (hn : stMask r = 0 ∨ notOwner c w = false)
include hn

theorem portWrite_loopBusy (hl : loopBusy c a = true) : portWrite c w a x 0xFFFFFFFF h = (c, 7) := by
  rw [portWrite_whole ha hr hw, if_neg (privilege_passed hp ho), if_neg (expert_passed he), if_neg (mode_passed hi hm),
    if_neg (owner_passed hn), if_pos hl]

theorem portWrite_accepted (hl : loopBusy c a = false) :
    portWrite c w a x 0xFFFFFFFF h = writeWord c w r a (stagedRead c r w a) x x h (stMask r ≠ 0) := by
  rw [portWrite_whole ha hr hw, if_neg (privilege_passed hp ho), if_neg (expert_passed he), if_neg (mode_passed hi hm),
    if_neg (owner_passed hn), if_neg (by simp [hl])]

end

/-- Settles O8: each clause is one verdict of the port on a write that has passed the checks before it. -/
theorem portJudgesInOrder : Obligations.PortJudgesInOrder := by
  intro c w a x
  refine ⟨fun ha hr => portWrite_unmapped (by rw [if_pos ha, hr]), fun r ha hr =>
    ⟨fun hw => portWrite_readOnly ha hr hw, fun hw => ⟨?read, ?operate, fun hp ho =>
      ⟨?expert, fun he => ⟨?inert, ?locked, fun hi hm => ⟨?owner, ?busy⟩⟩⟩⟩⟩⟩
  case read => exact fun hp => portWrite_lacksPrivilege ha hr hw (.inl hp)
  case operate => exact fun hp hs => portWrite_lacksPrivilege ha hr hw (.inr ⟨hp, hs⟩)
  case expert => exact fun he hx => portWrite_lacksExpert ha hr hw hp ho he hx
  case inert => exact fun hi => portWrite_locked ha hr hw hp ho he (.inl hi)
  case locked => exact fun hm => portWrite_locked ha hr hw hp ho he (.inr hm)
  case owner => exact fun hs hn => portWrite_notOwner ha hr hw hp ho he hi hm hs hn
  case busy => exact fun hn hl => portWrite_loopBusy ha hr hw hp ho he hi hm hn hl

/-! ### What an accepted write does -/

section
variable {c d : Chip} {w : Writer} {a h k : Nat} {old new w1 x : Word} {r : RegDef}

/-- Fields that none satisfies make no mask. -/
theorem maskWhere_eq_zero {p : Field → Bool} (hn : r.fields.any p = false) : maskWhere r p = 0 := by
  have : r.fields.filter p = [] := List.filter_eq_nil_iff.mpr (List.any_eq_false.mp hn)
  rw [maskWhere, this, List.foldl_nil]

theorem any_st_of_stMask_ne_zero (hs : stMask r ≠ 0) : (r.fields.any fun f => f.acc = .st) = true :=
  (Bool.eq_false_or_eq_true _).resolve_right fun hn => hs (maskWhere_eq_zero hn)

/-- A word without WO fields acts for a session of OPERATE privilege (R213). -/
theorem operateActs_of_no_wo (hn : (r.fields.any fun f => f.acc = .wo && !f.rsvd) = false) : operateActs r a = true := by
  simp only [operateActs, hn, Bool.not_false, Bool.true_or]

/-- ST fields are staged, all but the fixed ones of an event source's word, and their writer owns staging (R107, R199). -/
theorem writeWord_staged (hs : (r.fields.any fun f => f.acc = .st) = true) :
    writeWord c w r a old new w1 h true = (onSys c fun s =>
      { s with owner := ownerOf w,
               staged := mapPut none s.staged a
                 (some ((old &&& ~~~(stMask r &&& ~~~fixedMask a)) ||| (new &&& (stMask r &&& ~~~fixedMask a)))) }, 0) := by
  simp only [writeWord, hs, Bool.not_true, Bool.and_false, Bool.false_eq_true, if_false, if_true]

/-- RW fields take their value and W1C bits written 1 are cleared, in a word that holds nothing staged and no WO field, and
that is none of the time unit's FREQ and SLEW (R107, R305). -/
theorem writeWord_live {g : Bool} (hs : (r.fields.any fun f => f.acc = .st) = false)
    (hwo : (r.fields.any fun f => f.acc = .wo && !f.rsvd) = false)
    (h6 : a ≠ Reg.ptpFreql.addr) (h7 : a ≠ Reg.ptpFreqh.addr) (h8 : a ≠ Reg.ptpSlew.addr) :
    writeWord c w r a old new w1 h g = (writeHook (setReg c a
      (((rawReg c a &&& ~~~maskWhere r (fun f => f.acc = .rw && !f.rsvd)) |||
        (new &&& maskWhere r (fun f => f.acc = .rw && !f.rsvd))) &&&
        ~~~(w1 &&& maskWhere r (fun f => f.acc = .w1c && !f.rsvd)))) a (rawReg c a), 0) := by
  simp only [writeWord, hs, maskWhere_eq_zero hwo, h6, h7, h8, Bool.false_and, Bool.false_eq_true, if_false, ne_eq,
    not_true_eq_false]

theorem onSys_onSys (f g : Sys → Sys) : onSys (onSys c f) g = onSys c fun s => g (f s) := rfl

theorem mode_ne_inert_of_reaches (hw : reaches c w = true) : c.sys.mode ≠ .inert := by
  intro g
  simp [reaches, g] at hw

/-- A writer that reaches the port is answered the status word of the verdict (R106). -/
theorem writeCommand_of_portWrite (hw : reaches c w = true) (hp : portWrite c w a x 0xFFFFFFFF h = (d, k)) :
    writeCommand c w a x h = onSys d fun s => { s with answer := [statusWord k a] } := by
  simp only [writeCommand, hw, hp, Bool.not_true, Bool.false_eq_true, if_false]

end

/-! ### What a read latches or clears -/

section
variable {c : Chip} {w : Writer} {a : Nat} {r : RegDef}

/-- A writer that reaches the port reads the live word, and the read has its effects (R7, R11). -/
theorem readCommand_live (hw : reaches c w = true) (ha : a < 2 ^ 24) (hr : regDef a = some r)
    (hm : Reg.canMon.covers a = false) :
    readCommand c w a = onSys (readEffects c r a) fun s => { s with answer := [statusWord 0 a, liveRead c r a] } := by
  simp only [readCommand, portRead, hw, mapped_of_lt ha hr, hm, Bool.not_true, Bool.false_and, Bool.false_eq_true, if_false]

theorem liveRead_of_no_wo (hn : (r.fields.any fun f => f.acc = .wo) = false) : liveRead c r a = regView c a := by
  have hall (y : Word) : y &&& ~~~(0 : Word) = y := BitVec.and_allOnes
  rw [liveRead, maskWhere_eq_zero hn, hall]

/-- A read that latches nothing takes a DROP off a queue, starts a measure anew, or clears the RC fields (R7). -/
theorem readEffects_of_unlatched (hl : latchedBy c a = []) :
    readEffects c r a =
      if a = Reg.arbWqst2.addr then clearDrop c
      else if 0x040000 ≤ a ∧ a < 0x042400 ∧ a % 256 = 2 then arbWmaxRead c ((a - 0x040000) / 256)
      else if maskWhere r (fun f => f.acc = .rc && !f.rsvd) = 0 then c
      else setReg c a (rawReg c a &&& ~~~maskWhere r (fun f => f.acc = .rc && !f.rsvd)) := by
  have h0 : a ≠ Reg.arbWqst0.addr := by
    rintro rfl
    exact List.cons_ne_nil _ _ hl
  have hc : (onSys c fun s => { s with latches := s.latches, dropLatch := s.dropLatch }) = c := rfl
  simp [readEffects, hl, h0, hc, and_assoc]

/-- Outside block ARB a word without RC fields has its companions latched, and nothing more (R62, R301, R323, R468, R489, R528). -/
theorem readEffects_of_latching (hb : a / 65536 ≠ 4) (hrc : (r.fields.any fun f => f.acc = .rc && !f.rsvd) = false) :
    readEffects c r a =
      onSys c fun s => { s with latches := (latchedBy c a).foldl (fun m e => mapPut 0 m e.1 e.2) s.latches } := by
  have h0 : a ≠ Reg.arbWqst0.addr := fun g => hb (g ▸ rfl)
  have h2 : a ≠ Reg.arbWqst2.addr := fun g => hb (g ▸ rfl)
  have hx : ¬ ((0x040000 ≤ a ∧ a < 0x042400) ∧ a % 256 = 2) := by omega
  simp [readEffects, maskWhere_eq_zero hrc, h0, h2, hx]

/-- One companion latched. (With a variable word the kernel need not evaluate the word that is latched.) -/
theorem latch_one (m : SMap Word) (k : Nat) (v : Word) : [(k, v)].foldl (fun m e => mapPut 0 m e.1 e.2) m = mapPut 0 m k v := by
  rw [List.foldl_cons, List.foldl_nil]

/-- A read of ARB_WQST0 holds ARB_WQST1 as it stood, and the DROP of every copy of the queue (R178). -/
theorem readEffects_arbWqst0 : readEffects c Reg.arbWqst0 Reg.arbWqst0.addr =
    onSys c fun s => { s with latches := mapPut 0 s.latches Reg.arbWqst1.addr (wqst c 1), dropLatch := some (dropsOf c) } := by
  have hl : latchedBy c Reg.arbWqst0.addr = [(Reg.arbWqst1.addr, wqst c 1)] := rfl
  have h2 : Reg.arbWqst0.addr ≠ Reg.arbWqst2.addr := by decide
  have hx : ¬ Reg.arbWqst0.addr < 0x042400 := by decide
  have hrc : maskWhere Reg.arbWqst0 (fun f => f.acc = .rc && !f.rsvd) = 0 := maskWhere_eq_zero rfl
  simp only [readEffects, hl, h2, hx, hrc, latch_one, decide_false, Bool.and_false, Bool.false_and, Bool.false_eq_true,
    if_true, if_false]

/-- A read of ARB_WQST2 takes the DROP that it answers off the queue in every copy (R7, R178). -/
theorem readEffects_arbWqst2 : readEffects c Reg.arbWqst2 Reg.arbWqst2.addr = clearDrop c := by
  rw [readEffects_of_unlatched rfl, if_pos rfl]

/-- A word outside block ARB whose read latches its companions and does nothing else. -/
structure LatchWord (r : RegDef) (a : Nat) : Prop where
  space : a < 2 ^ 24
  mapped : regDef a = some r
  window : Reg.canMon.covers a = false
  block : a / 65536 ≠ 4
  noClear : (r.fields.any fun f => f.acc = .rc && !f.rsvd) = false
  readable : (r.fields.any fun f => f.acc = .wo) = false

/-- The command of such a word answers it and holds its companions `ls` as they stand. -/
theorem readCommand_latchWord {ls : List (Nat × Word)} (hw : reaches c w = true) (ha : LatchWord r a) (hl : latchedBy c a = ls) :
    readCommand c w a = onSys c fun s =>
      { s with latches := ls.foldl (fun m e => mapPut 0 m e.1 e.2) s.latches, answer := [statusWord 0 a, regView c a] } := by
  rw [readCommand_live hw ha.space ha.mapped ha.window, readEffects_of_latching ha.block ha.noClear,
    liveRead_of_no_wo ha.readable, hl]
  rfl

theorem latchedBy_arbWmax {n : Nat} (hn : n < 36) : latchedBy c (0x040002 + 0x100 * n) = [] := by
  have hne (b : Nat) (hb : b < 0x040000 ∨ 0x043000 ≤ b) : 0x040002 + 0x100 * n ≠ b := by omega
  simp only [latchedBy, hne Reg.hxkTickl.addr (by decide), hne Reg.arbWqst0.addr (by decide), hne Reg.ethPt0.addr (by decide),
    hne Reg.ptpNowl.addr (by decide), hne Reg.ptpLstepl.addr (by decide), hne Reg.celNewl.addr (by decide),
    hne Reg.rindLog.addr (by decide), hne Reg.tstBitsl.addr (by decide), if_false]

theorem canMon_covers_of_lt (h : a < 0x0A0000) : Reg.canMon.covers a = false := by
  have : ¬ Reg.canMon.base ≤ a := Nat.not_le.mpr (h.trans (by decide))
  simp [RegDef.covers, this]

/-- A read of ARB_WMAXa starts its measure anew (R186). -/
theorem readEffects_arbWmax {n : Nat} (hn : n < 36) (ha : a = 0x040002 + 0x100 * n) : readEffects c r a = arbWmaxRead c n := by
  subst ha
  have h2 : 0x040002 + 0x100 * n ≠ Reg.arbWqst2.addr := by
    have : Reg.arbWqst2.addr = 0x043003 := rfl
    omega
  have hd : (0x040002 + 0x100 * n - 0x040000) / 256 = n := by omega
  rw [readEffects_of_unlatched (latchedBy_arbWmax hn), if_neg h2, if_pos (by omega), hd]

/-- The RC fields of a word that latches nothing clear to 0, outside the words of block ARB whose reads mean more (R7). -/
theorem readEffects_clears (hl : latchedBy c a = []) (h2 : a ≠ Reg.arbWqst2.addr)
    (hx : ∀ n : Fin 36, a ≠ 0x040002 + 0x100 * n.val) (hrc : maskWhere r (fun f => f.acc = .rc && !f.rsvd) ≠ 0) :
    readEffects c r a = setReg c a (rawReg c a &&& ~~~maskWhere r (fun f => f.acc = .rc && !f.rsvd)) := by
  have hq : ¬ (0x040000 ≤ a ∧ a < 0x042400 ∧ a % 256 = 2) := fun g => hx ⟨(a - 0x040000) / 256, by omega⟩ (by simp only; omega)
  rw [readEffects_of_unlatched hl, if_neg h2, if_neg hq, if_neg hrc]

end

/-! ### The words that latch their companions -/

theorem latchWord_hxkTickl : LatchWord Reg.hxkTickl Reg.hxkTickl.addr := ⟨by decide, rfl, by decide, by decide, rfl, rfl⟩
theorem latchWord_ethPt0 : LatchWord Reg.ethPt0 Reg.ethPt0.addr := ⟨by decide, rfl, by decide, by decide, rfl, rfl⟩
theorem latchWord_ptpNowl : LatchWord Reg.ptpNowl Reg.ptpNowl.addr := ⟨by decide, rfl, by decide, by decide, rfl, rfl⟩
theorem latchWord_ptpLstepl : LatchWord Reg.ptpLstepl Reg.ptpLstepl.addr := ⟨by decide, rfl, by decide, by decide, rfl, rfl⟩
theorem latchWord_celNewl : LatchWord Reg.celNewl Reg.celNewl.addr := ⟨by decide, rfl, by decide, by decide, rfl, rfl⟩
theorem latchWord_rindLog : LatchWord Reg.rindLog Reg.rindLog.addr := ⟨by decide, rfl, by decide, by decide, rfl, rfl⟩
theorem latchWord_tstBitsl : LatchWord Reg.tstBitsl Reg.tstBitsl.addr := ⟨by decide, rfl, by decide, by decide, rfl, rfl⟩

/-! ### Whole registers written and read -/

theorem exec_registerWrite (w : Writer) (addr : BitVec 24) (x : Word) (s : State) :
    exec (.registerWrite w addr x) s = .next (s.afterAll (writeCommand s.chip w addr.toNat x)) := rfl

theorem exec_arbWqst0Read (w : Writer) (s : State) :
    exec (.arbWqst0Read w) s = .next (s.afterAll (readCommand s.chip w Reg.arbWqst0.addr)) := rfl

theorem exec_arbWqst2Read (w : Writer) (s : State) :
    exec (.arbWqst2Read w) s = .next (s.afterAll (readCommand s.chip w Reg.arbWqst2.addr)) := rfl

theorem exec_rcRead (w : Writer) (addr : BitVec 24) (s : State) :
    exec (.rcRead w addr) s = .next (s.afterAll (readCommand s.chip w addr.toNat)) := rfl

/-- The state after a command that reads a word which latches its companions `ls` alone. -/
theorem exec_latchWord {i : Instr} {s : State} {w : Writer} {a : Nat} {r : RegDef} {ls : List (Nat × Word)}
    (hi : exec i s = .next (s.afterAll (readCommand s.chip w a))) (hw : reaches s.chip w = true) (ha : LatchWord r a)
    (hl : latchedBy s.chip a = ls) :
    exec i s = .next (s.afterAll (onSys s.chip fun y =>
      { y with latches := ls.foldl (fun m e => mapPut 0 m e.1 e.2) y.latches, answer := [statusWord 0 a, regView s.chip a] })) := by
  rw [hi, readCommand_latchWord hw ha hl]

/-- Settles O38: an accepted write goes by `writeWord_staged` or `writeWord_live`, a read by the lemma on its kind of word. -/
theorem registerAccessComplete : Obligations.RegisterAccessComplete := by
  refine ⟨fun s w addr x r hw hr hwr hp he hl => ⟨?staged, ?live⟩, fun s w hw => ⟨?tick, ?wqst0, ?pt, ?now, ?step, ?cel, ?rind, ?bits,
    ?wqst2, ?wmax, ?clears⟩⟩
  case staged =>
    intro hs ho hn hm
    have hd : decide (stMask r ≠ 0) = true := decide_eq_true hs
    have hacc := portWrite_accepted (h := 0) addr.isLt hr hwr hp (fun g => absurd g ho) he (mode_ne_inert_of_reaches hw)
      (hd ▸ hm) (.inr hn) hl
    rw [hd, writeWord_staged (any_st_of_stMask_ne_zero hs)] at hacc
    rw [exec_registerWrite, writeCommand_of_portWrite hw hacc]
  case live =>
    intro hs hst hwo h6 h7 h8 hm
    have hd : decide (stMask r ≠ 0) = false := decide_eq_false (not_not.mpr hs)
    have hacc := portWrite_accepted (h := 0) addr.isLt hr hwr hp (fun _ => ⟨hs, operateActs_of_no_wo hwo⟩) he
      (mode_ne_inert_of_reaches hw) (hd ▸ hm) (.inl hs) hl
    have hne (b : BitVec 24) (hb : addr ≠ b) : addr.toNat ≠ b.toNat := fun g => hb (BitVec.eq_of_toNat_eq g)
    rw [writeWord_live hst hwo (hne _ h6) (hne _ h7) (hne _ h8)] at hacc
    rw [exec_registerWrite, writeCommand_of_portWrite hw hacc]
  case tick => exact exec_latchWord rfl hw latchWord_hxkTickl rfl
  case wqst0 =>
    rw [exec_arbWqst0Read, readCommand_live hw (by decide) rfl (by decide), readEffects_arbWqst0, liveRead_of_no_wo rfl,
      onSys_onSys]
    rfl
  case pt => exact exec_latchWord rfl hw latchWord_ethPt0 rfl
  case now => exact exec_latchWord rfl hw latchWord_ptpNowl rfl
  case step => exact exec_latchWord rfl hw latchWord_ptpLstepl rfl
  case cel => exact exec_latchWord rfl hw latchWord_celNewl rfl
  case rind => exact exec_latchWord rfl hw latchWord_rindLog rfl
  case bits => exact exec_latchWord rfl hw latchWord_tstBitsl rfl
  case wqst2 =>
    rw [exec_arbWqst2Read, readCommand_live hw (by decide) rfl (by decide), readEffects_arbWqst2, liveRead_of_no_wo rfl]
    rfl
  case wmax =>
    intro a addr r ha hr
    have hmon : Reg.canMon.covers addr.toNat = false := canMon_covers_of_lt (by omega)
    rw [exec_rcRead, readCommand_live hw addr.isLt hr hmon, readEffects_arbWmax a.isLt ha]
  case clears =>
    intro addr r hr hl h2 hx hmon hrc
    have h2' : addr.toNat ≠ Reg.arbWqst2.addr := fun g => h2 (BitVec.eq_of_toNat_eq g)
    rw [exec_rcRead, readCommand_live hw addr.isLt hr hmon, readEffects_clears hl h2' hx hrc]

end Sys2Proof.Machine
end

section
/-! The requests that a context makes of the press (R24): CFG.SET, CFG.GET, COMMIT, ABORT and NOISE are posted and waited for, by one
lemma on the issue of a request (`issue_request`); LOG, HSET and HGET of a task, and the reply to NOISE. -/

namespace Sys2Proof.Machine

/-! ### A request posted -/

section
variable {c : Chip} {e : Eng} {len r : Nat} {ns ill pair : Bool} {k : Ctx} {q : Req} {d : BitVec 4} {wt : Wait}
  {body : Nat → Ctx → Effect}

/-- A request that the port has not met yet is posted behind the context's others (R24). -/
theorem postReq_fresh {p : VatPlane} {key t : Nat} (ho : mapGet [] p.owed key = []) :
    postReq p key t q = .posted { p with reqs := mapPut [] p.reqs key (mapGet [] p.reqs key ++ [q]) } := by
  simp only [postReq, ho, List.filter_nil]

/-- A context that issues such a request waits for its reply (R98, R109). -/
theorem requestWait_fresh (ho : mapGet [] (plane c e.vat).owed (ctxKey e.num.val r) = []) :
    requestWait c e r k q d pair len wt = .wait (setPlane c e.vat { plane c e.vat with
      reqs := mapPut [] (plane c e.vat).reqs (ctxKey e.num.val r) (mapGet [] (plane c e.vat).reqs (ctxKey e.num.val r) ++ [q]) })
      { k with wait := wt } := by
  rw [requestWait, postReq_fresh ho]

/-- The issue of an instruction that makes a request which the port has not met yet. -/
theorem issue_request (ho : mapGet [] (plane c e.vat).owed (ctxKey e.num.val r) = []) (h : Ready c e len ns r k) (hi : ill = false)
    (hb : body r k = requestWait c e r k q d pair len wt) :
    issue c e len ns ill body = storeCtx (setPlane c e.vat { plane c e.vat with
      reqs := mapPut [] (plane c e.vat).reqs (ctxKey e.num.val r) (mapGet [] (plane c e.vat).reqs (ctxKey e.num.val r) ++ [q]) })
      e r { k with wait := wt, atBnd := false } :=
  issue_wait h hi (hb.trans (requestWait_fresh ho))

end

/-! ### LOG, HSET, HGET and the reply to NOISE -/

section
variable {c : Chip} {e : Eng} {w : Enc} {r : Nat} {k : Ctx}

/-- HSET of a task sets the engine's health word in the cycle's image (R111). -/
theorem healthOp_hset (h : Ready c e 4 false r k) (hm : w.minor = 0) (hd : w.d = 0) (hb : w.b = 0) (ht : k.task ≠ .setup) :
    healthOp c e w = retire (onImage c e.vat k fun i =>
      { i with hset := mapPut none i.hset e.num.val (some (rd k w.a)) }) e r (adv k 4) := by
  have hz (hi lo : Nat) : mbits w hi lo = 0 := by simp [mbits, hm]
  exact issue_done h (by simp [hz, hd, hb]) (by simp only [hz, ht, if_true, if_false])

/-- HGET of a task reads an item as the cycle's curd instant sampled it (R111). -/
theorem healthOp_hget (h : Ready c e 4 false r k) (ho : mbits w 13 12 = 1) (hm : mbits w 11 4 = 0) (hn : mbits w 3 0 < 5)
    (ha : w.a = 0) (hb : w.b = 0) (ht : k.task ≠ .setup) :
    healthOp c e w = retire c e r (adv (wr k w.d ((ctxAct (plane c e.vat) k).hget.getD (mbits w 3 0) 0)) 4) :=
  issue_done h (by simp [ho, hm, hn, ha, hb]) (by simp only [ho, ht, if_false, Nat.one_ne_zero])

/-- A random source that is ready answers OK with a fresh value (R112, R113). -/
theorem noiseWords_ready (hr : c.sys.rngReady = true) (hf : c.sys.rngFailed = false) :
    noiseWords c = ({ c with free := c.free + 1 }, [Config.noise c.free, 0]) := by
  simp only [noiseWords, hr, hf, drawStamp, Bool.not_true, Bool.false_eq_true, if_false]

/-- The oldest NOISE request is answered to the context that made it, in every Vat (R112). -/
theorem noiseReply_ready {key : Nat} {rest : List Nat} (hn : c.sys.noise = key :: rest) (hr : c.sys.rngReady = true)
    (hf : c.sys.rngFailed = false) :
    noiseReply c = deliverAll { c with free := c.free + 1, sys := { c.sys with noise := rest } } (key / 16) (key % 16)
      [Config.noise c.free, 0] := by
  have hw := noiseWords_ready (c := { c with sys := { c.sys with noise := rest } }) hr hf
  simp only [noiseReply, hn, hw]

end

/-! ### The commands -/

theorem exec_cfgSet (e : Eng) (w : Enc) (y : Word) (s : State) : exec (.cfgSet e w y) s = execCfgSet e w y s := rfl
theorem exec_cfgGet (e : Eng) (w : Enc) (y : Word) (s : State) : exec (.cfgGet e w y) s = execCfgGet e w y s := rfl
theorem exec_commit (e : Eng) (w : Enc) (s : State) : exec (.commit e w) s = execCommit e w s := rfl
theorem exec_abort (e : Eng) (w : Enc) (s : State) : exec (.abort e w) s = execAbort e w s := rfl
theorem exec_noise (e : Eng) (w : Enc) (s : State) : exec (.noise e w) s = execNoise e w s := rfl
theorem exec_log (e : Eng) (w : Enc) (s : State) : exec (.log e w) s = execLog e w s := rfl
theorem exec_hset (e : Eng) (w : Enc) (s : State) : exec (.hset e w) s = .next (s.after (healthOp s.chip e w)) := rfl
theorem exec_hget (e : Eng) (w : Enc) (s : State) : exec (.hget e w) s = .next (s.after (healthOp s.chip e w)) := rfl
theorem exec_noiseReply (s : State) : exec .noiseReply s = .next (s.after (noiseReply s.chip)) := rfl

/-- Settles O26: the requests by `issue_request`, LOG by its stall on a frozen bank, HSET and HGET by `healthOp_hset` and
`healthOp_hget`, and the reply to NOISE by `noiseReply_ready`. -/
theorem requestsAndHealthComplete : Obligations.RequestsAndHealthComplete := by
  refine ⟨fun s e w y r k ho => ⟨?set, ?get, ?commit, ?abort, ?noise⟩, fun s e w r k => ⟨?log, ?hset, ?hget, ?reply⟩⟩
  case set =>
    intro h hm hb hy
    exact (exec_cfgSet e w y s).trans (run_settle s _ _ (issue_request ho h (by simpa [hm, hy] using hb) rfl))
  case get =>
    intro h hm hb ha hy hd
    exact (exec_cfgGet e w y s).trans (run_settle s _ _ (issue_request ho h (by simpa [hm, ha, hy, hd] using hb) rfl))
  case commit =>
    intro h hm ha hb hd
    exact (exec_commit e w s).trans (run_settle s _ _ (issue_request ho h (by simp [hm, ha, hb, hd]) rfl))
  case abort =>
    intro h hm ha hb
    exact (exec_abort e w s).trans (run_settle s _ _ (issue_request ho h (by simp [hm, ha, hb]) rfl))
  case noise =>
    intro h hm ha hb hd
    exact (exec_noise e w s).trans (run_settle s _ _ (issue_request ho h (by simp [hm, ha, hb, hd]) rfl))
  case log =>
    intro win h hm hd hf ht hr
    refine (exec_log e w s).trans (run_settle s _ _ (issue_done_unless_frozen h (by simp [hm, hd, hf]) ?_))
    simp only [hr, ht, if_false]
  case hset =>
    intro h hm hd hb ht
    rw [exec_hset, healthOp_hset h hm hd hb ht]
  case hget =>
    intro h ho hm hn ha hb ht
    rw [exec_hget, healthOp_hget h ho hm hn ha hb ht]
  case reply =>
    intro key rest hn hr hf
    rw [exec_noiseReply, noiseReply_ready hn hr hf]

end Sys2Proof.Machine
end

section
/-! Requests that the Vats have in common reach the configuration port once, and its replies the waiting contexts (R24, R25). -/

namespace Sys2Proof.Machine

section
variable {c d : Chip} {n : Fin 64} {prio : Fin 16} {q : Req} {key : Nat} {ws : List Word}

/-- A request that two SERVING Vats make alike is taken from every SERVING Vat, and the port acts on it (R24). -/
theorem portRequest_agreed {heads : List Req} {cycle : TaskId × Nat}
    (hh : heads = (servingVats c).filterMap (headReq c (ctxKey n.val prio.val)))
    (hq : heads.find? (fun q => decide (2 ≤ (heads.filter (· = q)).length)) = some q)
    (ht : cycle = cycleOf c (ctxKey n.val prio.val)
      (((servingVats c).find? fun v => headReq c (ctxKey n.val prio.val) v = some q).getD .a)) :
    portRequest c n prio = portAct ((servingVats c).foldl (takeRequest (ctxKey n.val prio.val) q cycle
      ((servingVats c).any (cycleStopped c (ctxKey n.val prio.val)))) c) (ctxKey n.val prio.val) q := by
  subst hh ht
  simp only [portRequest, hq]

/-- The oldest reply goes to its context in every Vat (R25). -/
theorem portReply_waiting {rest : List (List Word)} {more : SMap (List (List Word))} (hr : c.sys.replies = (key, ws :: rest) :: more) :
    portReply c = deliverAll (onSys c fun y => { y with replies := mapPut [] y.replies key rest }) (key / 16) (key % 16) ws := by
  simp only [portReply, hr]

/-- With no reply on its way, the COMMIT whose check has ended is answered (R109). -/
theorem portReply_checked {asked : List Nat} (hn : ∀ k ws' rest more, c.sys.replies ≠ (k, ws' :: rest) :: more)
    (hk : c.sys.checking = key :: asked) (hu : c.sys.affUp = true)
    (hc : commitStaging (onSys c fun y => { y with checking := asked }) .culture = (d, ws)) :
    portReply c = deliverAll d (key / 16) (key % 16) ws := by
  unfold portReply
  split
  next k ws' rest more hr => exact absurd hr (hn k ws' rest more)
  next => simp only [hk, hu, hc, Bool.not_true, Bool.false_eq_true, if_false]

end

theorem exec_cfgPortRequest (n : Fin 64) (prio : Fin 16) (s : State) :
    exec (.cfgPortRequest n prio) s = .next (s.afterAll (portRequest s.chip n prio)) := rfl

theorem exec_cfgReply (s : State) : exec .cfgReply s = .next (s.afterAll (portReply s.chip)) := rfl

/-- Settles O27: `portRequest_agreed`, `portReply_waiting` and `portReply_checked`. -/
theorem portRequestsAndRepliesComplete : Obligations.PortRequestsAndRepliesComplete := by
  refine fun s n prio => ⟨?agreed, ?reply, ?checked⟩
  case agreed =>
    intro heads q cycle hh hq ht
    rw [exec_cfgPortRequest, portRequest_agreed hh hq ht]
  case reply =>
    intro key ws rest more hr
    rw [exec_cfgReply, portReply_waiting hr]
  case checked =>
    intro key asked c ws hn hk hu hc
    rw [exec_cfgReply, portReply_checked hn hk hu hc]

end Sys2Proof.Machine
end

section
/-! The Vats as planes: what a fault of a Vat or of a supply domain brings about (`vatFault_…`, `supplyFault_…`), the steps of a
re-curdling up to the rejoin (`finalDone_rejoins`), and VAT_CMD (`writeCommand_vatCmd`). -/

namespace Sys2Proof.Machine

/-! ### What a record and the end of a re-curdling leave unchanged -/

/-- The Vats and the core are as they were. -/
structure VatsKept (c d : Chip) : Prop where
  vats : d.vats = c.vats
  core : d.core = c.core

theorem VatsKept.trans {c d e : Chip} (h : VatsKept c d) (g : VatsKept d e) : VatsKept c e :=
  ⟨g.vats.trans h.vats, g.core.trans h.core⟩

section
variable (c : Chip)

theorem bump_vatsKept (a hi lo : Nat) : VatsKept c (bump c a hi lo) := ⟨rfl, rfl⟩

theorem raiseMax_vatsKept (a hi lo v : Nat) : VatsKept c (raiseMax c a hi lo v) := by
  unfold raiseMax
  split <;> exact ⟨rfl, rfl⟩

theorem plane_raiseMax (a hi lo x : Nat) (v : Vat) : plane (raiseMax c a hi lo x) v = plane c v := by
  rw [plane, plane, (raiseMax_vatsKept c _ _ _ _).vats]

theorem plane_withEvc (x : Tri EvCopy) (v : Vat) : plane { c with evc := x } v = plane c v := rfl

theorem countRepeat_vatsKept : VatsKept c (countRepeat c) := by
  unfold countRepeat
  split <;> exact ⟨rfl, rfl⟩

theorem loseRecord_vatsKept (b : Bool) : VatsKept c (loseRecord c b) := by
  cases b <;> exact ⟨rfl, rfl⟩

/-- A record offered is discarded, counted, repeated or buffered in the Cellar (R479, R480, R483). -/
theorem offerRecord_vatsKept (r : Rec) : VatsKept c (offerRecord c r) := by
  unfold offerRecord
  split
  · exact ⟨rfl, rfl⟩
  split
  · exact bump_vatsKept c _ _ _
  split
  · exact countRepeat_vatsKept c
  split <;> split
  · exact ⟨rfl, rfl⟩
  · exact loseRecord_vatsKept c _
  · exact ⟨rfl, rfl⟩
  · exact loseRecord_vatsKept c _

theorem recordRecurdle_vatsKept (v : Vat) (ok : Bool) : VatsKept c (recordRecurdle c v ok) := by
  unfold recordRecurdle deviceRecord
  refine VatsKept.trans ?_ (offerRecord_vatsKept _ _)
  split <;> exact bump_vatsKept c _ _ _

/-- The next re-curdling starts without a change to any Vat: it is in PROVING already (R142). -/
theorem nextRecurdle_vats : (nextRecurdle c).vats = c.vats := by
  unfold nextRecurdle
  split <;> rfl

theorem nextRecurdle_none (h : c.core.rcNext = []) : nextRecurdle c = c := by
  unfold nextRecurdle
  split
  next v t rest _ _ _ hn _ => rw [h] at hn; cases hn
  next => rfl

theorem endRecurdle_vats (v : Vat) : (endRecurdle c v true).vats = c.vats :=
  (nextRecurdle_vats _).trans (recordRecurdle_vatsKept _ v true).vats

/-- A re-curdling has ended and no Vat waits for its turn: none is being re-curdled. -/
theorem endRecurdle_recurdle (v : Vat) (h : c.core.rcNext = []) : (endRecurdle c v true).core.recurdle = none := by
  have hk := recordRecurdle_vatsKept { c with core := { c.core with recurdle := none, rcFinal := false, rcLocked := false } } v true
  simp only [endRecurdle, if_true]
  rw [nextRecurdle_none _ (by rw [hk.core, h]), hk.core]

end

/-! ### Faults of Vats -/

section
variable {c d k : Chip} {u v : Vat} {code : Nat}

variable (hd : (if code = 8 then onLdl c fun l => { l with chgOut := l.chgOut.set v false } else c) = d)
include hd

/-- A Vat that is not being re-curdled leaves the wait for it, if it waits (R147). -/
theorem vatFault_notRecurdled (hr : ∀ u, d.core.recurdle ≠ some (u, v)) :
    vatFault c v code = todoSour (if d.core.rcNext.any (·.1 = v) then leaveProving d v .sour else d) v code 7 none 0 := by
  cases hx : d.core.recurdle with
  | none => simp only [vatFault, hd, hx]
  | some p =>
    obtain ⟨u, w⟩ := p
    have hne : w ≠ v := fun g => hr u (g ▸ hx)
    simp only [vatFault, hd, hx, hne, if_false]

theorem vatFault_idle (hr : ∀ u, d.core.recurdle ≠ some (u, v)) (hn : d.core.rcNext.any (·.1 = v) = false) :
    vatFault c v code = todoSour d v code 7 none 0 := by
  rw [vatFault_notRecurdled hd hr, hn, if_neg Bool.false_ne_true]

theorem vatFault_waiting (hr : ∀ u, d.core.recurdle ≠ some (u, v)) (hn : d.core.rcNext.any (·.1 = v) = true) :
    vatFault c v code = todoSour (leaveProving d v .sour) v code 7 none 0 := by
  rw [vatFault_notRecurdled hd hr, if_pos hn]

/-- The re-curdling of the Vat ends (R147). -/
theorem vatFault_recurdled (hr : d.core.recurdle = some (u, v))
    (hk : k = endRecurdle (onPlane d v fun p => { p with state := .sour }) v false) (hn : k.core.rcNext.any (·.1 = v) = false) :
    vatFault c v code = todoSour k v code 7 none 0 := by
  subst hk
  simp only [vatFault, hd, hr, if_true, hn, Bool.false_eq_true, if_false]

end

/-! ### Faults of supply domains -/

/-- What the fault of a domain other than Rind's leads to, once it is recorded (R19). -/
def domainConsequence (c : Chip) (d : Fin 8) : Chip :=
  match d.val with
  | 0 => powerDownBegin c (fieldOf c Reg.pwrVin.addr 31 16)
  | 1 => vatFault c .a 8
  | 2 => vatFault c .b 8
  | 3 => vatFault c .c 8
  | 4 => affineurRestart c
  | 5 => todoHold c 9 0 none
  | 6 => onFio c fun f => { f with inert := true }
  | _ => c

theorem domainConsequence_vat {c : Chip} {d : Fin 8} {v : Vat} (hv : d.val = v.num + 1) : domainConsequence c d = vatFault c v 8 := by
  rw [domainConsequence, hv]
  cases v <;> rfl

section
variable {c : Chip} {x : SupplySeen} {d : Fin 8}

theorem supplyFault_within (hf : domainFails d.val x = false) : supplyFault c d x = c := by
  simp only [supplyFault, hf, Bool.not_false, Bool.or_true, if_true]

variable (hp : powered c = true) (hf : domainFails d.val x = true)
include hp hf

theorem supplyFault_beyond (h7 : d.val ≠ 7) : supplyFault c d x = domainConsequence (domainFault c d x.mv) d := by
  simp only [supplyFault, hp, hf, h7, decide_false, Bool.false_and, Bool.not_true, Bool.or_self, Bool.false_eq_true, if_false]
  rfl

/-- Rind removes torque before its fault is recorded (R551). -/
theorem supplyFault_rind (h7 : d.val = 7) :
    supplyFault c d x = domainFault (if c.rind.on then rindFail c 14 else c) d x.mv := by
  have hf7 : domainFails 7 x = true := h7 ▸ hf
  simp only [supplyFault, hp, h7, hf7, decide_true, Bool.true_and, Bool.not_true, Bool.or_self, Bool.false_eq_true, if_false]

end

/-! ### The steps of a re-curdling -/

section
variable {c : Chip} {src v : Vat} (hr : c.core.recurdle = some (src, v))
include hr

theorem pllLock_proving (hs : (plane c v).state = .proving) :
    pllLock c = { c with core := { c.core with rcLocked := true } } := by
  simp only [pllLock, hr, hs, if_true]

/-- The self-proof of a Vat whose clock has locked (R142 step 3). -/
theorem selfProofDone_locked (hs : (plane c v).state = .proving) (hl : c.core.rcLocked = true) (ok : Bool) :
    selfProofDone c ok =
      if ok then onPlane (onPlane c src fun p => { p with dirty := [] }) v fun p => { p with state := .copying }
      else recurdleFails c v 11 := by
  simp [selfProofDone, hr, hs, hl]

section
variable (hfs : banksFrozen c src = false) (hfv : banksFrozen c v = false)
include hfs hfv

/-- A copy pass of a Vat in COPYING brings the pages across, and is the last one before WAITQ where at most 64 KiB are dirty (R142). -/
theorem copyPassDone_copying (hs : (plane c v).state = .copying) :
    copyPassDone c =
      if pageBytes (plane c src).dirty ≤ 65536 then
        onPlane (onPlane c v fun p => copyPlane c (plane c src) p) v fun p => { p with state := .waitq }
      else onPlane (onPlane c v fun p => copyPlane c (plane c src) p) src fun p => { p with dirty := [] } := by
  simp only [copyPassDone, hr, hfs, hfv, hs, Bool.or_self, Bool.false_eq_true, if_false]

/-- In WAITQ each further pass takes the pages dirtied meanwhile, until the final copy begins (R142). -/
theorem copyPassDone_waitq (hs : (plane c v).state = .waitq) (hn : c.core.rcFinal = false) :
    copyPassDone c = onPlane (onPlane c v fun p => copyPlane c (plane c src) p) src fun p => { p with dirty := [] } := by
  simp only [copyPassDone, hr, hfs, hfv, hs, hn, Bool.or_self, Bool.false_eq_true, if_false]

/-- The final copy is the end of a re-curdling in which the Vat has taken the source's memory and serves (R142 step 8). -/
theorem finalDone_rejoins (hs : (plane c v).state = .waitq) (hn : c.core.rcFinal = true) :
    ∃ d, finalDone c = endRecurdle d v true ∧ (plane d v).state = .serving ∧ (plane d v).mem = (plane c src).mem ∧
      d.core.rcNext = c.core.rcNext := by
  refine ⟨_, by simp only [finalDone, hr, hfs, hfv, hs, hn, Bool.not_true, Bool.false_eq_true, ne_eq, not_true_eq_false,
    or_self, if_false]; rfl, ?_, ?_, ?_⟩
  · rw [plane_raiseMax, plane_setReg, plane_withEvc, plane_onLdl, plane_onPlane_self]
  · rw [plane_raiseMax, plane_setReg, plane_withEvc, plane_onLdl, plane_onPlane_self, copyPlane]
  · rw [(raiseMax_vatsKept _ _ _ _ _).core, setReg_core, onLdl_core, onPlane_core]

end
end

/-! ### VAT_CMD -/

section
variable {c d : Chip} {w : Writer} {v : Vat} {x : Word}

/-- The fields of VAT_CMD that a command acts by. -/
theorem bits_vatCmd (v : Vat) (op : Nat) (ho : op < 3) :
    bits (word (op * 0x10000000 + v.num) &&& maskWhere Reg.vatCmd (fun f => f.acc = .wo && !f.rsvd)) 31 28 = op ∧
    bits (word (op * 0x10000000 + v.num) &&& maskWhere Reg.vatCmd (fun f => f.acc = .wo && !f.rsvd)) 1 0 = v.num := by
  interval_cases op <;> cases v <;> decide

/-- A VAT_CMD that the port admits and the command accepts answers OK (R106, R159). -/
theorem writeCommand_vatCmd (hw : Commanded c w Reg.vatCmd.addr)
    (hc : vatCommand c (x &&& maskWhere Reg.vatCmd (fun f => f.acc = .wo && !f.rsvd)) = (d, 0)) :
    writeCommand c w Reg.vatCmd.addr x = answeredOk d Reg.vatCmd.addr := by
  have hm (o : Word) : modeLocked c w Reg.vatCmd Reg.vatCmd.addr false o x = false := by
    have hb : blockOf Reg.vatCmd.addr = 1 := by decide
    have hx : Reg.vatCmd.addr ≠ Reg.sysExpert.addr := by decide
    simp [modeLocked, hb, hx]
  have hl : loopBusy c Reg.vatCmd.addr = false := by
    have hb : Reg.tstLbk.covers Reg.vatCmd.addr = false := by decide
    simp [loopBusy, hb]
  exact writeCommand_command hw rfl (by decide) (by decide) (by decide) (by decide) (by decide) hm hl hc

theorem vatCommand_takeOut (ht : vatTakeOut c v = (d, true)) :
    vatCommand c (word (1 * 0x10000000 + v.num) &&& maskWhere Reg.vatCmd (fun f => f.acc = .wo && !f.rsvd)) = (d, 0) := by
  obtain ⟨ho, hv⟩ := bits_vatCmd v 1 (by decide)
  simp only [vatCommand, ho, hv]
  cases v <;> simp only [Vat.num, ht, if_true]

theorem vatCommand_recurdle (hr : vatRecurdle c v = (d, true)) :
    vatCommand c (word (2 * 0x10000000 + v.num) &&& maskWhere Reg.vatCmd (fun f => f.acc = .wo && !f.rsvd)) = (d, 0) := by
  obtain ⟨ho, hv⟩ := bits_vatCmd v 2 (by decide)
  simp only [vatCommand, ho, hv]
  cases v <;> simp only [Vat.num, hr, if_true]

/-- The states of a re-curdling are those of the codes 3 to 5 (Table: Vat states). -/
theorem recurdling_code {x : VatState} (h : x ≠ .proving ∧ x ≠ .copying ∧ x ≠ .waitq) : ¬ (3 ≤ x.code ∧ x.code ≤ 5) := by
  cases x <;> simp_all [VatState.code]

variable (hm : vatCmdMode c = true)
include hm

theorem vatTakeOut_serving (hs : servingVats c = [.a, .b, .c]) : vatTakeOut c v = (todoSour c v 10 7 none 0, true) := by
  simp [vatTakeOut, hm, hs]

/-- The Vat that is being re-curdled goes to OUT (R147). -/
theorem vatTakeOut_recurdled (hs : (servingVats c).length < 3) (hr : c.core.recurdle.any (·.2 = v) = true) :
    vatTakeOut c v = (recurdleFails c v 10, true) := by
  have h3 : (servingVats c).length ≠ 3 := Nat.ne_of_lt hs
  simp only [vatTakeOut, hm, h3, hr, Bool.not_true, Bool.false_eq_true, if_false, if_true]

/-- So does one that waits for its re-curdling (R147). -/
theorem vatTakeOut_waiting (hs : (servingVats c).length < 3) (hr : c.core.recurdle.any (·.2 = v) = false)
    (hn : c.core.rcNext.any (·.1 = v) = true) :
    vatTakeOut c v = (leaveProving (noteCause c v 10 7 none 0) v .out, true) := by
  have h3 : (servingVats c).length ≠ 3 := Nat.ne_of_lt hs
  simp only [vatTakeOut, hm, h3, hr, hn, Bool.not_true, Bool.false_eq_true, if_false, if_true]

/-- A Vat that is SOUR or OUT is re-curdled where no other is (R159). -/
theorem vatRecurdle_free (hs : (plane c v).state = .sour ∨ (plane c v).state = .out)
    (hu : ∀ u, u ≠ v → (plane c u).state ≠ .proving ∧ (plane c u).state ≠ .copying ∧ (plane c u).state ≠ .waitq) :
    vatRecurdle c v = (beginProving c v, true) := by
  have hb : (allVats.any fun u => u ≠ v && (3 ≤ (plane c u).state.code && (plane c u).state.code ≤ 5)) = false := by
    rw [List.any_eq_false]
    intro u _ g
    simp only [Bool.and_eq_true, decide_eq_true_eq] at g
    exact recurdling_code (hu u g.1) g.2
  have hst : ((plane c v).state = .sour || (plane c v).state = .out) = true := by simpa using hs
  simp only [vatRecurdle, hm, hst, hb, Bool.true_and, Bool.not_false, if_true]

end

/-! ### The commands -/

theorem exec_vatClockFault (v : Vat) (s : State) : exec (.vatClockFault v) s = .next (s.afterAll (vatFault s.chip v 9)) := rfl
theorem exec_supplyDomainFault (d : Fin 8) (x : SupplySeen) (s : State) :
    exec (.supplyDomainFault d x) s = .next (s.afterAll (supplyFault s.chip d x)) := rfl
theorem exec_recurdlePllLock (s : State) : exec .recurdlePllLock s = .next (s.afterAll (pllLock s.chip)) := rfl
theorem exec_selfProofDone (ok : Bool) (s : State) : exec (.selfProofDone ok) s = .next (s.afterAll (selfProofDone s.chip ok)) := rfl
theorem exec_copyPassDone (s : State) : exec .copyPassDone s = .next (s.afterAll (copyPassDone s.chip)) := rfl
theorem exec_finalCopyDone (s : State) : exec .finalCopyDone s = .next (s.afterAll (finalDone s.chip)) := rfl

/-- VAT_CMD answers OK where the port admits it and the command is accepted (R106, R159). -/
theorem exec_vatCmdTakeOut {w : Writer} {v : Vat} {s : State} {d : Chip} (hw : Commanded s.chip w Reg.vatCmd.addr)
    (ht : vatTakeOut s.chip v = (d, true)) :
    exec (.vatCmdTakeOut w v) s = .next (s.afterAll (answeredOk d Reg.vatCmd.addr)) :=
  congrArg (fun c => Host.Outcome.next (s.afterAll c)) (writeCommand_vatCmd hw (vatCommand_takeOut ht))

theorem exec_vatCmdRecurdle {w : Writer} {v : Vat} {s : State} {d : Chip} (hw : Commanded s.chip w Reg.vatCmd.addr)
    (hr : vatRecurdle s.chip v = (d, true)) :
    exec (.vatCmdRecurdle w v) s = .next (s.afterAll (answeredOk d Reg.vatCmd.addr)) :=
  congrArg (fun c => Host.Outcome.next (s.afterAll c)) (writeCommand_vatCmd hw (vatCommand_recurdle hr))

/-- Settles O31: faults by `vatFault_…` and `supplyFault_…`, the steps of a re-curdling by their lemmas and `finalDone_rejoins`,
VAT_CMD by `writeCommand_vatCmd`. -/
theorem vatsComplete : Obligations.VatsComplete := by
  refine ⟨fun s => ⟨?clockIdle, ?clockWaiting, ?clockRecurdled, ?within, fun x d hp hf => ?beyond⟩,
    fun s src v hr => ⟨?lock, ?proof, fun c hfs hfv hc => ⟨?lastPass, ?pass, ?waitPass⟩, ?final⟩,
    fun s w v hw hm => ⟨?takeServing, ?takeRecurdled, ?takeWaiting, ?recurdle⟩⟩
  case clockIdle =>
    intro v hr hn
    rw [exec_vatClockFault, vatFault_idle (if_neg (by decide)) hr hn]
  case clockWaiting =>
    intro v hr hn
    rw [exec_vatClockFault, vatFault_waiting (if_neg (by decide)) hr hn]
  case clockRecurdled =>
    intro u v c hr hc hn
    rw [exec_vatClockFault, vatFault_recurdled (if_neg (by decide)) hr hc hn]
  case within =>
    intro x d _ hf
    rw [exec_supplyDomainFault, supplyFault_within hf]
  case beyond =>
    intro c
    have hc (h7 : d.val ≠ 7) : supplyFault s.chip d x = domainConsequence c d := supplyFault_beyond hp hf h7
    clear_value c
    have hv {v : Vat} (hv : d.val = v.num + 1) : supplyFault s.chip d x = vatFault c v 8 := by
      have h7 : d.val ≠ 7 := by cases v <;> simp [hv, Vat.num]
      rw [hc h7, domainConsequence_vat hv]
    rw [exec_supplyDomainFault]
    refine ⟨?bus, ?idle, ?waiting, ?recurdled, ?affineur, ?logicIo, ?fieldLogic, ?rind⟩
    case idle => exact fun v h hr hn => by rw [hv h, vatFault_idle (if_pos rfl) hr hn]
    case waiting => exact fun v h hr hn => by rw [hv h, vatFault_waiting (if_pos rfl) hr hn]
    case recurdled => exact fun u v k h hr hk hn => by rw [hv h, vatFault_recurdled (if_pos rfl) hr hk hn]
    case rind => exact fun h => by rw [supplyFault_rind hp hf (congrArg Fin.val h)]
    all_goals
      rintro rfl
      rw [hc (by decide)]
      rfl
  case lock =>
    intro hs
    rw [exec_recurdlePllLock, pllLock_proving hr hs]
  case proof =>
    intro hs hl
    rw [exec_selfProofDone, exec_selfProofDone, selfProofDone_locked hr hs hl, selfProofDone_locked hr hs hl]
    exact ⟨rfl, rfl⟩
  case lastPass =>
    intro hs hb
    rw [exec_copyPassDone, copyPassDone_copying hr hfs hfv hs, if_pos hb, hc]
  case pass =>
    intro hs hb
    rw [exec_copyPassDone, copyPassDone_copying hr hfs hfv hs, if_neg (Nat.not_le.mpr hb), hc]
  case waitPass =>
    intro hs hn
    rw [exec_copyPassDone, copyPassDone_waitq hr hfs hfv hs hn, hc]
  case final =>
    intro hfs hfv hs hn
    obtain ⟨d, hd, hst, hmem, hnext⟩ := finalDone_rejoins hr hfs hfv hs hn
    have hp : plane (finalDone s.chip) v = plane d v := by rw [hd, plane, plane, endRecurdle_vats]
    refine ⟨_, exec_finalCopyDone s, rfl, hp ▸ hst, hp ▸ hmem, fun hw => ?_⟩
    rw [hd, endRecurdle_recurdle d v (hnext.trans hw)]
  case takeServing => exact fun hs => exec_vatCmdTakeOut hw (vatTakeOut_serving hm hs)
  case takeRecurdled => exact fun u hs hr => exec_vatCmdTakeOut hw (vatTakeOut_recurdled hm hs (by simp [hr]))
  case takeWaiting => exact fun hs hr hn => exec_vatCmdTakeOut hw (vatTakeOut_waiting hm hs hr hn)
  case recurdle => exact fun hs hu => exec_vatCmdRecurdle hw (vatRecurdle_free hm hs hu)

end Sys2Proof.Machine
end

section
/-! The last steps of the power-up sequence (`cultureLoad_…`, `loopProof_…`, `partnerWatchEnd_…`), the Affineur's restart, and the
setup program's limit (R195, R196, R198, R208, R246, R430). -/

namespace Sys2Proof.Machine

/-! ### What steps 13 and 14 do on the way -/

/-- The module at step 14, with the first cycles of its tasks at least 100 ticks away. -/
def atStep14 (c : Chip) : Chip :=
  (enabledTasks (onSys c fun y => { y with step := 14 })).foldl
    (fun c t => setTask c t { taskSt c t with start := max (taskSt c t).start (c.core.tick + 100) })
    (onSys c fun y => { y with step := 14 })

/-- The event of an epoch that can grow no further. -/
def warnEpoch (c : Chip) : Chip := if epoch c = 0xFFFFFFFF then raise c 1927 (epoch c) else c

section
variable {c d : Chip} (hm : c.sys.mode = .prove) (hs : c.sys.stopped = false)
include hm hs

/-! ### Step 10: the culture -/

section
variable {n : Fin 4} (h9 : c.sys.step = 9) (hu : c.sys.affUp = true) (hf : flashOpen c = true)
include h9 hu hf

/-- No culture slot can be selected (R198). -/
theorem cultureLoad_none (hk : selectSlot c 2 cultureFails = (d, none)) : cultureLoad c = stopProveAs d 2 0 0 0 0 := by
  simp [cultureLoad, hm, hs, h9, hu, hf, hk]

variable (hk : selectSlot c 2 cultureFails = (d, some n))
include hk

/-- The selected culture passes its checks and is loaded (R32). -/
theorem cultureLoad_passes {p : Parsed} (hc : startChecks (settings d).keys (slotAt d n).held.content = .inr p) :
    cultureLoad c = loadCulture d n (slotAt d n).held.content p := by
  simp [cultureLoad, hm, hs, h9, hu, hf, hk, hc]

/-- The first check that it fails stops the module, with NOCULT where no slot holds a culture (R32, R198). -/
theorem cultureLoad_fails {m b : Nat} (hc : startChecks (settings d).keys (slotAt d n).held.content = .inl (m, b)) :
    cultureLoad c = if m = 1 ∧ anyCulture d = false then stopProveAs d 2 0 0 0 0
      else stopProveAs d 3 (m * 256 + b) 0 (leAt (slotAt d n).held.content 8 8) (leAt (slotAt d n).held.content 0x10 4) := by
  simp [cultureLoad, hm, hs, h9, hu, hf, hk, hc]

end

/-! ### Step 12: the loop proof -/

section
variable {res : List (Fin 32 × BitVec 32 × Int)} (h11 : c.sys.step = 11)
  (hw : c.fio.lpTries = 0 ∨ c.fio.lpAt + 500000 ≤ c.core.tick) (hd : proofAttempt c res = d)
include h11 hw hd

/-- An attempt in the power-up sequence ends the proof, lets it be repeated, or stops the module (R430). -/
theorem loopProof_attempt :
    loopProof c res =
      if d.fio.lpFail = 0 then
        onSys (onLdl (onFio d fun f => { f with lpTries := 0 }) fun l =>
          { l with watchAt := some d.core.tick, watchTog := decide (l.chgIn = .toggling) }) fun y => { y with step := 12 }
      else if 4 ≤ d.fio.lpTries then stopProve (onFio d fun f => { f with lpTries := 0 }) 8 (lowestBit d.fio.lpFail)
      else d := by
  have hwait : ¬ (0 < c.fio.lpTries ∧ c.core.tick < c.fio.lpAt + 500000) := by omega
  have hrun : lproofRuns c = false := by simp [lproofRuns, hm]
  subst hd
  simp only [loopProof, hrun, hm, hs, h11, hwait, reduceCtorEq, ne_eq, not_true_eq_false, or_self, Bool.false_eq_true, if_false]

end

/-! ### Steps 13 and 14 -/

section
variable (h12 : c.sys.step = 12) (hw : watchOver c = true) (hd : applyAll c = d)
include h12 hw hd

/-- A Rind that is not ready stops the module (R246). -/
theorem partnerWatchEnd_unready (hr : rindReady d = false) :
    partnerWatchEnd c = stopProve d 9 (rindStatus d * 256 + d.rind.cause) := by
  simp [partnerWatchEnd, hm, hs, h12, hw, hd, hr]

/-- Beside a partner that was in charge during the watch the module enters STANDBY (R196, R246). -/
theorem partnerWatchEnd_standby (hr : rindReady d = true) (ht : d.ldl.watchTog = true) :
    partnerWatchEnd c = enterMode (atStep14 (warnEpoch d)) .standby 3 := by
  simp [partnerWatchEnd, hm, hs, h12, hw, hd, hr, ht, atStep14, warnEpoch]

/-- An exhausted epoch stops it (R241). -/
theorem partnerWatchEnd_exhausted (hr : rindReady d = true) (ht : d.ldl.watchTog = false) (he : epochFull d = true) :
    partnerWatchEnd c = stopProve (raise d 1927 (epoch d)) 11 0 := by
  simp [partnerWatchEnd, hm, hs, h12, hw, hd, hr, ht, he]

/-- Otherwise it takes charge in SERVICE (R196, R246). -/
theorem partnerWatchEnd_service (hr : rindReady d = true) (ht : d.ldl.watchTog = false) (he : epochFull d = false) :
    partnerWatchEnd c = enterMode (setField (atStep14 (warnEpoch d)) Reg.ldlTklast.addr 31 28 4) .service 3 := by
  simp [partnerWatchEnd, hm, hs, h12, hw, hd, hr, ht, he, atStep14, warnEpoch]

end
end

/-! ### The Affineur's restart and the setup program's limit -/

section
variable {c : Chip}

section
variable (h2 : 2 ≤ c.sys.step)
include h2

theorem affineurRestart_up (hu : c.sys.affUp = true) :
    affineurRestart c = onSys (chooseSource (domRestart (domRestart
      (rejectTrial (onUpd (endLoad (monSessionEnd ((List.finRange 4).foldl endSession (clearTests (abortTest c))) none))
        fun u => { u with peer := none }) 3) 0) 1)) fun y => { y with affUp := false, waiting := [] } := by
  have hn : ¬ (c.sys.step < 2 ∨ (!c.sys.affUp) = true) := by simp [hu, Nat.not_lt.mpr h2]
  rw [affineurRestart, if_neg hn]

/-- The Affineur is up again, and was checking nothing. -/
theorem affineurRestartDone_idle (hu : c.sys.affUp = false) (hk : c.sys.checking = []) :
    affineurRestartDone c = onSys c fun y => { y with affUp := true } := by
  have hn : ¬ (c.sys.step < 2 ∨ c.sys.affUp = true) := by simp [hu, Nat.not_lt.mpr h2]
  simp only [affineurRestartDone, if_neg hn, onSys, hk]

/-- The COMMIT that it was checking answers BUSY (R208). -/
theorem affineurRestartDone_checking {k : Nat} {ks : List Nat} (hu : c.sys.affUp = false) (hk : c.sys.checking = k :: ks) :
    affineurRestartDone c =
      onSys (setReg (setReg (onSys c fun y => { y with affUp := true }) Reg.sysCmterr.addr 0x07000000) Reg.sysCmtbit.addr 0) fun y =>
        { y with checking := ks, replies := mapPut [] y.replies k ((mapGet [] y.replies k) ++ [[0x07000000, 0]]) } := by
  have hn : ¬ (c.sys.step < 2 ∨ c.sys.affUp = true) := by simp [hu, Nat.not_lt.mpr h2]
  have hc : (onSys c fun y => { y with affUp := true }).sys.checking = k :: ks := hk
  have hb : word (7 * 2 ^ 24) = 0x07000000 := rfl
  simp only [affineurRestartDone, if_neg hn, hc, hb]

end

/-- The setup program's 3 s are over: it ends in every SERVING Vat (R195). -/
theorem setupTimeLimit_over (hr : c.sys.setupRun = true) (ht : c.sys.setupStart + 3000000000 ≤ now c) :
    setupTimeLimit c =
      (servingVats c).foldl (fun c v => onPlane c v fun p => if p.setupEnd = 0 then { p with setupEnd := 4 } else p) c := by
  have hn : ¬ ((!c.sys.setupRun) = true ∨ now c < c.sys.setupStart + 3000000000) := by simp [hr, ht]
  rw [setupTimeLimit, if_neg hn]

end

/-! ### The commands -/

theorem exec_cultureLoad (s : State) : exec .cultureLoad s = .next (s.afterAll (cultureLoad s.chip)) := rfl
theorem exec_loopProofAttempt (res : List (Fin 32 × BitVec 32 × Int)) (s : State) :
    exec (.loopProofAttempt res) s = .next (s.afterAll (loopProof s.chip res)) := rfl
theorem exec_partnerWatchEnd (s : State) : exec .partnerWatchEnd s = .next (s.afterAll (partnerWatchEnd s.chip)) := rfl
theorem exec_affineurRestart (s : State) : exec .affineurRestart s = .next (s.afterAll (affineurRestart s.chip)) := rfl
theorem exec_affineurRestartDone (s : State) : exec .affineurRestartDone s = .next (s.afterAll (affineurRestartDone s.chip)) := rfl
theorem exec_setupTimeLimit (s : State) : exec .setupTimeLimit s = .next (s.afterAll (setupTimeLimit s.chip)) := rfl

/-- Settles O35: each step of the power-up sequence, the Affineur's restart and the setup program's limit by the lemma on its case. -/
theorem cultureStartsAndRestartsComplete : Obligations.CultureStartsAndRestartsComplete := by
  refine ⟨fun s hm hs => ⟨fun c k h9 hu hf hk => ⟨?noCulture, ?culture⟩, fun res c h11 hw hc => ?loops,
    fun c k d h12 hw hc hk hd => ⟨?unready, ?standby, fun hr ht => ⟨?exhausted, ?service⟩⟩⟩,
    fun s => ⟨?restart, ?restarted, ?busy, ?limit⟩⟩
  case noCulture =>
    rintro rfl
    rw [exec_cultureLoad, cultureLoad_none hm hs h9 hu hf hk]
  case culture =>
    rintro n bs rfl rfl
    rw [exec_cultureLoad]
    cases hp : startChecks (settings c).keys (slotAt c n).held.content with
    | inr p => rw [cultureLoad_passes hm hs h9 hu hf hk hp]
    | inl f => rw [cultureLoad_fails hm hs h9 hu hf hk hp]
  case loops =>
    intro d
    have ha : proofAttempt s.chip res = d := by subst hc; rfl
    have hl : d.fio.lpFail = c.fio.lpFail := rfl
    have ht : d.core.tick = c.core.tick := rfl
    have hn : d.fio.lpTries = s.chip.fio.lpTries + 1 := rfl
    rw [exec_loopProofAttempt, loopProof_attempt hm hs h11 hw ha, hl, ht, hn]
    refine ⟨fun h => ?passed, fun h h4 => ?again, fun h h4 => ?failed⟩
    case passed => rw [if_pos h]
    case again => rw [if_neg h, if_neg (Nat.not_le.mpr h4)]
    case failed => rw [if_neg h, if_pos h4]
  case unready =>
    intro hr
    rw [exec_partnerWatchEnd, partnerWatchEnd_unready hm hs h12 hw hc.symm hr]
  case standby =>
    intro hr ht
    rw [exec_partnerWatchEnd, partnerWatchEnd_standby hm hs h12 hw hc.symm hr ht, hd, hk]
    rfl
  case exhausted =>
    intro he
    rw [exec_partnerWatchEnd, partnerWatchEnd_exhausted hm hs h12 hw hc.symm hr ht he]
  case service =>
    intro he
    rw [exec_partnerWatchEnd, partnerWatchEnd_service hm hs h12 hw hc.symm hr ht he, hd, hk]
    rfl
  case restart =>
    intro h2 hu
    rw [exec_affineurRestart, affineurRestart_up h2 hu]
  case restarted =>
    intro h2 hu hk
    rw [exec_affineurRestartDone, affineurRestartDone_idle h2 hu hk]
  case busy =>
    intro k ks h2 hu hk
    rw [exec_affineurRestartDone, affineurRestartDone_checking h2 hu hk]
  case limit =>
    intro hr ht
    rw [exec_setupTimeLimit, setupTimeLimit_over hr ht]

end Sys2Proof.Machine
end

section
/-! What follows every command: the module settled, and no more than the bookkeeping of quiet windows (R61, R62). -/

namespace Sys2Proof.Machine

/-- Every command ends with what follows from it: a settled module, and the queue of commands as it was. -/
theorem exec_settled (i : Instr) (s : State) : ∃ c, c.Settled ∧ exec i s = .next { s with chip := c } := by
  cases i with
  | alu | alu64 | addi | andi | ori | xori | shi | movi | setq | mfs | mts | fop32 | fop64 | fcvt | fcmp | cmp | cmpi | br
  | sel | dbnz | call | callr | ret | hnd | nop | halt | ld | st | ldx | stx | copy | push | pop | peek | credit
  | queueWaitEnd | fence | fenceComplete | inPoint | outPoint | evr | time | waitt | waittComplete | raise | cfgSet | cfgGet
  | commit | abort | log | hset | hget | noise | noiseReply | crc | exceptionReraise | storeBufferDrain | curdInstant
  | sampleSetArrival | postDeadline | curdClose | boundaryReached | boundaryReportArrival | bndwaitTimeout
  | waitReportArrival | pressImageArrival | pressHoldLimit | quietMiss | transferMessage | creditMessage | arbiterDecision
  | eventArrival | holdoffExpiry | eventEmitDelayed | dispatcherRecord | eventCurdInstant | affineurEventRecord
  | pdFrameReceive | announcementReceive | announcementSend | mdRequestReceive | mdReplySend | mdSessionTimeout
  | ttdpTopologyChange | inaugurationComplete | partnerAgeing | roleAgeing | linkChange | ptpMessageReceive | domainLoss
  | slewExpiry | holdoverTimeout | ladleTimeLoss | ppsInputEdge | captureEdge | masterFrameReceive | slaveFrameReceive
  | mvbSilence | basicPeriod | mvbSlotEnd | macroCycleBoundary | mvbSourceEntry | canFrameReceive | canStoreFill | canBusIdle
  | canTxSuccess | canArbLost | canTxError | canRecoveryDone | referenceInstant | monitorLockTimeout | outputWindowWrite
  | inputWindowRead | rackMasterWrite | rackBreq | rackWaitLimit | rackBackoff | backoffRepeat | rackTransferEnd
  | sidebandChange | recordOffer | recordWrite | clearSlotWrite | waitReportTimeout | pdTelegramSend =>
    exact ⟨_, settle_settled _, rfl⟩
  | _ => exact ⟨_, settleAll_settled _, rfl⟩

/-- Settles O6: an empty queue changes nothing, and every command leaves the module settled by `exec_settled`. -/
theorem stepKeepsSettled : Obligations.StepKeepsSettled := by
  intro s t hs h
  obtain ⟨c, _ | ⟨i, rest⟩⟩ := s
  case nil =>
    cases h
    exact hs
  case cons =>
    obtain ⟨d, hd, he⟩ := exec_settled i ⟨c, rest⟩
    cases he.symm.trans h
    exact hd

/-- Settles O5: nothing is put off, and an INERT module measures no quiet window. -/
theorem resetIsSettled : Obligations.ResetIsSettled := ⟨rfl, rfl⟩

/-- The module with other words, and with the bookkeeping of quiet windows as given (R61). -/
def withWindow (c : Chip) (regs : SMap Word) (since : Option Nat) (wend from_ : Nat) : Chip :=
  { c with regs := regs, core := { c.core with quietSince := since, quietEnd := wend, missFrom := from_ } }

/-- A maximum shown in a word changes no other word. -/
theorem raiseMax_regs (c : Chip) (a hi lo v : Nat) :
    ∃ r, raiseMax c a hi lo v = { c with regs := r } ∧ ∀ b, b ≠ a → rawReg { c with regs := r } b = rawReg c b := by
  by_cases h : fieldOf c a hi lo < v
  · exact ⟨_, if_pos h, fun b hb => rawReg_setField_ne c a b hi lo _ hb⟩
  · exact ⟨c.regs, if_neg h, fun b _ => rfl⟩

/-- The check of the quiet window changes its bookkeeping and, at the end of a window, GAPMAX in HXK_QSTAT (R61, R62). -/
theorem quietCheck_window (c : Chip) : ∃ r q n m, quietCheck c = withWindow c r q n m ∧
    ∀ a, a ≠ Reg.hxkQstat.addr → rawReg { c with regs := r } a = rawReg c a := by
  have same (q : Option Nat) (n m : Nat) : ∃ r q' n' m', withWindow c c.regs q n m = withWindow c r q' n' m' ∧
      ∀ a, a ≠ Reg.hxkQstat.addr → rawReg { c with regs := r } a = rawReg c a := ⟨_, _, _, _, rfl, fun _ _ => rfl⟩
  simp only [quietCheck]
  split
  · exact same none 0 c.core.tick
  split
  · exact same (some c.core.tick) c.core.quietEnd c.core.missFrom
  · split
    · exact same none c.core.quietEnd c.core.missFrom
    split
    · exact same none c.core.tick c.core.tick
    · obtain ⟨r, hr, hw⟩ := raiseMax_regs { c with core := { c.core with quietSince := none } } Reg.hxkQstat.addr 23 0
        (c.core.tick - c.core.quietEnd)
      exact ⟨r, none, c.core.tick, c.core.tick, by rw [hr]; rfl, hw⟩
  · exact same c.core.quietSince c.core.quietEnd c.core.missFrom

/-- Settles O7: of a calm module `settle` judges the quiet window alone, by `quietCheck_window`. -/
theorem settlingFrame : Obligations.SettlingFrame := by
  intro c h
  obtain ⟨r, q, n, m, hw, hr⟩ := quietCheck_window c
  rw [settle_calm h, hw]
  exact ⟨hr, rfl, rfl, rfl, rfl, rfl, rfl, rfl, rfl, rfl, rfl, rfl, rfl, rfl, rfl, rfl, rfl, rfl, rfl, rfl, rfl, rfl, rfl, rfl,
    rfl⟩

/-- Where the window is already as R61 says, no word changes either, and it stays open or closed. -/
theorem quietCheck_of_quietOk {c : Chip} (h : c.QuietOk) :
    ∃ n m, quietCheck c = withWindow c c.regs c.core.quietSince n m := by
  cases hm : quietMeasured c with
  | true => exact ⟨_, _, quietCheck_of_quiet h hm⟩
  | false =>
    have hq : c.core.quietSince = none := by
      rw [Chip.QuietOk, hm, Bool.false_and, Option.isSome_eq_false_iff, Option.isNone_iff_eq_none] at h
      exact h
    exact ⟨0, c.core.tick, by rw [hq]; simp only [quietCheck, hm, Bool.not_false, if_true]; rfl⟩

/-- What a context stored leaves of every Vat: all but its contexts. -/
theorem plane_storeCtx (c : Chip) (e : Eng) (r : Nat) (x : Ctx) (v : Vat) :
    ∃ l, plane (storeCtx c e r x) v = { plane c v with ctxs := l } := by
  by_cases h : v = e.vat
  · rw [h, storeCtx, plane_onPlane_self]
    exact ⟨_, rfl⟩
  · exact ⟨_, plane_setPlane_ne c e.vat v _ h⟩

/-- Whether a chain computes depends on the Vats' states and activations alone. -/
theorem anyComputing_of_acts {c d : Chip} (h : ∀ v, ∃ l, plane d v = { plane c v with ctxs := l }) :
    anyComputing d = anyComputing c := by
  have hs : servingVats d = servingVats c := by
    have : serving d = serving c := by
      funext v
      obtain ⟨l, hl⟩ := h v
      rw [serving, hl, serving]
    rw [servingVats, this, servingVats]
  simp only [anyComputing, hs]
  congr 1
  funext v
  obtain ⟨l, hl⟩ := h v
  rw [hl]

/-- A context stored leaves the quiet window as it is (R61). -/
theorem quietOk_storeCtx {c : Chip} (h : c.QuietOk) (e : Eng) (r : Nat) (x : Ctx) : (storeCtx c e r x).QuietOk :=
  .of rfl rfl (anyComputing_of_acts (plane_storeCtx c e r x)) h

/-- After a context has been stored nothing follows but the bookkeeping of quiet windows (R61). -/
theorem settle_storeCtx {c : Chip} (hs : c.Settled) (hr : c.sys.setupRun = false) (e : Eng) (r : Nat) (x : Ctx) :
    ∃ n m, settle (storeCtx c e r x) = withWindow (storeCtx c e r x) c.regs c.core.quietSince n m := by
  have hc : (storeCtx c e r x).Calm := ⟨hs.todo, hr⟩
  rw [settle_calm hc]
  exact quietCheck_of_quietOk (quietOk_storeCtx hs.quiet e r x)

/-- Settles O9: a completion stores one context, `plane_storeCtx` says what that leaves of the Vats, and `settle_storeCtx` that
nothing else follows. -/
theorem instructionFrame : Obligations.InstructionFrame := by
  intro s e r x y hs hr _ hwf t
  obtain ⟨n, m, ht⟩ : ∃ n m, t.chip = withWindow (retire s.chip e r y) s.chip.regs s.chip.core.quietSince n m :=
    settle_storeCtx hs hr e r _
  have hp (v : Vat) : plane t.chip v = plane (retire s.chip e r y) v := by rw [ht]; rfl
  have hk (v : Vat) : ∃ l, plane t.chip v = { plane s.chip v with ctxs := l } := hp v ▸ plane_storeCtx s.chip e r _ v
  have hself : plane t.chip e.vat = setCtx (plane s.chip e.vat) e.num.val r { y with seg := y.seg + 1, atBnd := false } :=
    (hp e.vat).trans (plane_onPlane_self _ _ _)
  refine ⟨?own, fun n k h => ?others, fun v h => ?vats, fun v a => ?memory, fun v => ?queues, ?rest⟩
  case own => rw [hself, ctxOf_setCtx_self _ _ _ _ (mapWf_sorted hwf)]
  case others => rw [hself, ctxOf_setCtx_ne _ _ _ _ _ _ h]
  case vats => rw [hp, retire, storeCtx, onPlane, plane_setPlane_ne _ _ _ _ h]
  case memory =>
    obtain ⟨l, hl⟩ := hk v
    rw [hl]
  case queues =>
    obtain ⟨l, hl⟩ := hk v
    rw [hl]
    exact ⟨rfl, rfl, rfl, rfl⟩
  case rest =>
    rw [ht]
    exact ⟨fun _ => rfl, rfl, rfl, rfl, rfl, rfl, rfl, rfl, rfl, rfl, rfl, rfl, rfl, rfl, rfl, rfl, rfl, rfl, rfl⟩

end Sys2Proof.Machine
end

section
/-! Every Hexelku instruction is issued on its engine, and what taking an exception does (R50, R71, R79, R115, R116, R191). -/

namespace Sys2Proof.Machine

/-- Every Hexelku instruction is issued on its engine (R50, R70, R71, R115). -/
theorem exec_issues {i : Instr} {e : Eng} (h : instrEng i = some e) (s : State) :
    ∃ len ns ill body, exec i s = .next (s.after (issue s.chip e len ns ill body)) := by
  cases i
  case alu | alu64 | addi | andi | ori | xori | shi | movi | setq | mfs | mts | cmp | cmpi | fop32 | fop64 | fcvt | fcmp | br | sel
      | dbnz | call | callr | ret | hnd | nop | halt | ld | st | ldx | stx | copy | crc | push | pop | peek | credit | fence | inPoint
      | outPoint | evr | time | waitt | raise | cfgSet | cfgGet | commit | abort | noise | log | hset | hget =>
    cases h
    exact ⟨_, _, _, _, rfl⟩
  all_goals cases h

section
variable {c : Chip} {e : Eng} {r : Nat} {x : Ctx} {f : Frame} {fs : List Frame} (hx : ctxOf (plane c e.vat) e.num.val r = x)
include hx

/-- The handler of the current frame takes an exception, and is cleared (R116 step 1). -/
theorem raiseExc_handled (k : Xc) {h : Nat} (hf : x.frames = f :: fs) (hh : f.handler = some h) :
    raiseExc c e.vat e.num.val r k = storeCtx c e r
      { x with s := { x.s with xcode := k.code, xpc := x.p }, p := h, seg := 0, exc := none, atBnd := false,
               frames := { f with handler := none } :: fs } := by
  simp only [raiseExc, takeException, hx, hf, hh, storeCtx, onPlane]

variable {g : Frame} {gs : List Frame} {t : Nat} (hf : x.frames = f :: g :: gs) (hh : f.handler = none) (hr : f.ret = some t)
include hf hh hr

/-- Without a handler the caller is left to raise it again at its call (R116 step 2). -/
theorem raiseExc_returned (k : Xc) (hs : x.stop = false) :
    raiseExc c e.vat e.num.val r k = storeCtx c e r
      { x with i := f.i, k := f.k, p := t, frames := g :: gs, bnd := x.bnd + 1, seg := 0, atBnd := true,
               exc := some ⟨k.code, x.p, blockType (plane c e.vat) x.i, f.site⟩ } := by
  simp only [raiseExc, takeException, hx, hf, hh, hr, hs, storeCtx, onPlane, Bool.false_eq_true, if_false]

/-- Where the cycle has been ended the chain stops at that boundary (R191). -/
theorem raiseExc_ended (k : Xc) (hs : x.stop = true) : raiseExc c e.vat e.num.val r k = endAtBoundary c e r x := by
  simp only [raiseExc, takeException, hx, hf, hh, hr, hs, endAtBoundary, storeCtx, onPlane, if_true]

end

/-- An odd pair of ALU64 is ILLEGAL (R78). -/
theorem exec_alu64_odd {s : State} {e : Eng} {w : Enc} {r : Nat} {x : Ctx} (h : Ready s.chip e 4 false r x) (hd : evenReg w.d = false) :
    exec (.alu64 e w) s = .next (s.after (raiseExc s.chip e.vat e.num.val r .illegal)) :=
  run_settle s _ (alu64Op · e w) (issue_illegal h (by simp [hd]))

/-- A field of ALU and ALU64 that must be 0 and is not is ILLEGAL (R71, R78). -/
theorem exec_alu_reserved {s : State} {e : Eng} {w : Enc} {r : Nat} {x : Ctx} (h : Ready s.chip e 4 false r x) (hw : mbits w 5 0 ≠ 0) :
    exec (.alu e w) s = .next (s.after (raiseExc s.chip e.vat e.num.val r .illegal)) ∧
    exec (.alu64 e w) s = .next (s.after (raiseExc s.chip e.vat e.num.val r .illegal)) :=
  ⟨run_settle s _ (aluOp · e w) (issue_illegal h (by simp [hw])), run_settle s _ (alu64Op · e w) (issue_illegal h (by simp [hw]))⟩

/-- The four divisions by 0 (R79). -/
theorem alu32_divzero {f : Nat} (a : Word) (cin : Bool) (hf : f = 0x14 ∨ f = 0x15 ∨ f = 0x16 ∨ f = 0x17) :
    alu32 f a 0 cin = .divzero := by
  rcases hf with rfl | rfl | rfl | rfl <;> rfl

/-- A division by 0 raises DIVZERO (R79). -/
theorem exec_alu_divzero {s : State} {e : Eng} {w : Enc} {r : Nat} {x : Ctx} (h : Ready s.chip e 4 false r x) (hw : mbits w 5 0 = 0)
    (hb : rd x w.b = 0) (hf : mbits w 12 6 = 0x14 ∨ mbits w 12 6 = 0x15 ∨ mbits w 12 6 = 0x16 ∨ mbits w 12 6 = 0x17) :
    exec (.alu e w) s = .next (s.after (raiseExc s.chip e.vat e.num.val r .divzero)) := by
  have hu : aluUnary (mbits w 12 6) = false := by
    rw [aluUnary, decide_eq_false_iff_not]
    omega
  exact run_settle s _ (aluOp · e w) (issue_exc h (by simp [hw, hu]) (by simp only [hb, alu32_divzero _ _ hf]))

/-- Settles O12: what every issue judges first by `exec_issues` and the laws of `issue`, and the taking of an exception by
`raiseExc_handled`, `raiseExc_returned` and `raiseExc_ended`. -/
theorem exceptionsTaken : Obligations.ExceptionsTaken := by
  refine ⟨fun s i e r x hi hr hs => ?limit, fun s i e r x hi hr hs hv => ?reserved,
    fun s e w r x h => ⟨exec_alu_reserved h, exec_alu64_odd h, exec_alu_divzero h⟩,
    fun c e r x k f fs hx hf => ⟨fun h => raiseExc_handled hx k hf, fun g gs t hh hg hr => ?unhandled⟩⟩
  case limit =>
    obtain ⟨len, ns, ill, body, he⟩ := exec_issues hi s
    rw [he, issue_seglimit hr hs]
  case reserved =>
    obtain ⟨len, ns, ill, body, he⟩ := exec_issues hi s
    rw [he, issue_reserved hr hs hv]
  case unhandled =>
    subst hg
    exact ⟨raiseExc_returned hx hf hh hr k, raiseExc_ended hx hf hh hr k⟩

end Sys2Proof.Machine
end

section
/-! The queue instructions: what an attempt does, when it completes and when it waits, and how a wait ends (R52, R94 to R97, R184). -/

namespace Sys2Proof.Machine

/-! ### One attempt -/

section
variable {c : Chip} {e : Eng} {r : Nat} {x : Ctx} {w : Enc}

/-- A PUSH with a credit (R95, R170). -/
theorem qAttempt_push (h : (queueOf (plane c e.vat) x.q.toNat).spent < (descOf (plane c e.vat) x.q.toNat).depth) :
    qAttempt c e r x .push w = some (setPlane c e.vat
      { setQueue (plane c e.vat) x.q.toNat { queueOf (plane c e.vat) x.q.toNat with
          spent := (queueOf (plane c e.vat) x.q.toNat).spent + 1, waitP := false,
          transit := (queueOf (plane c e.vat) x.q.toNat).transit ++
            [⟨qSource c e r x w (descOf (plane c e.vat) x.q.toNat), (plane c e.vat).seq, c.core.tick, 0, 0⟩] } with
        seq := (plane c e.vat).seq + 1 }, x) := by
  simp only [qAttempt, if_neg (Nat.not_le.mpr h), Queue.append]

/-- The queue after the head entry has been taken: its credit goes back, or is deferred with DEFER (R95). -/
def takenHead (y : Queue) (depth : Nat) (deferred : Bool) : Queue :=
  { y with
    entries := y.entries.drop 1, head := (y.head + 1) % depth, waitC := false,
    deferred := if deferred then y.deferred + 1 else y.deferred,
    back := if deferred then y.back else y.back + 1 }

/-- A POP with an entry that the consumer sees (R95). -/
theorem qAttempt_pop {en : Entry} {ens : List Entry} (h : visible (plane c e.vat) x.q.toNat = en :: ens) :
    qAttempt c e r x .pop w = some (qDest (setPlane c e.vat (setQueue (plane c e.vat) x.q.toNat
      (takenHead (queueOf (plane c e.vat) x.q.toNat) (descOf (plane c e.vat) x.q.toNat).depth (w.minor.getLsbD 7)))) e r x w
      (descOf (plane c e.vat) x.q.toNat) en.bytes) := by
  simp only [qAttempt, h]
  cases w.minor.getLsbD 7 <;> rfl

/-- A PEEK of an entry that the consumer sees (R95). -/
theorem qAttempt_peek {en : Entry} (h : (visible (plane c e.vat) x.q.toNat)[(rd x w.b).toNat]? = some en) :
    qAttempt c e r x .peek w = some (qDest (setPlane c e.vat (setQueue (plane c e.vat) x.q.toNat
      { queueOf (plane c e.vat) x.q.toNat with waitC := false })) e r x w (descOf (plane c e.vat) x.q.toNat) en.bytes) := by
  simp only [qAttempt, h]

/-- The credit or the entry that an operation needs is missing (R95). -/
def qMissing (p : VatPlane) (x : Ctx) (w : Enc) : QOp → Prop
  | .push => (descOf p x.q.toNat).depth ≤ (queueOf p x.q.toNat).spent
  | .pop => visible p x.q.toNat = []
  | .peek => (visible p x.q.toNat).length ≤ (rd x w.b).toNat

theorem qAttempt_missing {op : QOp} (h : qMissing (plane c e.vat) x w op) : qAttempt c e r x op w = none := by
  cases op with
  | push => exact if_pos h
  | pop => simp only [qAttempt, show visible _ _ = [] from h]
  | peek => simp only [qAttempt, List.getElem?_eq_none h]

/-! ### The operation -/

section
variable {op : QOp} (h : Ready c e 4 false r x) (hi : qIllegal op w (x.task = .setup) = false) (hq : qCheck c e r x op w = none)
include h hi hq

/-- A queue instruction whose credit or entry is there completes unless a bank that it needs is frozen (R95, R184). -/
theorem queueOp_completes {c' : Chip} {x' : Ctx} (ha : qAttempt c e r x op w = some (c', x')) :
    queueOp c e op w = if qFrozen c e r x op w then c else retire c' e r (adv x' 4) := by
  refine issue_done_unless_frozen h ?_ ?_
  · rw [h.run]
    exact hi
  · simp only [hq, ha]

/-- One whose credit or entry is missing waits, and its queue shows that it does (R52, R95). -/
theorem queueOp_waits (ha : qAttempt c e r x op w = none) :
    queueOp c e op w = storeCtx (qWaitFlag c e.vat x.q.toNat op true) e r { x with wait := .queue op w 0, atBnd := false } := by
  refine issue_wait (y := { x with wait := .queue op w 0 }) h ?_ ?_
  · rw [h.run]
    exact hi
  · simp only [hq, ha]

end

/-! ### The ends of waits -/

/-- A queue wait whose credit or entry has come ends, with the wait reports of its engine, unless a bank is frozen (R52, R184). -/
theorem queueWaitEnd_completes {op : QOp} {n : Nat} {c' : Chip} {x' : Ctx} (hw : waitingCtx c e = some (r, x))
    (hx : x.wait = .queue op w n) (ha : qAttempt c e r x op w = some (c', x')) :
    queueWaitEnd c e = if qFrozen c e r x op w then c else onPlane c' e.vat fun p =>
      setEng (finishWait p e.num.val r x' 4) e.num.val
        { engOf (finishWait p e.num.val r x' 4) e.num.val with qreports := Tri.all none, qpostAt := none } := by
  simp only [queueWaitEnd, hw, hx, ha]

/-- FENCE's wait ends once its pushes have arrived and its credits have returned (R97). -/
theorem fenceComplete_done (hw : waitingCtx c e = some (r, x)) (hx : x.wait = .fence)
    (hd : fenceDone (plane c e.vat) (ctxEndOf x e.num.val) = true) :
    fenceComplete c e = storeCtx c e r { x with p := x.p + 4, wait := .none, seg := x.seg + 1 } := by
  simp only [fenceComplete, hw, hx, hd, decide_true, Bool.and_self, if_true]
  rfl

end

/-! ### The commands -/

section
variable {s : State} {e : Eng} {r : Nat} {x : Ctx} {w : Enc}

/-- CREDIT gives back credits that are deferred (R95). -/
theorem exec_credit (h : Ready s.chip e 4 false r x) (hm : w.minor = 0) (hd : w.d = 0) (hb : w.b = 0)
    (hok : (descOf (plane s.chip e.vat) x.q.toNat).ok = true) (hcu : (descOf (plane s.chip e.vat) x.q.toNat).culture = true)
    (hend : (descOf (plane s.chip e.vat) x.q.toNat).cend = ctxEndOf x e.num.val)
    (hn : (rd x w.a).toNat ≤ (queueOf (plane s.chip e.vat) x.q.toNat).deferred) :
    exec (.credit e w) s = .next (s.after (retire (setPlane s.chip e.vat (setQueue (plane s.chip e.vat) x.q.toNat
      { queueOf (plane s.chip e.vat) x.q.toNat with
        back := (queueOf (plane s.chip e.vat) x.q.toNat).back + (rd x w.a).toNat
        deferred := (queueOf (plane s.chip e.vat) x.q.toNat).deferred - (rd x w.a).toNat })) e r (adv x 4))) := by
  refine congrArg (fun c => Host.Outcome.next (s.after c)) (issue_done h ?_ ?_)
  · simp only [hm, hd, hb, ne_eq, not_true_eq_false, decide_false, Bool.or_self]
  · simp only [hok, hcu, hend, Nat.not_lt.mpr hn, Bool.not_true, ne_eq, not_true_eq_false, decide_false, Bool.or_self,
      Bool.false_eq_true, if_false, Queue.giveBack]

section
variable (h : Ready s.chip e 4 false r x) (hm : w.minor = 0) (hd : w.d = 0) (ha : w.a = 0) (hb : w.b = 0)
include hm hd ha hb

/-- FENCE with all its fields 0 is no reserved encoding (R97). -/
theorem fence_legal : (decide (w.minor ≠ 0) || decide (w.d ≠ 0) || decide (w.a ≠ 0) || decide (w.b ≠ 0)) = false := by
  simp only [hm, hd, ha, hb, ne_eq, not_true_eq_false, decide_false, Bool.or_self]

include h

/-- FENCE with nothing under way completes (R97). -/
theorem exec_fence_done (hf : fenceDone (plane s.chip e.vat) (ctxEndOf x e.num.val) = true) :
    exec (.fence e w) s = .next (s.after (retire s.chip e r (adv x 4))) :=
  congrArg (fun c => Host.Outcome.next (s.after c)) (issue_done h (fence_legal hm hd ha hb) (if_pos hf))

/-- FENCE with a push or a credit under way waits (R97). -/
theorem exec_fence_waits (hf : fenceDone (plane s.chip e.vat) (ctxEndOf x e.num.val) = false) :
    exec (.fence e w) s = .next (s.after (storeCtx s.chip e r { x with wait := .fence, atBnd := false })) :=
  congrArg (fun c => Host.Outcome.next (s.after c))
    (issue_wait (y := { x with wait := .fence }) h (fence_legal hm hd ha hb) (if_neg (Bool.eq_false_iff.mp hf)))

end

/-- Settles O23: the operations by `queueOp_completes` and `queueOp_waits` on the attempts of `qAttempt_…`, the ends of waits by
`queueWaitEnd_completes` and `fenceComplete_done`. -/
theorem queuesComplete : Obligations.QueuesComplete := by
  refine ⟨?_, ?_, ?_⟩
  · rintro s e w r x p d y h rfl rfl rfl
    refine ⟨fun hi hq hs => ?push, fun en ens z c' x' hi hq hv hz hd => ?pop, fun en c' x' hi hq hv hd => ?peek, exec_credit h⟩
    case push => exact run_settle s _ (queueOp · e .push w) (queueOp_completes h hi hq (qAttempt_push hs))
    case pop =>
      subst hz
      exact run_settle s _ (queueOp · e .pop w) (queueOp_completes h hi hq ((qAttempt_pop hv).trans (congrArg some hd)))
    case peek => exact run_settle s _ (queueOp · e .peek w) (queueOp_completes h hi hq ((qAttempt_peek hv).trans (congrArg some hd)))
  · rintro s e w r x p y h rfl rfl
    refine ⟨fun op y' hy hi hq hn => ?waits, exec_fence_waits h⟩
    subst hy
    have hw := queueOp_waits h hi hq (qAttempt_missing (op := op) (by cases op <;> exact hn))
    refine ⟨?_, ?_, ?_⟩
    · rintro rfl
      exact run_settle s _ (queueOp · e .push w) hw
    · rintro rfl
      exact run_settle s _ (queueOp · e .pop w) hw
    · rintro rfl
      exact run_settle s _ (queueOp · e .peek w) hw
  · intro s e r x
    refine ⟨fun op w n c' x' p' hw hx ha hp => ?ended, fun w h => exec_fence_done h, fun hw hx hd => ?fence⟩
    case ended =>
      subst hp
      exact run_settle s _ (queueWaitEnd · e) (queueWaitEnd_completes hw hx ha)
    case fence => exact run_settle s _ (fenceComplete · e) (fenceComplete_done hw hx hd)

end

end Sys2Proof.Machine
end

section
/-! Cycles and curd: when a cycle begins, the exchange of sample sets, and what the curd close does (R39, R45, R124 to R129, R137,
R227, R260). -/

namespace Sys2Proof.Machine

/-! ### The instants at which cycles begin -/

/-- A periodic task's cycle begins at a tick of its phase (R39). -/
theorem curdInstant_begins {c : Chip} {n : Fin 64} (hr : curdsRun c = true) (he : taskEn c (.periodic n) = true)
    (ht : aligned c n c.core.tick = true) (ha : (taskSt c (.periodic n)).active = false)
    (hs : (taskSt c (.periodic n)).start ≤ c.core.tick) :
    curdInstant c n = beginCycle c (.periodic n) (taskPeriod c n) ((servingVats c).map fun v => (v, [])) := by
  simp only [curdInstant, hr, he, ht, ha, hs, decide_true, Bool.not_false, Bool.and_self, if_true]

/-- The module from which an event task's activation begins: outside STANDBY its records have left their lists (R227, R258). -/
def eventStart (c : Chip) (v : Fin 256) : Chip := if c.sys.mode = .standby then c else takeHeads c v (eventDue c v)

section
variable {c : Chip} {v : Fin 256} (hr : curdsRun c = true) (he : taskEn c (.event v) = true) (ha : (taskSt c (.event v)).active = false)
include hr he ha

/-- An event task's activation begins in the Vats that have its record (R227). -/
theorem eventCurdInstant_begins
    (hv : 2 ≤ (eventDue c v).length ∨ (eventDue c v).length = 1 ∧ (servingVats c).length = 1) :
    eventCurdInstant c v = beginCycle (eventStart c v) (.event v) (taskDl c v) (eventDue c v) := by
  simp only [eventCurdInstant, hr, he, ha, Bool.not_false, Bool.and_self, if_true, ← eventStart.eq_def]
  match hd : eventDue c v with
  | [] => simp [hd] at hv
  | [x] =>
    have h1 : (servingVats c).length = 1 := by simpa [hd] using hv
    simp only [h1]
  | _ :: _ :: _ => rfl

variable {u : Vat} {r : List Byte} (hd : eventDue c v = [(u, r)])
include hd

/-- One Vat of three that starts alone is sour (R128, R137; log entry 88). -/
theorem eventCurdInstant_alone (h3 : (servingVats c).length = 3) :
    eventCurdInstant c v = todoSour (eventStart c v) u 3 7 (some (.event v)) 0 := by
  simp only [eventCurdInstant, hr, he, ha, Bool.not_false, Bool.and_self, if_true, eventStart, hd, h3]

/-- One Vat of two that starts alone is PAIRMISS (R149). -/
theorem eventCurdInstant_pair (h2 : (servingVats c).length = 2) :
    eventCurdInstant c v = todoHold (eventStart c v) 7 3 (some (.event v)) := by
  simp only [eventCurdInstant, hr, he, ha, Bool.not_false, Bool.and_self, if_true, eventStart, hd, h2]

end

/-! ### The exchange and the curd close -/

section
variable {c : Chip} {t : TaskId} (ha : (taskSt c t).active = true) (hf : (taskSt c t).formed = false)
include ha hf

/-- A set that arrives whole reaches the other Vat (R124). -/
theorem setArrival_whole {src dst : Vat} {own : SampleSet} (hne : src ≠ dst) (hsrc : serving c src = true) (hdst : serving c dst = true)
    (hp : (actOf (plane c src) t).posted = false) (ho : (actOf (plane c src) t).own = some own)
    (ht : own.tick = (taskSt c t).curdTick) :
    setArrival c src dst t true = onPlane c dst fun p =>
      setAct p t { actOf p t with sets := (actOf p t).sets.set src (some own) } := by
  simp only [setArrival, ha, hf, hne, hsrc, hdst, hp, ho, ht, Bool.not_true, Bool.false_eq_true, or_self, if_false, if_true]

/-- A Vat none of whose copies has crossed in time has posted nothing (R125). -/
theorem postDeadline_over {v : Vat} (ht : (taskSt c t).curdTick + 2 ≤ c.core.tick)
    (hn : ∀ u, u ≠ v → (actOf (plane c u) t).sets.get v = none) :
    postDeadline c v t = onPlane c v fun p => setAct p t { actOf p t with posted := true } := by
  have hc : (allVats.any fun u => decide (u ≠ v) && ((actOf (plane c u) t).sets.get v).isSome) = false := by
    rw [List.any_eq_false]
    intro u _ h
    rw [Bool.and_eq_true, decide_eq_true_eq] at h
    rw [hn u h.1] at h
    exact Bool.false_ne_true h.2
  simp only [postDeadline, ha, hf, ht, hc, Bool.not_false, and_self, if_true]

/-- The module at the curd close, once the stamp has been drawn and an event task has abandoned a final copy. -/
def closeStart (c : Chip) (t : TaskId) : Chip :=
  if t.ev then abandonFinal { c with free := c.free + 1 } else { c with free := c.free + 1 }

/-- The Vats that hold two sets or more, and form the curd (R125). -/
def formingVats (c : Chip) (t : TaskId) : List Vat := (servingVats c).filter fun v => decide (2 ≤ (heldSets c v t).length)

/-- The Vats judged by the sets held; a standby counts the curd as a self-test (R137, R261). -/
def judgedSets (c : Chip) (t : TaskId) (forming : List Vat) (on : Bool) : Chip :=
  if on then judgeSets c t forming else countTest (judgeSets c t forming)
    ((servingVats (judgeSets c t forming)).all fun u =>
      decide ((heldSets (judgeSets c t forming) u t).length = (servingVats (judgeSets c t forming)).length))

/-- The curd formed in each Vat that holds two sets or more (R125 to R129). -/
def formedCurds (c : Chip) (stamp : Nat) (t : TaskId) (on : Bool) (v0 : Vat) (forming : List Vat) : Chip :=
  forming.foldl (fun c v => formCurd c stamp t on v) (countDiffers c stamp t v0)

omit ha hf in
theorem judgedSets_mode (forming : List Vat) : judgedSets c t forming (decide (c.sys.mode ≠ .standby)) =
    if c.sys.mode ≠ .standby then judgeSets c t forming else countTest (judgeSets c t forming)
      ((servingVats (judgeSets c t forming)).all fun u =>
        decide ((heldSets (judgeSets c t forming) u t).length = (servingVats (judgeSets c t forming)).length)) := by
  simp only [judgedSets, decide_eq_true_eq]

variable (ht : (taskSt c t).curdTick + 3 ≤ c.core.tick) (hc : closesFirst c t = false)
include ht hc

section
variable {k d : Chip} {forming : List Vat} {on : Bool} {v0 : Vat} {vs : List Vat}
  (hon : decide ((closeStart c t).sys.mode ≠ .standby) = on) (hv : formingVats (closeStart c t) t = forming)
  (hk : judgedSets (closeStart c t) t forming on = k)
include hon hv hk

/-- Where no Vat forms a curd the cycle ends (R125). -/
theorem curdClose_unformed (hn : forming = []) : curdClose c t = setTask k t { taskSt c t with active := false } := by
  have hw : ¬ c.core.tick < (taskSt c t).curdTick + 3 := Nat.not_lt.mpr ht
  subst hk hon hn
  simp only [curdClose, drawStamp, ha, hf, hw, hc, Bool.not_true, Bool.false_eq_true, or_self, if_false, ← closeStart.eq_def,
    ← formingVats.eq_def, hv, ← judgedSets_mode]

variable (hn : forming = v0 :: vs) (hd : formedCurds k c.free t on v0 forming = d)
include hn hd

/-- In a module that does not compute, or without an agreed record, the curd is formed and nothing computes (R128, R260). -/
theorem curdClose_idle (hi : on = false ∨ (!t.ev || !(actOf (plane d v0) t).record.isEmpty) = false) :
    curdClose c t = setTask
      (forming.foldl (fun c v => onPlane c v fun p => setAct p t { actOf p t with running := [], computing := false }) d) t
      { taskSt c t with active := !t.ev || !(actOf (plane d v0) t).record.isEmpty
                        formed := !t.ev || !(actOf (plane d v0) t).record.isEmpty } := by
  have hw : ¬ c.core.tick < (taskSt c t).curdTick + 3 := Nat.not_lt.mpr ht
  subst hk hon hn hd
  simp only [curdClose, drawStamp, ha, hf, hw, hc, Bool.not_true, Bool.false_eq_true, or_self, if_false, ← closeStart.eq_def,
    ← formingVats.eq_def, hv, ← judgedSets_mode, ← formedCurds.eq_def]
  refine if_pos (hi.imp (fun h => ?_) fun h => ?_)
  · rw [h, Bool.not_false]
  · rw [h, Bool.not_false]

/-- A task that computes has its chains dispatched (R45, R57). -/
theorem curdClose_dispatches (h1 : on = true) (hr : (!t.ev || !(actOf (plane d v0) t).record.isEmpty) = true) :
    curdClose c t =
      let formed := setTask d t { taskSt c t with
        formed := true, closeAt := now d, press := { (taskSt c t).press with images := Tri.all none, result := none, closed := false } }
      let f := forming.foldl (fun c v => dispatchTask c formed.free t v) { formed with free := formed.free + 1 }
      setTask f t { taskSt f t with tflag := false } := by
  have hw : ¬ c.core.tick < (taskSt c t).curdTick + 3 := Nat.not_lt.mpr ht
  subst hk hon hn hd
  simp only [curdClose, drawStamp, ha, hf, hw, hc, Bool.not_true, Bool.false_eq_true, or_self, if_false, ← closeStart.eq_def,
    ← formingVats.eq_def, hv, ← judgedSets_mode, ← formedCurds.eq_def]
  refine if_neg (not_or_intro (fun h => ?_) fun h => ?_)
  · rw [h1] at h
    cases h
  · rw [hr] at h
    cases h

end
end

/-- Settles O28: the instants by `curdInstant_begins` and `eventCurdInstant_…`, the exchange by `setArrival_whole` and
`postDeadline_over`, the close by `curdClose_unformed`, `curdClose_dispatches` and `curdClose_idle`. -/
theorem cyclesAndCurdComplete : Obligations.CyclesAndCurdComplete := by
  refine ⟨fun s => ⟨fun n hr he ht ha hs => ?periodic, fun v vs c hr he ha _ hvs hc => ?event⟩, fun s t st hst ha hf => ?_⟩
  case periodic => exact run_settle s _ (curdInstant · n) (curdInstant_begins hr he ht ha hs)
  case event =>
    obtain rfl : vs = eventDue s.chip v := hvs
    obtain rfl : c = eventStart s.chip v := hc
    refine ⟨fun hv => ?_, fun u r hd => ⟨fun h3 => ?_, fun h2 => ?_⟩⟩
    · exact run_settle s _ (eventCurdInstant · v) (eventCurdInstant_begins hr he ha hv)
    · exact run_settle s _ (eventCurdInstant · v) (eventCurdInstant_alone hr he ha hd h3)
    · exact run_settle s _ (eventCurdInstant · v) (eventCurdInstant_pair hr he ha hd h2)
  subst hst
  refine ⟨fun src dst own hne hsrc hdst hp ho ht => ?arrival, fun v ht hn => ?deadline, fun c forming ht hc hd hon hv => ?computes,
    fun c k forming on agreed ht hc hd hon hv hk => ?every⟩
  case arrival => exact run_settle s _ (setArrival · src dst t true) (setArrival_whole ha hf hne hsrc hdst hp ho ht)
  case deadline => exact run_settle s _ (postDeadline · v t) (postDeadline_over ha hf ht hn)
  case computes =>
    obtain rfl : c = closeStart s.chip t := hd
    have hon := decide_eq_true hon
    refine ⟨fun hn => ?_, fun v0 vs d hn hd hr => ?_⟩
    · exact run_settle s _ (curdClose · t) (hn ▸ curdClose_unformed ha hf ht hc hon hv.symm rfl hn)
    · have hr : (!t.ev || !(actOf (plane d v0) t).record.isEmpty) = true := by
        cases he : t.ev
        · rfl
        · rw [hr he]; rfl
      exact run_settle s _ (curdClose · t) (curdClose_dispatches ha hf ht hc hon hv.symm rfl hn hd.symm rfl hr)
  case every =>
    obtain rfl : c = closeStart s.chip t := hd
    refine ⟨fun hn _ => ?_, fun v0 vs d hn hd hg hi => ?_⟩
    · exact run_settle s _ (curdClose · t) (curdClose_unformed ha hf ht hc hon.symm hv.symm hk.symm hn)
    · subst hg
      exact run_settle s _ (curdClose · t) (curdClose_idle ha hf ht hc hon.symm hv.symm hk.symm hn hd.symm hi)

end Sys2Proof.Machine
end

section
/-! Boundary agreement and the reports of queue waits: what a post, a report and its absence bring (R46 to R49, R96, R137). -/

namespace Sys2Proof.Machine

/-! ### Boundary agreement -/

section
variable {c : Chip} {e : Eng} {g : Engine} (hg : engOf (plane c e.vat) e.num.val = g) (hv : serving c e.vat = true)
  (hu : g.urgent.isSome = true)
include hg hv hu

section
variable {r : Nat} {x : Ctx} (hr : g.cur = some r) (hx : ctxOf (plane c e.vat) e.num.val r = x) (ho : x.on = true) (hb : x.atBnd = true)
  (hw : x.wait = .none)
include hr hx ho hb hw

/-- At its first boundary the engine posts its count (R48 steps 1 and 2). -/
theorem boundaryReached_posts (hn : g.reports.get e.vat = none) :
    boundaryReached c e = tryGoal (setPlane c e.vat (setEng (plane c e.vat) e.num.val
      { g with reports := g.reports.set e.vat (some x.bnd), postAt := some c.core.tick })) e.vat e.num.val := by
  obtain ⟨u, hu⟩ := Option.isSome_iff_exists.mp hu
  simp only [boundaryReached, hg, hr, hu, hx, hv, ho, hb, hw, hn, Bool.not_true, Bool.false_eq_true, ne_eq, not_true_eq_false, or_self,
    if_false]

/-- Where it stands at the count agreed on it switches (R48 step 5). -/
theorem boundaryReached_switches {k : Word} (hk : g.reports.get e.vat = some k) (hm : g.goal = some x.bnd) :
    boundaryReached c e = switchUrgent c e.vat e.num.val := by
  obtain ⟨u, hu⟩ := Option.isSome_iff_exists.mp hu
  simp only [boundaryReached, hg, hr, hu, hx, hv, ho, hb, hw, hk, hm, Bool.not_true, Bool.false_eq_true, ne_eq, not_true_eq_false,
    or_self, if_false, if_true]

end

/-- A count that reaches another Vat is held there; one that differs makes its Vat sour (R48, R137). -/
theorem boundaryReport_arrives {src : Vat} (count : Word) (hne : src ≠ e.vat) (hs : serving c src = true) :
    boundaryReport c src e.vat e.num.val count = tryGoal (setPlane
      (if boundDiffers c src e.vat e.num.val count then
        todoSour c src 5 6 (g.cur.map fun r => (ctxOf (plane c e.vat) e.num.val r).task) e.num.val else c) e.vat
      (setEng (plane c e.vat) e.num.val { g with reports := g.reports.set src (some count) })) e.vat e.num.val := by
  have hu : g.urgent.isNone = false := by rw [Option.isNone_eq_false_iff]; exact hu
  simp only [boundaryReport, hg, hu, hne, hs, hv, Bool.not_true, Bool.false_eq_true, or_self, if_false]

/-- A count that has not come within BNDWAIT makes its Vat sour, and those held decide (R49, R137). -/
theorem bndwaitTimeout_over {missing : Vat} {r : Nat} {k : Word} (hs : serving c missing = true) (hk : g.reports.get e.vat = some k)
    (hn : g.reports.get missing = none) (hr : g.cur = some r)
    (ht : bndExpired c (ctxOf (plane c e.vat) e.num.val r).task g.postAt = true) :
    bndwaitTimeout c e missing = todoSour (takeGoal c e.vat e.num.val) missing 5 6
      (some (ctxOf (plane c e.vat) e.num.val r).task) e.num.val := by
  have hu : g.urgent.isNone = false := by rw [Option.isNone_eq_false_iff]; exact hu
  simp only [bndwaitTimeout, hg, hr, hv, hs, hu, hk, hn, ht, Bool.not_true, Bool.false_eq_true, Option.isNone_some, Option.isSome_none,
    or_self, if_false]

end

/-! ### Wait reports -/

section
variable {c : Chip} {e : Eng} {r : Nat} {x : Ctx} {g : Engine} (hw : waitingCtx c e = some (r, x))
  (hg : engOf (plane c e.vat) e.num.val = g) (ho : (g.qreports.get e.vat).isSome = true)
include hw hg ho

/-- The engine with another Vat's report of its wait held (R96). -/
def withReport (c : Chip) (e : Eng) (g : Engine) (src : Vat) (r : Word × Nat) : Chip :=
  onPlane c e.vat fun p => setEng p e.num.val { g with qreports := g.qreports.set src (some r) }

/-- The report of another Vat is kept, and all are judged once they are there (R96). -/
theorem waitReport_arrives {src : Vat} (count : Word) (at_ : Nat) (hne : src ≠ e.vat) (hs : serving c src = true) :
    waitReport c src e.vat e.num count at_ =
      if waitDue x = true ∧ (servingVats (withReport c e g src (count, at_))).all (fun u =>
          ((engOf (plane (withReport c e g src (count, at_)) e.vat) e.num.val).qreports.get u).isSome) = true
      then judgeWait (withReport c e g src (count, at_)) e.vat e.num.val x else withReport c e g src (count, at_) := by
  have ho : (g.qreports.get e.vat).isNone = false := by rw [Option.isNone_eq_false_iff]; exact ho
  simp only [waitReport, hne, hs, hw, hg, ho, Bool.not_true, Bool.false_eq_true, or_self, if_false, withReport]
  rfl

/-- A report that has not come within BNDWAIT: those held are judged (R96). -/
theorem waitReportTimeout_over {missing : Vat} (hd : waitDue x = true) (hn : g.qreports.get missing = none)
    (ht : bndExpired c x.task g.qpostAt = true) : waitReportTimeout c e missing = judgeWait c e.vat e.num.val x := by
  simp only [waitReportTimeout, hw, hg, ho, hd, hn, ht, Option.isNone_none, and_self, if_true]

end

/-- Settles O29: posts and counts by `boundaryReached_…`, `boundaryReport_arrives` and `bndwaitTimeout_over`, the reports of waits by
`waitReport_arrives` and `waitReportTimeout_over`. -/
theorem boundaryAndWaitReportsComplete : Obligations.BoundaryAndWaitReportsComplete := by
  refine ⟨fun s e g hg hv hu => ⟨fun r x hr hx ho hb hw => ⟨fun hn => ?post, fun k hk hm => ?switch⟩,
    fun src count c hne hs hc => ?count, fun missing r k hs hk hn hr ht => ?missing⟩,
    fun s e r x g hw hg ho => ⟨fun src count at_ hne hs => ?report, fun missing hd hn ht => ?timeout⟩⟩
  case post => exact run_settle s _ (boundaryReached · e) (boundaryReached_posts hg hv hu hr hx ho hb hw hn)
  case switch => exact run_settle s _ (boundaryReached · e) (boundaryReached_switches hg hv hu hr hx ho hb hw hk hm)
  case count =>
    subst hc
    exact run_settle s _ (boundaryReport · src e.vat e.num.val count) (boundaryReport_arrives hg hv hu count hne hs)
  case missing => exact run_settle s _ (bndwaitTimeout · e missing) (bndwaitTimeout_over hg hv hu hs hk hn hr ht)
  case report =>
    exact run_settle s _ (waitReport · src e.vat e.num count at_.toNat)
      (waitReport_arrives hw hg ho count at_.toNat hne hs)
  case timeout => exact run_settle s _ (waitReportTimeout · e missing) (waitReportTimeout_over hw hg ho hd hn ht)

end Sys2Proof.Machine
end

section
/-! The press, the commit and quiet points: an image, the close, the commit, the limit of a held image, and what a quiet point lets
take its turn (R55, R56, R61, R130 to R136, R141, R143, R149, R260). -/

namespace Sys2Proof.Machine

/-! ### The press -/

section
variable {c : Chip} {t : TaskId} {v : Vat} (hv : serving c v = true) (hm : c.sys.mode ≠ .standby)
include hv hm

/-- An image owed for the cycle before is delivered for it (R133). -/
theorem pressImage_owed {im : Image} (b : Bool) (ho : (taskSt c t).press.owing.get v = true) (hh : (taskSt c t).press.held = some im) :
    pressImage c v t b = owedImage c v t im := by
  simp only [pressImage, hv, hm, ho, hh, Bool.not_true, Bool.false_eq_true, or_self, if_false]

variable (ha : (taskSt c t).active = true) (hf : (taskSt c t).formed = true) (ho : (taskSt c t).press.owing.get v = false)
  (ht : (actOf (plane c v) t).tick = (taskSt c t).curdTick) (hr : (actOf (plane c v) t).running = [])
  (hn : (taskSt c t).press.images.get v = none)
include ha hf ho ht hr hn

/-- A complete image is compared and kept (R131, R132). -/
theorem pressImage_complete {im : Image} (hi : im = pressItems c t (actOf (plane c v) t)) :
    pressImage c v t true = lateResult (onPress (compareImage (noteSecond c t (taskSt c t).press) v t im) t
      fun x => { x with images := x.images.set v (some im) }) t := by
  simp only [pressImage, hi, hv, hm, ha, hf, ho, ht, hr, hn, Bool.not_true, Bool.false_eq_true, or_self, if_false, ne_eq,
    not_true_eq_false, Option.isSome_none]

/-- A wrong half is the press's own fault (R136). -/
theorem pressImage_wrongHalf :
    pressImage c v t false = todoHold { c with core := { c.core with pressFault := true } } 7 6 (some t) := by
  simp only [pressImage, hv, hm, ha, hf, ho, ht, hr, hn, Bool.not_true, Bool.not_false, Bool.false_eq_true, or_self, if_false, ne_eq,
    not_true_eq_false, Option.isSome_none, if_true]

end

section
variable {c : Chip} {t : TaskId} (ha : (taskSt c t).active = true) (hf : (taskSt c t).formed = true)
include ha hf

section
variable (hm : c.sys.mode ≠ .standby) (hc : (taskSt c t).press.closed = false) (ho : (taskSt c t).overrun = false)
  (ht : (taskSt c t).commitTick ≤ c.core.tick + (taskSt c t).guard)
include hm hc ho ht

/-- At the press close a result that stands counts (R40). -/
theorem pressClose_result {im : Image} (hr : (taskSt c t).press.result = some im) :
    pressClose c t = resultCloses (countWaits c t) t im := by
  have ht : ¬ c.core.tick + (taskSt c t).guard < (taskSt c t).commitTick := Nat.not_lt.mpr ht
  simp only [pressClose, ha, hf, hm, hc, ho, ht, hr, Bool.not_true, Bool.false_eq_true, or_self, if_false]

/-- Without one the task overruns; of two images one alone is PAIRMISS (R55, R149). -/
theorem pressClose_overrun (hr : (taskSt c t).press.result = none) :
    pressClose c t = overrunTask (if (taskSt c t).lone && loneImage (countWaits c t) t then todoHold (countWaits c t) 7 3 (some t)
      else countWaits c t) t := by
  have ht : ¬ c.core.tick + (taskSt c t).guard < (taskSt c t).commitTick := Nat.not_lt.mpr ht
  simp only [pressClose, ha, hf, hm, hc, ho, ht, hr, Bool.not_true, Bool.false_eq_true, or_self, if_false]

end

section
variable (ht : (taskSt c t).commitTick ≤ c.core.tick) (rb : Bool)
include ht

/-- In STANDBY the cycle ends at its commit instant (R260). -/
theorem taskCommit_standby (hm : c.sys.mode = .standby) : taskCommit c t rb = standbyCommit c t := by
  simp only [taskCommit, ha, hf, hm, Nat.not_lt.mpr ht, Bool.not_true, Bool.false_eq_true, or_self, if_false, if_true]

variable (hm : c.sys.mode ≠ .standby)
include hm

/-- The commit carries out the result (R40, R130). -/
theorem taskCommit_result {im : Image} (hc : (taskSt c t).press.closed = true) (hr : (taskSt c t).press.result = some im)
    (hp : c.core.pressFault = false) : taskCommit c t rb = commitResult c t im rb := by
  simp only [taskCommit, ha, hf, hm, hc, hr, hp, Nat.not_lt.mpr ht, Bool.not_true, Bool.false_eq_true, or_self, if_false]

/-- A commit instant that passes with the task overrunning (R55). -/
theorem taskCommit_overrun (hc : (taskSt c t).press.closed = false) (ho : (taskSt c t).overrun = true)
    (he : t.ev = false ∨ (taskSt c t).passed = false) : taskCommit c t rb = commitOverrun c t := by
  have he : ¬ (t.ev = true ∧ (taskSt c t).passed = true) := fun h => he.elim (by simp [h.1]) (by simp [h.2])
  simp only [taskCommit, ha, hf, hm, hc, ho, he, Nat.not_lt.mpr ht, Bool.not_true, Bool.false_eq_true, or_self, if_false, decide_false,
    Bool.not_false, and_self, if_true]

end

/-- An activation of which one of two images is still missing one deadline after its own press close is PAIRMISS (R133, R149). -/
def holdMissing (c : Chip) (t : TaskId) : Chip :=
  match t with
  | .event v =>
    if (taskSt c t).lone && loneImage c t && decide ((taskSt c t).commitTick + taskDl c v ≤ c.core.tick + (taskSt c t).guard)
    then todoHold c 7 3 (some t) else c
  | _ => c

/-- At the press close a held image expires (R133). -/
theorem pressHoldLimit_close (ht : (taskSt c t).commitTick ≤ c.core.tick + (taskSt c t).guard) :
    pressHoldLimit c t = holdLimit (holdMissing c t) t := by
  cases t <;>
    simp only [pressHoldLimit, holdMissing, ha, hf, ht, decide_true, Bool.and_self, Bool.true_or, Bool.true_and, Bool.false_eq_true,
      if_true, if_false]

omit hf in
/-- So it does one deadline after the own press close of the activation that committed (R133). -/
theorem pressHoldLimit_deadline {v : Fin 256} (he : t = .event v) (ht : c.core.tick + (taskSt c t).guard < (taskSt c t).commitTick)
    (hd : (taskSt c t).press.heldClose + taskDl c v ≤ c.core.tick) : pressHoldLimit c t = holdLimit c t := by
  subst he
  have hn : ¬ (taskSt c (.event v)).commitTick + taskDl c v ≤ c.core.tick + (taskSt c (.event v)).guard := by omega
  simp only [pressHoldLimit, ha, hd, hn, decide_true, decide_false, Bool.and_false, Bool.or_true, Bool.false_eq_true, if_true, if_false]

end

/-! ### Quiet points -/

section
variable {c : Chip}

/-- 10 ms without a quiet window of at least 20 µs count once (R61). -/
theorem quietMiss_counts (hm : quietMeasured c = true) (ht : c.core.missFrom + 10000 ≤ c.core.tick)
    (hw : c.core.quietSince = none ∨ ∃ q, c.core.quietSince = some q ∧ c.core.tick < q + 20) :
    quietMiss c = bump { c with core := { c.core with missFrom := c.core.missFrom + 10000 } } Reg.hxkQmiss.addr 31 0 := by
  rcases hw with hq | ⟨q, hq, hl⟩
  · simp only [quietMiss, hm, ht, hq, Bool.not_false, and_self, if_true]
  · simp only [quietMiss, hm, ht, hq, Nat.not_le.mpr hl, decide_false, Bool.not_false, and_self, if_true]

/-- At a quiet point what waits for one takes its turn (R143, R166, R259, R314). -/
theorem quietPoint_quiet (h : isQuiet c = true) :
    quietPoint c = finishFull (if recurdleQuiet (applyPdepth (applyPoints (applyWhy c)))
      then stepInTick (startFinal (applyPdepth (applyPoints (applyWhy c)))) else applyPdepth (applyPoints (applyWhy c))) := by
  simp only [quietPoint, h, if_true]

/-- A standby's final copy and step of time wait only for the ENDs that are due (R262). -/
theorem quietPoint_standby (h : isQuiet c = false) (hr : recurdleQuiet c = true) : quietPoint c = stepInTick (startFinal c) := by
  simp only [quietPoint, h, hr, Bool.false_eq_true, if_false, if_true]

end

/-- Settles O30: images by `pressImage_…`, the close by `pressClose_…`, the commit by `taskCommit_…`, the limit by `pressHoldLimit_…`,
quiet windows and points by `quietMiss_counts` and `quietPoint_…`. -/
theorem pressAndQuietPointsComplete : Obligations.PressAndQuietPointsComplete := by
  refine ⟨fun s t st hst ha hf => ?press, fun s => ⟨fun k hk hm ht hq => ?miss, fun c hq hc => ?quiet, fun hq hr => ?standbyQuiet⟩⟩
  case press =>
    subst hst
    refine ⟨fun v hv hm ho ht hr hn => ⟨fun im hi => ?complete, ?wrong⟩, fun v b im hv hm ho hh => ?owed,
      fun hm hc ho ht => ⟨fun im hr => ?result, fun c hr hd => ?overrun⟩, fun hm ht rb => ?standby,
      fun hm ht => ⟨fun im rb hc hr hp => ?commit, fun rb hc ho he => ?commitOverrun⟩, fun c ht hc => ?close,
      fun v he ht hd => ?deadline⟩
    case complete => exact run_settle s _ (pressImage · v t true) (pressImage_complete hv hm ha hf ho ht hr hn hi)
    case wrong => exact run_settle s _ (pressImage · v t false) (pressImage_wrongHalf hv hm ha hf ho ht hr hn)
    case owed => exact run_settle s _ (pressImage · v t b) (pressImage_owed hv hm b ho hh)
    case result => exact run_settleAll s _ (pressClose · t) (pressClose_result ha hf hm hc ho ht hr)
    case overrun =>
      subst hd
      exact run_settleAll s _ (pressClose · t) (pressClose_overrun ha hf hm hc ho ht hr)
    case standby => exact run_settleAll s _ (taskCommit · t rb) (taskCommit_standby ha hf ht rb hm)
    case commit => exact run_settleAll s _ (taskCommit · t rb) (taskCommit_result ha hf ht rb hm hc hr hp)
    case commitOverrun => exact run_settleAll s _ (taskCommit · t rb) (taskCommit_overrun ha hf ht rb hm hc ho he)
    case close =>
      obtain rfl : c = holdMissing s.chip t := hc
      exact run_settle s _ (pressHoldLimit · t) (pressHoldLimit_close ha hf ht)
    case deadline => exact run_settle s _ (pressHoldLimit · t) (pressHoldLimit_deadline ha he ht hd)
  case miss =>
    subst hk
    exact run_settle s _ quietMiss (quietMiss_counts hm ht hq)
  case quiet =>
    subst hc
    exact run_settleAll s _ quietPoint (quietPoint_quiet hq)
  case standbyQuiet => exact run_settleAll s _ quietPoint (quietPoint_standby hq hr)

end Sys2Proof.Machine
end

section
/-! The first steps of the power-up sequence, and the two ticks (R38, R112, R113, R194, R196, R217, R304, R307). -/

namespace Sys2Proof.Machine

/-! ### Power, Rennet and the random source -/

section
variable {c : Chip}

/-- The module begins the sequence at its reference, with the position pin read (R194, R233). -/
def beginAtPower (c : Chip) : Chip := beginSequence { c with ldl := { c.ldl with posb := Config.positionB } } .inert 0

section
variable (hd : c.pwr.downAt = none)
include hd

/-- Power brings the module to step 1 (R194). -/
theorem powerOn_off (h0 : c.sys.step = 0) : powerOn c = beginAtPower c := by
  simp only [powerOn, hd, h0, Option.isSome_none, Bool.false_eq_true, if_false, if_true, beginAtPower]

/-- A module that was running has lost it without hold-up first (R534). -/
theorem powerOn_running (h0 : c.sys.step ≠ 0) : powerOn c = beginAtPower (powerLost c) := by
  simp only [powerOn, hd, h0, Option.isSome_none, Bool.false_eq_true, if_false, beginAtPower]

end

/-- PROVE at step 3, with the Affineur up and the slot directory read (R194, R493). -/
def atStep3 (c : Chip) : Chip :=
  readDirectory (onSys (enterMode (writeModuleDescs c) .prove 2) fun y => { y with step := 3, affUp := true })

/-- The firmware slot that runs, with its version and format shown (R506, R512). -/
def firmwareShown (c : Chip) (k : Option (Fin 4)) : Chip :=
  match k with
  | some n => onUpd c fun u => { u with running := some n, fwver := slotVersion c n, sfmt := (fwHead (slotAt c n).held).2.1 }
  | none => c

/-- Rennet brings the module to step 3 with a firmware slot selected and the service port's address in force (R194, R504). -/
theorem rennetStart_passes {d : Chip} {k : Option (Fin 4)} (hm : c.sys.mode = .inert) (hs : c.sys.step = 1) (hf : flashOpen c = true)
    (hk : selectSlot (atStep3 c) 1 (fun c k => fwChecks c (slotAt c k).held) = (d, k)) :
    rennetStart c true = onUpd (firmwareShown d k) fun u =>
      { u with svcPort := (settings (firmwareShown d k)).svc.getD defaultSvc } := by
  rw [atStep3] at hk
  simp only [rennetStart, hm, hs, hf, hk, Bool.not_true, Bool.false_eq_true, ne_eq, not_true_eq_false, or_self, if_false]
  rfl

/-- The random source is ready, and the handshakes that waited for it go on (R113, R213). -/
theorem rngReady_opens (hs : 3 ≤ c.sys.step) :
    rngReady c = c.sys.waiting.foldl (fun c h => openSession c h.1 h.2) (onSys c fun y =>
      { y with rngReady := true, rngFailed := false, step := if y.step = 3 then 4 else y.step, waiting := [] }) := by
  simp only [rngReady, Nat.not_lt.mpr hs, if_false]

/-- A failure of the random source is recorded and leaves it not ready (R113). -/
theorem rngTestFail_ready (t : Fin 2) (hr : c.sys.rngReady = true) :
    rngTestFail c t = deviceRecord (onSys c fun y => { y with rngReady := false, rngFailed := true }) 0x00 0x05 (2 ^ t.val) := by
  simp only [rngTestFail, hr, Bool.not_true, Bool.false_eq_true, if_false]

end

/-! ### The proofs -/

section
variable {c : Chip} (hm : c.sys.mode = .prove) (hs : c.sys.stopped = false)
include hm hs

section
variable (hn : c.sys.step = 3 ∨ c.sys.step = 4)
include hn

/-- The Affineur's self-proof passes: the power cycle is counted, and the Cellar shown as found (R476, R482). -/
theorem affineurProof_passes :
    affineurProof c none = onSys (celLatch (cellarScan { c with cel := { c.cel with pwrcyc := satAdd 0xFFFFFF c.cel.pwrcyc 1 } }))
      fun y => { y with step := 5 } := by
  have h : ¬ (c.sys.step ≠ 3 ∧ c.sys.step ≠ 4) := by omega
  simp only [affineurProof, hm, hs, h, Bool.false_eq_true, ne_eq, not_true_eq_false, or_self, if_false]

/-- One that fails stops the module (R196). -/
theorem affineurProof_fails (n : BitVec 12) : affineurProof c (some n) = stopProve c 1 n.toNat := by
  have h : ¬ (c.sys.step ≠ 3 ∧ c.sys.step ≠ 4) := by omega
  simp only [affineurProof, hm, hs, h, Bool.false_eq_true, ne_eq, not_true_eq_false, or_self, if_false]

end

section
variable (hn : c.sys.step = 5)
include hn

/-- The Vats' start proof passes: their memories are reset, and time starts at the stored value (R38, R307). -/
theorem vatProof_passes {d : Chip}
    (hd : d = setTick { c with vats := c.vats.map fun _ => { VatPlane.reset with time := c.ptp.stored, descs := liveDescs c } }
      (c.ptp.stored / 1000)) :
    vatProof c none = onSys (onPtp { d with core := { d.core with carry := c.ptp.stored % 1000 * 2 ^ 32 } }
      fun p => { p with from_ := c.ptp.stored }) fun y => { y with step := 7 } := by
  simp only [vatProof, hm, hs, hn, hd, Bool.false_eq_true, ne_eq, not_true_eq_false, or_self, if_false]

theorem vatProof_fails (p : Fin 4) (n : BitVec 12) : vatProof c (some (p, n)) = stopProve c 1 ((p.val + 1) * 4096 + n.toNat) := by
  simp only [vatProof, hm, hs, hn, Bool.false_eq_true, ne_eq, not_true_eq_false, or_self, if_false]

end

section
variable (hn : c.sys.step = 7)
include hn

/-- The field units' self-tests pass: every lane is fresh (R430). -/
theorem fieldProof_passes :
    fieldProof c none = onSys (onFio c fun f => { f with lanes := f.lanes.map fun l => { l with fresh := some c.core.tick } })
      fun y => { y with step := 8 } := by
  simp only [fieldProof, hm, hs, hn, Bool.false_eq_true, ne_eq, not_true_eq_false, or_self, if_false]

theorem fieldProof_fails (n : BitVec 12) : fieldProof c (some n) = stopProve c 1 (5 * 4096 + n.toNat) := by
  simp only [fieldProof, hm, hs, hn, Bool.false_eq_true, ne_eq, not_true_eq_false, or_self, if_false]

end
end

/-- Settles O34: each step where it passes, and where its proof fails, by the lemma on its case. -/
theorem startSequenceComplete : Obligations.StartSequenceComplete := by
  refine ⟨fun s => ⟨fun hd => ⟨fun h0 => ?powerOff, fun c h0 hc => ?powerRunning⟩,
    fun c k d hm hs hf hk hd => ?rennet, fun hs => ?random, fun hm hs => ⟨fun hn => ?affineur, fun st c hn hst hc => ?vats, fun hn => ?field⟩⟩,
    fun s => ⟨fun hm hs => ⟨fun n hn => ?affineurFails, fun p n hn => ?vatsFail, fun n hn => ?fieldFails⟩, fun t hr => ?randomFails⟩⟩
  case powerOff => exact run_settleAll s _ powerOn (powerOn_off hd h0)
  case powerRunning =>
    subst hc
    exact run_settleAll s _ powerOn (powerOn_running hd h0)
  case rennet =>
    obtain rfl : d = firmwareShown c k := hd
    exact run_settleAll s _ (rennetStart · true) (rennetStart_passes hm hs hf hk)
  case random => exact run_settleAll s _ rngReady (rngReady_opens hs)
  case affineur => exact run_settleAll s _ (affineurProof · none) (affineurProof_passes hm hs hn)
  case vats =>
    subst hst
    exact run_settleAll s _ (vatProof · none) (vatProof_passes hm hs hn hc)
  case field => exact run_settleAll s _ (fieldProof · none) (fieldProof_passes hm hs hn)
  case affineurFails => exact run_settleAll s _ (affineurProof · (some n)) (affineurProof_fails hm hs hn n)
  case vatsFail => exact run_settleAll s _ (vatProof · (some (p, n))) (vatProof_fails hm hs hn p n)
  case fieldFails => exact run_settleAll s _ (fieldProof · (some n)) (fieldProof_fails hm hs hn n)
  case randomFails => exact run_settleAll s _ (rngTestFail · t) (rngTestFail_ready t hr)

/-! ### The two ticks -/

section
variable {c : Chip} (hs : 7 ≤ c.sys.step)
include hs

/-- The fast plane's tick: the tick that ends is closed, time advances, and what is judged at every tick is (R38, R224, R304, R322). -/
theorem fastPlaneTick_running {drift : Tri Int} {d : Chip}
    (hd : d = ladleTick (chargeDecision (slewEnd (stepAtTick (advanceTime (applyDepths (brgNext 64 (unitTick (evcTick c)))) drift))))) :
    fastPlaneTick c drift = if d.sys.affUp then healthCheck d else d := by
  simp only [fastPlaneTick, Nat.not_lt.mpr hs, if_false, hd]

/-- The Affineur's tick: the records of memory errors, power, time, Cellar, health, update and the words that wait for it (R217). -/
theorem managementTick_running {m : Mgmt} {d k : Chip} (hu : c.sys.affUp = true)
    (hd : d = m.scrub.foldl (fun c a => deviceRecord c 0x00 0x04 a.toNat) c)
    (hk : k = onFio (laneVoteTick (cellarTick (ptpTick (pwrTick d m)))) fun f => { f with lpDue := true }) :
    managementTick c m = applyManagement (updTick (healthSend k) (ready k)) := by
  simp only [managementTick, Nat.not_lt.mpr hs, hu, Bool.not_true, Bool.false_eq_true, or_self, if_false, hd, hk]

end

/-- Settles O36: `fastPlaneTick_running` and `managementTick_running`. -/
theorem ticksComplete : Obligations.TicksComplete := by
  refine fun s hs => ⟨fun drift c hc => ?fast, fun m c d hu hc hd => ?management⟩
  case fast =>
    intro k d
    have hd : d = ladleTick (chargeDecision (slewEnd (stepAtTick (advanceTime c drift)))) := rfl
    exact run_settleAll s _ (fastPlaneTick · drift) (fastPlaneTick_running hs (hc ▸ hd))
  case management => exact run_settleAll s _ (managementTick · m) (managementTick_running hs hu hc hd)

end Sys2Proof.Machine
end

section
/-! The instructions that change their own context alone: ALU and ALU64, the immediate forms, special registers, compares,
branches and floating point (R74, R77 to R86). -/

namespace Sys2Proof.Machine

section
variable {s : State} {e : Eng} {w : Enc} {r : Nat} {x : Ctx}

/-- The answer of an instruction follows from what its issue leaves of the module. -/
theorem next_after {c d : Chip} (h : c = d) : Host.Outcome.next (s.after c) = (.next (s.after d) : Host.Outcome State Fault Refusal) := by
  rw [h]

/-! ### Integer functions -/

/-- B is 0 where the function has one operand. -/
theorem unary_operand {u : Bool} {b : BitVec 4} (h : u = true → b = 0) : (u && decide (b ≠ 0)) = false := by
  simpa using h

/-- The result of ALU goes to gd, and with F = 1 the flags are set (R77, R78). -/
theorem aluOp_completes {c : Chip} (h : Ready c e 4 false r x) {o : AluOut 32} (hw : mbits w 5 0 = 0)
    (hb : aluUnary (mbits w 12 6) = true → w.b = 0) (ho : alu32 (mbits w 12 6) (rd x w.a) (rd x w.b) x.s.c = .ok o) :
    aluOp c e w = retire c e r
      (adv (wr (if w.minor.getLsbD 13 then { x with s := setZncv x.s o } else x) w.d o.r) 4) :=
  issue_done h (by rw [unary_operand hb]; simp [hw]) (by simp only [ho])

/-- The result of ALU64 goes to the pair gd (R78). -/
theorem alu64Op_completes {c : Chip} (h : Ready c e 4 false r x) {o : AluOut 64} (hw : mbits w 5 0 = 0)
    (hb : aluUnary (mbits w 12 6) = true → w.b = 0) (hd : evenReg w.d = true) (ha : evenReg w.a = true)
    (hs : aluShift (mbits w 12 6) = false → evenReg w.b = true)
    (ho : aluBoth (mbits w 12 6) (rdPair x w.a) (rdPair x w.b) ((rd x w.b).toNat % 64) x.s.c = some o) :
    alu64Op c e w = retire c e r
      (adv (wrPair (if w.minor.getLsbD 13 then { x with s := setZncv x.s o } else x) w.d o.r) 4) :=
  issue_done h (by rw [unary_operand hb]; simpa [hw, hd, ha] using hs) (by simp only [ho])

/-- Settles O13: `aluOp_completes` and `alu64Op_completes`. -/
theorem aluInstructionsComplete : Obligations.AluInstructionsComplete := fun s e w _ _ h =>
  ⟨fun _ hw hb ho => run_settle s _ (aluOp · e w) (aluOp_completes h hw hb ho),
    fun _ hw hb hd ha hs ho => run_settle s _ (alu64Op · e w) (alu64Op_completes h hw hb hd ha hs ho)⟩

/-! ### Immediate forms -/

section
variable {c : Chip} {ill : Bool} (f : Word → Word) (h : Ready c e 4 false r x)
include h

/-- An immediate form puts its function of ga in gd (R80). -/
theorem immOp_completes (hb : w.b = 0) (hi : ill = false) : immOp c e w ill f = retire c e r (adv (wr x w.d (f (rd x w.a))) 4) :=
  issue_done h (by simp [hb, hi]) rfl

/-- A field of an immediate form that must be 0 and is not (R71, R80). -/
theorem immOp_illegal (hb : w.b ≠ 0 ∨ ill = true) : immOp c e w ill f = raiseExc c e.vat e.num.val r .illegal :=
  issue_illegal h (by simpa using hb)

end

/-- SHI by its kind (R80). -/
theorem exec_shi (h : Ready s.chip e 4 false r x) (hb : w.b = 0) (hw : mbits w 11 5 = 0) {k : Nat} (hk : mbits w 13 12 = k) :
    exec (.shi e w) s = .next (s.after (retire s.chip e r (adv (wr x w.d (shiKind k (mbits w 4 0) (rd x w.a))) 4))) := by
  subst hk
  exact next_after (immOp_completes _ h hb (by simp [hw]))

/-- The low 15 bits of a word as SETQ takes them. -/
theorem ofNat_bits_14_0 (y : Word) : BitVec.ofNat 15 (bits y 14 0) = y.truncate 15 := by
  apply BitVec.eq_of_toNat_eq
  simp [bits]

section
variable {y : Word} (h : Ready s.chip e 8 false r x)
include h

/-- MOVI takes the extension word (R80). -/
theorem exec_movi (hm : w.minor = 0) (ha : w.a = 0) (hb : w.b = 0) :
    exec (.movi e w y) s = .next (s.after (retire s.chip e r (adv (wr x w.d y) 8))) :=
  next_after (issue_done h (by simp [hm, ha, hb]) rfl)

/-- SETQ takes the low 15 bits of the extension word (R80). -/
theorem exec_setq (hm : w.minor = 0) (hd : w.d = 0) (ha : w.a = 0) (hb : w.b = 0) (hy : bits y 31 15 = 0) :
    exec (.setq e w y) s = .next (s.after (retire s.chip e r (adv { x with q := y.truncate 15 } 8))) :=
  next_after (issue_done h (by simp [hm, hd, ha, hb, hy]) (by rw [ofNat_bits_14_0]))

theorem exec_movi_illegal (hw : w.minor ≠ 0 ∨ w.a ≠ 0 ∨ w.b ≠ 0) :
    exec (.movi e w y) s = .next (s.after (raiseExc s.chip e.vat e.num.val r .illegal)) :=
  next_after (issue_illegal h (by simpa [or_assoc] using hw))

theorem exec_setq_illegal (hw : w.minor ≠ 0 ∨ w.d ≠ 0 ∨ w.a ≠ 0 ∨ w.b ≠ 0 ∨ bits y 31 15 ≠ 0) :
    exec (.setq e w y) s = .next (s.after (raiseExc s.chip e.vat e.num.val r .illegal)) :=
  next_after (issue_illegal h (by simpa [or_assoc] using hw))

end

/-- Settles O14: the one-word forms by `immOp_completes` and `immOp_illegal`, SHI by `exec_shi`, MOVI and SETQ by their own lemmas. -/
theorem immediateFormsFollowR80 : Obligations.ImmediateFormsFollowR80 := by
  refine fun s e w y r x => ⟨fun h => ⟨fun hb => ?forms, fun hb => ?reserved, fun hb hw => ?shifts, fun hw => ?shiReserved⟩,
    fun h => ⟨exec_movi h, exec_setq h, fun hw => ⟨exec_movi_illegal h hw, ?setq⟩, fun hw => ?setqWord⟩⟩
  case forms =>
    exact ⟨next_after (immOp_completes _ h hb rfl), next_after (immOp_completes _ h hb rfl), next_after (immOp_completes _ h hb rfl),
      next_after (immOp_completes _ h hb rfl)⟩
  case reserved =>
    exact ⟨next_after (immOp_illegal _ h (.inl hb)), next_after (immOp_illegal _ h (.inl hb)), next_after (immOp_illegal _ h (.inl hb)),
      next_after (immOp_illegal _ h (.inl hb))⟩
  case shifts => exact ⟨exec_shi h hb hw, exec_shi h hb hw, exec_shi h hb hw, exec_shi h hb hw⟩
  case shiReserved => exact next_after (immOp_illegal _ h (by simpa using hw))
  case setq => exact exec_setq_illegal h (by tauto)
  case setqWord => exact exec_setq_illegal h (by tauto)

/-! ### Special registers -/

section
variable {c : Chip} (h : Ready c e 4 false r x) (hw : mbits w 9 4 = 0) (hb : w.b = 0)
include h hw hb

/-- MFS reads each special register (R74). -/
theorem sprOp_reads (ho : mbits w 13 10 = 0) (hn : mbits w 3 0 ≤ 8) (ha : w.a = 0) :
    sprOp c e w = retire c e r (adv (wr x w.d (sprRead e.num.val r x (mbits w 3 0))) 4) :=
  issue_done h (by simp [hw, hb, ho, hn, ha]) (if_pos ho)

variable (ho : mbits w 13 10 = 1)
include ho

/-- MTS of q (R74). -/
theorem sprOp_writes_q (hd : w.d = 0) (hn : mbits w 3 0 = 2) :
    sprOp c e w = retire c e r (adv { x with q := (rd x w.a).truncate 15 } 4) :=
  issue_done h (by simp [hw, hb, ho, hd, hn]) (by simp only [ho, hn, if_true, if_false, Nat.one_ne_zero])

/-- MTS of s (R74). -/
theorem sprOp_writes_s (hd : w.d = 0) (hn : mbits w 3 0 = 4) :
    sprOp c e w = retire c e r (adv { x with s := x.s.write (rd x w.a) } 4) :=
  issue_done h (by simp [hw, hb, ho, hd, hn])
    (by simp only [ho, hn, show ¬ (4 = 2) by decide, if_false, Nat.one_ne_zero])

omit hw hb in
/-- MTS of a register that is read-only (R74). -/
theorem sprOp_readOnly (h2 : mbits w 3 0 ≠ 2) (h4 : mbits w 3 0 ≠ 4) :
    sprOp c e w = raiseExc c e.vat e.num.val r .illegal :=
  issue_illegal h (by simp [ho, h2, h4])

end

/-- Settles O15: a read by `sprOp_reads`, a write by its register. -/
theorem specialRegistersComplete : Obligations.SpecialRegistersComplete := fun s e w _ _ h hw hb =>
  ⟨fun ho hn ha => run_settle s _ (sprOp · e w) (sprOp_reads h hw hb ho hn ha),
    fun ho hd => ⟨fun hn => run_settle s _ (sprOp · e w) (sprOp_writes_q h hw hb ho hd hn),
      fun hn => run_settle s _ (sprOp · e w) (sprOp_writes_s h hw hb ho hd hn),
      fun h2 h4 => run_settle s _ (sprOp · e w) (sprOp_readOnly h ho h2 h4)⟩⟩

/-! ### Compares -/

/-- A difference leaves the signed range exactly where its result is not the integers' difference. -/
theorem toInt_sub_ne_iff {n : Nat} (a b : BitVec n) : decide ((a - b).toInt ≠ a.toInt - b.toInt) = BitVec.ssubOverflow a b := by
  cases h : BitVec.ssubOverflow a b with
  | false => simp [BitVec.toInt_sub_of_not_ssubOverflow (Bool.eq_false_iff.mp h)]
  | true =>
    have hlt : (a - b).toInt < 2 ^ (n - 1) := BitVec.toInt_lt
    have hle : -2 ^ (n - 1) ≤ (a - b).toInt := BitVec.le_toInt _
    simp only [BitVec.ssubOverflow, Bool.or_eq_true, decide_eq_true_eq] at h
    exact decide_eq_true (by omega)

/-- SUB: the difference, the unsigned borrow and the signed overflow (Table: Integer flag results). -/
theorem subOut_eq {n : Nat} (a b : BitVec n) : subOut a b false = ⟨a - b, BitVec.ult a b, BitVec.ssubOverflow a b⟩ := by
  have h := toInt_sub_ne_iff a b
  simpa [subOut, b2n, BitVec.ult] using h

/-- The flags of a compare are those of SUB (R81). -/
theorem setZncv_subOut {n : Nat} (f : SReg) (a b : BitVec n) :
    setZncv f (subOut a b false) =
      { f with z := decide (a - b = 0), n := (a - b).msb, c := BitVec.ult a b, v := BitVec.ssubOverflow a b } := by
  rw [subOut_eq]
  rfl

/-- Settles O16: a compare completes with the flags of `setZncv_subOut`, and is ILLEGAL where a field must be 0 or a pair is odd. -/
theorem compareFollowsR81 : Obligations.CompareFollowsR81 := by
  refine fun s e w r x h => ⟨fun hd hm hw => ?words, fun hd hm hw ha hb => ?pairs, fun hf => ?reserved, fun hw hp => ?odd,
    fun hd hb => ?immediate, fun hf => ?immediateReserved⟩
  case words => exact next_after (issue_done h (by rw [hw]; simp [hm, hd])
    (by simp only [hw, Bool.false_eq_true, if_false, setZncv_subOut]))
  case pairs => exact next_after (issue_done h (by simp [hm, hd, ha, hb]) (by simp only [hw, if_true, setZncv_subOut]))
  case reserved =>
    refine next_after (issue_illegal h ?_)
    simp only [Bool.or_eq_true, decide_eq_true_eq]
    exact .inl hf.symm
  case odd => exact next_after (issue_illegal h (by rw [hw]; rcases hp with g | g <;> simp [g]))
  case immediate => exact next_after (issue_done h (by simp [hd, hb]) (by rw [setZncv_subOut]))
  case immediateReserved => exact next_after (issue_illegal h (by simpa using hf))

/-! ### Branches and SEL -/

theorem branchTarget_within {p t : Nat} (ht : (t : Int) = p + 4 * w.minor.toInt) (hl : t ≤ 0x7FFC) : branchTarget p w = some t := by
  have hc : 0 ≤ (t : Int) ∧ (t : Int) ≤ 0x7FFC := by omega
  simp only [branchTarget, msigned, ← ht, if_pos hc, Int.toNat_natCast]

theorem branchTarget_beyond {p : Nat} (ht : (p : Int) + 4 * w.minor.toInt < 0 ∨ 0x7FFC < (p : Int) + 4 * w.minor.toInt) :
    branchTarget p w = none := if_neg (by simp only [msigned]; omega)

section
variable {t : Nat} (ht : branchTarget x.p w = some t) (ha : w.a = 0) (hb : w.b = 0)
include ht ha hb

/-- BR to a target within the buffer (R86). -/
theorem exec_br (h : Ready s.chip e 4 (w.d = 0xF) r x) : exec (.br e w) s =
    .next (s.after (retire s.chip e r (if cond w.d.toNat x.s then { x with p := t } else adv x 4))) :=
  next_after (issue_done h (by simp [ha, hb]) (by simp only [ht]))

/-- DBNZ with a target within the buffer (R86). -/
theorem exec_dbnz (h : Ready s.chip e 4 false r x) : exec (.dbnz e w) s = .next (s.after (retire s.chip e r
    (if rd x w.d - 1 = 0 then adv (wr x w.d 0) 4 else { wr x w.d (rd x w.d - 1) with p := t }))) := by
  refine next_after (issue_done h (by simp [ha, hb]) ?_)
  by_cases hz : rd x w.d - 1 = 0
  · simp only [ht, hz, if_true, ne_eq, not_true_eq_false, if_false]
  · simp only [ht, hz, if_false, ne_eq, not_false_eq_true, if_true]

end

/-- An instruction is ILLEGAL by its encoding or by its own rules. -/
theorem issue_refused {c : Chip} {len : Nat} {ns ill : Bool} {body : Nat → Ctx → Effect} (h : Ready c e len ns r x)
    (hi : body r x = .exc .illegal ∨ ill = true) : issue c e len ns ill body = raiseExc c e.vat e.num.val r .illegal := by
  cases ill with
  | true => exact issue_illegal h rfl
  | false => exact issue_exc h rfl (hi.resolve_right Bool.false_ne_true)

section
variable (hf : branchTarget x.p w = none ∨ w.a ≠ 0 ∨ w.b ≠ 0)
include hf

/-- BR beyond the buffer or with a field that must be 0, whether or not its condition holds (R86). -/
theorem exec_br_illegal (h : Ready s.chip e 4 (w.d = 0xF) r x) :
    exec (.br e w) s = .next (s.after (raiseExc s.chip e.vat e.num.val r .illegal)) :=
  next_after (issue_refused h (hf.imp (fun g => by simp only [g]) (fun g => by simpa using g)))

/-- The same of DBNZ (R86). -/
theorem exec_dbnz_illegal (h : Ready s.chip e 4 false r x) :
    exec (.dbnz e w) s = .next (s.after (raiseExc s.chip e.vat e.num.val r .illegal)) :=
  next_after (issue_refused h (hf.imp (fun g => by simp only [g]) (fun g => by simpa using g)))

end

/-- Settles O17: the branches by their targets, SEL by its RSVD field. -/
theorem branchesFollowR86 : Obligations.BranchesFollowR86 := by
  refine fun s e w r x => ⟨fun t ht hl ha hb => ?within, fun hf => ?beyond, fun h => ⟨fun hm => ?sel, fun hm => ?selReserved⟩⟩
  case within =>
    have g := branchTarget_within ht hl
    exact ⟨exec_br g ha hb, exec_dbnz g ha hb⟩
  case beyond =>
    have g : branchTarget x.p w = none ∨ w.a ≠ 0 ∨ w.b ≠ 0 := (or_assoc.mpr hf).imp_left branchTarget_beyond
    exact ⟨exec_br_illegal g, exec_dbnz_illegal g⟩
  case sel => exact next_after (issue_done h (by simp [hm]) rfl)
  case selReserved => exact next_after (issue_illegal h (by simp [hm]))

/-! ### Floating point -/

/-- FOP32 on the codes of its operands (R83). -/
theorem exec_fop32 (h : Ready s.chip e 4 false r x) {v : Nat} (h13 : mbits w 13 13 = 0) (hw : mbits w 5 0 = 0)
    (hb : fopUnary (mbits w 12 6) = true → w.b = 0)
    (hv : fopFn b32 (mbits w 12 6) (rd x w.a).toNat (rd x w.b).toNat (rd x w.d).toNat = some v) :
    exec (.fop32 e w) s = .next (s.after (retire s.chip e r (adv (wr x w.d (BitVec.ofNat 32 v)) 4))) :=
  next_after (issue_done h (by rw [unary_operand hb]; simp [h13, hw]) (by simp only [hv]))

/-- FOP64 on the codes of its pairs (R83). -/
theorem exec_fop64 (h : Ready s.chip e 4 false r x) {v : Nat} (h13 : mbits w 13 13 = 0) (hw : mbits w 5 0 = 0)
    (hb : fopUnary (mbits w 12 6) = true → w.b = 0) (hd : evenReg w.d = true) (ha : evenReg w.a = true) (he : evenReg w.b = true)
    (hv : fopFn b64 (mbits w 12 6) (rdPair x w.a).toNat (rdPair x w.b).toNat (rdPair x w.d).toNat = some v) :
    exec (.fop64 e w) s = .next (s.after (retire s.chip e r (adv (wrPair x w.d (BitVec.ofNat 64 v)) 4))) :=
  next_after (issue_done h (by rw [unary_operand hb]; simp [h13, hw, hd, ha, he]) (by simp only [hv]))

/-- FCVT writes a word or a pair as its conversion says, and V (R84). -/
theorem exec_fcvt (h : Ready s.chip e 4 false r x) (hw : mbits w 7 0 = 0) (hb : w.b = 0) (hc : mbits w 13 10 ≤ 11)
    (hr : cvtToInt (mbits w 13 10) = false → mbits w 9 8 = 0) (ha : cvtWideSrc (mbits w 13 10) = true → evenReg w.a = true)
    (hd : cvtWideDst (mbits w 13 10) = true → evenReg w.d = true) {a : Nat} {v : Nat × Bool}
    (hs : a = if cvtWideSrc (mbits w 13 10) then (rdPair x w.a).toNat else (rd x w.a).toNat)
    (hv : cvtFn (mbits w 13 10) (mbits w 9 8) a = v) :
    exec (.fcvt e w) s = .next (s.after (retire s.chip e r (adv
      (if cvtWideDst (mbits w 13 10) then wrPair { x with s := { x.s with v := v.2 } } w.d (BitVec.ofNat 64 v.1)
        else wr { x with s := { x.s with v := v.2 } } w.d (BitVec.ofNat 32 v.1)) 4))) := by
  subst hs hv
  exact next_after (issue_done h (by simpa [hw, hb, hc] using ⟨⟨hr, ha⟩, hd⟩) rfl)

/-- FCMP sets Z by its predicate, V where an operand is NaN, and clears N and C (R85). -/
theorem exec_fcmp (h : Ready s.chip e 4 false r x) (hw : mbits w 9 0 = 0) (hd : w.d = 0) {f : Fmt} {a b : Nat} {z : Bool}
    (hf : w.minor.getLsbD 13 = false ∧ f = b32 ∧ a = (rd x w.a).toNat ∧ b = (rd x w.b).toNat ∨
      w.minor.getLsbD 13 = true ∧ evenReg w.a = true ∧ evenReg w.b = true ∧ f = b64 ∧ a = (rdPair x w.a).toNat ∧
        b = (rdPair x w.b).toNat) (hz : fcmpPred f (mbits w 12 10) a b = some z) :
    exec (.fcmp e w) s = .next (s.after (retire s.chip e r (adv { x with s := { x.s with
      z := z, n := false, c := false, v := decide (f.decode a = .nan) || decide (f.decode b = .nan) } } 4))) := by
  rcases hf with ⟨h13, rfl, rfl, rfl⟩ | ⟨h13, ha, hb, rfl, rfl, rfl⟩
  · exact next_after (issue_done h (by rw [h13]; simp [hw, hd]) (by simp only [h13, Bool.false_eq_true, if_false, hz]))
  · exact next_after (issue_done h (by simp [hw, hd, ha, hb]) (by simp only [h13, if_true, hz]))

/-- Settles O19: each family by its own lemma. -/
theorem floatingPointComplete : Obligations.FloatingPointComplete := by
  refine fun s e w r x h => ⟨fun v h13 hw hb hv => exec_fop32 h h13 hw hb hv,
    fun v h13 hw hb hd ha he hv => exec_fop64 h h13 hw hb hd ha he hv,
    fun a v hw hb hc hr ha hs hv => ⟨fun hd => ?word, fun hd he => ?pair⟩,
    fun z hw hd => ⟨fun h13 hz => exec_fcmp h hw hd (.inl ⟨h13, rfl, rfl, rfl⟩) hz,
      fun h13 ha hb hz => exec_fcmp h hw hd (.inr ⟨h13, ha, hb, rfl, rfl, rfl⟩) hz⟩⟩
  case word =>
    rw [exec_fcvt h hw hb hc hr ha (fun g => absurd g (Bool.eq_false_iff.mp hd)) hs hv, hd, if_neg Bool.false_ne_true]
  case pair => rw [exec_fcvt h hw hb hc hr ha (fun _ => he) hs hv, if_pos hd]

end

end Sys2Proof.Machine
end

section
/-! Calls and control: HND, NOP, RET, HALT, CALL and CALLR, and an exception raised again (R88, R89, R116, R184, R191). -/

namespace Sys2Proof.Machine

theorem mbits_of_minor_zero {w : Enc} (hm : w.minor = 0) (hi lo : Nat) : mbits w hi lo = 0 := by simp [mbits, hm]

/-! ### HND, NOP, RET and HALT -/

section
variable {c : Chip} {e : Eng} {w : Enc} {r : Nat} {x : Ctx} (hd : w.d = 0) (ha : w.a = 0) (hb : w.b = 0)
include hd ha hb

/-- HND stores the handler of the current frame, or clears it (R88). -/
theorem ctlOp_hnd {f : Frame} {fs : List Frame} (h : Ready c e 4 false r x) (ho : mbits w 13 12 = 1)
    (ht : x.p + 4 * mbits w 11 0 ≤ 0x7FFC) (hf : x.frames = f :: fs) :
    ctlOp c e w = retire c e r (adv { x with
      frames := { f with handler := if mbits w 11 0 = 0 then none else some (x.p + 4 * mbits w 11 0) } :: fs } 4) := by
  simp only [ctlOp, ho]
  exact issue_done h (by simp [hd, ha, hb]) (by simp only [hf, if_neg (Nat.not_lt.mpr ht)])

/-- NOP only goes on (R89). -/
theorem ctlOp_nop (h : Ready c e 4 false r x) (hm : w.minor = 0x2000) : ctlOp c e w = retire c e r (adv x 4) := by
  have ho : mbits w 13 12 = 2 := by simp [mbits, hm]
  have hz : mbits w 11 0 = 0 := by simp [mbits, hm]
  simp only [ctlOp, ho, hz]
  exact issue_done h (by simp [hd, ha, hb]) rfl

/-- HALT ends the chain, and the end of the setup program is noted (R89, R195). -/
theorem ctlOp_halt (h : Ready c e 4 true r x) (hm : w.minor = 0x3000) :
    ctlOp c e w = endChain (noteSetupEnd c e.vat x) e.vat e.num.val r := by
  have ho : mbits w 13 12 = 3 := by simp [mbits, hm]
  have hz : mbits w 11 0 = 0 := by simp [mbits, hm]
  simp only [ctlOp, ho, hz]
  exact issue_stop h (by simp [hd, ha, hb]) rfl

section
variable (h : Ready c e 4 true r x) (hm : w.minor = 0)
include h hm

/-- RET that goes on reaches a call boundary (R46, R88). -/
theorem ctlOp_ret_boundary {c' : Chip} {y : Ctx} (hr : retBody c e r x = .boundary c' y) :
    ctlOp c e w = if x.stop then endAtBoundary c e r x else retireAtBoundary c' e r y := by
  simp only [ctlOp, mbits_of_minor_zero hm]
  exact issue_at_boundary h (by simp [hd, ha, hb]) hr

/-- RET after the last block ends the chain (R88, R195). -/
theorem ctlOp_ret_last {f : Frame} (hf : x.frames = [f]) (hc : x.calls = []) :
    ctlOp c e w = endAtBoundary (noteSetupEnd c e.vat x) e r x := by
  simp only [ctlOp, mbits_of_minor_zero hm]
  exact issue_stop h (by simp [hd, ha, hb]) (by simp only [retBody, hf, hc]; rfl)

end

end

section
variable {c : Chip} {e : Eng} {r : Nat} {x : Ctx} {f : Frame}

/-- RET in a called block goes back to the caller's successor (R88). -/
theorem retBody_caller {g : Frame} {fs : List Frame} {t : Nat} (hf : x.frames = f :: g :: fs) (ht : f.ret = some t) :
    retBody c e r x = .boundary c { x with i := f.i, k := f.k, p := t, frames := g :: fs } := by
  simp only [retBody, hf, ht]

/-- RET in frame 1 lets the dispatcher call the next block (R88). -/
theorem retBody_dispatcher {n : Nat} {ns : List Nat} (hf : x.frames = [f]) (hc : x.calls = n :: ns) :
    retBody c e r x = .boundary c (dispatcherCall c.culture (plane c e.vat) e.num.val
      { x with i := f.i, k := f.k, frames := [], calls := ns } n) := by
  simp only [retBody, hf, hc]

end

/-! ### CALL and CALLR -/

/-- An extension word that is an address has [31:24] at 0. -/
theorem bits_address {y : Word} (hy : bits y 31 24 = 0) : bits y 23 0 = y.toNat := by
  have hl := y.isLt
  simp only [bits] at hy ⊢
  omega

/-- The code of the task that the header at `base` names (Table: Instance header). -/
def headerTask (p : VatPlane) (base : Nat) : Nat :=
  b2n (bit (memWord p base) 30) * 512 + b2n (bit (memWord p base) 29) * 256 + bits (memWord p base) 28 21

/-- The check of the header mark, passed. -/
theorem marked_passed {p : VatPlane} {base : Nat} (h8 : base % 8 = 0) (hk : p.marks.contains base = true) :
    (decide (base % 8 ≠ 0) || !p.marks.contains base) = false := by
  simp only [h8, hk]
  rfl

/-- MINOR [13] of a call and the fields that must be 0 are 0. -/
theorem call_legal {w : Enc} {ill : Bool} (hi : ill = false) (hm : w.minor.getLsbD 13 = false) :
    (ill || w.minor.getLsbD 13) = false := by rw [hi, hm, Bool.or_self]

section
variable {c : Chip} {e : Eng} {w : Enc} {len r : Nat} {x : Ctx} {ill : Bool} {baseOf : Ctx → Nat} {base : Nat}
  (h : Ready c e len false r x) (hi : ill = false) (hm : w.minor.getLsbD 13 = false) (hb : baseOf x = base)
include h hi hm hb

/-- A base with no header mark (R88, R115). -/
theorem callOp_unmarked (hp : base % 8 ≠ 0 ∨ (plane c e.vat).marks.contains base = false) :
    callOp c e w len ill baseOf = raiseExc c e.vat e.num.val r .protect :=
  issue_exc h (call_legal hi hm) (by simp only [hb]; exact if_pos (by simpa using hp))

variable (h8 : base % 8 = 0) (hk : (plane c e.vat).marks.contains base = true)
include h8 hk

/-- A call of what belongs to the engine and task, with fewer than 16 frames in use (R88), stalls while its bank is frozen (R184). -/
theorem callOp_owned (hf : x.frames.length < 16)
    (hn : bits (memWord (plane c e.vat) (base + 4)) 19 14 = e.num.val) (ht : headerTask (plane c e.vat) base = x.task.code) :
    callOp c e w len ill baseOf = if bankFrozen c e.vat base 8 then c else if x.stop then endAtBoundary c e r x
      else retireAtBoundary c e r
        { x with frames := ⟨some (x.p + len), x.p, x.i, x.k, none⟩ :: x.frames,
                 i := base, k := 8 * bits (memWord (plane c e.vat) base) 20 0, p := 4 * mbits w 12 0 } := by
  rw [headerTask] at ht
  cases hz : bankFrozen c e.vat base 8 with
  | true =>
    exact issue_stall h (call_legal hi hm) (by simp only [hb, marked_passed h8 hk, hz, Bool.false_eq_true, if_false, if_true])
  | false =>
    exact issue_at_boundary h (call_legal hi hm) (by
      simp only [hb, marked_passed h8 hk, hz, hn, ht, Nat.not_le.mpr hf, ne_eq, not_true_eq_false, or_self, Bool.false_eq_true,
        if_false])

variable (hz : bankFrozen c e.vat base 8 = false)
include hz

/-- A call with 16 frames in use (R88). -/
theorem callOp_deep (hf : 16 ≤ x.frames.length) : callOp c e w len ill baseOf = raiseExc c e.vat e.num.val r .calldepth :=
  issue_exc h (call_legal hi hm) (by simp only [hb, marked_passed h8 hk, hz, hf, Bool.false_eq_true, if_false, if_true])

/-- A call of what belongs to another engine or task (R88). -/
theorem callOp_foreign (hf : x.frames.length < 16)
    (ho : bits (memWord (plane c e.vat) (base + 4)) 19 14 ≠ e.num.val ∨ headerTask (plane c e.vat) base ≠ x.task.code) :
    callOp c e w len ill baseOf = raiseExc c e.vat e.num.val r .owner :=
  issue_exc h (call_legal hi hm) (by
    simp only [hb, marked_passed h8 hk, hz, Nat.not_le.mpr hf, Bool.false_eq_true, if_false]
    exact if_pos ho)

end

/-! ### An exception raised again -/

section
variable {c : Chip} {e : Eng} {r t : Nat} {x : Ctx} {ex : Exc} {f : Frame} {fs : List Frame}
  (hx : ctxOf (plane c e.vat) e.num.val r = x) (hf : x.frames = f :: fs) (hh : f.handler = some t)
include hx hf hh

/-- The handler of the current frame takes an exception with its code and site, and is cleared (R116). -/
theorem takeException_handled : takeException c e.vat e.num.val r ex = storeCtx c e r
    { x with s := { x.s with xcode := ex.code, xpc := ex.site }, p := t, seg := 0, exc := none, atBnd := false,
             frames := { f with handler := none } :: fs } := by
  simp only [takeException, hx, hf, hh, storeCtx, onPlane]

/-- The exception that waits in the context that an engine runs reaches the handler of its frame (R116). -/
theorem reraiseOp_handled (hc : (engOf (plane c e.vat) e.num.val).cur = some r) (hs : (plane c e.vat).state = .serving)
    (ho : x.on = true) (he : x.exc = some ex) (ha : stoppedAt (engOf (plane c e.vat) e.num.val) x = false) :
    reraiseOp c e = storeCtx c e r
      { x with s := { x.s with xcode := ex.code, xpc := ex.site }, p := t, seg := 0, exc := none, atBnd := false,
               frames := { f with handler := none } :: fs } := by
  rw [← takeException_handled hx hf hh]
  simp only [reraiseOp, hc, hx, hs, ho, he, ha, Bool.not_false, and_self, if_true]

end

/-- Settles O18: CTL by its operation, CALL and CALLR by `callOp_owned`, the exception by `reraiseOp_handled`. -/
theorem callsAndControlComplete : Obligations.CallsAndControlComplete := by
  refine fun s e w r x => ⟨fun hd ha hb => ⟨fun f fs h ho ht hf => ?hnd, fun h hm => ?nop, fun f g fs t h hm hf ht => ?caller,
    fun f n ns h hm hf hc => ?dispatcher, fun f h hm hf hc => ?last, fun h hm => ?halt⟩,
    fun y base len h hd hb hm h8 hk hf hn ht => ⟨fun hl ha hy hz => ?call, fun hl hy => ?callr⟩,
    fun ex f fs t hc hx hs ho he ha hf hh => run_settle s _ (reraiseOp · e) (reraiseOp_handled hx hf hh hc hs ho he ha)⟩
  case hnd => exact run_settle s _ (ctlOp · e w) (ctlOp_hnd hd ha hb h ho ht hf)
  case nop => exact run_settle s _ (ctlOp · e w) (ctlOp_nop hd ha hb h hm)
  case caller => exact run_settle s _ (ctlOp · e w) (ctlOp_ret_boundary hd ha hb h hm (retBody_caller hf ht))
  case dispatcher => exact run_settle s _ (ctlOp · e w) (ctlOp_ret_boundary hd ha hb h hm (retBody_dispatcher hf hc))
  case last => exact run_settle s _ (ctlOp · e w) (ctlOp_ret_last hd ha hb h hm hf hc)
  case halt => exact run_settle s _ (ctlOp · e w) (ctlOp_halt hd ha hb h hm)
  case call =>
    subst hl
    exact next_after (callOp_owned h (by simp [hd, ha, hb, hz]) hm ((bits_address hz).trans hy) h8 hk hf hn ht)
  case callr =>
    subst hl
    exact next_after (callOp_owned h (by simp [hd, hb]) hm hy h8 hk hf hn ht)

end Sys2Proof.Machine
end

section
/-! Memory: what a store, a drain and a block write change, and LD, ST, COPY, CRC and the drain of a store (R90 to R93, R114, R184,
R559). -/

namespace Sys2Proof.Machine

/-! ### Bytes written to a Vat's memory -/

section
variable {p : VatPlane} {n : Nat}

/-- A block written holds exactly its bytes at its address, and the memory stays in canonical form (R93). -/
theorem pokeMem_writes (hm : p.mem.wf = true) (a : Nat) (bs : List Byte) :
    (pokeMem p a bs).mem.wf = true ∧
    (∀ j b, bs[j]? = some b → memByte (pokeMem p a bs).mem (a + j) = b) ∧
    (∀ j, j < a ∨ a + bs.length ≤ j → memByte (pokeMem p a bs).mem j = memByte p.mem j) := by
  rw [pokeMem_mem]
  exact ⟨memWrite_wf _ _ _ hm, fun j b h => memByte_write_inside _ _ _ _ _ hm h, fun j h => memByte_write_outside _ _ _ _ h⟩

/-- A store waits in a store buffer that is not full (R559). -/
theorem bufStore_mem (a : Nat) (bs : List Byte) (h : (engOf p n).stbuf.length < 8) : (bufStore p n a bs).mem = p.mem := by
  simp only [bufStore, h, if_true, setEng_mem]

/-- The oldest entry of a store buffer is written and leaves it (R559). -/
theorem drainOne_eq {a : Nat} {bs : List Byte} {rest : List (Nat × List Byte)} (h : (engOf p n).stbuf = (a, bs) :: rest) :
    drainOne p n = pokeMem (setEng p n { engOf p n with stbuf := rest }) a bs := by
  simp only [drainOne, h]

theorem drainAll_of_empty (h : (engOf p n).stbuf = []) : drainAll p n = p := by
  simp only [drainAll, h, List.length_nil, List.range_zero, List.foldl_nil]

end

/-- Settles O10: a store by `bufStore_mem`, a drain by `drainOne_eq`, both a drain and a block by `pokeMem_writes`. -/
theorem memoryWritesFrame : Obligations.MemoryWritesFrame := by
  refine fun p n hm => ⟨bufStore_mem, fun a bs rest hwf hb => ?drain, pokeMem_writes hm, fun x w off bs hs hb => ?block,
    fun x w off bs hs => ?scratch⟩
  case drain =>
    have hq : (setEng p n { engOf p n with stbuf := rest }).mem.wf = true := hm
    obtain ⟨hk, hin, hout⟩ := pokeMem_writes hq a bs
    rw [drainOne_eq hb]
    refine ⟨hk, ?_, hin, hout⟩
    rw [show engOf (pokeMem _ a bs) n = engOf (setEng p n _) n from rfl, engOf_setEng_self _ _ _ (mapWf_sorted hwf)]
  case block => simp only [blockSpace, hs, Bool.false_eq_true, if_false, drainAll_of_empty hb]
  case scratch =>
    simp only [storeSpace, blockSpace, hs, if_true]
    exact ⟨trivial, trivial⟩

/-! ### The checks of an access -/

section
variable {cu : Culture} {p : VatPlane} {eng prio sp off n : Nat} {x : Ctx} {store : Bool} {win : Window}
  (hw : window cu p eng prio x sp store = some win)
include hw

theorem lsCheck_misaligned (ha : (win.base + off) % n ≠ 0) : lsCheck cu p eng prio x sp off n store = .error .align := by
  simp only [lsCheck, hw, if_pos ha]

variable (ha : (win.base + off) % n = 0)
include ha

theorem lsCheck_outside (ho : 2 ^ 32 ≤ off ∨ win.holds off n = false) :
    lsCheck cu p eng prio x sp off n store = .error .protect := by
  have hc : (decide (2 ^ 32 ≤ off) || !win.holds off n) = true := by simpa using ho
  simp only [lsCheck, hw, ha, ne_eq, not_true_eq_false, if_false, if_pos hc]

theorem lsCheck_within (ho : off < 2 ^ 32) (hh : win.holds off n = true) : lsCheck cu p eng prio x sp off n store = .ok win := by
  have hc : (decide (2 ^ 32 ≤ off) || !win.holds off n) = false := by simpa [hh] using ho
  simp only [lsCheck, hw, ha, hc, ne_eq, not_true_eq_false, if_false, Bool.false_eq_true]

end

/-! ### Loads and stores -/

section
variable {c : Chip} {e : Eng} {w : Enc} {len r off n : Nat} {x : Ctx} {ill : Bool} {ext : Option Word} {win : Window}
  (h : Ready c e len false r x) (hi : ill = false) (hn : n = 2 ^ mbits w 13 12) (ho : off = lsOffset w x ext)
include h hi hn ho

/-- A load that passes its checks takes the bytes of its space (R91, R92) unless their bank is frozen (R184). -/
theorem loadOp_completes (hl : lsIllegal w false = false)
    (hk : lsCheck c.culture (plane c e.vat) e.num.val r x (mbits w 10 9) off n false = .ok win) :
    loadOp c e w len ill ext = if spaceFrozen c e.vat e.num.val win off n false then c else retire c e r
      (adv (if n = 8 then wrPair x w.d (BitVec.ofNat 64 (natLE (readSpace (plane c e.vat) e.num.val x win off n)))
        else wr x w.d (loadValue w (readSpace (plane c e.vat) e.num.val x win off n))) len) := by
  subst hn ho
  exact issue_done_unless_frozen h (by rw [hi, hl]; rfl) (by simp only [hk])

theorem loadOp_traps {k : Xc} (hl : lsIllegal w false = false)
    (hk : lsCheck c.culture (plane c e.vat) e.num.val r x (mbits w 10 9) off n false = .error k) :
    loadOp c e w len ill ext = raiseExc c e.vat e.num.val r k := by
  subst hn ho
  exact issue_exc h (by rw [hi, hl]; rfl) (by simp only [hk])

/-- A store that passes its checks goes to its space (R91, R559), unless the store buffer is full and the bank of its oldest entry
frozen (R184). -/
theorem storeOp_completes {p : VatPlane} {k : Ctx} (hl : lsIllegal w true = false)
    (hk : lsCheck c.culture (plane c e.vat) e.num.val r x (mbits w 10 9) off n true = .ok win)
    (hs : storeSpace (plane c e.vat) e.num.val x win off
      (bytesLE n (if n = 8 then (rdPair x w.d).toNat else (rd x w.d).toNat)) = (p, k)) :
    storeOp c e w len ill ext =
      if !win.scratch && storeStalls c e then c else retire (setPlane c e.vat p) e r (adv k len) := by
  subst hn ho
  exact issue_done_unless_frozen h (by rw [hi, hl]; rfl) (by simp only [hk, hs])

theorem storeOp_traps {k : Xc} (hl : lsIllegal w true = false)
    (hk : lsCheck c.culture (plane c e.vat) e.num.val r x (mbits w 10 9) off n true = .error k) :
    storeOp c e w len ill ext = raiseExc c e.vat e.num.val r k := by
  subst hn ho
  exact issue_exc h (by rw [hi, hl]; rfl) (by simp only [hk])

end

/-- OFS and extension word [31:24] of LDX and STX at 0 (R91). -/
theorem extended_legal {w : Enc} {y : Word} (hm : mbits w 7 0 = 0) (hy : bits y 31 24 = 0) :
    (decide (mbits w 7 0 ≠ 0) || decide (bits y 31 24 ≠ 0)) = false := by
  simp only [hm, hy]
  rfl

/-! ### COPY, CRC and the drain -/

/-- COPY's fields are admitted where neither space is 3 (R71, R93). -/
theorem copyOp_legal {w : Enc} (hw : mbits w 9 0 = 0) (hs : mbits w 13 12 ≠ 3) (ht : mbits w 11 10 ≠ 3) :
    (decide (mbits w 9 0 ≠ 0) || decide (mbits w 13 12 = 3) || decide (mbits w 11 10 = 3)) = false := by
  simp only [hw, hs, ht]
  rfl

section
variable {c : Chip} {e : Eng} {w : Enc} {r n : Nat} {x : Ctx} (h : Ready c e 4 false r x)
include h

section
variable {src dst : Window} (hw : mbits w 9 0 = 0) (h1 : mbits w 13 12 ≠ 3) (h2 : mbits w 11 10 ≠ 3) (hn : n = (rd x w.b).toNat)
  (hl : n ≤ 4096)
  (hs : range? c.culture (plane c e.vat) e.num.val r x (mbits w 13 12) (rd x w.a).toNat n false = some src)
  (hd : range? c.culture (plane c e.vat) e.num.val r x (mbits w 11 10) (rd x w.d).toNat n true = some dst)
include hw h1 h2 hn hl hs hd

/-- An empty range moves nothing (R93). -/
theorem copyOp_empty (hz : n = 0) : copyOp c e w = retire c e r (adv x 4) := by
  subst hn
  exact issue_done h (copyOp_legal hw h1 h2) (by
    simp only [Nat.not_lt.mpr hl, hs, hd, if_false]
    exact if_pos hz)

/-- COPY moves a checked range to a checked range (R93) unless a bank of either is frozen (R184). -/
theorem copyOp_moves (hz : n ≠ 0) {p : VatPlane} {k : Ctx}
    (hb : blockSpace (plane c e.vat) e.num.val x dst (rd x w.d).toNat
      (readSpace (plane c e.vat) e.num.val x src (rd x w.a).toNat n) = (p, k)) :
    copyOp c e w = if spaceFrozen c e.vat e.num.val src (rd x w.a).toNat n false ||
        spaceFrozen c e.vat e.num.val dst (rd x w.d).toNat n true then c
      else retire (setPlane c e.vat p) e r (adv k 4) := by
  subst hn
  exact issue_done_unless_frozen h (copyOp_legal hw h1 h2) (by simp only [Nat.not_lt.mpr hl, hs, hd, hz, if_false, hb])

end

section
variable {bs : List Byte} {st : Nat} (hw : mbits w 8 0 = 0)
  (hst : st = crcBytes (if w.minor.getLsbD 10 then 0xFFFFFFFF else (rd x w.d).toNat) bs)
include hw hst

/-- CRC of a register (R114). -/
theorem crcOp_register (h13 : w.minor.getLsbD 13 = true) (hb : w.b = 0) (hsp : mbits w 12 11 = 0)
    (hbs : bs = bytesLE 4 (rd x w.a).toNat) : crcOp c e w = retire c e r
      (adv (wr x w.d (word (if w.minor.getLsbD 9 then Nat.xor st 0xFFFFFFFF else st))) 4) := by
  subst hst hbs
  exact issue_done h (by rw [h13]; simp [hw, hb, hsp]) (by simp only [h13, if_true])

/-- CRC of a range, unless its bank is frozen (R114, R184). -/
theorem crcOp_range (h13 : w.minor.getLsbD 13 = false) (hsp : mbits w 12 11 ≠ 3) (hl : (rd x w.b).toNat ≤ 4096) {win : Window}
    (hr : range? c.culture (plane c e.vat) e.num.val r x (mbits w 12 11) (rd x w.a).toNat (rd x w.b).toNat false = some win)
    (hbs : bs = readSpace (plane c e.vat) e.num.val x win (rd x w.a).toNat (rd x w.b).toNat) :
    crcOp c e w = if spaceFrozen c e.vat e.num.val win (rd x w.a).toNat (rd x w.b).toNat false then c else retire c e r
      (adv (wr x w.d (word (if w.minor.getLsbD 9 then Nat.xor st 0xFFFFFFFF else st))) 4) := by
  subst hst hbs
  refine issue_done_unless_frozen h (by rw [h13]; simp [hw, hsp]) ?_
  simp only [h13, Nat.not_lt.mpr hl, hr, Bool.false_eq_true, if_false]
  cases spaceFrozen c e.vat e.num.val win (rd x w.a).toNat (rd x w.b).toNat false <;> rfl

end

end

/-- The oldest buffered store of a SERVING Vat's engine is written unless its bank is frozen (R184, R559). -/
theorem exec_storeBufferDrain {s : State} {e : Eng} (hs : serving s.chip e.vat = true) :
    exec (.storeBufferDrain e) s = .next (s.after
      (if drainFrozen s.chip e then s.chip else onPlane s.chip e.vat fun p => drainOne p e.num.val)) := by
  refine next_after (d := if drainFrozen s.chip e then s.chip else onPlane s.chip e.vat fun p => drainOne p e.num.val) ?_
  rw [hs]
  cases drainFrozen s.chip e <;> rfl

/-- Settles O22: the accesses by `loadOp_completes` and `storeOp_completes`, COPY, CRC and the drain by their own lemmas. -/
theorem memoryInstructionsComplete : Obligations.MemoryInstructionsComplete := by
  refine ⟨fun s e w y r x len off n win ext h hn ho hlt hf hh ha => ⟨fun v hl hw hv => ?load, fun p k hl hw hs => ?store⟩,
    fun s e w r x => ⟨fun src dst n h hw h1 h2 hn hl hs hd => ?copy, fun bs st stalls h hw hf hst => ?crc, exec_storeBufferDrain⟩⟩
  case load =>
    intro t
    have hk := lsCheck_within hw ha hlt hh
    subst hv
    rcases hf with ⟨rfl, rfl⟩ | ⟨rfl, rfl, hm, hy⟩
    · exact ⟨fun _ => next_after (loadOp_completes h rfl hn ho hl hk), fun g => absurd g (by decide)⟩
    · exact ⟨fun g => absurd g (by decide), fun _ => next_after (loadOp_completes h (extended_legal hm hy) hn ho hl hk)⟩
  case store =>
    intro t
    have hk := lsCheck_within hw ha hlt hh
    rcases hf with ⟨rfl, rfl⟩ | ⟨rfl, rfl, hm, hy⟩
    · exact ⟨fun _ => next_after (storeOp_completes h rfl hn ho hl hk hs), fun g => absurd g (by decide)⟩
    · exact ⟨fun g => absurd g (by decide), fun _ => next_after (storeOp_completes h (extended_legal hm hy) hn ho hl hk hs)⟩
  case copy =>
    exact ⟨fun hz => run_settle s _ (copyOp · e w) (copyOp_empty h hw h1 h2 hn hl hs hd hz),
      fun p k hz hb => run_settle s _ (copyOp · e w) (copyOp_moves h hw h1 h2 hn hl hs hd hz hb)⟩
  case crc =>
    rcases hf with ⟨h13, hb, hsp, rfl, hbs⟩ | ⟨win, h13, hsp, hl, hr, rfl, hbs⟩
    · exact run_settle s _ (crcOp · e w) (crcOp_register h hw hst h13 hb hsp hbs)
    · exact run_settle s _ (crcOp · e w) (crcOp_range h hw hst h13 hsp hl hr hbs)

end Sys2Proof.Machine
end

section
/-! Where an instruction whose encoding is admitted raises its other exceptions, in the order of R115. -/

namespace Sys2Proof.Machine

section
variable {c : Chip} {e : Eng} {w : Enc} {r : Nat} {x : Ctx} (h : Ready c e 4 false r x)
include h

/-- COPY with a range that its space does not hold (R90, R93). -/
theorem copyOp_traps (hw : mbits w 9 0 = 0) (h1 : mbits w 13 12 ≠ 3) (h2 : mbits w 11 10 ≠ 3) (hl : (rd x w.b).toNat ≤ 4096)
    (hr : range? c.culture (plane c e.vat) e.num.val r x (mbits w 13 12) (rd x w.a).toNat (rd x w.b).toNat false = none ∨
      range? c.culture (plane c e.vat) e.num.val r x (mbits w 11 10) (rd x w.d).toNat (rd x w.b).toNat true = none) :
    copyOp c e w = raiseExc c e.vat e.num.val r .protect := by
  refine issue_exc h (copyOp_legal hw h1 h2) ?_
  rw [if_neg (Nat.not_lt.mpr hl)]
  split
  next src dst hs hd => simp [hs, hd] at hr
  next => rfl

/-- CRC of a range that its space does not hold (R90, R114). -/
theorem crcOp_traps (hw : mbits w 8 0 = 0) (h13 : w.minor.getLsbD 13 = false) (hsp : mbits w 12 11 ≠ 3) (hl : (rd x w.b).toNat ≤ 4096)
    (hr : range? c.culture (plane c e.vat) e.num.val r x (mbits w 12 11) (rd x w.a).toNat (rd x w.b).toNat false = none) :
    crcOp c e w = raiseExc c e.vat e.num.val r .protect :=
  issue_exc h (by rw [h13]; simp [hw, hsp]) (by simp only [h13, Nat.not_lt.mpr hl, hr, Bool.false_eq_true, if_false])

/-- A queue instruction that fails a check of R94 or R95. -/
theorem queueOp_traps {op : QOp} {k : Xc} (hi : qIllegal op w (x.task = .setup) = false) (hq : qCheck c e r x op w = some k) :
    queueOp c e op w = raiseExc c e.vat e.num.val r k := by
  refine issue_exc h ?_ (by simp only [hq])
  rw [h.run]
  exact hi

end

section
variable {s : State} {e : Eng} {w : Enc} {r : Nat} {x : Ctx} (h : Ready s.chip e 4 false r x)
include h

section
variable (hm : mbits w 11 0 = 0) (hd : w.d = 0) (hb : w.b = 0) (hsp : mbits w 13 12 ≠ 3)
include hm hd hb hsp

/-- EVR to a range that its space does not hold (R90, R102). -/
theorem exec_evr_protect
    (hr : range? s.chip.culture (plane s.chip e.vat) e.num.val r x (mbits w 13 12) (rd x w.a).toNat 16 true = none) :
    exec (.evr e w) s = .next (s.after (raiseExc s.chip e.vat e.num.val r .protect)) :=
  next_after (issue_exc h (by simp [hm, hd, hb, hsp]) (by simp only [hr]))

/-- EVR outside an event task (R102). -/
theorem exec_evr_image {win : Window} (ht : x.task.ev = false)
    (hr : range? s.chip.culture (plane s.chip e.vat) e.num.val r x (mbits w 13 12) (rd x w.a).toNat 16 true = some win) :
    exec (.evr e w) s = .next (s.after (raiseExc s.chip e.vat e.num.val r .image)) :=
  next_after (issue_exc h (by simp [hm, hd, hb, hsp]) (by simp only [hr, ht, Bool.not_false, if_true]))

end

/-- LOG of a range that its space does not hold (R90, R110). -/
theorem exec_log_protect (hm : mbits w 11 0 = 0) (hd : w.d = 0) (hsp : mbits w 13 12 ≠ 3)
    (hr : range? s.chip.culture (plane s.chip e.vat) e.num.val r x (mbits w 13 12) (rd x w.b).toNat 16 false = none) :
    exec (.log e w) s = .next (s.after (raiseExc s.chip e.vat e.num.val r .protect)) :=
  next_after (issue_exc h (by simp [hm, hd, hsp]) (by simp only [hr]))

/-- CREDIT of a queue that is not the context's, or of more credits than are deferred (R95). -/
theorem exec_credit_queue (hm : w.minor = 0) (hd : w.d = 0) (hb : w.b = 0)
    (hq : (descOf (plane s.chip e.vat) x.q.toNat).ok = false ∨ (descOf (plane s.chip e.vat) x.q.toNat).culture = false ∨
      (descOf (plane s.chip e.vat) x.q.toNat).cend ≠ ctxEndOf x e.num.val ∨
      (queueOf (plane s.chip e.vat) x.q.toNat).deferred < (rd x w.a).toNat) :
    exec (.credit e w) s = .next (s.after (raiseExc s.chip e.vat e.num.val r .queue)) :=
  next_after (issue_exc h (by simp [hm, hd, hb]) (if_pos (by simpa [or_assoc] using hq)))

/-- TIME in the setup program (R103). -/
theorem exec_time_setup (hm : mbits w 11 0 = 0) (ha : w.a = 0) (hb : w.b = 0) (hd : evenReg w.d = true) (ht : x.task = .setup) :
    exec (.time e w) s = .next (s.after (raiseExc s.chip e.vat e.num.val r .time)) :=
  next_after (issue_exc h (by simp [hm, ha, hb, hd]) (if_pos ht))

/-- WAITT for the press close or later (R104). -/
theorem exec_waitt_late (hm : w.minor = 0) (hd : w.d = 0) (hb : w.b = 0) (ha : evenReg w.a = true) (ht : x.task ≠ .setup)
    (hc : (ctxAct (plane s.chip e.vat) x).curdTime < (rdPair x w.a).toNat)
    (hp : (ctxAct (plane s.chip e.vat) x).pressTime ≤ (rdPair x w.a).toNat) :
    exec (.waitt e w) s = .next (s.after (raiseExc s.chip e.vat e.num.val r .time)) :=
  next_after (issue_exc h (by simp [hm, hd, hb, ha])
    (by simp only [if_neg ht, if_neg (Nat.not_le.mpr hc), if_pos hp]))

/-- RAISE in the setup program (R105). -/
theorem exec_raise_setup (hm : mbits w 13 6 = 0) (hd : w.d = 0) (ha : w.a = 0) (hb : w.b = 0) (ht : x.task = .setup) :
    exec (.raise e w) s = .next (s.after (raiseExc s.chip e.vat e.num.val r .image)) :=
  next_after (issue_exc h (by simp [hm, hd, ha, hb]) (if_pos ht))

end

section
variable {c : Chip} {e : Eng} {w : Enc} {y : Word} {r : Nat} {x : Ctx} {k : Xc} (h : Ready c e 8 false r x)
include h

/-- IN that fails a check of R90 or R101. -/
theorem inOp_traps (hi : imgIllegal w y false = false) (hk : imgCheck c e r x w y false = some k) :
    inOp c e w y = raiseExc c e.vat e.num.val r k := issue_exc h hi (by simp only [hk])

/-- OUT that fails a check of R90 or R101. -/
theorem outOp_traps (hi : imgIllegal w y true = false) (hk : imgCheck c e r x w y true = some k) :
    outOp c e w y = raiseExc c e.vat e.num.val r k := issue_exc h hi (by simp only [hk])

end

/-- The order of R115 in a call: the header mark, the frames in use, the owner. -/
theorem callOp_traps {c : Chip} {e : Eng} {w : Enc} {len r : Nat} {x : Ctx} {ill : Bool} {baseOf : Ctx → Nat} {base : Nat} {k : Xc}
    (h : Ready c e len false r x) (hi : ill = false) (hm : w.minor.getLsbD 13 = false) (hb : baseOf x = base)
    (hk : (base % 8 ≠ 0 ∨ (plane c e.vat).marks.contains base = false) ∧ k = .protect ∨
      base % 8 = 0 ∧ (plane c e.vat).marks.contains base = true ∧ bankFrozen c e.vat base 8 = false ∧
        (16 ≤ x.frames.length ∧ k = .calldepth ∨
          x.frames.length < 16 ∧ k = .owner ∧ (bits (memWord (plane c e.vat) (base + 4)) 19 14 ≠ e.num.val ∨
            headerTask (plane c e.vat) base ≠ x.task.code))) :
    callOp c e w len ill baseOf = raiseExc c e.vat e.num.val r k := by
  rcases hk with ⟨hp, rfl⟩ | ⟨h8, hmk, hz, ⟨hf, rfl⟩ | ⟨hf, rfl, ho⟩⟩
  · exact callOp_unmarked h hi hm hb hp
  · exact callOp_deep h hi hm hb h8 hmk hz hf
  · exact callOp_foreign h hi hm hb h8 hmk hz hf ho

/-- Settles O21: each access by the lemma of its check. -/
theorem accessesTrap : Obligations.AccessesTrap := by
  refine fun s e w y r x => ⟨fun len off n ext store win h hn ho hl hf hw k hk => ?access,
    fun h => ⟨fun hw h1 h2 hl hr => ?copy, fun hw h13 hsp hl hr => ?crc, fun hm hd hb hsp => ?evr, exec_log_protect h,
      fun op k hi hq => ?queue, fun d hd => ?credit, exec_time_setup h, exec_waitt_late h, exec_raise_setup h⟩,
    fun h k => ⟨fun hi hk => ?inPoint, fun hi hk => ?outPoint⟩,
    fun base len k h0 h1 h hm e0 e1 hf hk => ?call⟩
  case access =>
    have hc : lsCheck s.chip.culture (plane s.chip e.vat) e.num.val r x (mbits w 10 9) off n store = .error k := by
      rcases hk with ⟨ha, rfl⟩ | ⟨ha, hp, rfl⟩
      · exact lsCheck_misaligned hw ha
      · exact lsCheck_outside hw ha hp
    rcases hf with ⟨rfl, rfl⟩ | ⟨rfl, rfl, hm, hy⟩
    · refine ⟨fun _ hs => ?_, fun _ hs => ?_, fun g => absurd g (by decide), fun g => absurd g (by decide)⟩ <;> subst hs
      · exact next_after (loadOp_traps h rfl hn ho hl hc)
      · exact next_after (storeOp_traps h rfl hn ho hl hc)
    · refine ⟨fun g => absurd g (by decide), fun g => absurd g (by decide), fun _ hs => ?_, fun _ hs => ?_⟩ <;> subst hs
      · exact next_after (loadOp_traps h (extended_legal hm hy) hn ho hl hc)
      · exact next_after (storeOp_traps h (extended_legal hm hy) hn ho hl hc)
  case copy => exact run_settle s _ (copyOp · e w) (copyOp_traps h hw h1 h2 hl hr)
  case crc => exact run_settle s _ (crcOp · e w) (crcOp_traps h hw h13 hsp hl hr)
  case evr => exact ⟨exec_evr_protect h hm hd hb hsp, fun _ hr ht => exec_evr_image h hm hd hb hsp ht hr⟩
  case queue =>
    refine ⟨fun g => ?_, fun g => ?_, fun g => ?_⟩ <;> subst g <;> exact next_after (queueOp_traps h hi hq)
  case credit =>
    subst hd
    exact exec_credit_queue h
  case inPoint => exact run_settle s _ (inOp · e w y) (inOp_traps h hi hk)
  case outPoint => exact run_settle s _ (outOp · e w y) (outOp_traps h hi hk)
  case call =>
    subst e0 e1
    rcases hf with ⟨rfl, hd, ha, hb, hy, hbase⟩ | ⟨rfl, hd, hb, hbase⟩
    · exact ⟨fun _ => next_after (callOp_traps h (by simp [hd, ha, hb, hy]) hm hbase.symm hk), fun g => absurd g (by decide)⟩
    · exact ⟨fun g => absurd g (by decide), fun _ => next_after (callOp_traps h (by simp [hd, hb]) hm hbase.symm hk)⟩

end Sys2Proof.Machine
end

section
/-! The curd and the press image, the agreed instants and waits for the Vat's counter: IN, OUT, EVR, RAISE, TIME and WAITT (R98,
R100 to R105, R184, R191). -/

namespace Sys2Proof.Machine

/-! ### IN and OUT -/

section
variable {c : Chip} {e : Eng} {w : Enc} {y : Word} {r : Nat} {k : Ctx} (h : Ready c e 8 false r k)
include h

section
variable {v : PointVal} (hi : imgIllegal w y false = false) (hc : imgCheck c e r k w y false = none)
  (hv : v = curdPoint c (ctxAct (plane c e.vat) k) (bits y 15 0))
include hi hc hv

/-- IN of a word of the agreed value (R100). -/
theorem inOp_word (hf : mbits w 13 12 = 0) :
    inOp c e w y = retire c e r (adv (wr k w.d (word (natLE ((v.bytes.drop (bits y 31 16)).take 4)))) 8) := by
  subst hv
  exact issue_done h hi (by simp only [hc, hf])

/-- IN of a pair (R100). -/
theorem inOp_pair (hf : mbits w 13 12 = 1) :
    inOp c e w y = retire c e r (adv (wrPair k w.d (BitVec.ofNat 64 (natLE ((v.bytes.drop (bits y 31 16)).take 8)))) 8) := by
  subst hv
  exact issue_done h hi (by simp only [hc, hf])

/-- IN of a block to its range, unless the bank is frozen (R100, R184). -/
theorem inOp_block {win : Window} {p : VatPlane} {k' : Ctx} (hf : mbits w 13 12 = 2) (hn : rd k w.b ≠ 0)
    (hr : range? c.culture (plane c e.vat) e.num.val r k (mbits w 11 10) (rd k w.a).toNat (rd k w.b).toNat true = some win)
    (hb : blockSpace (plane c e.vat) e.num.val k win (rd k w.a).toNat
      ((v.bytes.drop (bits y 31 16)).take (rd k w.b).toNat) = (p, k')) :
    inOp c e w y = if spaceFrozen c e.vat e.num.val win (rd k w.a).toNat (rd k w.b).toNat true then c
      else retire (setPlane c e.vat p) e r (adv k' 8) := by
  subst hv
  have hz : (rd k w.b).toNat ≠ 0 := fun g => hn (BitVec.eq_of_toNat_eq g)
  exact issue_done_unless_frozen h hi (by simp only [hc, hf, hr, hz, hb, if_false])

/-- IN of the status (R100). -/
theorem inOp_status (hf : mbits w 13 12 = 3) : inOp c e w y = retire c e r (adv (wr k w.d v.status) 8) := by
  subst hv
  exact issue_done h hi (by simp only [hc, hf])

end

section
variable (hi : imgIllegal w y true = false) (hc : imgCheck c e r k w y true = none)
include hi hc

/-- OUT of a word (R100). -/
theorem outOp_word (hf : mbits w 13 12 = 0) : outOp c e w y = retire
    (writeImage c e.vat k (bits y 15 0) (bits y 31 16) (bytesLE 4 (rd k w.d).toNat)) e r (adv k 8) :=
  issue_done h hi (by simp only [hc, hf])

/-- OUT of a pair (R100). -/
theorem outOp_pair (hf : mbits w 13 12 = 1) : outOp c e w y = retire
    (writeImage c e.vat k (bits y 15 0) (bits y 31 16) (bytesLE 8 (rdPair k w.d).toNat)) e r (adv k 8) :=
  issue_done h hi (by simp only [hc, hf])

/-- OUT of a block from its range, unless the bank is frozen (R100, R184). -/
theorem outOp_block {win : Window} (hf : mbits w 13 12 = 2) (hn : rd k w.b ≠ 0)
    (hr : range? c.culture (plane c e.vat) e.num.val r k (mbits w 11 10) (rd k w.a).toNat (rd k w.b).toNat false = some win) :
    outOp c e w y = if spaceFrozen c e.vat e.num.val win (rd k w.a).toNat (rd k w.b).toNat false then c else retire
      (writeImage c e.vat k (bits y 15 0) (bits y 31 16)
        (readSpace (plane c e.vat) e.num.val k win (rd k w.a).toNat (rd k w.b).toNat)) e r (adv k 8) := by
  have hz : (rd k w.b).toNat ≠ 0 := fun g => hn (BitVec.eq_of_toNat_eq g)
  exact issue_done_unless_frozen h hi (by simp only [hc, hf, hr, hz, if_false])

end

end

/-! ### EVR and RAISE -/

section
variable {s : State} {e : Eng} {w : Enc} {r : Nat} {k : Ctx} (h : Ready s.chip e 4 false r k)
include h

/-- EVR stores the agreed event record, unless the bank is frozen (R102, R184). -/
theorem exec_evr_stores {win : Window} {p : VatPlane} {k' : Ctx} (hm : mbits w 11 0 = 0) (hd : w.d = 0) (hb : w.b = 0)
    (hsp : mbits w 13 12 ≠ 3) (ht : k.task.ev = true)
    (hr : range? s.chip.culture (plane s.chip e.vat) e.num.val r k (mbits w 13 12) (rd k w.a).toNat 16 true = some win)
    (hbk : blockSpace (plane s.chip e.vat) e.num.val k win (rd k w.a).toNat
      (padTo 16 (ctxAct (plane s.chip e.vat) k).record) = (p, k')) :
    exec (.evr e w) s = .next (s.after (if spaceFrozen s.chip e.vat e.num.val win (rd k w.a).toNat 16 true then s.chip
      else retire (setPlane s.chip e.vat p) e r (adv k' 4))) :=
  next_after (issue_done_unless_frozen h (by simp [hm, hd, hb, hsp])
    (by simp only [hr, ht, hbk, Bool.not_true, Bool.false_eq_true, if_false]))

/-- RAISE marks a culture event in the cycle's image (R105). -/
theorem exec_raise_marks (hm : mbits w 13 6 = 0) (hd : w.d = 0) (ha : w.a = 0) (hb : w.b = 0) (ht : k.task ≠ .setup) :
    exec (.raise e w) s = .next (s.after (retire
      (onImage s.chip e.vat k fun i => { i with raises := i.raises ||| (1 <<< mbits w 5 0) }) e r (adv k 4))) :=
  next_after (issue_done h (by simp [hm, hd, ha, hb]) (if_neg ht))

/-! ### TIME and WAITT -/

/-- The agreed instant that TIME names (R103). -/
def agreedInstant (a : Act) : Nat → Nat
  | 0 => a.curdTime
  | 1 => a.commitTime
  | 2 => a.tick
  | _ => a.pressTime

/-- TIME gives the agreed instant that MINOR names to a pair (R103). -/
theorem exec_time {n : Nat} (hm : mbits w 11 0 = 0) (ha : w.a = 0) (hb : w.b = 0) (hd : evenReg w.d = true) (ht : k.task ≠ .setup)
    (hn : mbits w 13 12 = n) : exec (.time e w) s = .next (s.after (retire s.chip e r
      (adv (wrPair k w.d (BitVec.ofNat 64 (agreedInstant (ctxAct (plane s.chip e.vat) k) n))) 4))) := by
  subst hn
  exact next_after (issue_done h (by simp [hm, ha, hb, hd]) (if_neg ht))

section
variable (hm : w.minor = 0) (hd : w.d = 0) (hb : w.b = 0) (ha : evenReg w.a = true) (ht : k.task ≠ .setup)
include hm hd hb ha ht

/-- WAITT for an instant that the curd time has reached goes on (R104). -/
theorem exec_waitt_past (hc : (rdPair k w.a).toNat ≤ (ctxAct (plane s.chip e.vat) k).curdTime) :
    exec (.waitt e w) s = .next (s.after (retire s.chip e r (adv k 4))) :=
  next_after (issue_done h (by simp [hm, hd, hb, ha]) (by simp only [if_neg ht, if_pos hc]))

/-- WAITT for an instant between the curd and the press close waits until the Vat's counter reaches it (R98, R104). -/
theorem exec_waitt_waits (hc : (ctxAct (plane s.chip e.vat) k).curdTime < (rdPair k w.a).toNat)
    (hp : (rdPair k w.a).toNat < (ctxAct (plane s.chip e.vat) k).pressTime) (hv : (plane s.chip e.vat).time < (rdPair k w.a).toNat) :
    exec (.waitt e w) s = .next (s.after (storeCtx s.chip e r { k with wait := .time (rdPair k w.a).toNat, atBnd := false })) :=
  next_after (issue_wait (y := { k with wait := .time (rdPair k w.a).toNat }) h (by simp [hm, hd, hb, ha])
    (by simp only [if_neg ht, if_neg (Nat.not_le.mpr hc), if_neg (Nat.not_le.mpr hp), if_neg (Nat.not_le.mpr hv)]))

end

end

/-- WAITT's wait ends once the Vat's counter has reached its target (R104). -/
theorem waittComplete_reached {c : Chip} {e : Eng} {r t : Nat} {k : Ctx} (hw : waitingCtx c e = some (r, k)) (hk : k.wait = .time t)
    (ht : t ≤ (plane c e.vat).time) :
    waittComplete c e = storeCtx c e r { k with p := k.p + 4, wait := .none, seg := k.seg + 1 } := by
  simp only [waittComplete, hw, hk, if_pos ht]
  rfl

/-- Settles O25: IN and OUT by their forms, the others by their own lemmas. -/
theorem imageAndTimeComplete : Obligations.ImageAndTimeComplete := by
  refine ⟨fun s e w y r k => ⟨fun v h hi hc hv => ?inPoint, fun h hi hc => ?outPoint,
    fun win p k' h hm hd hb hsp ht hr hbk => exec_evr_stores h hm hd hb hsp ht hr hbk, exec_raise_marks⟩,
    fun s e w r k a hact => ⟨fun h hm ha hb hd ht => ?time, fun h hm hd hb ha ht => ?waitt, fun t hw hk ht => ?complete⟩⟩
  case inPoint =>
    exact ⟨fun hf => run_settle s _ (inOp · e w y) (inOp_word h hi hc hv hf),
      fun hf => run_settle s _ (inOp · e w y) (inOp_pair h hi hc hv hf),
      fun win p k' hf hn hr hb => run_settle s _ (inOp · e w y) (inOp_block h hi hc hv hf hn hr hb),
      fun hf => run_settle s _ (inOp · e w y) (inOp_status h hi hc hv hf)⟩
  case outPoint =>
    exact ⟨fun hf => run_settle s _ (outOp · e w y) (outOp_word h hi hc hf),
      fun hf => run_settle s _ (outOp · e w y) (outOp_pair h hi hc hf),
      fun win hf hn hr => run_settle s _ (outOp · e w y) (outOp_block h hi hc hf hn hr)⟩
  case time =>
    subst hact
    exact ⟨exec_time h hm ha hb hd ht, exec_time h hm ha hb hd ht, exec_time h hm ha hb hd ht, exec_time h hm ha hb hd ht⟩
  case waitt =>
    subst hact
    exact ⟨exec_waitt_past h hm hd hb ha ht, exec_waitt_waits h hm hd hb ha ht⟩
  case complete => exact run_settle s _ (waittComplete · e) (waittComplete_reached hw hk ht)

end Sys2Proof.Machine
end

section
/-! Field lanes: what a frame of each kind does where the unit runs and its lanes are not turned, valid or not; what the loss of
refresh does to a lane and to the outputs; when OUTPUT_APPLY ends the inert state; what the debounce accepts. The statement on field
lanes follows from these. -/

namespace Sys2Proof.Machine

variable {c : Chip} {v : Vat} {ok : Bool} {seq : BitVec 8}

/-! ### Frames (R390 to R392) -/

section
variable (hf : fioOn c = true) (ht : turned c 11 = false)
include hf ht

theorem inputFrame_valid (hv : frameValid (c.fio.seqUp.get v) ok seq = true) :
    inputFrame c v ok seq = onFio (onFio c fun x => { x with seqUp := x.seqUp.set v (some seq) }) fun x =>
      { x with
        frames := x.frames.set v
          { path := x.paths.get v, fault := x.fault, openD := x.openD, tpflt := x.tpflt, fsok := x.fsok,
            time := (plane c v).time - 1000,
            alp := x.alp.filterMap fun e => (resultSent c.core.tick e.2).map fun r => (e.1, some r) } } := by
  simp [inputFrame, hf, ht, hv]

theorem inputFrame_bad (hv : frameValid (c.fio.seqUp.get v) ok seq = false) :
    inputFrame c v ok seq = laneBad (onFio c fun x => { x with seqUp := x.seqUp.set v (some seq) }) := by
  simp [inputFrame, hf, ht, hv]

theorem refreshFrame_valid (hv : frameValid (c.fio.seqDown.get v) ok seq = true) :
    refreshFrame c v ok seq = onFio (noteDown c v seq) fun x =>
      { x with lanes := x.lanes.upd v fun l => { l with off := false, fresh := some c.core.tick } } := by
  simp [refreshFrame, hf, ht, hv]

theorem refreshFrame_bad (hv : frameValid (c.fio.seqDown.get v) ok seq = false) :
    refreshFrame c v ok seq = laneBad (noteDown c v seq) := by
  simp [refreshFrame, hf, ht, hv]

section
variable {p : FPatch} {rest : List FPatch} (hp : c.fio.tx.get v = p :: rest)
include hp

/-- The command that a frame carries leaves the transmit queue, whether the frame is valid or not (R392). -/
theorem commandFrame_sent :
    commandFrame c v ok seq =
      if frameValid (c.fio.seqDown.get v) ok seq = true then
        onFio (noteDown (onFio c fun x => { x with tx := x.tx.set v rest }) v seq) fun x =>
          { x with lanes := x.lanes.upd v fun l => { l with pend := l.pend ++ [p] } }
      else laneBad (noteDown (onFio c fun x => { x with tx := x.tx.set v rest }) v seq) := by
  have hf' : fioOn (onFio c fun x => { x with tx := x.tx.set v rest }) = true := hf
  have ht' : turned (onFio c fun x => { x with tx := x.tx.set v rest }) 11 = false := ht
  cases hv : frameValid (c.fio.seqDown.get v) ok seq <;> simp [commandFrame, hp, hf', ht', hv]

theorem commandFrame_valid (hv : frameValid (c.fio.seqDown.get v) ok seq = true) :
    commandFrame c v ok seq = onFio (noteDown (onFio c fun x => { x with tx := x.tx.set v rest }) v seq) fun x =>
      { x with lanes := x.lanes.upd v fun l => { l with pend := l.pend ++ [p] } } :=
  (commandFrame_sent hf ht hp).trans (if_pos hv)

theorem commandFrame_bad (hv : frameValid (c.fio.seqDown.get v) ok seq = false) :
    commandFrame c v ok seq = laneBad (noteDown (onFio c fun x => { x with tx := x.tx.set v rest }) v seq) :=
  (commandFrame_sent hf ht hp).trans (if_neg (by simp [hv]))

end
end

/-! ### Refresh and the inert state (R20, R392, R402) -/

theorem refreshLoss_inert (h : (allVats.filter (laneFresh c)).length < 2) :
    refreshLoss c = onFio c fun x => { x with inert := true, lossAt := some c.core.tick } :=
  if_neg (Nat.not_le.mpr h)

theorem laneTimeout_off (h : laneFresh c v = false) :
    laneTimeout c v = onFio c fun x => { x with lanes := x.lanes.upd v fun l => { l with off := true } } :=
  if_neg (by simp [h])

/-- Each lane applies its own due commands (R402). -/
theorem lane_outputApply (u : Vat) : (outputApply c).fio.lanes.get u = (c.fio.lanes.get u).apply c.core.tick := by
  cases u <;> rfl

/-- Whether a pending command ends the inert state where it takes effect: it is due, and it was committed after the loss (R20). -/
def endsInert (c : Chip) (p : FPatch) : Bool :=
  decide (p.commit ≤ c.core.tick) && match c.fio.lossAt with | some t => decide (t < p.commit) | none => true

/-- Whether the outputs leave the inert state at this tick (R19, R20). -/
def outputsBack (c : Chip) : Bool :=
  (allVats.any fun v => (c.fio.lanes.get v).pend.any (endsInert c)) && decide (2 ≤ (allVats.filter (laneFresh c)).length) &&
    !c.pwr.fault.getLsbD 6

theorem outputApply_inert : (outputApply c).fio.inert = (c.fio.inert && !outputsBack c) := rfl

theorem endsInert_of_due {p : FPatch} (hd : p.commit ≤ c.core.tick) (hl : ∀ t, c.fio.lossAt = some t → t < p.commit) :
    endsInert c p = true := by
  cases ht : c.fio.lossAt with
  | none => simp [endsInert, ht, hd]
  | some t => simp [endsInert, ht, hd, hl t ht]

/-- A command of any one lane is enough, with two lanes refreshed and the field-logic supply there. -/
theorem outputsBack_of_pending {p : FPatch} (hp : p ∈ (c.fio.lanes.get v).pend) (he : endsInert c p = true)
    (h2 : 2 ≤ (allVats.filter (laneFresh c)).length) (hs : c.pwr.fault.getLsbD 6 = false) : outputsBack c = true := by
  have hv : v ∈ allVats := by cases v <;> decide
  have hany : (allVats.any fun u => (c.fio.lanes.get u).pend.any (endsInert c)) = true :=
    List.any_eq_true.mpr ⟨v, hv, List.any_eq_true.mpr ⟨p, hp, he⟩⟩
  simp only [outputsBack, hany, h2, hs, decide_true, Bool.not_false, Bool.and_self]

theorem outputsBack_of_few_fresh (h : (allVats.filter (laneFresh c)).length < 2) : outputsBack c = false := by
  simp only [outputsBack, Nat.not_le.mpr h, decide_false, Bool.and_false, Bool.false_and]

/-! ### Digital inputs (R393, R394) -/

/-- Every class reads OFF below the level from which it reads ON. -/
theorem classLevels_off_lt_on (k : Nat) : (classLevels k).2 < (classLevels k).1 := by
  unfold classLevels
  split <;> decide

section
variable {n : Nat} {x : RawInput}

theorem rawLevel_on (h : (classLevels (inputClass c n)).1 ≤ x.volt) : rawLevel c n x = true := if_pos h

theorem rawLevel_not_on (h : x.volt < (classLevels (inputClass c n)).1) :
    rawLevel c n x = if x.volt ≤ (classLevels (inputClass c n)).2 then false else x.reads := if_neg (Int.not_le.mpr h)

theorem rawLevel_off (h : x.volt ≤ (classLevels (inputClass c n)).2) : rawLevel c n x = false :=
  (rawLevel_not_on (Int.lt_of_le_of_lt h (classLevels_off_lt_on _))).trans (if_pos h)

theorem rawLevel_between (hlo : (classLevels (inputClass c n)).2 < x.volt) (hhi : x.volt < (classLevels (inputClass c n)).1) :
    rawLevel c n x = x.reads :=
  (rawLevel_not_on hhi).trans (if_neg (Int.not_le.mpr hlo))

/-- A level that has stood for the debounce time is accepted as the path reads it (R394). -/
theorem debounceAccept_stood {run : Nat} {b : Bool} (hf : fioOn c = true)
    (hd : 99000 * fieldOf c (Reg.dioDicfg.addr n) 31 16 ≤ 100 * debounceRun c n run + 5000) (hb : rawLevel c n x = b) :
    debounceAccept c v n x run = onPath c v fun p =>
      { p with levels := if b then p.levels ||| (1 <<< n) else p.levels &&& ~~~((1 : BitVec 64) <<< n) } := by
  subst hb
  have hw : ¬ 100 * debounceRun c n run + 5000 < 99000 * fieldOf c (Reg.dioDicfg.addr n) 31 16 := Nat.not_lt.mpr hd
  simp only [debounceAccept, hf, hw, decide_false, Bool.not_true, Bool.or_self, Bool.false_eq_true, if_false]

end

/-- Settles O55: one lemma for each kind of frame, valid or bad, then refresh, OUTPUT_APPLY by what it does to the inert state and
to each lane, and the debounce by what the path reads. -/
theorem fieldLanesComplete : Obligations.FieldLanesComplete := by
  refine fun s => ⟨fun v seq hf ht => ⟨?input, fun ok => ?refresh, fun ok p rest hp => ?command⟩, fun h => ?loss, fun v h => ?timeout,
    fun v p hp hd => ⟨outputApply s.chip, ?apply⟩, fun v n x run hf hd => ?debounce⟩
  case input =>
    rintro ok _ rfl
    exact ⟨fun hv => run_settleAll s _ (inputFrame · v ok seq) (inputFrame_valid hf ht hv),
      fun hv => run_settleAll s _ (inputFrame · v ok seq) (inputFrame_bad hf ht hv)⟩
  case refresh =>
    exact ⟨fun hv => run_settleAll s _ (refreshFrame · v ok seq) (refreshFrame_valid hf ht hv),
      fun hv => run_settleAll s _ (refreshFrame · v ok seq) (refreshFrame_bad hf ht hv)⟩
  case command =>
    exact ⟨fun hv => run_settleAll s _ (commandFrame · v ok seq) (commandFrame_valid hf ht hp hv),
      fun hv => run_settleAll s _ (commandFrame · v ok seq) (commandFrame_bad hf ht hp hv)⟩
  case loss => exact run_settleAll s _ refreshLoss (refreshLoss_inert h)
  case timeout => exact run_settleAll s _ (laneTimeout · v) (laneTimeout_off h)
  case apply =>
    refine ⟨run_settleAll s _ outputApply rfl, fun h2 hs hl => ?ends, fun h => ?stays, fun u l hl => hl ▸ lane_outputApply u⟩
    case ends => rw [outputApply_inert, outputsBack_of_pending hp (endsInert_of_due hd hl) h2 hs, Bool.not_true, Bool.and_false]
    case stays => rw [outputApply_inert, outputsBack_of_few_fresh h, Bool.not_false, Bool.and_true]
  case debounce =>
    have accepts {b : Bool} (hb : rawLevel s.chip n.val x = b) :=
      run_settleAll s _ (debounceAccept · v n.val x run) (debounceAccept_stood hf hd hb)
    exact ⟨fun hon => accepts (rawLevel_on hon), fun hoff => accepts (rawLevel_off hoff), fun hlo hhi => accepts (rawLevel_between hlo hhi)⟩

end Sys2Proof.Machine
end

section
/-! The messages of Whey (R161, R170 to R173, R175, R184) and one decision of a slot arbiter (R180, R181, R183, R186). -/

namespace Sys2Proof.Machine

/-! ### Transfer and credit messages -/

section
variable {c : Chip} {v : Vat} {q n k : Nat} {x y : Queue}

/-- A queue with an entry in transit takes the oldest one to its storage. -/
theorem deliver_of_transit {en : Entry} {ens : List Entry} (ht : x.transit = en :: ens) :
    x.deliver = { x with transit := ens, entries := x.entries ++ [en] } := by
  simp only [Queue.deliver, ht]

/-- A transfer to a Vat's queue stores its entry, unless the bank is frozen (R161, R184). -/
theorem transferVat_stores {en : Entry} {ens : List Entry} (hq : queueOf (plane c v) q = x) (ht : x.transit = en :: ens)
    (hw : wheyRuns (plane c v) = true) :
    transferVat c v q true =
      if bankFrozen c v (entryAddr (descOf (plane c v) q) (x.head + x.entries.length)) (descOf (plane c v) q).size then c
      else setPlane c v (storeEntry (setQueue (plane c v) q { x with transit := ens, entries := x.entries ++ [en] })
        (descOf (plane c v) q) x) := by
  simp only [transferVat, hq, hw, ← deliver_of_transit ht, Bool.not_true, Bool.false_or]
  split
  · rfl
  · simp only [ht, if_true]

theorem transferDev_stores {en : Entry} {ens : List Entry} (hq : devQueue c q = x) (ht : x.transit = en :: ens) :
    transferDev c q true = setDevQueue c q { x with transit := ens, entries := x.entries ++ [en] } := by
  simp only [transferDev, hq, ht, if_true, deliver_of_transit ht]

/-- Credits that the producer can take leave what `releaseHeld` appends (R170, R175). -/
theorem creditMsg_taken {d : Desc} {num : Nat} (hs : n ≤ x.spent)
    (hr : releaseHeld d { x with spent := x.spent - n, back := x.back - n } num = (y, k)) :
    creditMsg d x n num = some (y, k) := by
  rw [creditMsg, if_neg (Nat.not_lt.mpr hs), Queue.credited, hr]

theorem creditVat_taken (hq : queueOf (plane c v) q = x) (hw : wheyRuns (plane c v) = true) (hs : n ≤ x.spent)
    (hr : releaseHeld (descOf (plane c v) q) { x with spent := x.spent - n, back := x.back - n } (plane c v).seq = (y, k)) :
    creditVat c v q n true = setPlane c v { setQueue (plane c v) q y with seq := k } := by
  simp only [creditVat, hq, hw, creditMsg_taken hs hr, Bool.not_true, Bool.false_eq_true, if_false]

theorem creditDev_taken (hq : devQueue c q = x) (hs : n ≤ x.spent)
    (hr : releaseHeld (liveDesc c q) { x with spent := x.spent - n, back := x.back - n } c.core.devSeq = (y, k)) :
    creditDev c q n true = setDevQueue { c with core := { c.core with devSeq := k } } q y := by
  simp only [creditDev, hq, creditMsg_taken hs hr, Bool.not_true, Bool.false_eq_true, if_false]

end

section
variable {s : State} {v : Vat} {q n : Nat}

theorem exec_transferMessage_vat : exec (.transferMessage (some v) q true) s = .next (s.after (transferVat s.chip v q true)) := rfl
theorem exec_transferMessage_dev : exec (.transferMessage none q true) s = .next (s.after (transferDev s.chip q true)) := rfl

/-- A message of 1 to 16 credits, after which a waiting channel of the Affineur may append (R171, R175). -/
theorem exec_creditMessage (o : Option Vat) (h1 : 1 ≤ n) (h16 : n ≤ 16) : exec (.creditMessage o q n true) s =
    .next (s.after (mdFeed (match o with | some v => creditVat s.chip v q n true | none => creditDev s.chip q n true))) := by
  have hn : ¬ (n = 0 ∨ 16 < n) := by omega
  exact run_settle s _ (fun c => if n = 0 ∨ 16 < n then c else _) (if_neg hn)

end

/-! ### One decision of an arbiter -/

section
variable {c : Chip} {key a : Nat} {x y z : Arbiter} {g : Option Nat}

/-- The key of an arbiter names it: banks by the keys below 96. -/
theorem arbNum_arbKey (a : Nat) (v : Vat) : arbNum (arbKey a v) = a := by
  have hv : v.num < 3 := by cases v <;> decide
  unfold arbNum arbKey
  split
  · rw [if_pos (by omega)]
    omega
  · rw [if_neg (by omega)]
    omega

/-- The requests raised since the last decision join those that wait, each with the clock at which it was raised; `k` clocks have
passed (R181). -/
def withRaised (x : Arbiter) (raised : List (Nat × Nat)) (k : Nat) : Arbiter :=
  { x with clock := x.clock + k, holder := none,
           reqs := raised.foldl (fun m i => if (mapGet none m i.1).isSome then m
             else mapPut none m i.1 (some (x.clock + k - min i.2 k))) x.reqs }

/-- The slot table at the end of a decision: a committed one becomes live where the pointer has wrapped (R183). -/
def tableAtEnd (z : Arbiter) : Arbiter × Option (SMap Word) :=
  match z.staged with
  | some t => if z.ptr = 0 then ({ z with table := t, staged := none }, some t) else (z, none)
  | none => (z, none)

theorem tableAtEnd_keeps (h : z.staged = none ∨ z.ptr ≠ 0) : tableAtEnd z = (z, none) := by
  cases hs : z.staged with
  | none => simp only [tableAtEnd, hs]
  | some t =>
    have hp : z.ptr ≠ 0 := h.resolve_left (by simp [hs])
    simp only [tableAtEnd, hs, if_neg hp]

theorem tableAtEnd_wraps {t : SMap Word} (hs : z.staged = some t) (hp : z.ptr = 0) :
    tableAtEnd z = ({ z with table := t, staged := none }, some t) := by
  simp only [tableAtEnd, hs, if_pos hp]

/-- `z` is the arbiter `y` once the grant `g` has been taken at `clock`: the granted request leaves, the pointer advances, the
longest wait is kept (R181, R186). -/
def GrantTaken (y z : Arbiter) (clock : Nat) (g : Option Nat) : Prop :=
  g = none ∧ z = { y with ptr := (y.ptr + 1) % 256 } ∨
  ∃ i t, g = some i ∧ mapGet none y.reqs i = some t ∧
    z = { y with ptr := (y.ptr + 1) % 256, wmax := max y.wmax (clock - t), holder := some i, reqs := mapErase y.reqs i }

/-- A grant leaves the committed table as it is. -/
theorem grantOf_staged (c : Chip) (key : Nat) (x : Arbiter) : (grantOf c key x).2.staged = x.staged := by
  simp only [grantOf]
  repeat' split
  all_goals rfl

section
variable {raised : List (Nat × Nat)} {clk k : Nat} (hg : grantOf c key (withRaised (arbOf c key) raised k) = (g, y))
  (hz : GrantTaken y z ((arbOf c key).clock + k) g)

theorem GrantTaken.staged {n : Nat} (h : GrantTaken y z n g) : z.staged = y.staged := by
  rcases h with ⟨-, rfl⟩ | ⟨i, t, -, -, rfl⟩ <;> rfl

theorem GrantTaken.ptr {n : Nat} (h : GrantTaken y z n g) : z.ptr = (y.ptr + 1) % 256 := by
  rcases h with ⟨-, rfl⟩ | ⟨i, t, -, -, rfl⟩ <;> rfl

include hg hz

theorem staged_of_grantTaken : z.staged = (arbOf c key).staged := by
  have h := grantOf_staged c key (withRaised (arbOf c key) raised k)
  rw [hg] at h
  exact hz.staged.trans h

/-- What a decision leaves of the module, by its grant and the slot table at its end. -/
theorem arbDecide_of_grantTaken (hk : grantClocks (arbNum key) (arbOf c key) clk = k) :
    (arbDecide c key raised clk).1 = (tableAtEnd z).2.elim (setArb c key (tableAtEnd z).1)
      (slotsLive (setArb c key (tableAtEnd z).1) (arbNum key)) := by
  rw [withRaised] at hg
  subst hk
  rcases hz with ⟨rfl, rfl⟩ | ⟨i, t, rfl, ht, rfl⟩
  on_goal 1 => simp only [arbDecide, hg, Nat.max_zero, tableAtEnd]
  on_goal 2 => simp only [arbDecide, hg, ht, tableAtEnd]
  all_goals
    cases y.staged with
    | none => rfl
    | some t => by_cases hp : (y.ptr + 1) % 256 = 0 <;> simp only [hp, if_true, if_false, Option.elim]

end

end

theorem exec_arbiterDecision (a : Fin 36) (v : Vat) (m : List (Fin 64 × BitVec 16)) (clk : BitVec 16) (s : State) :
    exec (.arbiterDecision a v m clk) s = .next (s.after
      (arbDecide s.chip (arbKey a.val v) (m.map fun i => (i.1.val, i.2.toNat)) clk.toNat).1) := rfl

/-- Settles O24: each message by the lemma on its end, a decision by `arbDecide_of_grantTaken`. -/
theorem fabricAndArbiterComplete : Obligations.FabricAndArbiterComplete := by
  refine ⟨fun s v q n => ⟨?transferVat, ?transferDev, ?creditVat, ?creditDev⟩, ?decision⟩
  case transferVat =>
    intro x en ens hq ht hw
    rw [exec_transferMessage_vat, transferVat_stores hq ht hw]
  case transferDev =>
    intro x en ens hq ht
    rw [exec_transferMessage_dev, transferDev_stores hq ht]
  case creditVat =>
    intro x y k hq hw h1 h16 hs hr
    exact (exec_creditMessage (some v) h1 h16).trans (next_after (congrArg mdFeed (creditVat_taken hq hw hs hr)))
  case creditDev =>
    intro x y k hq h1 h16 hs hr
    exact (exec_creditMessage none h1 h16).trans (next_after (congrArg mdFeed (creditDev_taken hq hs hr)))
  case decision =>
    intro s a v m clk x x' y z k wait g hx hk hx' hg hz
    subst hx hx'
    have hn : arbNum (arbKey a.val v) = a.val := arbNum_arbKey a.val v
    have hk' : grantClocks (arbNum (arbKey a.val v)) (arbOf s.chip (arbKey a.val v)) clk.toNat = k := by rw [hn, hk]
    have hg' : grantOf s.chip (arbKey a.val v)
        (withRaised (arbOf s.chip (arbKey a.val v)) (m.map fun i => (i.1.val, i.2.toNat)) k) = (g, y) := by
      rw [withRaised, List.foldl_map]
      exact hg
    have hz' : GrantTaken y z ((arbOf s.chip (arbKey a.val v)).clock + k) g := by
      rcases hz with ⟨rfl, -, rfl⟩ | ⟨i, t, rfl, ht, rfl, rfl⟩
      · exact .inl ⟨rfl, rfl⟩
      · exact .inr ⟨i, t, rfl, ht, rfl⟩
    refine ⟨fun hs => ?_, fun t ht hp => ?_⟩
    · rw [← staged_of_grantTaken hg' hz', ← hz'.ptr] at hs
      rw [exec_arbiterDecision, arbDecide_of_grantTaken hg' hz' hk', tableAtEnd_keeps hs, Option.elim]
    · have hs : z.staged = some t := (staged_of_grantTaken hg' hz').trans ht
      rw [exec_arbiterDecision, arbDecide_of_grantTaken hg' hz' hk', tableAtEnd_wraps hs (hz'.ptr.trans hp), Option.elim, hn]

end Sys2Proof.Machine
end

section
/-! Event delivery: what an arrival does in the copies that see it, when the controller acts on a tick and what it then does to a
group, and the records that a dispatcher and the Affineur take (R166, R219 to R225, R230, R415). -/

namespace Sys2Proof.Machine

/-! ### Three copies changed one by one -/

section
variable {α : Type} {t : Tri α} {v u : Vat}

theorem tri_get_upd (f : α → α) : (t.upd v f).get u = if u = v then f (t.get u) else t.get u := by
  cases v <;> cases u <;> rfl

/-- Each Vat of a list has its copy changed once, the others keep theirs. -/
theorem tri_get_foldl_upd (f : Vat → α → α) {l : List Vat} (hl : l.Nodup) :
    (l.foldl (fun t v => t.upd v (f v)) t).get u = if u ∈ l then f u (t.get u) else t.get u := by
  induction l generalizing t with
  | nil => rfl
  | cons v l ih =>
    obtain ⟨hv, hl⟩ := List.nodup_cons.mp hl
    rw [List.foldl_cons, ih hl, tri_get_upd]
    by_cases huv : u = v
    · subst huv
      simp [hv]
    · simp [huv]

end

theorem comparedVats_nodup (c : Chip) : (comparedVats c).Nodup := List.Nodup.filter _ (by decide)

/-- Steps that change the copies of the event controller alone. -/
theorem foldl_evc {β : Type} (g : Tri EvCopy → β → Tri EvCopy) (l : List β) (c : Chip) :
    l.foldl (fun d b => { d with evc := g d.evc b }) c = { c with evc := l.foldl g c.evc } := by
  induction l generalizing c with
  | nil => rfl
  | cons b l ih => exact ih _

/-! ### Arrivals (R219, R220, R223, R415) -/

section
variable {c : Chip} {n : Nat} {k : EvCopy} {sees : Bool}

/-- An arrival counts whatever levels a copy holds, and leaves them. -/
theorem countArrival_levels (k : EvCopy) (b : BitVec 64) (tick s x : Nat) (lvl : Bool) (info : Word) :
    countArrival { k with levels := b } tick s x lvl info = { countArrival k tick s x lvl info with levels := b } := by
  have hc : EvCopy.count { k with levels := b } s x = k.count s x := rfl
  simp only [countArrival, hc]
  split <;> rfl

theorem foldl_countArrival_levels (k : EvCopy) (b : BitVec 64) (tick s : Nat) (lvl : Bool) (info : Word) (xs : List Nat) :
    xs.foldl (fun k x => countArrival k tick s x lvl info) { k with levels := b } =
      { xs.foldl (fun k x => countArrival k tick s x lvl info) k with levels := b } := by
  induction xs generalizing k with
  | nil => rfl
  | cons x xs ih => rw [List.foldl_cons, List.foldl_cons, countArrival_levels, ih]

theorem sampleLevel_unchanged (h : k.levels.getLsbD n = (votedLevels c).getLsbD n) : sampleLevel c sees k n = k := by
  simp only [sampleLevel, h, if_true]

/-- A copy whose level has changed holds the new one, and counts the change where it sees it and EDGE selects it. -/
theorem sampleLevel_changed (h : k.levels.getLsbD n ≠ (votedLevels c).getLsbD n) :
    sampleLevel c sees k n =
      { (if sees && edgeSelects c n ((votedLevels c).getLsbD n) then
          (srcTargets c n).foldl (fun k x => countArrival k (evcNow c) n x ((votedLevels c).getLsbD n) (inputInfo c n)) k
        else k) with levels := k.levels ^^^ ((1 : BitVec 64) <<< n) } := by
  simp only [sampleLevel, if_neg h, foldl_countArrival_levels]
  split <;> rfl

/-- Toggling bit `n` of the levels makes it the level that it was not. -/
theorem getLsbD_xor_bit {b : BitVec 64} {lvl : Bool} (hn : n < 64) (h : b.getLsbD n ≠ lvl) :
    (b ^^^ ((1 : BitVec 64) <<< n)).getLsbD n = lvl := by
  cases lvl <;> simp_all

/-- A level source is sampled in every copy that is compared (R219, R224). -/
theorem eventArrival_level (hn : n < 64) (info : Word) (seen : Tri Bool) :
    eventArrival c n info seen = { c with
      evc := (comparedVats c).foldl (fun e v => e.upd v fun k => sampleLevel c (seen.get v) k n) c.evc } := by
  have hx : srcExists n = true := by
    simp only [srcExists, srcRanges, List.any_cons, Bool.or_eq_true, Bool.and_eq_true, decide_eq_true_eq]
    exact .inl ⟨Nat.zero_le n, by omega⟩
  simp only [eventArrival, hx, Nat.not_le.mpr hn, Bool.not_true, Bool.false_eq_true, if_false]
  exact foldl_evc (fun e v => e.upd v fun k => sampleLevel c (seen.get v) k n) _ c

/-- A pulse, queue or software source counts as it comes. -/
theorem eventArrival_pulse {info i : Word} {seen : Tri Bool} (hx : srcExists n = true) (hn : 64 ≤ n)
    (hi : arrivalInfo c n info = some i) : eventArrival c n info seen = arrive c n i false seen := by
  simp only [eventArrival, hx, hn, hi, Bool.not_true, Bool.false_eq_true, if_false, if_true]

end

/-! ### The controller acts on a tick (R221, R222, R224) -/

section
variable {c : Chip} {g x n : Nat} {k : EvCopy} {ok b : Bool}

theorem holdoffExpiry_due (ha : agreedCopy c = some (k, ok)) (h0 : k.timer g x ≠ 0) (ht : k.timer g x ≤ c.core.tick + 1) :
    holdoffExpiry c g x = evcTick c := by
  simp [holdoffExpiry, ha, h0, ht]

theorem delayedEmission_credited {v : Vat} (ha : agreedCopy c = some (k, ok)) (hw : k.waiting.contains (2 * n + x) = true)
    (hv : v ∈ comparedVats c) (hc : 0 < evCredits c x v) : delayedEmission c n x = evcTick c := by
  have hany : ((comparedVats c).any fun v => decide (0 < evCredits c x v)) = true :=
    List.any_eq_true.mpr ⟨v, hv, decide_eq_true hc⟩
  simp only [delayedEmission, ha, hw, hany, Bool.and_self, if_true]

/-- The controller acts on a tick once. -/
theorem evcTick_done (h : c.core.evcDone = c.core.tick + 1) : evcTick c = c := by
  simp only [evcTick, h, if_true]

section
variable (hx : x < 2) (ha : agreedCopy c = some (k, b))
include hx ha

/-- What a tick does to a group and target of which no hold-off runs on. -/
theorem groupTick_due (hl : targetLive c x = true) (ht : k.timer g x ≤ c.core.tick + 1) :
    groupTick ok c (2 * g + x) = if (groupSources c k g x).isEmpty
      then { c with evc := c.evc.map fun k => k.setTimer g x 0 } else emitGroup c g x ok := by
  have hg : (2 * g + x) / 2 = g := by omega
  have hm : (2 * g + x) % 2 = x := by omega
  simp only [groupTick, ha, hg, hm, hl, Nat.not_lt.mpr ht, decide_false, Bool.not_true, Bool.or_self, Bool.false_eq_true, if_false]
  cases (groupSources c k g x).isEmpty <;> rfl

theorem groupTick_holding (ht : c.core.tick + 1 < k.timer g x) : groupTick ok c (2 * g + x) = c := by
  have hg : (2 * g + x) / 2 = g := by omega
  have hm : (2 * g + x) % 2 = x := by omega
  simp only [groupTick, ha, hg, hm, ht, decide_true, Bool.or_true, if_true]

end

end

/-! ### The dispatcher and the Affineur (R166, R225, R230) -/

section
variable {c d : Chip} {v : Vat} {en : Entry} {ens : List Entry} {t : Fin 256}

section
variable (hw : wheyRuns (plane c v) = true) (hd : (descOf (plane c v) 32513).ok = true)
  (hv : visible (plane c v) 32513 = en :: ens)
  (htake : setPlane c v (setQueue (plane c v) 32513
    (((queueOf (plane c v) 32513).takeHead (descOf (plane c v) 32513).depth).giveBack 1)) = d)
include hw hd hv htake

theorem dispatcherRecord_pends (ht : taskOfSource d (bits (word (leAt en.bytes 0 4)) 11 0) = some t)
    (hr : (mapGet [] (plane d v).pending t.val).length < pDepth d) :
    dispatcherRecord c v = onPlane d v fun p =>
      { p with pending := mapPut [] p.pending t.val (mapGet [] (plane d v).pending t.val ++ [padTo 16 en.bytes]) } := by
  subst htake
  simp only [dispatcherRecord, hw, hd, hv, ht, Bool.and_self, if_true, if_pos hr]

/-- Without room the record is merged into the newest one of its task, which the shown Vat counts (R225). -/
theorem dispatcherRecord_merges (ht : taskOfSource d (bits (word (leAt en.bytes 0 4)) 11 0) = some t)
    {l : List (List Byte)} (hl : mapGet [] (plane d v).pending t.val = l) (hr : pDepth d ≤ l.length) {k : Chip}
    (hk : onPlane d v (fun p => { p with
      pending := mapPut [] p.pending t.val (l.dropLast ++ [mergeRec (l.getLast?.getD []) (padTo 16 en.bytes)]) }) = k) :
    dispatcherRecord c v = if v = shownVat d then bump k Reg.evcMerge.addr 31 0 else k := by
  subst htake hl hk
  simp only [dispatcherRecord, hw, hd, hv, ht, Bool.and_self, if_true, if_neg (Nat.not_lt.mpr hr), decide_eq_true_eq]

theorem dispatcherRecord_taskless (ht : taskOfSource d (bits (word (leAt en.bytes 0 4)) 11 0) = none) :
    dispatcherRecord c v = if v = shownVat d then bump d Reg.evcNotask.addr 31 0 else d := by
  subst htake
  simp only [dispatcherRecord, hw, hd, hv, ht, Bool.and_self, if_true, decide_eq_true_eq]

end

theorem affineurRecord_takes {bs : List Byte} (hu : c.sys.affUp = true) (ht : takeDev c 32512 = some (bs, d)) :
    affineurRecord c = deviceRecord d 0x05 0x01 (leAt bs 0 4) (leAt bs 4 4) (leAt bs 8 4) (leAt bs 12 4) := by
  simp only [affineurRecord, hu, ht, Bool.not_true, Bool.false_eq_true, if_false]

end

/-! ### The commands -/

section
variable (s : State)

theorem exec_eventArrival (n : Fin 4096) (info : Word) (va vb vc : Bool) : exec (.eventArrival ⟨n, info⟩ va vb vc) s =
    .next (s.after (eventArrival s.chip n.val info ⟨va, vb, vc⟩)) := rfl
theorem exec_holdoffExpiry (g : Fin 64) (x : Fin 2) :
    exec (.holdoffExpiry g x) s = .next (s.after (holdoffExpiry s.chip g.val x.val)) := rfl
theorem exec_eventEmitDelayed (n : Fin 4096) (x : Fin 2) :
    exec (.eventEmitDelayed n x) s = .next (s.after (delayedEmission s.chip n.val x.val)) := rfl
theorem exec_dispatcherRecord (v : Vat) : exec (.dispatcherRecord v) s = .next (s.after (dispatcherRecord s.chip v)) := rfl
theorem exec_affineurEventRecord : exec .affineurEventRecord s = .next (s.after (affineurRecord s.chip)) := rfl

end

/-- Settles O32: an arrival by the kind of its source, level sources copy by copy, then the tick and its groups, and the records
that the dispatchers and the Affineur take. -/
theorem eventsComplete : Obligations.EventsComplete := by
  refine ⟨fun s => ⟨?pulse, ?level, ?holdoff, ?delayed, evcTick_done, ?group⟩, fun s => ⟨?record, ?taskless, ?affineur⟩⟩
  case pulse =>
    intro n info i va vb vc hx hn hi
    rw [exec_eventArrival, eventArrival_pulse hx hn hi]
  case level =>
    rintro n info _ _ seen hn rfl rfl
    refine ⟨_, (exec_eventArrival s n info _ _ _).trans (next_after (eventArrival_level hn info _)), ?_⟩
    rintro v _ rfl
    rw [tri_get_foldl_upd (fun v k => sampleLevel s.chip (seen.get v) k n.val) (comparedVats_nodup s.chip)]
    refine ⟨?same, fun hv hl => ?changed⟩
    case same =>
      rintro (hv | hl)
      · exact if_neg hv
      · rw [sampleLevel_unchanged hl, ite_self]
    case changed =>
      rw [if_pos hv, sampleLevel_changed hl]
      refine ⟨getLsbD_xor_bit hn hl, fun hu => ?unseen, fun hs he => ?counted⟩
      case unseen =>
        have hno : ¬ (seen.get v && edgeSelects s.chip n.val ((votedLevels s.chip).getLsbD n.val)) = true := by
          rw [Bool.not_eq_true, Bool.and_eq_false_iff]
          exact hu
        simp only [if_neg hno]
      case counted =>
        have he : edgeSelects s.chip n.val ((votedLevels s.chip).getLsbD n.val) = true := he
        simp only [hs, he, Bool.and_self, if_true]
  case holdoff =>
    intro g x k ok ha h0 ht
    rw [exec_holdoffExpiry, holdoffExpiry_due ha h0 ht]
  case delayed =>
    intro n x k ok v ha hw hv hc
    rw [exec_eventEmitDelayed, delayedEmission_credited ha hw hv hc]
  case group =>
    intro g x k b ok ha hl
    exact ⟨groupTick_due x.isLt ha hl, groupTick_holding x.isLt ha⟩
  case record =>
    rintro v en ens t c hw hd hv rfl ht
    refine ⟨fun hr => ?_, ?_⟩
    · rw [exec_dispatcherRecord, dispatcherRecord_pends hw hd hv rfl ht hr]
    · rintro l k hl hr rfl
      rw [exec_dispatcherRecord, dispatcherRecord_merges hw hd hv rfl ht hl.symm hr rfl]
  case taskless =>
    rintro v en ens c hw hd hv rfl ht
    rw [exec_dispatcherRecord, dispatcherRecord_taskless hw hd hv rfl ht]
  case affineur =>
    intro bs c hu ht
    rw [exec_affineurEventRecord, affineurRecord_takes hu ht]

end Sys2Proof.Machine
end

section
/-! The Cellar: a record offered to its buffer, written by a grant of the MRAM port, and the slots that a clear takes (R181, R184,
R473, R475, R478 to R480, R482, R483, R488). -/

namespace Sys2Proof.Machine

/-! ### A record exec_recordOffer (R473, R478 to R480, R483) -/

section
variable {c : Chip} {r : Rec}

/-- A culture record is discarded with CULTOFF and once the orderly power-down has begun. -/
theorem offerRecord_discarded (hk : r.kind = 2) (h : bit (rawReg c Reg.celCtl.addr) 31 = true ∨ c.cel.accept = false) :
    offerRecord c r = c := by
  have hd : (decide (r.kind = 2) && (bit (rawReg c Reg.celCtl.addr) 31 || !c.cel.accept)) = true := by
    simpa [hk] using h
  rw [offerRecord, if_pos hd]

section
variable (ha : r.kind = 2 → bit (rawReg c Reg.celCtl.addr) 31 = false ∧ c.cel.accept = true)
include ha

theorem not_discarded : ¬ (decide (r.kind = 2) && (bit (rawReg c Reg.celCtl.addr) 31 || !c.cel.accept)) = true := by
  intro h
  simp only [Bool.and_eq_true, decide_eq_true_eq] at h
  obtain ⟨hoff, hacc⟩ := ha h.1
  simp [hoff, hacc] at h

/-- At the last SEQ every record is counted as lost (R473). -/
theorem offerRecord_atLastSeq (he : c.cel.seqEnd = true) : offerRecord c r = bump c Reg.celCnt0.addr 31 16 := by
  rw [offerRecord, if_neg (not_discarded ha), if_pos he]

variable (he : c.cel.seqEnd = false)
include he

/-- Where nothing waits and the recorder's arbiter grants, a repeat of the newest record only counts (R480). -/
theorem offerRecord_repeats
    (hr : (c.cel.ready && c.cel.devBuf.isEmpty && c.cel.culBuf.isEmpty && !arbFrozen c (arbKey 34 .a) && isRepeat c.cel r) = true) :
    offerRecord c r = countRepeat c := by
  rw [offerRecord, if_neg (not_discarded ha), if_neg (by simp [he]), if_pos hr]

variable
  (hr : (c.cel.ready && c.cel.devBuf.isEmpty && c.cel.culBuf.isEmpty && !arbFrozen c (arbKey 34 .a) && isRepeat c.cel r) = false)
include hr

/-- Any other record goes to its buffer, or is lost. -/
theorem offerRecord_buffered : offerRecord c r =
    if r.kind = 2 then
      if c.cel.culBuf.length < 512 then { c with cel := { c.cel with culBuf := c.cel.culBuf ++ [r] } } else loseRecord c true
    else if c.cel.devBuf.length < 1024 then { c with cel := { c.cel with devBuf := c.cel.devBuf ++ [r] } }
    else loseRecord c false := by
  rw [offerRecord, if_neg (not_discarded ha), if_neg (by simp [he]), if_neg (by simp [hr])]

theorem offerRecord_joinsDevice (hk : r.kind = 1) (hl : c.cel.devBuf.length < 1024) :
    offerRecord c r = { c with cel := { c.cel with devBuf := c.cel.devBuf ++ [r] } } := by
  rw [offerRecord_buffered ha he hr, if_neg (by omega), if_pos hl]

theorem offerRecord_overDevice (hk : r.kind = 1) (hl : 1024 ≤ c.cel.devBuf.length) : offerRecord c r = loseRecord c false := by
  rw [offerRecord_buffered ha he hr, if_neg (by omega), if_neg (Nat.not_lt.mpr hl)]

theorem offerRecord_joinsCulture (hk : r.kind = 2) (hl : c.cel.culBuf.length < 512) :
    offerRecord c r = { c with cel := { c.cel with culBuf := c.cel.culBuf ++ [r] } } := by
  rw [offerRecord_buffered ha he hr, if_pos hk, if_pos hl]

theorem offerRecord_overCulture (hk : r.kind = 2) (hl : 512 ≤ c.cel.culBuf.length) : offerRecord c r = loseRecord c true := by
  rw [offerRecord_buffered ha he hr, if_pos hk, if_neg (Nat.not_lt.mpr hl)]

end

end

/-! ### Grants of the MRAM port (R181, R184, R482) -/

section
variable {c : Chip} {key : Nat}

/-- A frozen arbiter whose requests alone are replaced is frozen still. -/
theorem arbFrozen_setArb {y : Arbiter} (hy : y.ifrz = (arbOf c key).ifrz) (h : arbFrozen c key = true) :
    arbFrozen (setArb c key y) key = true := by
  cases hi : (arbOf c key).ifrz with
  | false =>
    have hb : bit (rawReg c (0x040000 + 0x100 * arbNum key)) 31 = true := by simpa [arbFrozen, hi] using h
    rw [arbFrozen, rawReg_setArb, hb, Bool.or_true]
  | true =>
    have hne : y ≠ Arbiter.reset := by
      rintro rfl
      simp [Arbiter.reset, hi] at hy
    have hget : arbOf (setArb c key y) key = y := by
      rw [arbOf, setArb, mapPut, if_neg hne]
      exact mapGet_insert_self
    rw [arbFrozen, hget, hy, hi, Bool.true_or]

/-- A frozen arbiter grants nothing (R184). -/
theorem arbDecide_frozen (raised : List (Nat × Nat)) (clk : Nat) (h : arbFrozen c key = true) :
    (arbDecide c key raised clk).2 = none := by
  simp only [arbDecide, grantOf, h, if_true]

theorem granted_frozen {a : Nat} (w : Nat) (ask : List Nat) (h : arbFrozen c (arbKey a .a) = true) : granted c a w ask = none := by
  have hf : arbFrozen (setArb c (arbKey a .a) { arbOf c (arbKey a .a) with
      reqs := (arbOf c (arbKey a .a)).reqs.filter fun e => ask.contains e.1 }) (arbKey a .a) = true := arbFrozen_setArb rfl h
  simp only [granted, arbDecide_frozen _ _ hf]
  exact if_neg nofun

theorem celGrant_none (w : Nat) (h : c.cel.ready = false ∨ arbFrozen c (arbKey 34 .a) = true) : celGrant c w = none := by
  rcases h with hr | hf
  · simp only [celGrant, hr, Bool.false_eq_true, if_false]
  · rw [celGrant, granted_frozen w _ hf, ite_self]

end

/-! ### Records written (R473, R475, R478 to R480) -/

section
variable {c : Chip} {r : Rec} {rest : List Rec}

section
variable (hn : c.cel.newest + 1 < 2 ^ 40 - 1)
include hn

/-- A device record made short of the last SEQ carries the operating seconds and the power cycle (R475). -/
theorem makeRecord_device (hk : r.kind = 1) : makeRecord c r = { c with cel := { c.cel with
    newest := c.cel.newest + 1, since := true,
    slots := mapPut none c.cel.slots (slotOf (c.cel.newest + 1))
      (some { r with seq := c.cel.newest + 1, opsec := c.cel.opsec, pwrcyc := c.cel.pwrcyc, rep := 0 }),
    cwrap := c.cel.cwrap || decide (16384 + 245760 ≤ c.cel.newest + 1),
    oldest := max c.cel.oldest (c.cel.newest + 1 - 245759) } } := by
  have h2 : (1 : Nat) ≠ 2 := by decide
  simp only [makeRecord, hk, if_true, if_neg h2, if_neg (Nat.ne_of_lt hn)]

/-- A culture record made short of the last SEQ counts towards CRATE (R479). -/
theorem makeRecord_culture (hk : r.kind = 2) : makeRecord c r = { c with cel := { c.cel with
    newest := c.cel.newest + 1, since := true, made := c.cel.made + 1,
    slots := mapPut none c.cel.slots (slotOf (c.cel.newest + 1)) (some { r with seq := c.cel.newest + 1, rep := 0 }),
    cwrap := c.cel.cwrap || decide (16384 + 245760 ≤ c.cel.newest + 1),
    oldest := max c.cel.oldest (c.cel.newest + 1 - 245759) } } := by
  have h1 : (2 : Nat) ≠ 1 := by decide
  simp only [makeRecord, hk, if_true, if_neg h1, if_neg (Nat.ne_of_lt hn)]

end

/-- The device record writer has taken the oldest record of its buffer, which leaves `rest`. -/
def devTaken (c : Chip) (rest : List Rec) : Chip := { c with cel := { c.cel with devBuf := rest } }
/-- The same of the culture record writer. -/
def culTaken (c : Chip) (rest : List Rec) : Chip := { c with cel := { c.cel with culBuf := rest } }

/-- With no losses of its buffer to state, the writer of device records makes the oldest, or counts its repeat. -/
theorem writeDevice_oldest (hb : c.cel.devBuf = r :: rest) (hl : c.cel.lostPend = 0) (he : c.cel.seqEnd = false)
    (hc : ¬ (r.block = 0x18 ∧ r.code = 2)) :
    writeDevice c = makeOrRepeat (devTaken c rest) r := by
  simp only [writeDevice, devTaken, hb, writeLost, hl, he, hc, decide_true, decide_false, Bool.true_or, if_true,
    Bool.false_eq_true, if_false]

theorem makeOrRepeat_new (h : isRepeat c.cel r = false) : makeOrRepeat c r = makeRecord c r := by
  rw [makeOrRepeat, if_neg (by simp [h])]

theorem makeOrRepeat_again (h : isRepeat c.cel r = true) : makeOrRepeat c r = countRepeat c := if_pos h

/-- The same for culture records, of which no more are made than CRATE allows (R479). -/
theorem writeCulture_oldest (hb : c.cel.culBuf = r :: rest) (hl : c.cel.lostCul = 0) (he : c.cel.seqEnd = false) :
    writeCulture c =
      if isRepeat (culTaken c rest).cel r then countRepeat (culTaken c rest)
      else if crateReached (culTaken c rest) then
        bump { c with cel := { c.cel with culBuf := rest, dropped := c.cel.dropped + 1 } } Reg.celCnt0.addr 15 0
      else makeRecord (culTaken c rest) r := by
  simp only [writeCulture, culTaken, hb, writeLost, hl, he, decide_true, Bool.true_or, if_true, Bool.not_false, Bool.and_true,
    Bool.false_eq_true, if_false]

/-! ### The scrubber of a clear (R488) -/

section
variable {d : Chip} {sc : Nat} (hs : c.cel.clearing = some sc) (hg : celGrant c 3 = some d)
include hs hg

/-- A grant marks one slot, and after the last one the clear ends. -/
theorem clearSlot_marks {k : Nat} {ks : List Nat} (hk : clearable d.cel sc = k :: ks) {e : Chip}
    (he : { d with cel := { d.cel with slots := mapErase d.cel.slots k } } = e) :
    clearSlot c = if (clearable e.cel sc).isEmpty then raise { e with cel := { e.cel with clearing := none } } 2177 sc else e := by
  subst he
  simp only [clearSlot, hs, hg, hk]

theorem clearSlot_ends (hk : clearable d.cel sc = []) :
    clearSlot c = raise { d with cel := { d.cel with clearing := none } } 2177 sc := by
  simp only [clearSlot, hs, hg, hk, List.isEmpty_nil, if_true]

end

theorem clearSlot_ungranted (hg : celGrant c 3 = none) : clearSlot c = c := by
  cases hs : c.cel.clearing <;> simp only [clearSlot, hs, hg]

end

/-! ### The commands -/

section
variable {s : State} {d : Chip}

theorem exec_recordOffer {culture : Bool} {b : Fin 64} {code : Fin 256} {task : Fin 1024} {data : List Byte}
    (h : recordOffer s.chip culture b.val code.val task.val data = d) :
    exec (.recordOffer culture b code task data) s = .next (s.after d) :=
  run_settle s _ (recordOffer · culture b.val code.val task.val data) h

theorem exec_recordWrite_device (hg : celGrant s.chip 0 = some d) : exec (.recordWrite false) s = .next (s.after (writeDevice d)) :=
  run_settle s _ (recordWrite · false) (by simp [recordWrite, hg])

theorem exec_recordWrite_culture (hg : celGrant s.chip 1 = some d) : exec (.recordWrite true) s = .next (s.after (writeCulture d)) :=
  run_settle s _ (recordWrite · true) (by simp [recordWrite, hg])

theorem exec_recordWrite_ungranted {culture : Bool} (hg : celGrant s.chip (if culture then 1 else 0) = none) :
    exec (.recordWrite culture) s = .next (s.after s.chip) :=
  run_settle s _ (recordWrite · culture) (by simp [recordWrite, hg])

theorem exec_clearSlotWrite (s : State) : exec .clearSlotWrite s = .next (s.after (clearSlot s.chip)) := rfl

end

/-- Settles O33: an offer by the lemma on where its record goes, a write by the oldest record of its writer's buffer, the clear by
the slots that remain, and nothing without a grant. -/
theorem cellarComplete : Obligations.CellarComplete := by
  refine ⟨⟨fun s b code task data r x rep hx he => ⟨?device, ?culture⟩, fun s b code task data => ⟨?discarded, ?last⟩⟩,
    fun s d r rest x hx he => ⟨?newDevice, ?newCulture, ?againDevice, ?heldCulture, ?marks, ?ends,
      exec_recordWrite_ungranted (culture := false), exec_recordWrite_ungranted (culture := true), ?unclear,
      fun h w => celGrant_none w h⟩⟩
  case device =>
    rintro rfl hrep
    subst hx hrep
    exact ⟨fun hr => exec_recordOffer (offerRecord_repeats nofun he hr),
      fun hr hl => exec_recordOffer (offerRecord_joinsDevice nofun he hr rfl hl),
      fun hr hl => exec_recordOffer (offerRecord_overDevice nofun he hr rfl hl)⟩
  case culture =>
    rintro rfl hoff hacc hrep
    subst hx hrep
    exact ⟨fun hr => exec_recordOffer (offerRecord_repeats (fun _ => ⟨hoff, hacc⟩) he hr),
      fun hr hl => exec_recordOffer (offerRecord_joinsCulture (fun _ => ⟨hoff, hacc⟩) he hr rfl hl),
      fun hr hl => exec_recordOffer (offerRecord_overCulture (fun _ => ⟨hoff, hacc⟩) he hr rfl hl)⟩
  case discarded =>
    intro h
    exact exec_recordOffer (offerRecord_discarded rfl h)
  case last =>
    intro he
    refine ⟨?_, fun hoff hacc => ?_⟩
    · exact exec_recordOffer (offerRecord_atLastSeq nofun he)
    · exact exec_recordOffer (offerRecord_atLastSeq (fun _ => ⟨hoff, hacc⟩) he)
  all_goals subst hx
  case newDevice =>
    intro hg hl hn hr hc hk hb
    rw [exec_recordWrite_device hg, writeDevice_oldest hb hl he hc]
    exact next_after ((makeOrRepeat_new (c := devTaken d rest) hr).trans (makeRecord_device (c := devTaken d rest) hn hk))
  case newCulture =>
    intro hg hl hn hr hk hc hb
    rw [exec_recordWrite_culture hg, writeCulture_oldest hb hl he]
    exact next_after ((if_neg (ne_true_of_eq_false hr)).trans
      ((if_neg (ne_true_of_eq_false hc)).trans (makeRecord_culture (c := culTaken d rest) hn hk)))
  case againDevice =>
    intro hg hl hb hc hr
    rw [exec_recordWrite_device hg, writeDevice_oldest hb hl he hc]
    exact next_after (makeOrRepeat_again (c := devTaken d rest) hr)
  case heldCulture =>
    intro hg hl hb
    rw [exec_recordWrite_culture hg, writeCulture_oldest hb hl he]
    exact ⟨fun hr => next_after (if_pos hr), fun hr hc => next_after ((if_neg (ne_true_of_eq_false hr)).trans (if_pos hc))⟩
  case marks =>
    rintro sc k ks c hg hs hk rfl
    rw [exec_clearSlotWrite, clearSlot_marks hs hg hk rfl]
  case ends =>
    intro sc hg hs hk
    rw [exec_clearSlotWrite, clearSlot_ends hs hg hk]
  case unclear =>
    intro hg
    rw [exec_clearSlotWrite, clearSlot_ungranted hg]

end Sys2Proof.Machine
end

section
/-! The commands of the update: loads, and what arms, confirms, rejects and reverts a slot (R180, R184, R492, R496, R501 to R505, R507,
R508, R510, R511, R514). -/

namespace Sys2Proof.Machine

/-! ### Requests that write the flash -/

section
variable {c d : Chip} {h : TspHead} {p : List Byte} {x : Session} {cmd st : Nat} {lenOk : Nat → Bool}
variable (hf : flashOpen c = true) (ha : Admitted c h cmd .maintain p x) (hl : lenOk p.length = true)
include hf ha hl

/-- An admitted request is answered as its command answers, once the flash can be written (R184). -/
theorem flashRequest_admitted {act : Chip → Answer} {pl : List Byte} (hact : act (acceptMsg c h) = (d, st, pl)) :
    flashRequest c h cmd lenOk p act = replied d h cmd st pl :=
  (if_pos hf).trans (tspRequest_admitted ha hl hact)

/-- The same for a command that answers a status word alone. -/
theorem flashRequest_code {f : Chip → Chip × Nat} (hr : f (acceptMsg c h) = (d, st)) :
    flashRequest c h cmd lenOk p (fun c => codeAnswer (f c)) = repliedCode d h cmd st :=
  flashRequest_admitted hf ha hl (by rw [hr]; rfl)

end

/-! ### Loads (R502, R503, R514) -/

section
variable {c : Chip} {who : Loader} {kind : Nat}

/-- A kind that UPD commands name is one of the two. -/
theorem kind_assigned (hk : kind = 1 ∨ kind = 2) : (decide (kind ≠ 1) && decide (kind ≠ 2)) = false := by
  rcases hk with rfl | rfl <;> rfl

/-- BEGIN of an image, full or as a delta to the ACTIVE slot: the slot is LOADING, and nothing of the image has come (R502). -/
theorem updBegin_starts {form length : Nat} {dst : Fin 4} (hk : kind = 1 ∨ kind = 2)
    (hform : form = 0 ∨ form = 1 ∧ (slotIn c kind [7]).isSome = true) (hlen : length ≤ 0x4000000) (hm : c.sys.mode ≠ .inert)
    (ht : loadTaken c who = false) (hd : ((kindSlots kind).find? fun k => (slotAt c k).state ≠ 7).getD 0 = dst)
    (h3 : (slotAt c dst).state ≠ 3) (h4 : (slotAt c dst).state ≠ 4) {k : Fin 4}
    (hs : (if (slotIn c kind [7]).isNone then ((kindSlots kind).head?).getD 0 else dst) = k) :
    updBegin c who kind form length = (onUpd (onSlot (flashUse (endLoad c) 1) k fun _ => { Slot.empty with state := 1 }) fun u =>
      { u with load := some ⟨who, kind, form = 1, length, k, []⟩ }, 0) := by
  have hbad : (decide (kind ≠ 1) && decide (kind ≠ 2) || decide (1 < form) || decide (slotSize 0 < length)) = false := by
    have hform1 : ¬ 1 < form := by omega
    have hsize : ¬ slotSize 0 < length := Nat.not_lt.mpr hlen
    simp only [kind_assigned hk, hform1, hsize, decide_false, Bool.or_self]
  have hbase : (decide (form = 1) && (slotIn c kind [7]).isNone) = false := by
    rcases hform with rfl | ⟨rfl, ha⟩
    · rfl
    · rw [← Option.not_isSome, ha]
      rfl
  subst hd hs
  simp only [updBegin, ht, hbad, hm, h3, h4, hbase, decide_false, Bool.or_self, Bool.false_eq_true, if_false]

section
variable {l : Load} (hl : c.upd.load = some l) (ho : l.owner = who)
include hl ho

/-- DATA that follows what has come, within the length announced (R502). -/
theorem updData_takes {ofs : Nat} {bs : List Byte} (hofs : ofs = l.got.length) (h1 : 1 ≤ bs.length) (h2 : bs.length ≤ 1008)
    (hend : ofs + bs.length ≤ l.length) :
    updData c who ofs bs = (onUpd (flashUse c 1) fun u => { u with load := some { l with got := l.got ++ bs } }, 0,
      l.got.length + bs.length) := by
  have hne : bs.isEmpty = false := by
    rw [List.isEmpty_eq_false_iff]
    exact List.ne_nil_of_length_pos h1
  simp only [updData, hl, ho, hofs, hne, not_true_eq_false, ne_eq, Nat.not_lt.mpr h2, Nat.not_lt.mpr (hofs ▸ hend), decide_false,
    Bool.or_self, Bool.false_eq_true, if_false]

section
variable (hg : l.length ≤ l.got.length) (hd : l.delta = false)
include hg hd

/-- END of a complete image whose checks pass: LOADED, or ACTIVE where its kind has no ACTIVE slot (R503). -/
theorem updEnd_passes (hn : loadChecks (flashUse c 1) l.kind l.got = 0) : updEnd c who =
    (loadEnded (onSlot (onUpd (flashUse c 1) fun u => { u with load := none }) l.slot fun _ => { Slot.empty with
      state := if (slotIn (flashUse c 1) l.kind [7]).isNone then 7 else 2, held := .bytes l.got }) l 0 0, 0, 0) := by
  simp only [updEnd, hl, ho, hd, hn, Nat.not_lt.mpr hg, not_true_eq_false, ne_eq, Bool.false_eq_true, if_false]

/-- END of a complete image of which a check fails: the slot shows the first that does (R503). -/
theorem updEnd_fails {n code : Nat} (hn : loadChecks (flashUse c 1) l.kind l.got = n) (h0 : n ≠ 0)
    (hc : (if l.kind = 1 ∧ n = 6 then 0x52 else 0x50) = code) : updEnd c who =
    (loadEnded (onSlot (dropLoad (flashUse c 1)) l.slot fun y => { y with chkfail := n }) l code n, code, n) := by
  subst hc
  simp only [updEnd, hl, ho, hd, hn, h0, Nat.not_lt.mpr hg, not_true_eq_false, not_false_eq_true, ne_eq, Bool.false_eq_true, if_false,
    if_true, Bool.and_eq_true, decide_eq_true_eq]

end

end

/-! ### Trials (R505, R507, R508, R510) -/

section
variable {k : Fin 4}

theorem updArm_loaded (hk : kind = 1 ∨ kind = 2) (hs : slotIn c kind [2] = some k) (ht : otherTrial c kind = false)
    (hf : kind = 1 → (settings c).sfmt ≤ (fwHead (slotAt c k).held).2.1 ∨ formatHeld c (fwHead (slotAt c k).held).2.1 = true) :
    updArm c kind = (onSlot c k fun y => { y with state := 3, tries := updTries c }, 0) := by
  have hform : (decide (kind = 1) && decide ((fwHead (slotAt c k).held).2.1 < (settings c).sfmt) &&
      !formatHeld c (fwHead (slotAt c k).held).2.1) = false := by
    rcases hk with rfl | rfl
    · rcases hf rfl with hle | hheld
      · simp [Nat.not_lt.mpr hle]
      · simp [hheld]
    · rfl
  simp only [updArm, kind_assigned hk, hs, ht, hform, Bool.false_eq_true, if_false]

theorem updConfirm_trial (hs : slotIn c kind [4] = some k) : updConfirm c kind = (confirmSlot c k 1, 0) := by
  simp only [updConfirm, hs]

theorem updReject_trial (hs : slotIn c kind [4] = some k) : updReject c kind = (rejectSlot c k 5, 0) := by
  simp only [updReject, hs]

theorem updRevert_old (hk : kind = 1 ∨ kind = 2) (hs : slotIn c kind [6] = some k) (ht : otherTrial c kind = false)
    (hn : slotIn c kind [3, 4] = none)
    (hf : kind = 1 → (settings c).rollmin ≤ (fwHead (slotAt c k).held).2.2 ∧ formatHeld c (fwHead (slotAt c k).held).2.1 = true) :
    updRevert c kind = (onSlot c k fun y => { y with state := 3, tries := updTries c }, 0) := by
  have hroll : (decide (kind = 1) && decide ((fwHead (slotAt c k).held).2.2 < (settings c).rollmin)) = false := by
    rcases hk with rfl | rfl
    · simp [Nat.not_lt.mpr (hf rfl).1]
    · rfl
  have hform : (decide (kind = 1) && !formatHeld c (fwHead (slotAt c k).held).2.1) = false := by
    rcases hk with rfl | rfl
    · simp [(hf rfl).2]
    · rfl
  simp only [updRevert, kind_assigned hk, hs, ht, hn, hroll, hform, Option.isSome_none, Bool.or_self, Bool.false_eq_true, if_false]

/-- PEER of a stored image to a partner in MAINTENANCE (R511). -/
theorem updPeer_sends {n : Fin 4} (hp : c.upd.peer = none) (hs : (slotAt c k).state ∈ [2, 3, 4, 6, 7])
    (hm : partnerMode c = some 4) (hu : linkUp c = true) :
    updPeer c n k.val = (sendPieces c ⟨k, n, 0, 0, c.core.tick, false⟩ 0, 0) := by
  have hc : ([2, 3, 4, 6, 7].contains (slotAt c k).state) = true := List.contains_iff_mem.mpr hs
  simp only [updPeer, k.isLt, hp, hc, hm, hu, dite_true, Option.isSome_none, ne_eq, not_true_eq_false, decide_false,
    Bool.not_true, Bool.or_self, Bool.false_eq_true, if_false]

end

theorem updSvcaddr_sets {p : List Byte} (hl : p.length = 8) (h8 : 8 ≤ leAt p 4 1) (h30 : leAt p 4 1 ≤ 30)
    (hz : zeros (p.drop 5) = true) :
    updSvcaddr c p = (putSettings c { settings c with svc := some (leAt p 0 4, leAt p 4 1) }, 0) := by
  simp only [updSvcaddr, hl, hz, Nat.not_lt.mpr h8, Nat.not_lt.mpr h30, ne_eq, not_true_eq_false, decide_false, Bool.not_true,
    Bool.or_self, Bool.false_eq_true, if_false]

end

/-! ### The commands -/

section
variable {s : State} {d : Chip} (h : TspHead) (p : List Byte)

theorem next_afterAll {c : Chip} (he : c = d) :
    Host.Outcome.next (s.afterAll c) = (.next (s.afterAll d) : Host.Outcome State Fault Refusal) := by rw [he]

theorem exec_updInfo : exec (.updInfo h p) s =
    .next (s.afterAll (tspRequest s.chip h 0x40 .read (· = 0) p fun c => (c, 0, updInfo c))) := rfl
theorem exec_updBegin : exec (.updBegin h p) s =
    .next (s.afterAll (flashRequest s.chip h 0x41 (· = 8) p (updBeginCmd h.session p))) := rfl
theorem exec_updData : exec (.updData h p) s =
    .next (s.afterAll (flashRequest s.chip h 0x42 (fun n => 5 ≤ n && n ≤ 1012) p (updDataCmd h.session p))) := rfl
theorem exec_updEnd : exec (.updEnd h p) s =
    .next (s.afterAll (flashRequest s.chip h 0x43 (· = 0) p (updEndCmd h.session))) := rfl
theorem exec_updArm : exec (.updArm h p) s =
    .next (s.afterAll (flashRequest s.chip h 0x44 (· = 4) p fun c => codeAnswer (updArm c (leAt p 0 1)))) := rfl
theorem exec_updConfirm : exec (.updConfirm h p) s =
    .next (s.afterAll (flashRequest s.chip h 0x45 (· = 4) p fun c => codeAnswer (updConfirm c (leAt p 0 1)))) := rfl
theorem exec_updReject : exec (.updReject h p) s =
    .next (s.afterAll (flashRequest s.chip h 0x46 (· = 4) p fun c => codeAnswer (updReject c (leAt p 0 1)))) := rfl
theorem exec_updRevert : exec (.updRevert h p) s =
    .next (s.afterAll (flashRequest s.chip h 0x47 (· = 4) p fun c => codeAnswer (updRevert c (leAt p 0 1)))) := rfl
theorem exec_updKey : exec (.updKey h p) s =
    .next (s.afterAll (flashRequest s.chip h 0x48 (· = 256) p fun c => codeAnswer (updKey c p))) := rfl
theorem exec_updPeer : exec (.updPeer h p) s =
    .next (s.afterAll (flashRequest s.chip h 0x49 (· = 4) p fun c => codeAnswer (updPeer c h.session (leAt p 0 1)))) := rfl
theorem exec_updSvcaddr : exec (.updSvcaddr h p) s =
    .next (s.afterAll (flashRequest s.chip h 0x4A (· = 8) p fun c => codeAnswer (updSvcaddr c p))) := rfl
theorem exec_updCancel : exec (.updCancel h p) s =
    .next (s.afterAll (flashRequest s.chip h 0x4B (· = 0) p fun c => codeAnswer (updCancel c (.session h.session)))) := rfl

end

/-- Settles O43: each command by the lemma on what it does, as `flashRequest_admitted` or `flashRequest_code` answers it. -/
theorem updateComplete : Obligations.UpdateComplete := by
  refine ⟨?loads, ?slots⟩
  case loads =>
    rintro s h x _ rfl
    refine ⟨?info, ?begin, ?data, ?fin, ?cancel⟩
    case info =>
      intro ha
      exact (exec_updInfo ..).trans (next_afterAll (tspRequest_admitted ha rfl rfl))
    case begin =>
      rintro p kind dst hf ha h8 rfl hk hform hlen hm ht hd h3 h4
      exact (exec_updBegin ..).trans (next_afterAll (flashRequest_code hf ha (by simp [h8])
        (updBegin_starts hk hform hlen hm ht hd.symm h3 h4 rfl)))
    case data =>
      intro p l hf ha h5 h1012 hl ho hofs hend
      have hdrop : (p.drop 4).length = p.length - 4 := List.length_drop
      have htakes := updData_takes (bs := p.drop 4) hl ho hofs (by omega) (by omega) (by omega)
      exact (exec_updData ..).trans (next_afterAll (flashRequest_admitted hf ha (by simp [h5, h1012])
        (by simp only [updDataCmd, htakes])))
    case fin =>
      intro l hf ha hl ho hg hd
      refine (exec_updEnd ..).trans (next_afterAll ?_)
      dsimp only
      split
      case isTrue hn =>
        exact flashRequest_admitted hf ha rfl (by simp only [updEndCmd, updEnd_passes hl ho hg hd hn])
      case isFalse hn =>
        exact flashRequest_admitted hf ha rfl (by simp only [updEndCmd, updEnd_fails hl ho hg hd rfl hn rfl])
    case cancel =>
      intro hf ha ht
      exact (exec_updCancel ..).trans (next_afterAll (flashRequest_code hf ha rfl (if_neg (ne_true_of_eq_false ht))))
  case slots =>
    rintro s h x _ p cmd rfl hf ha
    refine ⟨fun kind h4 hkind hk => ⟨?arm, ?trial, ?revert⟩, ?peer, ?svcaddr, ?key⟩
    case arm =>
      rintro k hs ht hfmt rfl
      exact (exec_updArm ..).trans (next_afterAll (flashRequest_code hf ha (by simp [h4]) (hkind ▸ updArm_loaded hk hs ht hfmt)))
    case trial =>
      intro k hs
      refine ⟨?_, ?_⟩
      · rintro rfl
        exact (exec_updConfirm ..).trans (next_afterAll (flashRequest_code hf ha (by simp [h4]) (hkind ▸ updConfirm_trial hs)))
      · rintro rfl
        exact (exec_updReject ..).trans (next_afterAll (flashRequest_code hf ha (by simp [h4]) (hkind ▸ updReject_trial hs)))
    case revert =>
      rintro k hs ht hn hfmt rfl
      exact (exec_updRevert ..).trans (next_afterAll (flashRequest_code hf ha (by simp [h4]) (hkind ▸ updRevert_old hk hs ht hn hfmt)))
    case peer =>
      rintro k rfl h4 hk hp hs hm hu
      exact (exec_updPeer ..).trans (next_afterAll (flashRequest_code hf ha (by simp [h4]) (by rw [hk, updPeer_sends hp hs hm hu])))
    case svcaddr =>
      rintro rfl h8 hlo hhi hz
      exact (exec_updSvcaddr ..).trans (next_afterAll (flashRequest_code hf ha (by simp [h8]) (updSvcaddr_sets h8 hlo hhi hz)))
    case key =>
      rintro rfl h256
      exact (exec_updKey ..).trans (next_afterAll (flashRequest_code hf ha (by simp [h256]) rfl))

end Sys2Proof.Machine
end

section
/-! The module after reset, SYS_CMD (`sysCommand_…`, answered OK by `writeCommand_sysCmd`), and committed words at their
boundaries (`commitApply_…`). -/

namespace Sys2Proof.Machine

/-! ### After reset (R194, R199) -/

/-- Settles O4: every part but the words is as reset lists it; a word holds the exclusive or of nothing listed with its reset word. -/
theorem resetState : Obligations.ResetState :=
  ⟨rfl, rfl, rfl, rfl, rfl, rfl, rfl, rfl, rfl, by decide, fun v _ => by cases v <;> rfl, fun v => by cases v <;> rfl,
    fun _ => BitVec.zero_xor⟩

/-! ### SYS_CMD (R189, R190, R210, R265) -/

section
variable {c d : Chip} {w : Writer} {h : Nat} {x : Word}

/-- The word that a SYS_CMD of code `op` with its key brings to the command: its WO fields. -/
def sysCmdWord (op : Nat) : Word :=
  word (op * 2 ^ 28 + 0xC4E5) &&& maskWhere Reg.sysCmd fun f => f.acc = .wo && !f.rsvd

theorem bits_sysCmdWord {op : Nat} (ho : op < 8) : bits (sysCmdWord op) 31 28 = op ∧ bits (sysCmdWord op) 15 0 = 0xC4E5 := by
  interval_cases op <;> decide

/-- SYS_CMD acts for a writer of any privilege but READ (R213). -/
theorem commanded_sysCmd (hw : reaches c w = true) (hp : privOf c w ≠ some .read) : Commanded c w Reg.sysCmd.addr where
  reach := hw
  priv := hp
  acts _ r _ := by simp [operateActs]

/-- A SYS_CMD that the port admits and the command accepts answers OK (R106, R210). -/
theorem writeCommand_sysCmd (hw : Commanded c w Reg.sysCmd.addr)
    (hc : sysCommand c w (x &&& maskWhere Reg.sysCmd fun f => f.acc = .wo && !f.rsvd) h = (d, 0)) :
    writeCommand c w Reg.sysCmd.addr x h = answeredOk d Reg.sysCmd.addr := by
  have hm (o : Word) : modeLocked c w Reg.sysCmd Reg.sysCmd.addr false o x = false := by
    have hb : blockOf Reg.sysCmd.addr = 0 := by decide
    have hx : Reg.sysCmd.addr ≠ Reg.sysExpert.addr := by decide
    simp [modeLocked, hb, hx]
  have hl : loopBusy c Reg.sysCmd.addr = false := by
    have hb : Reg.tstLbk.covers Reg.sysCmd.addr = false := by decide
    simp [loopBusy, hb]
  exact writeCommand_command hw rfl (by decide) (by decide) (by decide) (by decide) (by decide) hm hl
    (by rw [commandWrite, if_pos rfl, hc])

/-- HOLD asks for no privilege beyond OPERATE, and the culture may write it (R210). -/
theorem sysCommand_hold (ha : allowed (nextMode c) .hold (if w = .culture then 10 else 4) = true) :
    sysCommand c w (sysCmdWord 1) h = (requestMode c .hold (if w = .culture then 10 else 4), 0) := by
  obtain ⟨ho, hk⟩ := bits_sysCmdWord (op := 1) (by decide)
  simp [sysCommand, ho, hk, ha]

section
variable (hm : isMaintain c w = true)
include hm

/-- The culture is no session, and so has no MAINTAIN privilege. -/
theorem not_culture_of_isMaintain : w ≠ .culture := by
  rintro rfl
  exact absurd hm (by simp [isMaintain, privOf])

theorem sysCommand_restart (hh : nextMode c = .hold) : sysCommand c w (sysCmdWord 2) h = (requestMode c .prove 4, 0) := by
  obtain ⟨ho, hk⟩ := bits_sysCmdWord (op := 2) (by decide)
  simp [sysCommand, ho, hk, hm, not_culture_of_isMaintain hm, hh, allowed]

theorem sysCommand_maint (ha : allowed (nextMode c) .maintenance 4 = true) :
    sysCommand c w (sysCmdWord 3) h = (requestMode c .maintenance 4, 0) := by
  obtain ⟨ho, hk⟩ := bits_sysCmdWord (op := 3) (by decide)
  simp [sysCommand, ho, hk, hm, not_culture_of_isMaintain hm, ha]

theorem sysCommand_exit (hh : nextMode c = .maintenance) : sysCommand c w (sysCmdWord 4) h = (requestMode c .prove 4, 0) := by
  obtain ⟨ho, hk⟩ := bits_sysCmdWord (op := 4) (by decide)
  simp [sysCommand, ho, hk, hm, not_culture_of_isMaintain hm, hh, allowed]

theorem sysCommand_rejoin (hh : nextMode c = .hold) (ht : c.ldl.chgIn = .toggling) :
    sysCommand c w (sysCmdWord 5) h = (requestMode c .standby 4, 0) := by
  obtain ⟨ho, hk⟩ := bits_sysCmdWord (op := 5) (by decide)
  simp [sysCommand, ho, hk, hm, not_culture_of_isMaintain hm, hh, ht, allowed]

theorem sysCommand_handover (hs : c.sys.mode = .service) (hr : partnerReady c = true) (hn : c.ldl.handover = none) :
    sysCommand c w (sysCmdWord 6) h = (startHandover c h, 0) := by
  obtain ⟨ho, hk⟩ := bits_sysCmdWord (op := 6) (by decide)
  simp [sysCommand, ho, hk, hm, not_culture_of_isMaintain hm, hs, hr, hn]

theorem sysCommand_reset : sysCommand c w (sysCmdWord 7) h = (moduleReset c, 0) := by
  obtain ⟨ho, hk⟩ := bits_sysCmdWord (op := 7) (by decide)
  simp [sysCommand, ho, hk, hm, not_culture_of_isMaintain hm]

end
end

section
variable {s : State} {w : Writer} {key : BitVec 16}

theorem exec_sysCmdHold : exec (.sysCmdHold w key) s =
    .next (s.afterAll (writeCommand s.chip w Reg.sysCmd.addr (word (1 * 2 ^ 28 + key.toNat)))) := rfl
theorem exec_sysCmdRestart : exec (.sysCmdRestart w key) s =
    .next (s.afterAll (writeCommand s.chip w Reg.sysCmd.addr (word (2 * 2 ^ 28 + key.toNat)))) := rfl
theorem exec_sysCmdMaint : exec (.sysCmdMaint w key) s =
    .next (s.afterAll (writeCommand s.chip w Reg.sysCmd.addr (word (3 * 2 ^ 28 + key.toNat)))) := rfl
theorem exec_sysCmdExit : exec (.sysCmdExit w key) s =
    .next (s.afterAll (writeCommand s.chip w Reg.sysCmd.addr (word (4 * 2 ^ 28 + key.toNat)))) := rfl
theorem exec_sysCmdRejoin : exec (.sysCmdRejoin w key) s =
    .next (s.afterAll (writeCommand s.chip w Reg.sysCmd.addr (word (5 * 2 ^ 28 + key.toNat)))) := rfl
theorem exec_sysCmdHandover {h : Nat} : exec (.sysCmdHandover w key h) s =
    .next (s.afterAll (writeCommand s.chip w Reg.sysCmd.addr (word (6 * 2 ^ 28 + key.toNat)) h)) := rfl
theorem exec_sysCmdReset : exec (.sysCmdReset w key) s =
    .next (s.afterAll (writeCommand s.chip w Reg.sysCmd.addr (word (7 * 2 ^ 28 + key.toNat)))) := rfl

end

/-- Settles O37: each operation by its lemma `sysCommand_…`, which `writeCommand_sysCmd` answers OK. -/
theorem systemCommandsComplete : Obligations.SystemCommandsComplete := by
  rintro s w _ _ rfl hw rfl
  refine ⟨?hold, fun hm => ?maintain⟩
  case hold =>
    exact fun hp ha => exec_sysCmdHold.trans (next_afterAll (writeCommand_sysCmd (commanded_sysCmd hw hp) (sysCommand_hold ha)))
  case maintain =>
    have hq : privOf s.chip w = some .maintain := of_decide_eq_true hm
    have hc : Commanded s.chip w Reg.sysCmd.addr := commanded_sysCmd hw (by simp [hq])
    refine ⟨?restart, ?maint, ?exit, ?rejoin, ?handover, ?reset⟩
    case restart => exact fun hh => exec_sysCmdRestart.trans (next_afterAll (writeCommand_sysCmd hc (sysCommand_restart hm hh)))
    case maint => exact fun ha => exec_sysCmdMaint.trans (next_afterAll (writeCommand_sysCmd hc (sysCommand_maint hm ha)))
    case exit => exact fun hh => exec_sysCmdExit.trans (next_afterAll (writeCommand_sysCmd hc (sysCommand_exit hm hh)))
    case rejoin => exact fun hh ht => exec_sysCmdRejoin.trans (next_afterAll (writeCommand_sysCmd hc (sysCommand_rejoin hm hh ht)))
    case handover =>
      exact fun h hs hr hn => exec_sysCmdHandover.trans (next_afterAll (writeCommand_sysCmd hc (sysCommand_handover hm hs hr hn)))
    case reset => exact exec_sysCmdReset.trans (next_afterAll (writeCommand_sysCmd hc (sysCommand_reset hm)))

/-! ### Committed words at their boundaries (R205 to R207) -/

section
variable {c : Chip} {b n k : Nat} (hk : blockOf (b * 65536) = k) (h0 : k ≠ 0)
include hk h0

/-- In SERVICE and STANDBY the words of the block that are due become live. -/
theorem commitApply_due (ha : atOnce (applySys c) = false) :
    commitApply c b n = applyWords (applySys c) fun a => decide (blockOf a = k) && due (applySys c) n a := by
  simp [commitApply, hk, h0, ha]

section
variable (ha : atOnce (applySys c) = true)
include ha

theorem commitApply_why (h16 : k = 16) : commitApply c b n = applyWhy (applySys c) := by
  subst h16
  simp [commitApply, hk, ha]

theorem commitApply_slots (h4 : k = 4) : commitApply c b n = slotsNow (applySys c) := by
  subst h4
  simp [commitApply, hk, ha]

/-- The point table goes before the other words of HXK. -/
theorem commitApply_points (h2 : k = 2) :
    commitApply c b n = applyWords (applyPoints (applySys c)) fun a => decide (blockOf a = 2) := by
  subst h2
  simp [commitApply, hk, ha]

theorem commitApply_words (h2 : k ≠ 2) (h4 : k ≠ 4) (h16 : k ≠ 16) :
    commitApply c b n = applyWords (applySys c) fun a => decide (blockOf a = k) := by
  simp [commitApply, hk, h0, ha, h2, h4, h16]

end
end

theorem exec_commitApply (b : Fin 28) (n : Fin 512) (s : State) :
    exec (.commitApply b n) s = .next (s.afterAll (commitApply s.chip b.val n.val)) := rfl

/-- Settles O39: by the block's own lemma `commitApply_…`. -/
theorem commitAppliesComplete : Obligations.CommitAppliesComplete := by
  rintro s b n _ _ rfl h0 rfl
  refine ⟨?due, fun ha => ⟨?why, ?slots, ?points, ?words⟩⟩
  case due => exact fun ha => (exec_commitApply b n s).trans (next_afterAll (commitApply_due rfl h0 ha))
  case why => exact fun h16 => (exec_commitApply b n s).trans (next_afterAll (commitApply_why rfl h0 ha h16))
  case slots => exact fun h4 => (exec_commitApply b n s).trans (next_afterAll (commitApply_slots rfl h0 ha h4))
  case points => exact fun h2 => (exec_commitApply b n s).trans (next_afterAll (commitApply_points rfl h0 ha h2))
  case words =>
    exact fun h2 h4 h16 => (exec_commitApply b n s).trans (next_afterAll (commitApply_words rfl h0 ha h2 h4 h16))

end Sys2Proof.Machine
end

section
/-! Sessions and configuration requests (`handshake_accepted`, `openSession_lowest`, `cfgRead_words`, `cfgWrite_entries`), and what
staging answers COMMIT, ABORT and STG.BREAK (`commitStaging_ok`, `abortStaging_ok`, `breakStaging_…`). -/

namespace Sys2Proof.Machine

/-! ### Sessions (R213, R496) -/

section
variable {c : Chip} {priv : Priv} {fp : BitVec 64}

/-- A handshake that the service port accepts opens a session or waits for the random source (R194 step 9, R213). -/
theorem handshake_accepted (hk : trustAnchor c = true) (hi : c.sys.mode ≠ .inert) (h9 : 9 ≤ c.sys.step) (hu : c.sys.affUp = true) :
    handshake c priv fp = if c.sys.rngReady then openSession c priv fp
      else onSys c fun y => { y with waiting := y.waiting ++ [(priv, fp)] } := by
  simp only [handshake, hk, hi, hu, Nat.not_lt.mpr h9, decide_false, Bool.not_true, Bool.or_self, Bool.false_eq_true, if_false]

/-- The session is the one of the lowest free number (R213). -/
theorem openSession_lowest {n : Fin 4} (hn : mapGet none c.sys.sessions n.val = none)
    (hl : ∀ m : Fin 4, m < n → mapGet none c.sys.sessions m.val ≠ none) :
    openSession c priv fp = onSys c fun y =>
      { y with sessions := mapPut none y.sessions n.val (some ⟨priv, fp.toNat, none, none, none, c.core.tick, none⟩) } := by
  have hf : (List.finRange 4).find? (fun m => (mapGet none c.sys.sessions m.val).isNone) = some n := by
    rw [← Fin.find?_eq_find?_finRange, Fin.find?_eq_some_iff]
    exact ⟨by rw [hn]; rfl, fun m hm => Option.isNone_eq_false_iff.mpr (Option.isSome_iff_ne_none.mpr (hl m hm))⟩
  simp only [openSession, hf]

/-- A session that no valid message has reached for 29 s can end (R213). -/
theorem sessionTimeout_silent {n : Fin 4} {x : Session} (hx : mapGet none c.sys.sessions n.val = some x)
    (hq : x.heard + 29000000 ≤ c.core.tick) : sessionTimeout c n = endSession c n := by
  simp only [sessionTimeout, hx, hq, if_true]

end

/-! ### Configuration requests (R214, R215) -/

section
variable {c d : Chip} {h : TspHead} {p : List Byte}

/-- CFG.READ of 1 to 256 words (R214). -/
theorem cfgRead_words {st : Nat} {bs : List Byte} (h1 : 1 ≤ leAt p 4 4) (h256 : leAt p 4 4 ≤ 256)
    (hr : readWords (.session h.session) (headStg h) (leAt p 4 4) (leAt p 0 4) c = (d, st, bs)) : cfgRead h p c = (d, st, bs) := by
  have h0 : leAt p 4 4 ≠ 0 := Nat.ne_of_gt h1
  simp only [cfgRead, h0, Nat.not_lt.mpr h256, hr, decide_false, Bool.or_self, Bool.false_eq_true, if_false]

/-- CFG.WRITE of 1 to 64 entries (R215). -/
theorem cfgWrite_entries {n : Fin 4} {i : Nat} {w : Word} (h1 : 1 ≤ leAt p 0 4) (h64 : leAt p 0 4 ≤ 64)
    (hl : p.length = 4 + 12 * leAt p 0 4)
    (hw : writeEntries (.session n) (leAt p 0 4) 0 0 (p.drop 4) c = (d, i, w)) :
    cfgWrite n p c = (d, bits w 31 24, bytesLE 4 i ++ wordBytes w) := by
  have h0 : leAt p 0 4 ≠ 0 := Nat.ne_of_gt h1
  simp only [cfgWrite, h0, Nat.not_lt.mpr h64, hl, hw, ne_eq, not_true_eq_false, decide_false, Bool.or_self, Bool.false_eq_true,
    if_false]

end

section
variable {s : State} (h : TspHead) (p : List Byte)

theorem exec_dtlsHandshake (priv : Priv) (fp : BitVec 64) : exec (.dtlsHandshake priv fp) s =
    .next (s.afterAll (handshake s.chip priv fp)) := rfl
theorem exec_tspSessionTimeout (n : Fin 4) : exec (.tspSessionTimeout n) s = .next (s.afterAll (sessionTimeout s.chip n)) := rfl
theorem exec_tspOpen : exec (.tspOpen h p) s =
    .next (s.afterAll (tspRequest s.chip h 0x01 .read (· = 0) p (tspOpen h.session))) := rfl
theorem exec_tspClose : exec (.tspClose h p) s =
    .next (s.afterAll (tspRequest s.chip h 0x02 .read (· = 0) p (tspClose h.session))) := rfl
theorem exec_tspPing : exec (.tspPing h p) s = .next (s.afterAll (tspRequest s.chip h 0x03 .read (· = 0) p tspPing)) := rfl
theorem exec_tspUnknown (cmd : BitVec 8) : exec (.tspUnknown h cmd p) s = .next (s.afterAll
    (if tspAssigned cmd.toNat then s.chip else tspRequest s.chip h cmd.toNat .read (fun _ => true) p fun c => (c, 0x42, []))) := rfl
theorem exec_cfgRead : exec (.cfgRead h p) s =
    .next (s.afterAll (tspRequest s.chip h 0x10 .read (· = 8) p (cfgRead h p))) := rfl
theorem exec_cfgWrite : exec (.cfgWrite h p) s =
    .next (s.afterAll (tspRequest s.chip h 0x11 .operate (4 ≤ ·) p (cfgWrite h.session p))) := rfl
theorem exec_tspCommit : exec (.tspCommit h p) s =
    .next (s.afterAll (tspRequest s.chip h 0x12 .maintain (· = 0) p (tspCommit h.session))) := rfl
theorem exec_tspAbort : exec (.tspAbort h p) s =
    .next (s.afterAll (tspRequest s.chip h 0x13 .operate (· = 0) p (tspAbort h.session))) := rfl
theorem exec_stgBreak : exec (.stgBreak h p) s =
    .next (s.afterAll (tspRequest s.chip h 0x14 .maintain (· = 0) p (stgBreak h.session))) := rfl

end

/-- Settles O40: handshakes by `handshake_accepted`, requests by `tspRequest_admitted` with what their command answers. -/
theorem sessionsAndConfigurationComplete : Obligations.SessionsAndConfigurationComplete := by
  refine ⟨fun s => ⟨?waits, ?opens, ?silent, ?open_, ?ping, ?close, ?unknown⟩, fun s h x p c => ⟨?read, ?write⟩⟩
  case waits =>
    intro priv fp hk hi h9 hu hr
    exact (exec_dtlsHandshake priv fp).trans (next_afterAll (by rw [handshake_accepted hk hi h9 hu, if_neg (ne_true_of_eq_false hr)]))
  case opens =>
    intro priv fp n hk hi h9 hu hr hn hl
    exact (exec_dtlsHandshake priv fp).trans (next_afterAll (by
      rw [handshake_accepted hk hi h9 hu, if_pos hr, openSession_lowest hn hl]))
  case silent => exact fun n x hx hq => (exec_tspSessionTimeout n).trans (next_afterAll (sessionTimeout_silent hx hq))
  case open_ => exact fun h x ha => (exec_tspOpen h []).trans (next_afterAll (tspRequest_admitted ha rfl rfl))
  case ping => exact fun h x ha => (exec_tspPing h []).trans (next_afterAll (tspRequest_admitted ha rfl rfl))
  case close => exact fun h x ha => (exec_tspClose h []).trans (next_afterAll (tspRequest_admitted ha rfl rfl))
  case unknown =>
    exact fun h x cmd p hn ha => (exec_tspUnknown h p cmd).trans (next_afterAll
      ((if_neg (ne_true_of_eq_false hn)).trans (tspRequest_admitted ha rfl rfl)))
  case read =>
    exact fun st bs ha h8 h1 h256 hr => (exec_cfgRead h p).trans (next_afterAll
      (tspRequest_admitted ha (by simp [h8]) (cfgRead_words h1 h256 hr)))
  case write =>
    exact fun i w ha h1 h64 hl hw => (exec_cfgWrite h p).trans (next_afterAll
      (tspRequest_admitted ha (by simp [hl]) (cfgWrite_entries h1 h64 hl hw)))

/-! ### COMMIT, ABORT and STG.BREAK (R203 to R206, R212, R216) -/

section
variable {c : Chip} {n : Fin 4}

/-- Noting that a set of the schedule changes leaves the staging and the live words as they are (R348). -/
theorem noteSetChange_sys (ws : SMap (Option Word)) : (noteSetChange c ws).sys = c.sys := by
  unfold noteSetChange
  dsimp only
  split <;> rfl

theorem rawReg_noteSetChange (ws : SMap (Option Word)) (a : Nat) : rawReg (noteSetChange c ws) a = rawReg c a := by
  unfold noteSetChange
  dsimp only
  split <;> rfl

theorem committedWords_noteSetChange (ws : SMap (Option Word)) : committedWords (noteSetChange c ws) = committedWords c := by
  simp only [committedWords, noteSetChange_sys, rawReg_noteSetChange]

/-- A COMMIT by a session that nothing refuses (R203, R206). -/
theorem commitStaging_ok (hp : commitPending c = false) (hl : hostLocked c (.session n) = false)
    (ho : notOwner c (.session n) = false) (hf : namedFail (commitFails c) = none) :
    commitStaging c (.session n) = (setField (stageSlots (onSys (noteSetChange c (committedWords c)) fun y =>
        { y with pend := committedWords c, staged := [], owner := .none, commits := y.commits + 1 })) Reg.vatXsize.addr 13 0
      (if c.sys.staged.isEmpty then fieldOf c Reg.vatXsize.addr 13 0
        else setVolume (afterCommit (noteSetChange c (committedWords c)))), [0, 0]) := by
  have hset (s : Sys) : (s.setupCommitted || (decide ((Writer.session n) = .culture) && s.setupRun)) = s.setupCommitted :=
    Bool.or_false _
  simp only [commitStaging, hp, hl, ho, hf, hset, Bool.false_eq_true, if_false, noteSetChange_sys, fieldOf, rawReg_noteSetChange,
    committedWords_noteSetChange]

/-- ABORT by a session where no other writer owns staging (R199). -/
theorem abortStaging_ok (ho : c.sys.owner = .none ∨ c.sys.owner = .session n) :
    abortStaging c (.session n) = (ranksDefault (onSys c fun y => { y with owner := .none, staged := [] }), [0]) := by
  have hown : (decide (c.sys.owner ≠ .none) && decide (c.sys.owner ≠ ownerOf (.session n))) = false := by
    rcases ho with ho | ho <;> simp [ho, ownerOf]
  simp only [abortStaging, hown, Bool.false_eq_true, if_false, reduceCtorEq]

section
variable (hm : c.sys.mode = .prove ∨ c.sys.mode = .hold ∨ c.sys.mode = .maintenance)
include hm

theorem not_breakLocked : ¬ (c.sys.mode ≠ .prove ∧ c.sys.mode ≠ .hold ∧ c.sys.mode ≠ .maintenance) := by
  rintro ⟨hp, hh, hn⟩
  rcases hm with h | h | h
  exacts [hp h, hh h, hn h]

/-- STG.BREAK of the session's own staging discards it and makes no record (R216). -/
theorem breakStaging_own (ho : c.sys.owner = .session n) :
    breakStaging c n = (ranksDefault (onSys c fun y => { y with owner := .none, staged := [] }), 0) := by
  simp only [breakStaging, if_neg (not_breakLocked hm), ho, if_true]

/-- STG.BREAK of the culture's staging marks it broken, and the record names the culture (R216). -/
theorem breakStaging_culture (ho : c.sys.owner = .culture) :
    breakStaging c n = (deviceRecord
      (onSys (ranksDefault (onSys c fun y => { y with owner := .none, staged := [] })) fun y => { y with broken := true })
      0x00 0x03 1 (fingerprintOf c n % 2 ^ 32) (fingerprintOf c n / 2 ^ 32), 0) := by
  simp only [breakStaging, if_neg (not_breakLocked hm), ho]
  rfl

/-- STG.BREAK of another session's staging: the record names that session (R216). -/
theorem breakStaging_other {m : Fin 4} (ho : c.sys.owner = .session m) (hn : m ≠ n) :
    breakStaging c n = (deviceRecord (ranksDefault (onSys c fun y => { y with owner := .none, staged := [] }))
      0x00 0x03 (2 + 4 * m.val) (fingerprintOf c n % 2 ^ 32) (fingerprintOf c n / 2 ^ 32), 0) := by
  simp only [breakStaging, if_neg (not_breakLocked hm), ho, if_neg hn]
  rfl

end

/-! The answer of each command where staging answers OK: its status words, all 0 (R214). -/

theorem tspCommit_ok {d : Chip} (h : commitStaging c (.session n) = (d, [0, 0])) : tspCommit n c = (d, 0, List.replicate 8 0) := by
  simp only [tspCommit, h]
  rfl

theorem tspAbort_ok {d : Chip} (h : abortStaging c (.session n) = (d, [0])) : tspAbort n c = (d, 0, List.replicate 4 0) := by
  simp only [tspAbort, h]
  rfl

theorem stgBreak_ok {d : Chip} (h : breakStaging c n = (d, 0)) : stgBreak n c = (d, 0, List.replicate 4 0) := by
  simp only [stgBreak, h]
  rfl

end

/-- Settles O41: each request by `tspRequest_admitted`, with what staging answers it: `commitStaging_ok`, `abortStaging_ok`,
`breakStaging_own`, `breakStaging_culture` and `breakStaging_other`. -/
theorem stagingCommandsComplete : Obligations.StagingCommandsComplete := by
  rintro s h x _ rfl
  refine ⟨?commit, ?abort, fun ha hm => ?break_⟩
  case commit =>
    exact fun ha hp hl ho hf => (exec_tspCommit h []).trans (next_afterAll
      (tspRequest_admitted ha rfl (tspCommit_ok (commitStaging_ok hp hl ho hf))))
  case abort =>
    exact fun ha ho => (exec_tspAbort h []).trans (next_afterAll
      (tspRequest_admitted ha rfl (tspAbort_ok (abortStaging_ok ho))))
  case break_ =>
    have hans {d : Chip} (hd : breakStaging (acceptMsg s.chip h) h.session = (d, 0)) :
        exec (.stgBreak h []) s = .next (s.afterAll (replied d h 0x14 0 (List.replicate 4 0))) :=
      (exec_stgBreak h []).trans (next_afterAll (tspRequest_admitted ha rfl (stgBreak_ok hd)))
    refine ⟨?own, ?culture, ?other⟩
    case own => exact fun ho => hans (breakStaging_own hm ho)
    case culture =>
      rintro _ ho rfl
      exact hans (breakStaging_culture hm ho)
    case other =>
      rintro _ m ho hn rfl
      exact hans (breakStaging_other hm ho hn)

end Sys2Proof.Machine
end

section
/-! The charge pair: edges of the charge line, a takeover, and the steps of a handover (R236 to R238, R241, R243, R244, R263,
R265, R266). -/

namespace Sys2Proof.Machine

/-! ### Edges of the charge line (R237, R238, R244) -/

/-- The present edge with the latest counted ones of the last 2 ms, three at most. -/
def recentToggles (c : Chip) : List Nat :=
  c.core.tick :: (c.ldl.toggles.filter fun x => c.core.tick ≤ x + 2000).take 2

/-- A counted edge noted, which leaves the partner's line at `g`. -/
def edgeNoted (c : Chip) (g : ChgIn) : Chip := onLdl c fun l =>
  { l with toggles := recentToggles c, lastEdge := some c.core.tick, quietFrom := c.core.tick, warned := false, topWarned := false,
           chgIn := g, watchTog := l.watchTog || decide (g = .toggling) }

section
variable {c : Chip} {us : Nat} (hu : 20 < us)
include hu

theorem chgInEdge_again (hg : c.ldl.chgIn = .toggling) : chgInEdge c us = edgeNoted c .toggling := by
  simp [chgInEdge, Nat.not_le.mpr hu, hg, edgeNoted, recentToggles]

variable (hg : c.ldl.chgIn ≠ .toggling)
include hg

theorem chgInEdge_few (h3 : (recentToggles c).length < 3) : chgInEdge c us = edgeNoted c .notToggling := by
  have hn : (c.core.tick :: (c.ldl.toggles.filter fun x => c.core.tick ≤ x + 2000).take 2).length ≠ 3 := Nat.ne_of_lt h3
  simp only [chgInEdge, Nat.not_le.mpr hu, hg, hn, decide_false, Bool.or_self, Bool.false_and, Bool.false_eq_true, if_false]
  rfl

/-- The third edge within 2 ms makes the partner TOGGLING: a module in charge that has not begun to leave compares epochs. -/
theorem chgInEdge_third (h3 : (recentToggles c).length = 3) : chgInEdge c us =
    if (inCharge c && !c.ldl.handover.any (·.begun)) = true then compareEpochs (edgeNoted c .toggling) else edgeNoted c .toggling := by
  have hn : (c.core.tick :: (c.ldl.toggles.filter fun x => c.core.tick ≤ x + 2000).take 2).length = 3 := h3
  simp only [chgInEdge, Nat.not_le.mpr hu, hg, hn, decide_true, decide_false, Bool.false_or, Bool.not_false, Bool.and_self,
    Bool.true_and, if_true, if_false]
  rfl

theorem chgInEdge_third_uncompared (h3 : (recentToggles c).length = 3)
    (hl : inCharge c = false ∨ c.ldl.handover.any (·.begun) = true) : chgInEdge c us = edgeNoted c .toggling := by
  rw [chgInEdge_third hu hg h3, if_neg]
  rcases hl with hl | hl <;> simp [hl]

theorem chgInEdge_third_compared (h3 : (recentToggles c).length = 3) (hc : inCharge c = true)
    (hl : c.ldl.handover.any (·.begun) = false) : chgInEdge c us = compareEpochs (edgeNoted c .toggling) := by
  rw [chgInEdge_third hu hg h3, if_pos (by rw [hc, hl]; rfl)]

end

/-! ### Silence and a takeover (R238, R241, R243, R263) -/

section
variable {c : Chip}

theorem togglingLost_quiet (hg : c.ldl.chgIn = .toggling) (hq : c.ldl.quietFrom + 300 ≤ c.core.tick) :
    togglingLost c = measureGap (onLdl c fun l => { l with chgIn := .notToggling, toggles := [] }) := if_pos ⟨hg, hq⟩

theorem partnerSilent_quiet (hg : c.ldl.chgIn = .notToggling) (hq : c.ldl.quietFrom + 3000 ≤ c.core.tick) :
    partnerSilent c = onLdl c fun l => { l with chgIn := .silent } := if_pos ⟨hg, hq⟩

/-- A partner that is SILENT stays so. -/
theorem partnerSilent_silent (hg : c.ldl.chgIn = .silent) : partnerSilent c = c := by
  simp [partnerSilent, hg]

theorem canTake_iff : canTake c = true ↔ c.ldl.sync = 4 ∨ takeAny c = true := by
  simp [canTake]

/-- A standby that can takes charge where its partner is SILENT and no valid frame arrives (R243). -/
theorem takeover_taken (hm : c.sys.mode = .standby) (hg : c.ldl.chgIn = .silent) (hf : framesArrive c = false)
    (ht : c.ldl.sync = 4 ∨ takeAny c = true) : takeover c = takeCharge c 1 := by
  simp [takeover, hm, hg, hf, canTake_iff.mpr ht]

theorem takeCharge_within (kind : Nat) (he : nextEpoch c ≤ 0xFFFFFFFF) :
    takeCharge c kind = todoMode (setField c Reg.ldlTklast.addr 31 28 kind) .service 5 := by
  simp [takeCharge, epochFull, Nat.not_lt.mpr he]

/-- The epoch has no value left for another entry to SERVICE (R241). -/
theorem takeCharge_exhausted (kind : Nat) (he : 0xFFFFFFFF < nextEpoch c) :
    takeCharge c kind = raise (onLdl c fun l => { l with topWarned := true }) 1927 (epoch c) := by
  simp [takeCharge, epochFull, he]

end

/-! ### A handover (R191, R265, R266) -/

/-- An activation of an event task is in progress. -/
def eventActive (c : Chip) : Bool := (enabledTasks c).any fun t => t.ev && (taskSt c t).active

section
variable {c : Chip} {h : Leaving} (hh : c.ldl.handover = some h) (hm : c.sys.mode = .service)
include hh hm

/-- What H brings once it is reached (R265). -/
theorem handoverAt_reached {next : Nat} {quiet : Bool} (hb : h.begun = false) (ht : h.tick ≤ c.core.tick) :
    handoverAt c next quiet =
      if eventActive c = true ∨ syncLim c < backlog c then
        if 16 ≤ h.moves then deviceRecord (onLdl c fun l => { l with handover := none }) 0x06 0x01 h.tick
        else queueFrame (onLdl c fun l => { l with handover := some { h with tick := max next (c.core.tick + 1), moves := h.moves + 1 } })
          ⟨0, 8, false, 0, max next (c.core.tick + 1) % 2 ^ 32, []⟩
      else if quiet = true then beginLeaving c h
      else c := by
  have ha : ((enabledTasks c).any fun t => t.ev && (taskSt c t).active) = eventActive c := rfl
  simp only [handoverAt, hh, hm, hb, ha, Nat.not_lt.mpr ht, ne_eq, not_true_eq_false, Bool.false_eq_true, or_self, if_false,
    Bool.or_eq_true, decide_eq_true_eq]

/-- 270 µs after its begin a relinquish ends, where FINAL has been sent or nothing more is to be waited for (R266). -/
theorem relinquishEnd_over (hb : h.begun = true) (ht : h.tick + 270 ≤ c.core.tick)
    (hf : h.final = true ∨ h.tick + 1000 ≤ c.core.tick ∨ ladleUp c = false) :
    relinquishEnd c = if h.mode = .inert then onLdl c fun l => { l with handover := none } else todoMode c h.mode h.cause := by
  have hw : (h.final || decide (h.tick + 1000 ≤ c.core.tick) || !ladleUp c) = true := by
    simpa [or_assoc] using hf
  simp only [relinquishEnd, hh, hm, hb, ht, hw, decide_true, Bool.and_self, if_true]

end

/-! ### The commands -/

section
variable {s : State}

theorem exec_chgInEdge (us : Nat) : exec (.chgInEdge us) s = .next (s.afterAll (chgInEdge s.chip us)) := rfl
theorem exec_togglingLost : exec .togglingLost s = .next (s.afterAll (togglingLost s.chip)) := rfl
theorem exec_partnerSilent : exec .partnerSilent s = .next (s.afterAll (partnerSilent s.chip)) := rfl
theorem exec_takeover : exec .takeover s = .next (s.afterAll (takeover (partnerSilent s.chip))) := rfl
theorem exec_handoverTick (next : Nat) :
    exec (.handoverTick next) s = .next (s.afterAll (handoverAt s.chip next (isQuiet s.chip))) := rfl
theorem exec_relinquishEnd : exec .relinquishEnd s = .next (s.afterAll (relinquishEnd s.chip)) := rfl

end

/-- Settles O46: edges by `chgInEdge_few`, `chgInEdge_again` and `chgInEdge_third`, the takeover by `takeover_taken`, the handover
by `handoverAt_reached` and `relinquishEnd_over`. -/
theorem chargeComplete : Obligations.ChargeComplete := by
  refine ⟨fun s => ⟨?edges, ?lost, ?silent, ?takeover⟩, fun s h hh hm => ⟨fun next hb ht => ⟨?free, ?held⟩, ?ends⟩⟩
  case edges =>
    rintro us _ hu rfl
    exact ⟨fun hg h3 => (exec_chgInEdge us).trans (next_afterAll (chgInEdge_few hu hg h3)),
      fun hg => (exec_chgInEdge us).trans (next_afterAll (chgInEdge_again hu hg)),
      fun hg h3 hl => (exec_chgInEdge us).trans (next_afterAll (chgInEdge_third_uncompared hu hg h3 hl)),
      fun hg h3 hc hl => (exec_chgInEdge us).trans (next_afterAll (chgInEdge_third_compared hu hg h3 hc hl))⟩
  case lost => exact fun hg hq => exec_togglingLost.trans (next_afterAll (togglingLost_quiet hg hq))
  case silent => exact fun hg hq => exec_partnerSilent.trans (next_afterAll (partnerSilent_quiet hg hq))
  case takeover =>
    intro hm hg hf ht
    have htaken : takeover (partnerSilent s.chip) = takeCharge s.chip 1 := by
      rw [partnerSilent_silent hg, takeover_taken hm hg hf ht]
    exact ⟨fun he => exec_takeover.trans (next_afterAll (htaken.trans (takeCharge_within 1 he))),
      fun he => exec_takeover.trans (next_afterAll (htaken.trans (takeCharge_exhausted 1 he)))⟩
  case free =>
    intro ha hl
    have hn : ¬ (eventActive s.chip = true ∨ syncLim s.chip < backlog s.chip) :=
      not_or.mpr ⟨ne_true_of_eq_false ha, Nat.not_lt.mpr hl⟩
    refine ⟨fun hq => (exec_handoverTick next).trans (next_afterAll ?_), fun hq => (exec_handoverTick next).trans (next_afterAll ?_)⟩
    · rw [handoverAt_reached hh hm hb ht, if_neg hn, if_pos hq]; rfl
    · rw [handoverAt_reached hh hm hb ht, if_neg hn, if_neg (ne_true_of_eq_false hq)]
  case held =>
    intro ho
    have hheld : eventActive s.chip = true ∨ syncLim s.chip < backlog s.chip := ho.symm
    refine ⟨?moves, fun h16 => (exec_handoverTick next).trans (next_afterAll ?abandoned)⟩
    case moves =>
      rintro _ h16 rfl
      exact (exec_handoverTick next).trans (next_afterAll (by
        rw [handoverAt_reached hh hm hb ht, if_pos hheld, if_neg (Nat.not_le.mpr h16)]))
    case abandoned => rw [handoverAt_reached hh hm hb ht, if_pos hheld, if_pos h16]
  case ends =>
    intro hb ht hf
    exact ⟨fun hi => exec_relinquishEnd.trans (next_afterAll (by rw [relinquishEnd_over hh hm hb ht hf, if_neg hi])),
      fun hi => exec_relinquishEnd.trans (next_afterAll (by rw [relinquishEnd_over hh hm hb ht hf, if_pos hi]))⟩

end Sys2Proof.Machine
end

section
/-! The Ladle link: lanes, slots, LDL_CMD (`ldlCommand_…`, answered OK by `writeCommand_ldlCmd`) and a standby's self-tests (R136,
R248, R249, R253, R259, R261, R272). -/

namespace Sys2Proof.Machine

section
variable (c : Chip)

@[simp] theorem paired_onLdl (f : Ldl → Ldl) : paired (onLdl c f) = paired c := rfl

@[simp] theorem queueFrame_ident (f : TxFrame) : (queueFrame c f).ldl.ident = c.ldl.ident := by
  rw [queueFrame]
  split <;> rfl

end

/-! ### What the end of the link leaves as it was -/

section
variable (c : Chip)

theorem arrive_regs (s : Nat) (info : Word) (lvl : Bool) (seen : Tri Bool) : (arrive c s info lvl seen).regs = c.regs := by
  refine List.foldlRecOn (motive := fun d : Chip => d.regs = c.regs) _ _ rfl fun d hd v _ => ?_
  split <;> exact hd

/-- An arrival changes no word of the configuration space. -/
theorem raise_regs (s i : Nat) : (raise c s i).regs = c.regs := by
  rw [raise]
  split
  · exact arrive_regs _ _ _ _ _
  · rfl

theorem linkLost_regs (ends : Bool) : (linkLost c ends).regs = c.regs := by
  simp only [linkLost]
  split
  · exact raise_regs _ _ _
  · rfl

theorem paired_linkLost (ends : Bool) : paired (linkLost c ends) = paired c := by
  simp only [paired, rawReg, linkLost_regs]

end

/-! ### Lanes (R234, R248) -/

section
variable {c : Chip}

theorem judgeIdent_none (h : c.ldl.ident = none) : judgeIdent c = c := by
  simp only [judgeIdent, h]

/-- With the partner's IDENT not yet there, the module only sends its own. -/
theorem exchangeIdent_first (h : c.ldl.ident = none) :
    exchangeIdent c = queueFrame (onLdl c fun l => { l with sync := 2 })
      ⟨2, 14, false, 0, ladleRev, identBytes (onLdl c fun l => { l with sync := 2 })⟩ :=
  judgeIdent_none ((queueFrame_ident _ _).trans h)

/-- A lane set, in one direction. -/
def laneSet (c : Chip) (v : Vat) (tx up : Bool) : Chip :=
  onLdl c fun l => if tx then { l with txUp := l.txUp.set v up } else { l with rxUp := l.rxUp.set v up }

/-- A lane that comes up, one of its own only while its Vat is SERVING. -/
theorem laneUp_admitted {v : Vat} {tx : Bool} (h : tx = false ∨ serving c v = true) :
    laneUp c v tx =
      if !paired (laneSet c v tx true) then laneSet c v tx true
      else if linkUp (laneSet c v tx true) && !linkUp c then
        exchangeIdent (onLdl (laneSet c v tx true) fun l => { l with seqRx := none, ident := none })
      else if !linkUp (laneSet c v tx true) && (laneSet c v tx true).ldl.sync = 0 then
        onLdl (laneSet c v tx true) fun l => { l with sync := 1 }
      else laneSet c v tx true := by
  have hn : (tx && !serving c v) = false := by
    rcases h with h | h <;> simp [h]
  rw [laneUp, if_neg (ne_true_of_eq_false hn)]
  rfl

end

/-! ### Slots (R249, R253, R259) -/

section
variable {c : Chip}

theorem ladleSlot_unused (h : paired c = false ∨ linkUp c = false) : ladleSlot c = idleSlot c := by
  rcases h with h | h <;> simp [ladleSlot, h]

/-- The frames that can be sent in this slot. -/
def slotFrames (c : Chip) : List TxFrame := sendable c.ldl.fullSlots [] c.ldl.txq

/-- The requesters of arbiter 32 in this slot: those of the frames, and requester 0 for a chunk of a full copy. -/
def slotRequests (c : Chip) : List Nat :=
  let reqs := ((slotFrames c).map (·.req)).eraseDups
  if c.ldl.full.any (fun f => !f.done) && !reqs.contains 0 && decide (c.ldl.fullSlots < 7) &&
    !c.ldl.txq.any (fun f => f.type = 6 || f.type = 9) then 0 :: reqs else reqs

/-- What the slot carries where arbiter 32 decides so, which leaves the module at `d`. -/
def slotCarries (c d : Chip) : Option Nat → Chip
  | none => idleSlot d
  | some r =>
    match (slotFrames c).find? (fun f => f.req = r), c.ldl.full with
    | some f, _ => sendFrame (onLdl d fun l => { l with txq := l.txq.erase f }) f
    | none, some fc =>
      match fc.take (plane d (shownVat d)) with
      | some (f, fc) => nextPass (sendFrame (onLdl d fun l => { l with full := some fc }) f)
      | none => idleSlot d
    | none, none => idleSlot d

theorem ladleSlot_used {d : Chip} {g : Option Nat} (hp : paired c = true) (hu : linkUp c = true)
    (ha : arbDecide c (arbKey 32 .a) ((slotRequests c).map fun r => (r, 0)) 1 = (d, g)) : ladleSlot c = slotCarries c d g := by
  have hn : ¬ ((!paired c || !linkUp c) = true) := by simp [hp, hu]
  have hd : ladleSlot c = slotCarries c (arbDecide c (arbKey 32 .a) ((slotRequests c).map fun r => (r, 0)) 1).1
      (arbDecide c (arbKey 32 .a) ((slotRequests c).map fun r => (r, 0)) 1).2 := if_neg hn
  rw [hd, ha]

section
variable {d : Chip} {r : Nat} {f : TxFrame} {fc fc' : FullCopy}

theorem sendFrame_eq_slotSend : sendFrame d f = slotSend d f := rfl

theorem slotCarries_frame (hf : (slotFrames c).find? (fun f => f.req = r) = some f) :
    slotCarries c d (some r) = slotSend (onLdl d fun l => { l with txq := l.txq.erase f }) f := by
  simp only [slotCarries, hf, sendFrame_eq_slotSend]

theorem slotCarries_chunk (hn : (slotFrames c).find? (fun f => f.req = r) = none) (hc : c.ldl.full = some fc)
    (hk : fc.take (plane d (shownVat d)) = some (f, fc')) :
    slotCarries c d (some r) = nextPass (slotSend (onLdl d fun l => { l with full := some fc' }) f) := by
  simp only [slotCarries, hn, hc, hk, sendFrame_eq_slotSend]

end
end

/-! ### LDL_CMD (R210, R272) -/

section
variable {c d : Chip} {w : Writer} {x : Word}

/-- The word that a write to LDL_CMD brings to the command: its WO fields. -/
def ldlCmdWord (x : Word) : Word := x &&& maskWhere Reg.ldlCmd fun f => f.acc = .wo && !f.rsvd

/-- A LDL_CMD that the port admits and the command accepts answers OK (R106, R272). -/
theorem writeCommand_ldlCmd (hw : Commanded c w Reg.ldlCmd.addr) (hc : ldlCommand c (ldlCmdWord x) = (d, 0)) :
    writeCommand c w Reg.ldlCmd.addr x = answeredOk d Reg.ldlCmd.addr := by
  have hm (o : Word) : modeLocked c w Reg.ldlCmd Reg.ldlCmd.addr false o x = false := by
    have hb : blockOf Reg.ldlCmd.addr = 6 := by decide
    have hx : Reg.ldlCmd.addr ≠ Reg.sysExpert.addr := by decide
    have hl : Reg.ldlCmd.addr ≠ Reg.ldlCtl.addr := by decide
    simp [modeLocked, hb, hx, hl]
  have hl : loopBusy c Reg.ldlCmd.addr = false := by
    have hb : Reg.tstLbk.covers Reg.ldlCmd.addr = false := by decide
    simp [loopBusy, hb]
  have hs : Reg.ldlCmd.addr ≠ Reg.sysCmd.addr := by decide
  have hv : Reg.ldlCmd.addr ≠ Reg.vatCmd.addr := by decide
  exact writeCommand_command hw rfl (by decide) (by decide) (by decide) (by decide) (by decide) hm hl
    (by rw [commandWrite, if_neg hs, if_neg hv, if_pos rfl]; exact hc)

/-- OP 1: a standby asks for a full copy. -/
theorem ldlCommand_resync (hm : c.sys.mode = .standby) :
    ldlCommand c (ldlCmdWord 0x10000000) = (queueFrame c ⟨4, 13, false, 0, 3, []⟩, 0) := by
  have ho : bits (ldlCmdWord 0x10000000) 31 28 = 1 := by decide
  simp only [ldlCommand, ho, hm, ne_eq, not_true_eq_false, false_and, if_false, resync, if_true]

/-- Once all lanes retrain, a standby that stays SYNCED shows so, and any other module shows the link as it is used. -/
theorem linkReset_eq {d : Chip} (hd : linkLost (onLdl c fun l => { l with rxUp := Tri.all false, txUp := Tri.all false }) (linkUp c) = d) :
    linkReset c = if d.ldl.sync = 4 then d else onLdl d fun l => { l with sync := if paired c then 1 else 0 } := by
  subst hd
  simp only [linkReset, paired_linkLost, paired_onLdl]

/-- OP 2: all lanes retrain. -/
theorem ldlCommand_linkreset (hm : c.sys.mode = .standby ∨ c.sys.mode = .service ∨ c.sys.mode = .maintenance) :
    ldlCommand c (ldlCmdWord 0x20000000) = (linkReset c, 0) := by
  have ho : bits (ldlCmdWord 0x20000000) 31 28 = 2 := by decide
  have hn : ¬ (c.sys.mode ≠ .standby ∧ c.sys.mode ≠ .service ∧ c.sys.mode ≠ .maintenance) := by tauto
  simp only [ldlCommand, if_neg hn, ho]

end

/-! ### Self-tests of a standby (R136, R261) -/

section
variable {c : Chip} {kind : Fin 3} {bad : Tri Bool} (hm : c.sys.mode = .standby)

theorem failingVats_isEmpty : (allVats.filter fun v => bad.get v).isEmpty = decide (bad = Tri.all false) := by
  obtain ⟨a, b, c⟩ := bad
  cases a <;> cases b <;> cases c <;> rfl

include hm

theorem standbyTest_passed (hb : bad = Tri.all false) : standbyTest c kind bad = countTest c true := by
  subst hb
  have hf : (allVats.filter fun v => (Tri.all false).get v) = [] := rfl
  simp only [standbyTest, hm, hf, ne_eq, not_true_eq_false, if_false, List.isEmpty_nil, if_true, List.foldl_nil, ite_self]

theorem standbyTest_failed (hb : bad ≠ Tri.all false) : standbyTest c kind bad =
    if kind.val = 2 then todoHold { countTest c false with core := { (countTest c false).core with pressFault := true } } 7 6 none
    else (allVats.filter fun v => bad.get v).foldl (fun c v => todoSour c v 1 (if kind.val = 0 then 6 else 7) none 0)
      (countTest c false) := by
  have hf : (allVats.filter fun v => bad.get v).isEmpty = false := failingVats_isEmpty.trans (decide_eq_false hb)
  simp only [standbyTest, hm, hf, ne_eq, not_true_eq_false, Bool.false_eq_true, if_false]

end

/-! ### The commands -/

section
variable {s : State}

theorem exec_ladleLaneUp (v : Vat) (tx : Bool) : exec (.ladleLaneUp v tx) s = .next (s.afterAll (laneUp s.chip v tx)) := rfl
theorem exec_ladleLaneDown (v : Vat) (tx : Bool) :
    exec (.ladleLaneDown v tx) s = .next (s.afterAll (laneDown s.chip v tx)) := rfl
theorem exec_ladleSlot : exec .ladleSlot s = .next (s.afterAll (ladleSlot s.chip)) := rfl
theorem exec_ldlCmdResync (w : Writer) :
    exec (.ldlCmdResync w) s = .next (s.afterAll (writeCommand s.chip w Reg.ldlCmd.addr 0x10000000)) := rfl
theorem exec_ldlCmdLinkreset (w : Writer) :
    exec (.ldlCmdLinkreset w) s = .next (s.afterAll (writeCommand s.chip w Reg.ldlCmd.addr 0x20000000)) := rfl
theorem exec_standbySelfTest (kind : Fin 3) (bad : Tri Bool) :
    exec (.standbySelfTest kind bad) s = .next (s.afterAll (standbyTest s.chip kind bad)) := rfl

end

/-- Settles O47: lanes by `laneUp_admitted` and `exchangeIdent_first`, slots by `ladleSlot_used`, LDL_CMD by `ldlCommand_…`, which
`writeCommand_ldlCmd` answers OK, self-tests by `standbyTest_passed` and `standbyTest_failed`. -/
theorem ladleLinkComplete : Obligations.LadleLinkComplete := by
  intro s
  refine ⟨?up, ?down, ?unused, fun hp hu => ?used, fun w d hw hd => ⟨?resync, ?linkreset⟩,
    fun kind bad c hm => ⟨?passed, ?failed⟩⟩
  case up =>
    rintro v tx _ ha rfl
    exact (exec_ladleLaneUp v tx).trans (next_afterAll (by rw [laneUp_admitted ha, exchangeIdent_first rfl]; rfl))
  case down =>
    rintro v tx _ rfl
    exact exec_ladleLaneDown v tx
  case unused => exact fun h => exec_ladleSlot.trans (next_afterAll (ladleSlot_unused h))
  case used =>
    rintro _ _ _ d g rfl rfl rfl ha
    have hslot : ladleSlot s.chip = slotCarries s.chip d g := ladleSlot_used hp hu ha
    refine ⟨?idle, ?frame, ?chunk⟩
    case idle =>
      rintro rfl
      exact exec_ladleSlot.trans (next_afterAll hslot)
    case frame =>
      rintro r f rfl hf
      exact exec_ladleSlot.trans (next_afterAll (hslot.trans (slotCarries_frame hf)))
    case chunk =>
      rintro r fc f fc' rfl hn hc hk
      exact exec_ladleSlot.trans (next_afterAll (hslot.trans (slotCarries_chunk hn hc hk)))
  case resync =>
    exact fun hm => (exec_ldlCmdResync w).trans (next_afterAll (writeCommand_ldlCmd hw (ldlCommand_resync hm)))
  case linkreset =>
    exact fun hm => (exec_ldlCmdLinkreset w).trans (next_afterAll
      (writeCommand_ldlCmd hw ((ldlCommand_linkreset hm).trans (by rw [linkReset_eq hd.symm]))))
  case passed => exact fun hb => (exec_standbySelfTest kind bad).trans (next_afterAll (standbyTest_passed hm hb))
  case failed =>
    rintro hb rfl
    exact (exec_standbySelfTest kind bad).trans (next_afterAll (standbyTest_failed hm hb))

end Sys2Proof.Machine
end

section
/-! The Ladle link's frames: what the vote forms reaches its handler (`onFrame_voted`), then the frames of a task's cycle in a standby,
and those of the partner itself (R234, R241, R243, R247, R250, R251, R254, R257 to R259, R265, R267, R270, R315, R511). -/

namespace Sys2Proof.Machine

/-! ### A voted frame reaches its handler (R250, R251) -/

section
variable {s : State} {f : Lanes} {c d : Chip} {x : LFrame}

theorem Voted.type {k : Nat} {b : Chip} (h : Voted b f k c x) : lfType x = k := h.2.2

theorem onFrame_voted {k : Nat} {b : Chip} {g : Chip → LFrame → Chip} (h : Voted b f k c x) : onFrame b f k g = g c x := by
  obtain ⟨ho, hv, ht⟩ := h
  simp only [onFrame, ho, hv, ht, Bool.false_eq_true, if_false, if_true]

/-- A command whose frame is voted leaves the module as the frame's handler does. -/
theorem next_onFrame {k : Nat} {g : Chip → LFrame → Chip} (h : Voted s.chip f k c x) (hg : g c x = d) :
    Host.Outcome.next (s.afterAll (onFrame s.chip f k g)) = (.next (s.afterAll d) : Host.Outcome State Fault Refusal) :=
  next_afterAll ((onFrame_voted h).trans hg)

theorem exec_stateFrame : exec (.stateFrame f) s = .next (s.afterAll (onFrame s.chip f 1 stateFrame)) := rfl
theorem exec_qstateFrame : exec (.qstateFrame f) s = .next (s.afterAll (onFrame s.chip f 2 stateFrame)) := rfl
theorem exec_pressFrame : exec (.pressFrame f) s = .next (s.afterAll (onFrame s.chip f 3 stateFrame)) := rfl
theorem exec_endFrame (bad : Option Vat) :
    exec (.endFrame f bad) s = .next (s.afterAll (onFrame s.chip f 4 fun c x => endFrame c x bad)) := rfl
theorem exec_fullFrame : exec (.fullFrame f) s = .next (s.afterAll (onFrame s.chip f 5 fullFrame)) := rfl
theorem exec_syncFrame : exec (.syncFrame f) s = .next (s.afterAll (onFrame s.chip f 6 syncFrame)) := rfl
theorem exec_healthFrame : exec (.healthFrame f) s = .next (s.afterAll (onFrame s.chip f 7 healthFrame)) := rfl
theorem exec_handoverFrame : exec (.handoverFrame f) s = .next (s.afterAll (onFrame s.chip f 8 handoverFrame)) := rfl
theorem exec_finalFrame : exec (.finalFrame f) s = .next (s.afterAll (onFrame s.chip f 9 finalFrame)) := rfl
theorem exec_timeFrame (trip : Option Nat) :
    exec (.timeFrame f trip) s = .next (s.afterAll (onFrame s.chip f 10 fun c x => timeFrame c x trip)) := rfl
theorem exec_updateFrame : exec (.updateFrame f) s = .next (s.afterAll (onFrame s.chip f 11 updateFrame)) := rfl
theorem exec_affFrame : exec (.affFrame f) s = .next (s.afterAll (onFrame s.chip f 12 affFrame)) := rfl
theorem exec_syncreqFrame : exec (.syncreqFrame f) s = .next (s.afterAll (onFrame s.chip f 13 syncReq)) := rfl
theorem exec_identFrame : exec (.identFrame f) s = .next (s.afterAll (onFrame s.chip f 14 identFrame)) := rfl

theorem exec_ladleReservedType : exec (.ladleReservedType f) s = .next (s.afterAll (reservedFrame s.chip f)) := rfl

theorem reservedFrame_voted {b : Chip} {k : Nat} (hk : k = 0 ∨ k = 15) (h : Voted b f k c x) :
    reservedFrame b f = bump c Reg.ldlDrop.addr 31 16 := by
  obtain ⟨ho, hv, ht⟩ := h
  simp only [reservedFrame, ho, hv, ht, hk, Bool.false_eq_true, if_false, if_true]

end

/-! ### Epochs (R236, R241) -/

section
variable (c : Chip) (e : Nat)

@[simp] theorem learnEpoch_sys : (learnEpoch c e).sys = c.sys := by
  simp only [learnEpoch]
  repeat' split
  all_goals rfl

@[simp] theorem learnEpoch_ldl_sync : (learnEpoch c e).ldl.sync = c.ldl.sync := by
  simp only [learnEpoch]
  repeat' split
  all_goals rfl

@[simp] theorem learnEpoch_ldl_partnerH : (learnEpoch c e).ldl.partnerH = c.ldl.partnerH := by
  simp only [learnEpoch]
  repeat' split
  all_goals rfl

end

/-! ### Frames of a task's cycle in a standby (R254, R258, R259) -/

section
variable {c : Chip} {x : LFrame} (hm : c.sys.mode = .standby)
include hm

theorem stateFrame_synced (h4 : c.ldl.sync = 4) : stateFrame c x = onLdl c fun l =>
    { l with rxbuf := mapPut [] l.rxbuf (lfTask x).code (mapGet [] l.rxbuf (lfTask x).code ++ [lfKept x]) } := by
  simp only [stateFrame, hm, h4, ne_eq, not_true_eq_false, if_false, if_true]

/-- In a full copy what is not STATE applies as it comes. -/
theorem stateFrame_copying (h3 : c.ldl.sync = 3) (h1 : lfType x ≠ 1) : stateFrame c x = applyFrame c (lfKept x) := by
  simp [stateFrame, hm, h3, h1]

theorem fullFrame_taken (h3 : 3 ≤ c.ldl.sync) (h5 : c.ldl.sync ≤ 5) :
    fullFrame c x = applyFrame (onLdl c fun l => { l with sync := 3, rxbuf := [] }) (lfKept x) := if_pos ⟨hm, h3, h5⟩

theorem syncFrame_copied (h3 : c.ldl.sync = 3) {d : Chip}
    (hd : d = (enabledTasks c).foldl (fun c t => loadTask c t c.core.tick) c) :
    syncFrame c x = raise (onLdl d fun l => { l with sync := 4, rxbuf := [] }) 1923 (epoch d) := by
  subst hd
  exact if_pos ⟨hm, h3⟩

end

section
variable {c d : Chip} {x : LFrame} {bad : Option Vat}

/-- Outside SYNCED an END only tells the epoch. -/
theorem endFrame_unsynced (h4 : c.ldl.sync ≠ 4) : endFrame c x bad = learnEpoch c (leAt x.payload 4 4) := by
  have hn : (learnEpoch c (leAt x.payload 4 4)).ldl.sync ≠ 4 := by simpa using h4
  exact if_pos (.inr hn)

/-- The frames kept for the task of an END. -/
def cycleFrames (d : Chip) (x : LFrame) : List TxFrame := mapGet [] d.ldl.rxbuf (lfTask x).code

/-- They leave the buffer. -/
def cycleTaken (d : Chip) (x : LFrame) : Chip :=
  onLdl d fun l => { l with rxbuf := mapPut [] l.rxbuf (lfTask x).code [] }

/-- What an END does once the frames of its cycle are applied: the task's state, its press image on the lanes, the curd tick and
the pending records as it tells them, and a Vat that differs sour (R254, R258). -/
def cycleEnded (g : Chip) (x : LFrame) (bad : Option Vat) : Chip :=
  let t := lfTask x
  let commit := (nearTick g x.h2.toNat).toNat
  let k := leAt x.payload 12 4
  let n := loadTask (setTask g t { taskSt g t with cycles := k % 65536, lastCommit := commit, ovrLast := bit (word k) 31,
                                                   tflag := bit (word k) 31 }) t commit
  let m := onLdl n fun l => { l with applied := mapPut 0 l.applied t.code ((nearTick n (leAt x.payload 8 4)).toNat + 1) }
  let o := match t with
    | .event v => dropPending m v (leAt x.payload 16 4) (leAt x.payload 20 4)
    | _ => m
  match bad with
  | some v => todoSour o v 1 0 (some t) 0
  | none => o

variable (hm : c.sys.mode = .standby) (h4 : c.ldl.sync = 4) (hd : d = learnEpoch c (leAt x.payload 4 4))
include hm h4 hd

/-- An END in a SYNCED standby applies the cycle if all its frames have come. -/
theorem endFrame_synced : endFrame c x bad =
    if (cycleFrames d x).length ≠ leAt x.payload 0 4 then becomeStale (cycleTaken d x)
    else cycleEnded ((cycleFrames d x).foldl applyFrame (cycleTaken d x)) x bad := by
  subst hd
  have hn : ¬ ((learnEpoch c (leAt x.payload 4 4)).sys.mode ≠ .standby ∨ (learnEpoch c (leAt x.payload 4 4)).ldl.sync ≠ 4) := by
    simp [hm, h4]
  exact if_neg hn

theorem endFrame_short (hl : (cycleFrames d x).length ≠ leAt x.payload 0 4) : endFrame c x bad = becomeStale (cycleTaken d x) := by
  rw [endFrame_synced hm h4 hd, if_pos hl]

theorem endFrame_whole (hl : (cycleFrames d x).length = leAt x.payload 0 4) :
    endFrame c x bad = cycleEnded ((cycleFrames d x).foldl applyFrame (cycleTaken d x)) x bad := by
  rw [endFrame_synced hm h4 hd, if_neg (not_not.mpr hl)]

end

/-! ### Reports of the partner, and charge (R243, R256, R265, R267) -/

section
variable {c d : Chip} {x : LFrame}

theorem healthFrame_noted {e : Chip} (he : e = (List.range 16).foldl
      (fun c n => setReg c (Reg.ldlPh.addr n) (word (leAt x.payload (4 * n) 4))) (learnEpoch c x.h2.toNat))
    (hd : d = onLdl e fun l => { l with healthAt := some e.core.tick }) : healthFrame c x = noteReady d := by
  subst hd he
  rfl

section
variable (hm : c.sys.mode = .standby) (hq : equalCoding c = false)
include hm hq

theorem finalFrame_ends (h0 : x.h2 = 0) : finalFrame c x = becomeStale c := by
  simp [finalFrame, hm, hq, h0]

/-- FINAL with the epoch hands charge to a standby that can take it: by a handover where H was told, else by a relinquish. -/
theorem finalFrame_hands (h0 : x.h2 ≠ 0) (hd : d = onLdl (learnEpoch c x.h2.toNat) fun l => { l with partnerH := none })
    (ht : d.ldl.sync = 4 ∨ takeAny d = true) : finalFrame c x = takeCharge d (if c.ldl.partnerH.isSome then 2 else 3) := by
  have hc : canTake d = true := canTake_iff.mpr ht
  subst hd
  simp only [finalFrame, hm, hq, h0, hc, learnEpoch_ldl_partnerH, ne_eq, not_true_eq_false, decide_false, Bool.or_self,
    Bool.false_eq_true, if_false, if_true]

end

theorem syncReq_starts (hc : inCharge c = true) (h6 : c.ldl.sync ≠ 6) (h7 : c.ldl.sync ≠ 7) : syncReq c x = startFull c :=
  if_pos ⟨hc, h6, h7⟩

end

/-! ### TIME (R315) -/

section
variable {c d : Chip} {x : LFrame} {trip : Option Nat} (hm : c.sys.mode = .standby)
  (hd : d = chooseSource (setTick (onLdl c fun l =>
    { l with timeRx := some c.core.tick, pathDelay := (l.pathDelay <|> trip.map (· / 2)) }) (leAt x.payload 8 8)))
include hm hd

/-- Without a measured path delay only the tick is set. -/
theorem timeFrame_unmeasured (hp : d.ldl.pathDelay = none) : timeFrame c x trip = d := by
  subst hd
  simp only [timeFrame, onLdl_sys, hm, hp, ne_eq, not_true_eq_false, if_false]

variable {delay : Nat} {o : Int} (hp : d.ldl.pathDelay = some delay) (ho : o = (now d : Int) - (leAt x.payload 0 8 + delay : Nat))
include hp ho

/-- What the offset from the primary's time value asks for: a step above 10 µs, else a slew. -/
theorem timeFrame_measured : timeFrame c x trip =
    if 10000 < o.natAbs then (if d.ptp.step.isSome then d else decideStep d (-o))
    else if o = 0 then setSlew d 0
    else setSlew (drawStamp d).2 (if 0 < o then -(((Config.freeWord (drawStamp d).1).toNat % 1717986 + 1 : Nat) : Int)
      else (((Config.freeWord (drawStamp d).1).toNat % 1717986 + 1 : Nat) : Int)) := by
  subst hd ho
  simp only [timeFrame, onLdl_sys, hm, hp, ne_eq, not_true_eq_false, if_false]

theorem timeFrame_meets (h0 : o = 0) : timeFrame c x trip = setSlew d 0 := by
  rw [timeFrame_measured hm hd hp ho, if_neg (by simp [h0]), if_pos h0]

theorem timeFrame_steps (hfar : 10000 < o.natAbs) (hs : d.ptp.step = none) : timeFrame c x trip = decideStep d (-o) := by
  rw [timeFrame_measured hm hd hp ho, if_pos hfar, if_neg (by simp [hs])]

theorem timeFrame_slews {st : Nat} {e : Chip} {r : Int} (h0 : o ≠ 0) (hnear : o.natAbs ≤ 10000) (hdraw : drawStamp d = (st, e))
    (hr : r = (((Config.freeWord st).toNat % 1717986 + 1 : Nat) : Int)) :
    timeFrame c x trip = setSlew e (if 0 < o then -r else r) := by
  rw [timeFrame_measured hm hd hp ho, if_neg (Nat.not_lt.mpr hnear), if_neg h0, hdraw, hr]

end

/-! ### UPDATE (R511) -/

section
variable {c d : Chip} {x : LFrame}

theorem updateFrame_acknowledged (hk : bits x.h2 31 28 = 8) : updateFrame c x =
    peerAck c (bits x.h2 23 0) (if x.payload.length = 0 then none else some (leAt x.payload 3 1)) := by
  simp only [updateFrame, hk, if_true]

variable (hm : c.sys.mode = .maintenance) (hf : flashOpen c = true)
include hm hf

theorem updateFrame_begins (hk : bits x.h2 31 28 = 1)
    (hb : updBegin c .partner (leAt x.payload 0 1) (leAt x.payload 1 1) (leAt x.payload 4 4) = (d, 0)) :
    updateFrame c x = onUpd d fun u => { u with endAck := none } := by
  simp [updateFrame, hk, hm, hf, hb]

/-- The next piece is taken; every 16 KiB are acknowledged. -/
theorem updateFrame_takes {l : Load} {n : Nat} (hk : bits x.h2 31 28 = 2) (hl : c.upd.load = some l)
    (hg : 256 * bits x.h2 23 0 = l.got.length) (ht : updData c .partner (256 * bits x.h2 23 0) x.payload = (d, 0, n)) :
    updateFrame c x = if n % 16384 = 0 then queueFrame d (updFrame 8 (n / 256) []) else d := by
  simp [updateFrame, hk, hm, hf, hl, ← hg, ht]

/-- What is repeated up to an acknowledgement is acknowledged again. -/
theorem updateFrame_repeats {l : Load} (hk : bits x.h2 31 28 = 2) (hl : c.upd.load = some l)
    (hg : 256 * bits x.h2 23 0 < l.got.length) (h64 : (bits x.h2 23 0 + 1) % 64 = 0) :
    updateFrame c x = queueFrame c (updFrame 8 (l.got.length / 16384 * 64) []) := by
  simp [updateFrame, hk, hm, hf, hl, hg, Nat.ne_of_lt hg, h64]

theorem updateFrame_endsAgain {n st : Nat} (hk : bits x.h2 31 28 = 3) (hl : c.upd.load = none) (he : c.upd.endAck = some (n, st)) :
    updateFrame c x = queueFrame c (updFrame 8 n (bytesLE 8 (st * 2 ^ 24))) := by
  simp [updateFrame, hk, hm, hf, hl, he]

theorem updateFrame_ends {l : Load} {st n : Nat} (hk : bits x.h2 31 28 = 3) (hl : c.upd.load = some l) (ho : l.owner = .partner)
    (hg : l.got.length = l.length) (he : updEnd c .partner = (d, st, n)) :
    updateFrame c x = queueFrame (onUpd d fun u => { u with endAck := some (bits x.h2 23 0, st) })
      (updFrame 8 (bits x.h2 23 0) (bytesLE 8 (st * 2 ^ 24))) := by
  simp [updateFrame, hk, hm, hf, hl, ho, hg, he]

end

/-! ### IDENT (R234, R270) -/

section
variable {c : Chip} {x : LFrame}

/-- The partner's IDENT kept. -/
def identKept (c : Chip) (x : LFrame) : Chip := onLdl c fun l => { l with ident := some (x.h2.toNat, x.payload) }

theorem identFrame_unpaired (hp : paired c = false) : identFrame c x = identKept c x :=
  if_neg (ne_true_of_eq_false hp)

theorem identFrame_paired (hp : paired c = true) : identFrame c x = judgeIdent (identKept c x) := if_pos hp

end

section
variable {c : Chip} {a : Nat} {b : List Byte} (hi : c.ldl.ident = some (a, b))

/-- The pairing refused for reason `n`. -/
def pairRefused (c : Chip) (n : Nat) (pos : Bool) : Chip :=
  onLdl c fun l => { l with sync := 7, refuse := n, posconf := pos, full := none }

/-- The first three pairing checks passed. -/
def pairMet (c : Chip) : Chip := onLdl c fun l => { l with refuse := 0, posconf := false }

include hi

theorem judgeIdent_unpaired (h1 : leAt b 4 1 = 0) : judgeIdent c = pairRefused c 1 c.ldl.posconf := by
  simp only [judgeIdent, hi, h1, if_true, pairRefused]

variable (h1 : leAt b 4 1 ≠ 0)
include h1

theorem judgeIdent_unknown (hk : ¬ (leAt b 0 4 = 3192 ∧ a / 256 % 256 = ladleRev / 256)) :
    judgeIdent c = pairRefused c 2 c.ldl.posconf := by
  have ho : leAt b 0 4 ≠ 3192 ∨ a / 256 % 256 ≠ ladleRev / 256 := not_and_or.mp hk
  simp only [judgeIdent, hi, h1, ho, if_false, if_true, pairRefused]

variable (hk : leAt b 0 4 = 3192 ∧ a / 256 % 256 = ladleRev / 256)
include hk

/-- Once part and revision fit, the position decides, then the culture, and then the mode. -/
theorem judgeIdent_known : judgeIdent c =
    if decide (leAt b 5 1 = 1) = c.ldl.posb then pairRefused c 3 true
    else if beAt b 24 32 ≠ c.culture.digest ∧ beAt b 56 32 ≠ c.culture.layout then
      onLdl (pairMet c) fun l => { l with sync := 6, full := none }
    else if c.sys.mode = .standby then onLdl (pairMet c) fun l => { l with sync := 3 }
    else if inCharge c then startFull (pairMet c)
    else onLdl (pairMet c) fun l => { l with sync := 2 } := by
  have ho : ¬ (leAt b 0 4 ≠ 3192 ∨ a / 256 % 256 ≠ ladleRev / 256) := not_or.mpr ⟨not_not.mpr hk.1, not_not.mpr hk.2⟩
  simp only [judgeIdent, hi, h1, ho, if_false]
  rfl

theorem judgeIdent_samePosition (hp : decide (leAt b 5 1 = 1) = c.ldl.posb) : judgeIdent c = pairRefused c 3 true := by
  rw [judgeIdent_known hi h1 hk, if_pos hp]

variable (hp : decide (leAt b 5 1 = 1) ≠ c.ldl.posb)
include hp

theorem judgeIdent_otherCulture (hd : beAt b 24 32 ≠ c.culture.digest) (hl : beAt b 56 32 ≠ c.culture.layout) :
    judgeIdent c = onLdl (pairMet c) fun l => { l with sync := 6, full := none } := by
  rw [judgeIdent_known hi h1 hk, if_neg hp, if_pos ⟨hd, hl⟩]

variable (hc : ¬ (beAt b 24 32 ≠ c.culture.digest ∧ beAt b 56 32 ≠ c.culture.layout))
include hc

theorem judgeIdent_standby (hm : c.sys.mode = .standby) : judgeIdent c = onLdl (pairMet c) fun l => { l with sync := 3 } := by
  rw [judgeIdent_known hi h1 hk, if_neg hp, if_neg hc, if_pos hm]

theorem judgeIdent_inCharge (hs : inCharge c = true) : judgeIdent c = startFull (pairMet c) := by
  have hm : c.sys.mode ≠ .standby := by
    rw [of_decide_eq_true hs]
    decide
  rw [judgeIdent_known hi h1 hk, if_neg hp, if_neg hc, if_neg hm, if_pos hs]

theorem judgeIdent_waits (hm : c.sys.mode ≠ .standby) (hs : inCharge c = false) :
    judgeIdent c = onLdl (pairMet c) fun l => { l with sync := 2 } := by
  rw [judgeIdent_known hi h1 hk, if_neg hp, if_neg hc, if_neg hm, if_neg (ne_true_of_eq_false hs)]

end

/-- Settles O48: each frame by `next_onFrame` and the lemma on what its handler does. -/
theorem ladleFramesComplete : Obligations.LadleFramesComplete := by
  refine ⟨fun s f c x hm => ⟨?kept, ?full, ?copying, ?unsynced, ?fin⟩,
    fun s f c x => ⟨?health, ?handover, ?final_, ?time, ?update, ?aff, ?syncreq, ?ident, ?reserved⟩⟩
  case kept =>
    intro h4
    have hk := stateFrame_synced (x := x) hm h4
    exact ⟨fun h => exec_stateFrame.trans (next_onFrame h hk), fun h => exec_qstateFrame.trans (next_onFrame h hk),
      fun h => exec_pressFrame.trans (next_onFrame h hk)⟩
  case full => exact fun h3 h5 h => exec_fullFrame.trans (next_onFrame h (fullFrame_taken hm h3 h5))
  case copying =>
    intro h3
    have hcopy {k : Nat} (h : Voted s.chip f k c x) (hk : k ≠ 1) : stateFrame c x = applyFrame c (lfKept x) :=
      stateFrame_copying hm h3 (by rwa [h.type])
    exact ⟨fun h => exec_qstateFrame.trans (next_onFrame h (hcopy h (by decide))),
      fun h => exec_pressFrame.trans (next_onFrame h (hcopy h (by decide))),
      fun d h hd => exec_syncFrame.trans (next_onFrame h (syncFrame_copied hm h3 hd))⟩
  case unsynced => exact fun bad h4 h => (exec_endFrame bad).trans (next_onFrame h (endFrame_unsynced h4))
  case fin =>
    rintro bad d _ _ h4 h rfl hd rfl
    refine ⟨fun hl => (exec_endFrame bad).trans (next_onFrame h (endFrame_short hm h4 hd hl)), ?_⟩
    rintro _ _ _ _ hl rfl rfl rfl rfl
    exact (exec_endFrame bad).trans (next_onFrame h (endFrame_whole hm h4 hd hl))
  case health => exact fun d e h he hd => exec_healthFrame.trans (next_onFrame h (healthFrame_noted he hd))
  case handover => exact fun h => exec_handoverFrame.trans (next_onFrame h rfl)
  case final_ =>
    exact fun h hm hq => ⟨fun h0 => exec_finalFrame.trans (next_onFrame h (finalFrame_ends hm hq h0)),
      fun d h0 hd ht => exec_finalFrame.trans (next_onFrame h (finalFrame_hands hm hq h0 hd ht))⟩
  case time =>
    intro trip d h hm hd
    refine ⟨fun hp => (exec_timeFrame trip).trans (next_onFrame h (timeFrame_unmeasured hm hd hp)),
      fun delay o hp ho => ⟨?_, ?_, ?_⟩⟩
    · exact fun h0 => (exec_timeFrame trip).trans (next_onFrame h (timeFrame_meets hm hd hp ho h0))
    · exact fun hfar hs => (exec_timeFrame trip).trans (next_onFrame h (timeFrame_steps hm hd hp ho hfar hs))
    · exact fun st e r h0 hnear hdraw hr =>
        (exec_timeFrame trip).trans (next_onFrame h (timeFrame_slews hm hd hp ho h0 hnear hdraw hr))
  case update =>
    intro h
    have hupd {d : Chip} (hd : updateFrame c x = d) : exec (.updateFrame f) s = .next (s.afterAll d) :=
      exec_updateFrame.trans (next_onFrame h hd)
    exact ⟨fun hk => hupd (updateFrame_acknowledged hk), fun hm hf =>
      ⟨fun d hk hb => hupd (updateFrame_begins hm hf hk hb), fun l d n hk hl hg ht => hupd (updateFrame_takes hm hf hk hl hg ht),
        fun l hk hl hg h64 => hupd (updateFrame_repeats hm hf hk hl hg h64),
        fun n st hk hl he => hupd (updateFrame_endsAgain hm hf hk hl he),
        fun l d st n hk hl ho hg he => hupd (updateFrame_ends hm hf hk hl ho hg he)⟩⟩
  case aff => exact fun h => exec_affFrame.trans (next_onFrame h rfl)
  case syncreq => exact fun h hc h6 h7 => exec_syncreqFrame.trans (next_onFrame h (syncReq_starts hc h6 h7))
  case ident =>
    rintro _ h rfl
    refine ⟨fun hp => exec_identFrame.trans (next_onFrame h (identFrame_unpaired hp)), fun hp => ?_⟩
    have hjudge {d : Chip} (hd : judgeIdent (identKept c x) = d) : exec (.identFrame f) s = .next (s.afterAll d) :=
      exec_identFrame.trans (next_onFrame h ((identFrame_paired hp).trans hd))
    have hi : (identKept c x).ldl.ident = some (x.h2.toNat, x.payload) := rfl
    refine ⟨fun h1 => hjudge (judgeIdent_unpaired hi h1), fun h1 hk => hjudge (judgeIdent_unknown hi h1 hk),
      fun h1 hk hp => hjudge (judgeIdent_samePosition hi h1 hk hp), fun h1 hk hp =>
        ⟨fun hd hl => hjudge (judgeIdent_otherCulture hi h1 hk hp hd hl), fun hfits => ?same⟩⟩
    case same =>
      have hc : ¬ (beAt x.payload 24 32 ≠ c.culture.digest ∧ beAt x.payload 56 32 ≠ c.culture.layout) :=
        fun hn => hfits.elim hn.1 hn.2
      exact ⟨fun hm => hjudge (judgeIdent_standby hi h1 hk hp hc hm), fun hs => hjudge (judgeIdent_inCharge hi h1 hk hp hc hs),
        fun hm hs => hjudge (judgeIdent_waits hi h1 hk hp hc hm hs)⟩
  case reserved =>
    exact fun k hk h => exec_ladleReservedType.trans (next_afterAll (reservedFrame_voted hk h))

end Sys2Proof.Machine
end

section
/-! The train network's data: a process data frame received (`pdReceive_…`), the telegrams that publications send (`pdSend_…`), a
message data request (`mdRequest_…`) and the replies to it (`mdReplySend_…`) (R277, R280, R286 to R288, R291, R292, R296 to R300, R518). -/

namespace Sys2Proof.Machine

/-! ### What a frame and a message have in common (R280, R286) -/

/-- The etbTopoCnt of a frame is right where it is 0 or the one in force at its timestamp (R280). -/
theorem topoWrong_inForce {c : Chip} {topo : BitVec 32} {ts : Nat} (h : topo = 0 ∨ topo = topoAtTime c ts) :
    topoWrong c topo ts = false := by
  rcases h with h | h <;> simp [topoWrong, h]

/-- Station `i` names the role of its own tag, which is judged (R286). -/
def tagJudged (c : Chip) (i : Nat) (tag : Option Tag) : Chip :=
  match tag with
  | some t => if t.rv && !t.tdst then judgeRoles c i [(t.role, t.repoch)] else c
  | none => c

/-- Whether a tag names a destination role that the module does not hold. -/
def tagMoved (c : Chip) (tag : Option Tag) : Bool :=
  match tag with
  | some t => t.rv && t.tdst && !(roleOf c t.role).held
  | none => false

theorem tagMoved_away {c : Chip} {t : Tag} (hv : t.rv = true) (hd : t.tdst = true) (hr : (roleOf c t.role).held = false) :
    tagMoved c (some t) = true := by
  simp only [tagMoved, hv, hd, hr, Bool.not_false, Bool.and_self]

theorem tagMoved_here {c : Chip} {tag : Option Tag}
    (h : ∀ t, tag = some t → t.rv = true → t.tdst = true → (roleOf c t.role).held = true) : tagMoved c tag = false := by
  cases tag with
  | none => rfl
  | some t =>
    by_cases ht : t.rv = true ∧ t.tdst = true
    · simp only [tagMoved, h t rfl ht.1 ht.2, Bool.not_true, Bool.and_false]
    · simp only [tagMoved, Bool.eq_false_iff.mpr fun hb => ht (Bool.and_eq_true_iff.mp hb), Bool.false_and]

/-! ### A process data frame received (R277, R280, R286 to R288, R291, R292) -/

section
variable {c : Chip} {f : PdFrame}

/-- Whether subscription `m` of the module `set` takes a tagged frame of station `i`: one that names a role only from the role's
holder (R286, R291). -/
def roleTakes (set c : Chip) (i : Nat) (t : Tag) (m : Nat) : Bool :=
  let ctl := rawReg set (Reg.ethSctl.addr m)
  !bit ctl 29 || (bits ctl 9 0 = t.role && (roleOf c (bits ctl 9 0)).known && !(roleOf c (bits ctl 9 0)).held &&
    (roleOf c (bits ctl 9 0)).holder = i)

section
variable (he : portEn c f.port.val = true) (ha : alien c f.port.val f.srcIp = false)
include he ha

theorem pdReceive_badFrame (hf : f.fcsOk = false) : pdReceive c f = bump c (Reg.ethPstat.addr f.port.val) 15 0 := by
  simp only [pdReceive, he, ha, hf, Bool.not_true, Bool.not_false, Bool.or_self, Bool.false_eq_true, if_false, if_true]

variable (hf : f.fcsOk = true) (hl : ethLive c = true) (hs : f.supported = true) {m0 : Nat} {ms : List Nat}
  (hm : pdMatches c f = m0 :: ms) (ht : f.topo = 0 ∨ f.topo = topoAtTime c f.ts)
  (hn : f.dataset.length = bits (rawReg c (Reg.ethSpnt.addr m0)) 10 0)
include hf hl hs hm ht hn

/-- A good frame of which the first subscription takes no tag reaches every subscription that it matches. -/
theorem pdReceive_untagged {d : Chip} {i : Nat} (hb : bit (rawReg c (Reg.ethSctl.addr m0)) 30 = false)
    (hi : noteStation c f.srcIp.toNat f.etbn.toNat none = (d, some i)) :
    pdReceive c f = (m0 :: ms).foldl (pdDeliver c f i none f.dataset) d := by
  rw [pdMatches] at hm
  simp only [pdReceive, he, ha, hf, hl, hs, hm, topoWrong_inForce ht, hn, hb, hi, Bool.not_true, Bool.or_self,
    Bool.false_and, Bool.not_false, Bool.true_or, Bool.false_eq_true, if_false, ne_eq, not_true_eq_false, List.filter_true]
  rfl

variable {d e : Chip} {t : Tag} {i : Nat} (hb : bit (rawReg c (Reg.ethSctl.addr m0)) 30 = true)
  (hg : takeTag c f.dataset = (d, some t)) (hi : noteStation d f.srcIp.toNat f.etbn.toNat (some t) = (e, some i))
include hb hg hi

/-- A good tagged frame is counted as moved, or reaches the subscriptions that take it. -/
theorem pdReceive_tagged : pdReceive c f =
    if tagMoved (tagJudged e i (some t)) (some t) then bump (tagJudged e i (some t)) Reg.ethCnt1.addr 31 16
    else ((m0 :: ms).filter (roleTakes c (tagJudged e i (some t)) i t)).foldl (pdDeliver c f i (some t) (f.dataset.drop 16))
      (tagJudged e i (some t)) := by
  rw [pdMatches] at hm
  simp only [pdReceive, he, ha, hf, hl, hs, hm, topoWrong_inForce ht, hn, hb, hg, hi, Bool.not_true, Bool.or_self, Option.isNone_some,
    Bool.and_false, Bool.true_and, Bool.false_eq_true, if_false, if_true, ne_eq, not_true_eq_false]
  rfl

end

end

/-! ### Telegrams of publications sent (R296, R297, R518) -/

section
variable {c : Chip} {e0 : Entry} {r : List Entry}

/-- The telegram at the head of Q32514 taken, and what was kept of it and of those before it forgotten. -/
def telegramTaken (c : Chip) (e0 : Entry) (r : List Entry) : Chip :=
  onEth (takeDevs c 32514 (e0 :: r).length) fun e => { e with released := e.released.filter fun x => e0.whole < x.1 }

variable (hr : releases c [0, 1, 2, 3] = true) (hf : firstTelegram (visibleDev c 32514) = some (e0 :: r))
include hr hf

theorem pdSend_broken (hw : wholeTelegram (e0 :: r) = false) : pdSend c = telegramTaken c e0 r := by
  simp only [pdSend, hr, hf, hw, Bool.not_true, Bool.false_eq_true, if_false, telegramTaken]

theorem pdSend_whole {d : Chip} {n k topo : Nat} {tag : List Byte} (hw : wholeTelegram (e0 :: r) = true)
    (hk : c.eth.released.find? (fun x => x.1 = e0.whole) = some (k, topo, tag)) (hn : n = leAt e0.bytes 8 2 % 8192)
    (hd : d = telegramTaken c e0 r) :
    pdSend c = onEth d fun e =>
      { e with
        pubSeq := mapPut 0 e.pubSeq n ((mapGet 0 d.eth.pubSeq n + 1) % 2 ^ 32)
        sent := [⟨0, ethRoute d (rawReg d (Reg.ethPdst.addr n)).toNat, 0, (rawReg d (Reg.ethPdst.addr n)).toNat,
          (rawReg d (Reg.ethPcom.addr n)).toNat, bits (rawReg d (Reg.ethPctl.addr n)) 28 26, mapGet 0 d.eth.pubSeq n, topo,
          tag ++ ((e0 :: r).map fun e => (e.bytes.drop 16).take (leAt e.bytes 14 2)).flatten,
          pressPorts d (ethRoute d (rawReg d (Reg.ethPdst.addr n)).toNat)⟩] } := by
  subst hn hd
  simp only [pdSend, hr, hf, hw, hk, Option.map_some, Bool.not_true, Bool.false_eq_true, if_false, if_true]
  rfl

end

/-! ### A message data request (R280, R286, R298, R299) -/

section
variable {m : MdMsg} {tag : Option Tag}

/-- The inbox that takes a message: of its ComId, and of its destination role where its tag names one (R298). -/
def inboxOf (c : Chip) (m : MdMsg) (tag : Option Tag) : Option Nat :=
  (inboxes c).find? fun j => rawReg c (Reg.ethMdcom.addr j) = m.comId &&
    tag.all fun t => !t.rv || !t.tdst || bits (rawReg c (Reg.ethMdctl.addr j)) 25 16 = t.role

/-- The dataset of a message after its tag. -/
def mdBody (m : MdMsg) : List Byte := if m.tagged then m.dataset.drop 16 else m.dataset

/-- The answer to a message for a role that has moved: its holder's address (R286). -/
def roleMoved (c : Chip) (m : MdMsg) (t : Tag) : Chip :=
  let x := roleOf c t.role
  let net := ethRoute c m.srcIp.toNat
  ethSend (bump c Reg.ethCnt3.addr 31 16) [⟨2, net, 0, m.srcIp.toNat, (rawReg c Reg.ethRmcom.addr).toNat, 0, 0, topoInForce c,
    makeTag c (some (t.role, true, x.epoch)) ++ bytesBE 4 (if x.known then
      (match mapGet none c.eth.stations x.holder with | some y => y.ip | none => 0) else 0) ++ bytesBE 4 m.comId.toNat, netPorts c net⟩]

/-- A session opened for a message under the next handle, and the message held for the queue of inbox `i` (R298, R299). -/
def sessionOpened (c : Chip) (m : MdMsg) (i : Nat) : Chip :=
  let h := c.eth.nextHandle
  mdFeed (raise (onEth c fun x =>
    { x with
      nextHandle := if h + 1 = 2 ^ 32 then 1 else h + 1
      sessions := x.sessions ++ [⟨h, i, m.isMr, m.srcIp.toNat, m.comId.toNat⟩]
      mdHeld := x.mdHeld ++ [(i, bytesLE 8 m.ts ++ bytesLE 4 h ++ bytesLE 2 (mdBody m).length ++ bytesLE 1 (b2n m.isMr) ++ bytesLE 1 0 ++
        padTo 1024 (mdBody m))] }) (704 + i) h)

/-- What is done with a message that the module is to take itself: an inbox takes it, or an Me answers it (R298). -/
def mdTaken (c : Chip) (m : MdMsg) (tag : Option Tag) (said : List EthMsg) : Chip :=
  match inboxOf c m tag with
  | none => sendMe c m 1 said
  | some i =>
    if 1024 < (mdBody m).length then sendMe c m 2 said
    else if 64 ≤ c.eth.mdHeld.length then sendMe (bump c Reg.ethCnt3.addr 15 0) m 3 said
    else sessionOpened c m i

section
variable {c d e : Chip} {k : Nat} (he : portEn c m.port.val = true) (ha : alien c m.port.val m.srcIp = false)
  (hl : ethLive c = true) (hu : c.sys.affUp = true) (hs : m.supported = true) (ht : m.topo = 0 ∨ m.topo = topoAtTime c m.ts)
  (hg : (if m.tagged then takeTag c m.dataset else (c, none)) = (d, tag)) (hsome : m.tagged = true → tag.isSome = true)
  (hi : noteStation d m.srcIp.toNat m.etbn.toNat tag = (e, some k))
include he ha hl hu hs ht hg hsome hi

/-- A message that passes its checks is answered for a role that has moved, or taken by the module. -/
theorem mdRequest_checked : mdRequest c m =
    if tagMoved (tagJudged e k tag) tag then
      match tag with
      | none => tagJudged e k tag
      | some t => roleMoved (tagJudged e k tag) m t
    else mdTaken (tagJudged e k tag) m tag
      (if (tagJudged e k tag).eth.annSeq = e.eth.annSeq then [] else (tagJudged e k tag).eth.sent) := by
  have htag : (m.tagged && tag.isNone) = false := by
    cases h : m.tagged with
    | false => rfl
    | true => rw [← Option.not_isSome, hsome h, Bool.not_true, Bool.and_false]
  simp only [mdRequest, he, ha, hl, hu, hs, topoWrong_inForce ht, hg, htag, hi, Bool.not_true, Bool.or_self, Bool.false_eq_true, if_false]
  cases tag <;> rfl

theorem mdRequest_moved {t : Tag} (htag : tag = some t) (hm : tagMoved (tagJudged e k tag) tag = true) :
    mdRequest c m = roleMoved (tagJudged e k tag) m t := by
  rw [mdRequest_checked he ha hl hu hs ht hg hsome hi, if_pos hm]
  subst htag
  rfl

theorem mdRequest_here (hm : tagMoved (tagJudged e k tag) tag = false) :
    mdRequest c m = mdTaken (tagJudged e k tag) m tag
      (if (tagJudged e k tag).eth.annSeq = e.eth.annSeq then [] else (tagJudged e k tag).eth.sent) := by
  rw [mdRequest_checked he ha hl hu hs ht hg hsome hi, if_neg (ne_true_of_eq_false hm)]

end

section
variable {c : Chip} {said : List EthMsg}

theorem mdTaken_unknown (hi : inboxOf c m tag = none) : mdTaken c m tag said = sendMe c m 1 said := by
  simp only [mdTaken, hi]

variable {i : Nat} (hi : inboxOf c m tag = some i)
include hi

theorem mdTaken_tooLong (hn : 1024 < (mdBody m).length) : mdTaken c m tag said = sendMe c m 2 said := by
  simp only [mdTaken, hi, hn, if_true]

variable (hn : (mdBody m).length ≤ 1024)
include hn

theorem mdTaken_busy (hb : 64 ≤ c.eth.mdHeld.length) : mdTaken c m tag said = sendMe (bump c Reg.ethCnt3.addr 15 0) m 3 said := by
  simp only [mdTaken, hi, Nat.not_lt.mpr hn, hb, if_false, if_true]

theorem mdTaken_opens (hb : c.eth.mdHeld.length < 64) : mdTaken c m tag said = sessionOpened c m i := by
  simp only [mdTaken, hi, Nat.not_lt.mpr hn, Nat.not_le.mpr hb, if_false]

end

end

/-! ### Replies (R297, R300) -/

section
variable {c : Chip} {ws : List (List Entry)} {k : Nat} (hu : c.sys.affUp = true) (hr : releases c [0, 1, 2, 3] = true)
  (hw : wholesOf (slotEntries (liveDesc c 32515) 1032) ((visibleDev c 32515).length + 1) 1 (visibleDev c 32515) = (ws, k))
include hu hr hw

theorem mdReplySend_none (h : ws = []) : mdReplySend c = takeDevs c 32515 k := by
  simp only [mdReplySend, hu, hr, hw, h, Bool.not_true, Bool.false_eq_true, or_self, if_false]

theorem mdReplySend_answers {d : Chip} {es : List Entry} {w : List (List Entry)} {x : MdSession} {role : Nat} {bytes : List Byte}
    (h : ws = es :: w) (hd : d = takeDevs c 32515 k) (hb : bytes = (es.map (·.bytes)).flatten)
    (hx : d.eth.sessions.find? (fun x => x.handle = leAt bytes 0 4) = some x) (hm : x.isMr = true)
    (hn : netReleases d (ethRoute d x.ip) = true) (hrole : role = bits (rawReg d (Reg.ethMdctl.addr x.inbox)) 25 16) :
    mdReplySend c = onEth (ethSend d [⟨2, ethRoute d x.ip, 0, x.ip, x.comId, 0, 0, topoInForce d,
      makeTag d (some (role, false, (roleOf d role).epoch)) ++ (bytes.drop 8).take (min 1024 (leAt bytes 4 2)),
      pressPorts d (ethRoute d x.ip)⟩]) fun e => { e with sessions := e.sessions.erase x } := by
  subst h hd hb hrole
  simp only [mdReplySend, hu, hr, hw, hx, hm, hn, Bool.not_true, Bool.false_eq_true, Bool.or_self, or_self, if_false]

end

/-! ### The commands -/

section
variable {s : State}

theorem exec_pdFrameReceive (f : PdFrame) : exec (.pdFrameReceive f) s = .next (s.after (pdReceive s.chip f)) := rfl
theorem exec_pdTelegramSend : exec .pdTelegramSend s = .next (s.after (pdSend s.chip)) := rfl
theorem exec_mdRequestReceive (m : MdMsg) : exec (.mdRequestReceive m) s = .next (s.after (mdRequest s.chip m)) := rfl
theorem exec_mdReplySend : exec .mdReplySend s = .next (s.after (mdReplySend s.chip)) := rfl
theorem exec_mdSessionTimeout (h : Nat) : exec (.mdSessionTimeout h) s = .next (s.after (mdTimeout s.chip h)) := rfl

end

/-- Settles O49: each command by the lemma on what its function does with a frame, telegram, message or reply of the case. -/
theorem trainDataComplete : Obligations.TrainDataComplete := by
  refine ⟨fun s => ⟨fun f he ha => ⟨?badFrame, fun hf hl hs m0 ms hm ht hn => ⟨?untagged, ?tagged⟩⟩, ?telegram⟩,
    fun s => ⟨?request, ?reply, fun h => exec_mdSessionTimeout h⟩⟩
  case badFrame => exact fun hf => (exec_pdFrameReceive f).trans (next_after (pdReceive_badFrame he ha hf))
  case untagged =>
    exact fun c i hb hi => (exec_pdFrameReceive f).trans (next_after (pdReceive_untagged he ha hf hl hs hm ht hn hb hi))
  case tagged =>
    rintro c d _ t i hb hg hi rfl
    have hrecv := pdReceive_tagged he ha hf hl hs hm ht hn hb hg hi
    refine ⟨fun hv hd hr => ?_, fun hr => ?_⟩
    · exact (exec_pdFrameReceive f).trans (next_after (hrecv.trans (if_pos (tagMoved_away hv hd hr))))
    · have hhere : tagMoved (tagJudged d i (some t)) (some t) = false :=
        tagMoved_here fun u hu hv hd => by
          obtain rfl := Option.some.inj hu
          exact hr ⟨hv, hd⟩
      exact (exec_pdFrameReceive f).trans (next_after (hrecv.trans (if_neg (ne_true_of_eq_false hhere))))
  case telegram =>
    rintro e0 r c n hr hf hn hc
    exact ⟨fun k topo tag hw hk => exec_pdTelegramSend.trans (next_after (pdSend_whole hr hf hw hk hn hc)),
      fun hw => exec_pdTelegramSend.trans (next_after ((pdSend_broken hr hf hw).trans hc.symm))⟩
  case request =>
    rintro m c d _ tag k he ha hl hu hs ht hg hsome hi rfl
    refine ⟨?_, fun hr => ?_⟩
    · rintro t _ htag hv hd rfl hr
      have hm : tagMoved (tagJudged d k tag) tag = true := by
        subst htag
        exact tagMoved_away hv hd hr
      exact (exec_mdRequestReceive m).trans (next_after (mdRequest_moved he ha hl hu hs ht hg hsome hi htag hm))
    · have htake := mdRequest_here he ha hl hu hs ht hg hsome hi (tagMoved_here hr)
      exact ⟨fun h => (exec_mdRequestReceive m).trans (next_after (htake.trans (mdTaken_unknown h))), fun i h =>
        ⟨fun hn => (exec_mdRequestReceive m).trans (next_after (htake.trans (mdTaken_tooLong h hn))),
          fun hn hb => (exec_mdRequestReceive m).trans (next_after (htake.trans (mdTaken_busy h hn hb))),
          fun hn hb => (exec_mdRequestReceive m).trans (next_after (htake.trans (mdTaken_opens h hn hb)))⟩⟩
  case reply =>
    rintro _ ws k c rfl hu hr hw hc
    exact ⟨fun h => exec_mdReplySend.trans (next_after ((mdReplySend_none hu hr hw h).trans hc.symm)),
      fun es w x r bytes h hb hx hm hn hrole =>
        exec_mdReplySend.trans (next_after (mdReplySend_answers hu hr hw h hc hb hx hm hn hrole))⟩

end Sys2Proof.Machine
end

section
/-! The train network itself: announcements (`announcementReceive_…`, `announceDue_sends`), the topology, what ages out, links and the
bypass relay (R276, R278 to R286, R303, R519). -/

namespace Sys2Proof.Machine

/-! ### Announcements (R280, R285, R286) -/

section
variable {c : Chip} {f : PdFrame} (hc : f.comId = rawReg c Reg.ethAnncom.addr) (he : portEn c f.port.val = true)
  (ha : alien c f.port.val f.srcIp = false)
include hc he ha

theorem announcementReceive_badFrame (hf : f.fcsOk = false) :
    announcementReceive c f = bump c (Reg.ethPstat.addr f.port.val) 15 0 := by
  simp only [announcementReceive, hc, he, ha, hf, ne_eq, not_true_eq_false, Bool.not_true, Bool.not_false, Bool.or_self,
    Bool.false_eq_true, if_false, if_true]

theorem announcementReceive_good (hf : f.fcsOk = true) (hl : ethLive c = true) (hs : f.supported = true)
    (ht : f.topo = 0 ∨ f.topo = topoAtTime c f.ts) : announcementReceive c f = annReceive c f := by
  simp only [announcementReceive, hc, he, ha, hf, hl, hs, topoWrong_inForce ht, ne_eq, not_true_eq_false, Bool.not_true, Bool.or_self,
    Bool.false_eq_true, if_false]

end

section
variable {c : Chip}

/-- The announcement is due where none has been sent, or ANNP × 10 ms have passed since the last (R285). -/
theorem annAt_due (h : ∀ t, c.eth.annAt = some t → t + fieldOf c Reg.ethCtl.addr 23 16 * 10000 ≤ c.core.tick) :
    (c.eth.annAt.any fun t => decide (c.core.tick < t + fieldOf c Reg.ethCtl.addr 23 16 * 10000)) = false := by
  cases ht : c.eth.annAt with
  | none => rfl
  | some t => exact decide_eq_false (Nat.not_lt.mpr (h t ht))

theorem announceDue_sends {rs : List Nat} {n : Nat} (hl : ethLive c = true)
    (h : ∀ t, c.eth.annAt = some t → t + fieldOf c Reg.ethCtl.addr 23 16 * 10000 ≤ c.core.tick)
    (hrs : rs = heldRoles c) (hn : n = max 1 ((rs.length + 175) / 176)) :
    announceDue c = onEth (ethSend c ((List.range n).map fun k => annTelegram c k n ((rs.drop (176 * k)).take 176) c.sys.mode.code))
      fun e => { e with annSeq := (e.annSeq + 1) % 2 ^ 32, annAt := some c.core.tick } := by
  subst hn hrs
  simp only [announceDue, announce, hl, annAt_due h, Bool.not_true, Bool.or_self, Bool.false_eq_true, if_false]
  rfl

/-! ### The topology (R278, R279, R281) -/

theorem topologyChange_etbn (h : etbnRuns c = true) : topologyChange c = onEth c fun e => { e with inaug := true } := if_pos h

/-- The new etbTopoCnt comes into force with its directory and address, and every station's entry is stale. -/
theorem inaugurationDone_etbn (h : etbnRuns c = true) (topo : Word) (own : BitVec 32) (dir : List EtbNode) :
    inaugurationDone c topo own dir = raise (onEth (setReg c Reg.ethTopo.addr topo) fun e =>
      { e with
        inaug := false
        topok := true
        topoPrev := rawReg c Reg.ethTopo.addr
        topoAt := now c
        directory := dir.take 63
        trainIp := own
        stations := mapMapVals none e.stations fun _ x => x.map fun x => { x with stale := true }
        topoPend := (enabledTasks c).map (·.code) }) 640 topo.toNat := by
  simp only [inaugurationDone, h, Bool.not_true, Bool.false_eq_true, if_false]

/-! ### What ages out (R282, R283) -/

theorem partnerAgeing_silent {i : Nat} {x : Station} (hx : mapGet none c.eth.stations i = some x)
    (h : x.heard + ethAge c ≤ c.core.tick + 100000) :
    partnerAgeing c i = onEth c fun e => { e with stations := mapErase e.stations i, ptDropping := false } := by
  simp only [partnerAgeing, hx, h, if_true]

theorem roleAgeing_silent {r : Nat} (hk : (roleOf c r).known = true) (hh : (roleOf c r).held = false)
    (h : (roleOf c r).heard + ethAge c ≤ c.core.tick) :
    roleAgeing c r = setRole c r { roleOf c r with known := false, epoch := 0 } := by
  simp only [roleAgeing, hk, hh, h, decide_true, Bool.not_false, Bool.and_self, if_true]

end

/-! ### The commands -/

section
variable {s : State}

theorem exec_announcementReceive (f : PdFrame) :
    exec (.announcementReceive f) s = .next (s.after (announcementReceive s.chip f)) := rfl
theorem exec_announcementSend : exec .announcementSend s = .next (s.after (announceDue s.chip)) := rfl
theorem exec_ttdpTopologyChange : exec .ttdpTopologyChange s = .next (s.after (topologyChange s.chip)) := rfl
theorem exec_inaugurationComplete (x : Inauguration) :
    exec (.inaugurationComplete x) s = .next (s.after (inaugurationDone s.chip x.topo x.own x.dir)) := rfl
theorem exec_partnerAgeing (i : Fin 4096) : exec (.partnerAgeing i) s = .next (s.after (partnerAgeing s.chip i.val)) := rfl
theorem exec_roleAgeing (r : Fin 1024) : exec (.roleAgeing r) s = .next (s.after (roleAgeing s.chip r.val)) := rfl
theorem exec_linkChange (p : Fin 4) (up giga : Bool) :
    exec (.linkChange p up giga) s = .next (s.after (linkChange s.chip p up giga)) := rfl
theorem exec_bypassRelay (switchBad : Bool) : exec (.bypassRelay switchBad) s = .next (s.afterAll (bypass s.chip switchBad)) := rfl

end

/-- Settles O50: each command by the lemma on its function; a link change and the bypass relay have one case, the function's own
(R276, R303). -/
theorem networkChangesComplete : Obligations.NetworkChangesComplete := by
  refine fun s => ⟨fun f hc he ha => ⟨?badFrame, ?received⟩, ?send, fun hr => ⟨?change, ?inauguration⟩, ?partner, ?role, ?link, ?relay⟩
  case badFrame =>
    exact fun hf => (exec_announcementReceive f).trans (next_after (announcementReceive_badFrame hc he ha hf))
  case received =>
    exact fun hf hl hs ht => (exec_announcementReceive f).trans (next_after (announcementReceive_good hc he ha hf hl hs ht))
  case send => exact fun rs n hl hd hrs hn => exec_announcementSend.trans (next_after (announceDue_sends hl hd hrs hn))
  case change => exact exec_ttdpTopologyChange.trans (next_after (topologyChange_etbn hr))
  case inauguration =>
    exact fun topo own dir => (exec_inaugurationComplete ⟨topo, own, dir⟩).trans (next_after (inaugurationDone_etbn hr topo own dir))
  case partner => exact fun i x hx h => (exec_partnerAgeing i).trans (next_after (partnerAgeing_silent hx h))
  case role => exact fun r hk hh h => (exec_roleAgeing r).trans (next_after (roleAgeing_silent hk hh h))
  case link => exact fun p up giga => exec_linkChange p up giga
  case relay =>
    rintro switchBad _ rfl
    exact exec_bypassRelay switchBad

end Sys2Proof.Machine
end

section
/-! Network time: messages (`ptpReceive_…`), domains, steps, SLEW and holdover, FREQ and SLEW written under manual control
(`writeCommand_rateWord`), compare units (`compareFire_…`), the pulse per second (`ppsOut_due`, `ppsIn_…`) and captures
(`captureEdge_taken`) (R304 to R324). -/

namespace Sys2Proof.Machine

/-! ### Messages (R308, R309) -/

section
variable {c : Chip} {m : PtpMsg}

/-- Passing a message on changes nothing but the record of what the switch sent last. -/
theorem exists_ptpForward_eq (c : Chip) (m : PtpMsg) : ∃ f, ptpForward c m = onPtp c fun p => { p with fwd := f } := by
  unfold ptpForward
  split
  · exact ⟨c.ptp.fwd, rfl⟩
  · exact ⟨_, rfl⟩

theorem ptpForward_sys : (ptpForward c m).sys = c.sys := by
  obtain ⟨f, hf⟩ := exists_ptpForward_eq c m
  rw [hf, onPtp_sys]

theorem ptpForward_tst : (ptpForward c m).tst = c.tst := by
  obtain ⟨f, hf⟩ := exists_ptpForward_eq c m
  rw [hf, onPtp_tst]

theorem forDomain_ptpForward (d : Nat) : forDomain (ptpForward c m) m d = forDomain c m d := by
  obtain ⟨f, hf⟩ := exists_ptpForward_eq c m
  rw [hf]
  rfl

/-- What the module makes of a message that the switch has passed on (R309). -/
theorem ptpReceive_passedOn (ht : turned c m.port.val = false) (hu : c.sys.affUp = true) :
    ptpReceive c m =
      if ptpSupported m = false then bump (ptpForward c m) Reg.ptpCnt.addr 7 0
      else if c.sys.mode = .inert then ptpForward c m
      else if forDomain c m 0 = true then chooseSource (ptpUse (ptpForward c m) m 0)
      else if forDomain c m 1 = true then chooseSource (ptpUse (ptpForward c m) m 1)
      else ptpForward c m := by
  have ht' : turned (ptpForward c m) m.port.val = false := by rwa [turned, ptpForward_tst]
  simp only [ptpReceive, ht, ht', ptpForward_sys, hu, forDomain_ptpForward, Bool.not_true, Bool.or_self, Bool.false_eq_true,
    if_false, Bool.not_eq_true']

section
variable (ht : turned c m.port.val = false) (hu : c.sys.affUp = true)
include ht hu

theorem ptpReceive_unsupported (hs : ptpSupported m = false) : ptpReceive c m = bump (ptpForward c m) Reg.ptpCnt.addr 7 0 := by
  rw [ptpReceive_passedOn ht hu, if_pos hs]

variable (hs : ptpSupported m = true)
include hs

theorem ptpReceive_inert (hi : c.sys.mode = .inert) : ptpReceive c m = ptpForward c m := by
  rw [ptpReceive_passedOn ht hu, if_neg (by simp [hs]), if_pos hi]

variable (hi : c.sys.mode ≠ .inert)
include hi

theorem ptpReceive_domain0 (h0 : forDomain c m 0 = true) : ptpReceive c m = chooseSource (ptpUse (ptpForward c m) m 0) := by
  rw [ptpReceive_passedOn ht hu, if_neg (by simp [hs]), if_neg hi, if_pos h0]

theorem ptpReceive_domain1 (h0 : forDomain c m 0 = false) (h1 : forDomain c m 1 = true) :
    ptpReceive c m = chooseSource (ptpUse (ptpForward c m) m 1) := by
  rw [ptpReceive_passedOn ht hu, if_neg (by simp [hs]), if_neg hi, if_neg (by simp [h0]), if_pos h1]

end
end

/-! ### Domains, steps, SLEW and holdover (R305, R309, R313, R314, R316) -/

section
variable {c : Chip}

/-- A VALID domain past a loss condition is LOST, its expired masters out, and the source is chosen again. -/
theorem domainLoss_lost {d : Nat} (hv : (domOf c d).state = 3) (hl : domLost c d = true) :
    domainLoss c d = chooseSource (domState (chooseMaster c d (liveMasters c d (domOf c d).masters)) d 4) := by
  rw [domainLoss, if_neg (not_not.mpr hv)]
  exact if_pos hl

theorem timeStepApply_waiting {st : Int} (hst : c.ptp.step = some st) (ha : c.ptp.acted ≠ c.core.tick + 1)
    (hs : c.sys.mode ≠ .service) (hb : c.sys.mode ≠ .standby) : timeStepApply c = applyStep c st := by
  rw [timeStepApply, if_neg (not_or.mpr ⟨hs, hb⟩), stepInTick, if_neg ha, stepNow, hst]

theorem slewExpiry_over {t : Nat} (ht : c.ptp.slewAt = some t) (hd : t + 1190000 ≤ c.core.tick) :
    slewExpiry c = onPtp (setReg c Reg.ptpSlew.addr 0) fun p => { p with slewAt := none } := by
  simp only [slewExpiry, slewBack, ht, if_pos hd]

theorem holdoverTimeout_over {t : Nat} (ht : c.ptp.holdFrom = some t) (hs : c.ptp.state = 2)
    (hd : t + fieldOf c Reg.ptpCtl.addr 15 0 * 60000000 ≤ c.core.tick) :
    holdoverTimeout c = onPtp c fun p => { p with state := 0, holdFrom := none } := by
  simp only [holdoverTimeout, ht, if_pos (And.intro hs hd)]

end

/-! ### FREQ and SLEW written (R305, R324) -/

/-- A word of block PTP that a write acts on at once, under manual control alone: PTP_FREQL, PTP_FREQH or PTP_SLEW. -/
structure RateWord (r : RegDef) (a : Nat) : Prop where
  mapped : (if a < 2 ^ 24 then regDef a else none) = some r
  writes : writable r a = true
  live : stMask r = 0
  plain : (r.fields.any fun f => f.expert) = false
  block : blockOf a = 8
  outside : Reg.tstLbk.covers a = false

theorem rateWord_ptpFreqh : RateWord Reg.ptpFreqh Reg.ptpFreqh.addr := ⟨rfl, by decide, by decide, by decide, by decide, by decide⟩
theorem rateWord_ptpSlew : RateWord Reg.ptpSlew Reg.ptpSlew.addr := ⟨rfl, by decide, by decide, by decide, by decide, by decide⟩

section
variable {c d : Chip} {w : Writer} {a h : Nat} {r : RegDef} {x old new w1 : Word}

/-- Under manual control no mode refuses a rate word (R324). -/
theorem modeLocked_rateWord (ha : RateWord r a) (hm : ptpManual c = true) : modeLocked c w r a false old new = false := by
  have hx : a ≠ Reg.sysExpert.addr := by
    rintro rfl
    exact absurd ha.block (by decide)
  simp [modeLocked, ha.block, hx, hm]

/-- Under manual control a write to a rate word that reaches its word answers OK (R106, R305). -/
theorem writeCommand_rateWord (hw : Commanded c w a) (ha : RateWord r a) (hm : ptpManual c = true)
    (hd : ∀ old, writeWord c w r a old x x h false = (d, 0)) : writeCommand c w a x h = answeredOk d a :=
  have hl : loopBusy c a = false := by simp [loopBusy, ha.outside]
  writeCommand_of_portWrite hw.reach
    ((portWrite_live hw ha.mapped ha.writes ha.live ha.plain (fun _ => modeLocked_rateWord ha hm) hl).trans (hd _))

/-- PTP_FREQH makes FREQ apply, with the PTP_FREQL that is held or the present one. -/
theorem writeWord_ptpFreqh : writeWord c w Reg.ptpFreqh Reg.ptpFreqh.addr old new w1 h false =
    (setFreq (onPtp c fun p => { p with freqlHeld := none })
      (bits new 7 0 * 2 ^ 32 + (c.ptp.freqlHeld.getD (rawReg c Reg.ptpFreql.addr)).toNat : Nat), 0) := rfl

theorem writeWord_ptpSlew : writeWord c w Reg.ptpSlew Reg.ptpSlew.addr old new w1 h false = (setSlew c (signed 32 new.toNat), 0) := rfl

end

/-! ### Compare units (R319, R322) -/

section
variable {c d : Chip} {n t ago : Nat} (ht : t = cmpTarget c n) (hago : ago = (now c + 2 ^ 40 - t) % 2 ^ 40)
  (harm : bit (rawReg c (Reg.ptpCmpctl.addr n)) 31 = true) (hpast : ago < 2 ^ 39) (hnew : mapGet 0 c.ptp.cmpAt n ≠ c.core.tick + 1)
  (hpps : ∀ e, c.ptp.pps = some e → e.1 ≠ c.core.tick) (hd : d = raise c (1040 + n) (t % 2 ^ 32))
include ht hago harm hpast hnew hpps hd

/-- An armed unit at or past its target, before the second's pulse of its tick, raises its source, and PER says what becomes of
it: armed again for the first target yet to come, or disarmed. -/
theorem compareFire_past : compareFire c n =
    if bit (rawReg c (Reg.ptpCmpctl.addr n)) 30 = true then
      let per := 1000 * (rawReg d (Reg.ptpCmpper.addr n)).toNat
      let k := if per = 0 then 1 else ago / per + 1
      let t' := (t + k * per) % 2 ^ 40
      let e := setReg (setField d (Reg.ptpCmpth.addr n) 7 0 (t' / 2 ^ 32)) (Reg.ptpCmptl.addr n) (word t')
      if 1 < k then setField e (Reg.ptpCmpctl.addr n) 29 29 1 else e
    else setField d (Reg.ptpCmpctl.addr n) 31 31 0 := by
  subst ht hago hd
  have hnone : c.ptp.pps.any (fun e => decide (e.1 = c.core.tick)) = false := by
    cases hp : c.ptp.pps with
    | none => rfl
    | some e => exact decide_eq_false (hpps e hp)
  exact if_neg (by simp only [harm, hnone, hnew, Nat.not_le.mpr hpast, Bool.not_true, decide_false, Bool.or_self,
    Bool.false_eq_true, not_false_eq_true])

theorem compareFire_once (hper : bit (rawReg c (Reg.ptpCmpctl.addr n)) 30 = false) :
    compareFire c n = setField d (Reg.ptpCmpctl.addr n) 31 31 0 := by
  rw [compareFire_past ht hago harm hpast hnew hpps hd, if_neg (by simp [hper])]

theorem compareFire_periodic {per k u : Nat} {e : Chip} (hper : bit (rawReg c (Reg.ptpCmpctl.addr n)) 30 = true)
    (hp : per = 1000 * (rawReg d (Reg.ptpCmpper.addr n)).toNat) (h0 : per ≠ 0) (hk : k = ago / per + 1)
    (hu : u = (t + k * per) % 2 ^ 40)
    (he : e = setReg (setField d (Reg.ptpCmpth.addr n) 7 0 (u / 2 ^ 32)) (Reg.ptpCmptl.addr n) (word u)) :
    compareFire c n = if 1 < k then setField e (Reg.ptpCmpctl.addr n) 29 29 1 else e := by
  rw [compareFire_past ht hago harm hpast hnew hpps hd, if_pos hper]
  simp only [← hp, if_neg h0, ← hk, ← hu, ← he]

end

/-! ### The pulse per second (R317, R318) -/

section
variable {c : Chip} (hen : bit (rawReg c Reg.ptpPps.addr) 31 = true)
include hen

/-- The edge of a second due is marked with the width of the time state. -/
theorem ppsOut_due (ho : bit (rawReg c Reg.ptpPps.addr) 30 = false) (h7 : 7 ≤ c.sys.step) (hd : ppsDue c = true) :
    ppsOut c = onPtp c fun p => { p with pps := some (c.core.tick, match p.state with | 1 => 100 | 2 => 200 | _ => 500) } :=
  if_pos (by simp [hen, ho, h7, hd])

variable (hin : bit (rawReg c Reg.ptpPps.addr) 30 = true) {t : Nat} {o : Int}
include hin

/-- Off the half second, the offset is that from the nearest second. -/
theorem ppsIn_near (hn : t % 1000000000 < 500000000 ∧ o = (t % 1000000000 : Nat) ∨
      500000000 < t % 1000000000 ∧ o = ((t % 1000000000 : Nat) : Int) - 1000000000) :
    ppsIn c t = raise (onPtp c fun p => { p with ppsOfs := o }) 1029 (unsigned 32 (sat31 o)) := by
  rcases hn with ⟨hlt, rfl⟩ | ⟨hgt, rfl⟩
  · simp only [ppsIn, hen, hin, Bool.and_self, if_true, if_neg hlt.ne, decide_eq_false hlt.not_gt, Bool.false_eq_true, if_false]
  · simp only [ppsIn, hen, hin, Bool.and_self, if_true, if_neg hgt.ne', decide_eq_true hgt]

/-- At the half second one of the two seconds is taken. -/
theorem ppsIn_half {st : Nat} {d : Chip} (hh : t % 1000000000 = 500000000) (hdraw : drawStamp c = (st, d))
    (ho : o = if bit (Config.freeWord st) 0 then -500000000 else 500000000) :
    ppsIn c t = raise (onPtp d fun p => { p with ppsOfs := o }) 1029 (unsigned 32 (sat31 o)) := by
  subst ho
  simp only [ppsIn, hen, hin, Bool.and_self, if_true, hh, hdraw]
  rfl

end

/-! ### Captures (R320) -/

/-- The times of an edge in the Vats whose paths show it. -/
def edgeTimes (c : Chip) (src : Nat) (rising : Bool) (t : Tri (Option Nat)) : Tri (Option Nat) :=
  ⟨if capShows c .a src rising then t.a else none, if capShows c .b src rising then t.b else none,
    if capShows c .c src rising then t.c else none⟩

/-- Unit `n` of each Vat with a time takes it and counts. -/
def takeCaptures (n : Nat) (u : Tri (Option Nat)) (caps : Tri (SMap Capture)) : Tri (SMap Capture) :=
  allVats.foldl (fun (m : Tri (SMap Capture)) v => match u.get v with
    | some x => m.upd v fun y => mapMod Capture.zero y n fun k => ⟨x, (k.count + 1) % 2 ^ 32, min 2 (k.since + 1)⟩
    | none => m) caps

/-- The arrival of unit `n` with the time of the Vat shown, where that has one (log entry 102). -/
def raiseCapture (c : Chip) (n : Nat) : Option Nat → Chip
  | some x => raise c (1056 + n) (x % 2 ^ 32)
  | none => c

/-- An edge of the kind that an enabled unit waits for. -/
theorem captureEdge_taken {c d : Chip} {n : Nat} {rising : Bool} {t u : Tri (Option Nat)}
    (hen : bit (rawReg c (Reg.ptpCapctl.addr n)) 31 = true)
    (hedge : bits (rawReg c (Reg.ptpCapctl.addr n)) 30 29 = 0 ∨ bits (rawReg c (Reg.ptpCapctl.addr n)) 30 29 = 1 ∧ rising = true ∨
      bits (rawReg c (Reg.ptpCapctl.addr n)) 30 29 = 2 ∧ rising = false)
    (hu : u = edgeTimes c (bits (rawReg c (Reg.ptpCapctl.addr n)) 6 0) rising t)
    (hd : d = onPtp c fun p => { p with caps := takeCaptures n u p.caps }) :
    captureEdge c n rising t = raiseCapture d n (u.get (shownVat d)) := by
  subst hu hd
  exact if_neg (by rcases hedge with h | ⟨h, hr⟩ | ⟨h, hr⟩ <;> simp [*])

/-! ### The commands -/

section
variable {s : State}

theorem exec_ptpMessageReceive (m : PtpMsg) : exec (.ptpMessageReceive m) s = .next (s.after (ptpReceive s.chip m)) := rfl
theorem exec_domainLoss (d : Fin 2) : exec (.domainLoss d) s = .next (s.after (domainLoss s.chip d.val)) := rfl
theorem exec_timeStepApply : exec .timeStepApply s = .next (s.afterAll (timeStepApply s.chip)) := rfl
theorem exec_slewExpiry : exec .slewExpiry s = .next (s.after (slewExpiry s.chip)) := rfl
theorem exec_holdoverTimeout : exec .holdoverTimeout s = .next (s.after (holdoverTimeout s.chip)) := rfl
theorem exec_ladleTimeLoss : exec .ladleTimeLoss s = .next (s.after (chooseSource s.chip)) := rfl
theorem exec_ptpFreqhWrite (w : Writer) (x : Word) :
    exec (.ptpFreqhWrite w x) s = .next (s.afterAll (writeCommand s.chip w Reg.ptpFreqh.addr x)) := rfl
theorem exec_ptpSlewWrite (w : Writer) (x : Word) :
    exec (.ptpSlewWrite w x) s = .next (s.afterAll (writeCommand s.chip w Reg.ptpSlew.addr x)) := rfl
theorem exec_compareFire (n : Fin 16) : exec (.compareFire n) s = .next (s.afterAll (compareFire (unitTick s.chip) n.val)) := rfl
theorem exec_ppsOutputEdge : exec .ppsOutputEdge s = .next (s.afterAll (ppsOut (unitTick s.chip))) := rfl
theorem exec_ppsInputEdge (t : Nat) : exec (.ppsInputEdge t) s = .next (s.after (ppsIn s.chip t)) := rfl
theorem exec_captureEdge (n : Fin 8) (rising : Bool) (t : Tri (Option Nat)) :
    exec (.captureEdge n rising t) s = .next (s.after (captureEdge s.chip n.val rising t)) := rfl

end

/-- Settles O51: each command by the lemma on its function; compare units and the second's pulse act on the module whose copies of
the time unit have been compared (R322). -/
theorem networkTimeComplete : Obligations.NetworkTimeComplete := by
  refine ⟨fun s => ⟨?message, ?lost, ?step, ?slew, ?holdover, exec_ladleTimeLoss, fun w x hf hl hm => ⟨?freq, ?rate⟩⟩,
    fun s => ⟨?compare, ?pulse, fun he hi => ⟨?near, ?half⟩, ?capture⟩⟩
  case message =>
    rintro m _ ht hu rfl
    exact ⟨fun hs => (exec_ptpMessageReceive m).trans (next_after (ptpReceive_unsupported ht hu hs)),
      fun hs hi h0 => (exec_ptpMessageReceive m).trans (next_after (ptpReceive_domain0 ht hu hs hi h0)),
      fun hs hi h0 h1 => (exec_ptpMessageReceive m).trans (next_after (ptpReceive_domain1 ht hu hs hi h0 h1)),
      fun hs hi => (exec_ptpMessageReceive m).trans (next_after (ptpReceive_inert ht hu hs hi))⟩
  case lost => exact fun d hv hl => (exec_domainLoss d).trans (next_after (domainLoss_lost hv hl))
  case step => exact fun st hst ha hs hb => exec_timeStepApply.trans (next_afterAll (timeStepApply_waiting hst ha hs hb))
  case slew => exact fun t ht hd => exec_slewExpiry.trans (next_after (slewExpiry_over ht hd))
  case holdover => exact fun t ht hs hd => exec_holdoverTimeout.trans (next_after (holdoverTimeout_over ht hs hd))
  case freq =>
    exact (exec_ptpFreqhWrite w x).trans (next_afterAll (writeCommand_rateWord hf rateWord_ptpFreqh hm fun _ => writeWord_ptpFreqh))
  case rate =>
    exact (exec_ptpSlewWrite w x).trans (next_afterAll (writeCommand_rateWord hl rateWord_ptpSlew hm fun _ => writeWord_ptpSlew))
  case compare =>
    rintro n _ _ t ago rfl rfl ht hago harm hpast hnew hpps
    exact ⟨fun hper => (exec_compareFire n).trans (next_afterAll (compareFire_once ht hago harm hpast hnew hpps rfl hper)),
      fun per k u hper hp h0 hk hu =>
        (exec_compareFire n).trans (next_afterAll (compareFire_periodic ht hago harm hpast hnew hpps rfl hper hp h0 hk hu rfl))⟩
  case pulse =>
    rintro _ rfl he ho h7 hd
    exact exec_ppsOutputEdge.trans (next_afterAll (ppsOut_due he ho h7 hd))
  case near => exact fun t o hn => (exec_ppsInputEdge t).trans (next_after (ppsIn_near he hi hn))
  case half => exact fun t st c o hh hdraw ho => (exec_ppsInputEdge t).trans (next_after (ppsIn_half he hi hh hdraw ho))
  case capture =>
    exact fun n rising t u c hen hedge hu hc => (exec_captureEdge n rising t).trans (next_after (captureEdge_taken hen hedge hu hc))

end Sys2Proof.Machine
end

section
/-! The vehicle bus: frames received (`masterFrame_…`, `slaveFrame_…`), silence and source entries, the administrator's polls
(`basicPeriod_…`, `mvbSlotEnd_…`), a switch of poll list (`macroBoundary_…`) and MVB_ASEL (`writeCommand_mvbAsel`) (R326 to R345). -/

namespace Sys2Proof.Machine

/-! ### Frames received (R331, R334, R339, R343, R344) -/

/-- An administrator that hears a master frame not its own gives up its polls (R343). -/
def foreignMaster (c : Chip) (addr : Nat) : Chip :=
  if mvbAdmin c then raise (onMvb (bump c Reg.mvbCnt3.addr 31 16) fun m => { m with polls := [] }) 1158 addr else c

/-- The slot of a slave frame that has come in time is over, and the frame is a sign of joining where it is JPORT's (R331). -/
def joinTaken (c : Chip) (f : MvbSlave) (fc addr : Nat) : Chip :=
  let d := onMvb c fun m => { m with last := none, await := none }
  if addr = mvbJport c && fc = 1 then
    noteJoin (takeAnnouncement d (word (natLE f.data))) (bits (word (natLE f.data)) 15 0) f.ts else d

/-- The administrator keeps a slave frame of F-code 1 as an acknowledgement (R345). -/
def ackTaken (c : Chip) (f : MvbSlave) (fc addr : Nat) : Chip :=
  if mvbAdmin c && fc = 1 then onMvb c fun m => { m with acks := mapPut none m.acks addr (some (word (natLE f.data))) } else c

/-- A slave frame in time for an enabled sink of its F-code enters the queue of the sink's channel (R334). -/
def sinkTaken (c : Chip) (f : MvbSlave) (fc addr : Nat) : Chip :=
  if isSink c addr && bits (mvbCfg c addr) 29 27 = fc then
    let d := bump c (Reg.mvbPemp.addr addr) 15 0
    match queueOfPort d 9 (bits (mvbCfg d addr) 19 16) with
    | some q => (appendInbound d q (mvbEntry f.ts addr fc (b2n (!f.validA)) f.data)).1
    | none => d
  else c

theorem sinkTaken_appends {c d : Chip} {f : MvbSlave} {fc addr q : Nat}
    (hs : (isSink c addr && bits (mvbCfg c addr) 29 27 = fc) = true) (hd : d = bump c (Reg.mvbPemp.addr addr) 15 0)
    (hq : queueOfPort d 9 (bits (mvbCfg d addr) 19 16) = some q) :
    sinkTaken c f fc addr = (appendInbound d q (mvbEntry f.ts addr fc (b2n (!f.validA)) f.data)).1 := by
  simp only [sinkTaken, if_pos hs, ← hd, hq]

section
variable {c d : Chip} (hon : mvbOn c = true) (ht : turned c 4 = false)
include hon ht

/-- A valid master frame is noted and answered, after a foreign one has ended an administrator's polls. -/
theorem masterFrame_valid {fc addr start : Nat} {va vb : Bool} (hf : mvbFrame c va vb = (d, true)) :
    masterFrame c fc addr start va vb = deviceReply (noteMaster (foreignMaster d addr) fc addr) fc addr start := by
  simp only [masterFrame, hon, ht, hf, foreignMaster, Bool.not_true, Bool.or_self, Bool.false_eq_true, if_false]

variable {f : MvbSlave} {fc addr : Nat} (hf : mvbFrame c f.validA f.validB = (d, true)) (hl : d.mvb.last = some (fc, addr))
include hf hl

/-- A slave frame that begins after the reply window is late, which the administrator counts (R344). -/
theorem slaveFrame_late (hb : mvbRto d * 1000 < f.begins) :
    slaveFrame c f = if mvbAdmin d then bump d Reg.mvbCnt0.addr 15 0 else d := by
  simp only [slaveFrame, hon, ht, hf, hl, hb, Bool.not_true, Bool.or_self, Bool.false_eq_true, if_false, if_true]

/-- A slave frame in time is a sign of joining, an acknowledgement, and what a sink asks for. -/
theorem slaveFrame_inTime (hb : f.begins ≤ mvbRto d * 1000) (h4 : fc ≤ 4) (hn : f.data.length = mvbLen fc) :
    slaveFrame c f = sinkTaken (ackTaken (joinTaken d f fc addr) f fc addr) f fc addr := by
  simp only [slaveFrame, hon, ht, hf, hl, Nat.not_lt.mpr hb, Nat.not_lt.mpr h4, hn, Bool.not_true, Bool.or_self, Bool.false_eq_true,
    decide_false, ne_eq, not_true_eq_false, if_false]
  rfl

end

/-! ### Silence and source entries (R331, R332, R337) -/

section
variable {c d : Chip}

/-- 3.9 ms without a valid frame, and the device is JOINING (R331). -/
theorem mvbSilence_silent (ht : c.mvb.lastValid + 3900 ≤ c.core.tick) (ha : mvbAdmin c = false) : mvbSilence c = mvbSilent c := by
  simp only [mvbSilence, Nat.not_lt.mpr ht, ha, decide_false, Bool.or_self, Bool.false_eq_true, if_false]

theorem mvbSourceEntry_fills {e : List Byte} (ht : takeDev c 32516 = some (e, d)) :
    mvbSourceEntry c = onMvb d fun m =>
      { m with buffers := mapPut none m.buffers (leAt e 0 2 % 4096) (some ((e.drop 8).take (leAt e 2 2))) } := by
  simp only [mvbSourceEntry, ht]

end

/-! ### Polls (R343, R344) -/

/-- An awaited slave frame that has not come leaves its slot empty (R344). -/
def slotMissed (c : Chip) : Chip :=
  match c.mvb.await with
  | some j => bump c (Reg.mvbPemp.addr j) 31 16
  | none => c

section
variable {c d : Chip} (ha : mvbAdmin c = true)
include ha

/-- At a basic period the polls left over are counted, and those of the period begin. -/
theorem basicPeriod_polls (ht : c.core.tick % mvbTbp c = 0) (hd : d = bumpBy c Reg.mvbCnt3.addr 15 0 c.mvb.polls.length) :
    basicPeriod c = pollNext (onMvb (enterJoined d) fun m =>
      { m with polls := pollsOf d (c.core.tick / mvbTbp c % mvbMacro c), period := d.core.tick }) := by
  subst hd
  simp only [basicPeriod, ha, ht, Bool.not_true, ne_eq, not_true_eq_false, decide_false, Bool.or_self, Bool.false_eq_true, if_false]

/-- At the end of a slot the next poll is sent. -/
theorem mvbSlotEnd_polls : mvbSlotEnd c = pollNext (onMvb (slotMissed c) fun m => { m with await := none }) := by
  simp only [mvbSlotEnd, ha, Bool.not_true, Bool.false_eq_true, if_false]
  rfl

end

/-! ### The switch of poll list (R345, R348) -/

/-- A macro cycle begins: no announcement has been made in it and no acknowledgement heard. -/
def macroBegun (c : Chip) : Chip := onMvb c fun m => { m with announced := false, acks := [] }

section
variable {c d : Chip} (ht : c.core.tick % (mvbTbp c * mvbMacro c) = 0) (hd : d = applyPend c mvbScheduled)
include ht hd

/-- Without a switch that is the module's to make, the committed schedule words apply and nothing more. -/
theorem macroBoundary_idle (h : c.mvb.cdn = 0 ∨ mvbAdmin d = false) : macroBoundary c = macroBegun d := by
  subst hd
  have hidle : (decide (c.mvb.cdn = 0) || !mvbAdmin (applyPend c mvbScheduled)) = true := by simpa using h
  simp only [macroBoundary, ht, hidle, ne_eq, not_true_eq_false, if_false, if_true, macroBegun]

variable (ha : mvbAdmin d = true)
include ha

/-- A commit that changed the next poll list ends the switch (R348). -/
theorem macroBoundary_setChanged (hc : c.mvb.cdn ≠ 0) (hs : c.mvb.setChanged = true) :
    macroBoundary c = macroBegun (abandonSwitch d 2 0) := by
  subst hd
  simp only [macroBoundary, ht, hc, ha, hs, ne_eq, not_true_eq_false, decide_false, Bool.not_true, Bool.or_self,
    Bool.false_eq_true, if_false, if_true, macroBegun]

variable (hs : c.mvb.setChanged = false)
include hs

/-- A macro cycle without an announcement does not count. -/
theorem macroBoundary_unannounced (hc : c.mvb.cdn ≠ 0) (hn : c.mvb.announced = false) : macroBoundary c = macroBegun d := by
  subst hd
  simp only [macroBoundary, ht, hc, ha, hs, hn, ne_eq, not_true_eq_false, decide_false, Bool.not_true, Bool.not_false,
    Bool.or_self, Bool.false_eq_true, if_false, if_true, macroBegun]

variable (hn : c.mvb.announced = true)
include hn

theorem macroBoundary_countsDown (h1 : 1 < c.mvb.cdn) :
    macroBoundary c = macroBegun (onMvb d fun m => { m with cdn := m.cdn - 1 }) := by
  subst hd
  have hc : c.mvb.cdn ≠ 0 := Nat.ne_zero_of_lt h1
  simp only [macroBoundary, ht, hc, ha, hs, hn, h1, ne_eq, not_true_eq_false, decide_false, Bool.not_true, Bool.or_self,
    Bool.false_eq_true, if_false, if_true, macroBegun]

variable (h1 : c.mvb.cdn = 1)
include h1

/-- A device that has not said ready ends the switch. -/
theorem macroBoundary_refused {p : Nat} (hr : notReady d = some p) : macroBoundary c = macroBegun (abandonSwitch d 1 p) := by
  subst hd
  simp only [macroBoundary, ht, h1, ha, hs, hn, hr, ne_eq, not_true_eq_false, decide_false, Bool.not_true, Bool.or_self,
    Bool.false_eq_true, one_ne_zero, Nat.lt_irrefl, if_false, macroBegun]

/-- With every listed device ready the switch takes effect. -/
theorem macroBoundary_switches (hr : notReady d = none) : macroBoundary c = macroBegun (raise (bump (onMvb d fun m =>
    { m with poll := m.next, cdn := 0 }) Reg.mvbCnt2.addr 31 16) 1152 c.mvb.next) := by
  subst hd
  simp only [macroBoundary, ht, h1, ha, hs, hn, hr, ne_eq, not_true_eq_false, decide_false, Bool.not_true, Bool.or_self,
    Bool.false_eq_true, one_ne_zero, Nat.lt_irrefl, if_false, macroBegun]

end

/-! ### MVB_ASEL (R345) -/

/-- A field that a mask covers keeps its value under the mask. -/
theorem bits_and_mask {x m : Word} {msb lsb : Nat} (hm : bits m msb lsb = 2 ^ (msb + 1 - lsb) - 1) :
    bits (x &&& m) msb lsb = bits x msb lsb := by
  simp only [bits] at hm ⊢
  rw [BitVec.toNat_and, Nat.and_div_two_pow, Nat.and_mod_two_pow, hm, Nat.and_two_pow_sub_one_eq_mod, Nat.mod_mod]

section
variable {c d : Chip} {w : Writer} {x : Word}

/-- The word that a write to MVB_ASEL brings to the command: its WO fields. -/
def aselWord (x : Word) : Word := x &&& maskWhere Reg.mvbAsel fun f => f.acc = .wo && !f.rsvd

theorem bits_aselWord_op : bits (aselWord x) 31 28 = bits x 31 28 := bits_and_mask (by decide)
theorem bits_aselWord_set : bits (aselWord x) 1 0 = bits x 1 0 := bits_and_mask (by decide)

/-- A MVB_ASEL that the port admits and the command accepts answers OK (R106, R345). -/
theorem writeCommand_mvbAsel (hw : Commanded c w Reg.mvbAsel.addr) (hc : aselWrite c (aselWord x) = (d, true)) :
    writeCommand c w Reg.mvbAsel.addr x = answeredOk d Reg.mvbAsel.addr := by
  have hm (o : Word) : modeLocked c w Reg.mvbAsel Reg.mvbAsel.addr false o x = false := by
    have hb : blockOf Reg.mvbAsel.addr = 9 := by decide
    have hx : Reg.mvbAsel.addr ≠ Reg.sysExpert.addr := by decide
    have hk : Reg.mvbAsel.addr ≠ Reg.mvbCtl.addr := by decide
    have ha : Reg.mvbAsel.addr ≠ Reg.mvbActl.addr := by decide
    simp [modeLocked, hb, hx, mvbModeLocked, hk, ha]
  have hl : loopBusy c Reg.mvbAsel.addr = false := by
    have hb : Reg.tstLbk.covers Reg.mvbAsel.addr = false := by decide
    simp [loopBusy, hb]
  have hs : Reg.mvbAsel.addr ≠ Reg.sysCmd.addr := by decide
  have hv : Reg.mvbAsel.addr ≠ Reg.vatCmd.addr := by decide
  have hq : Reg.mvbAsel.addr ≠ Reg.ldlCmd.addr := by decide
  rw [aselWord] at hc
  exact writeCommand_command hw rfl (by decide) (by decide) (by decide) (by decide) (by decide) hm hl
    (by simp only [commandWrite, if_neg hs, if_neg hv, if_neg hq, if_true, hc])

/-- The administrator begins a switch to another poll list. -/
theorem aselWrite_begins (ho : bits x 31 28 = 1) (ha : mvbAdmin c = true) (hn : c.mvb.cdn = 0) (hp : bits x 1 0 ≠ c.mvb.poll) :
    aselWrite c x =
      (onMvb c fun m => { m with next := bits x 1 0, cdn := mvbLead c, announced := false, setChanged := false }, true) := by
  simp only [aselWrite, ho, ha, hn, hp, Bool.not_true, ne_eq, not_true_eq_false, decide_false, Bool.or_self, Bool.false_eq_true,
    if_false]

end

/-! ### The commands -/

section
variable {s : State}

theorem exec_masterFrameReceive (fc : BitVec 4) (addr : BitVec 12) (start : Nat) (va vb : Bool) :
    exec (.masterFrameReceive fc addr start va vb) s = .next (s.after (masterFrame s.chip fc.toNat addr.toNat start va vb)) := rfl
theorem exec_slaveFrameReceive (f : MvbSlave) : exec (.slaveFrameReceive f) s = .next (s.after (slaveFrame s.chip f)) := rfl
theorem exec_mvbSilence : exec .mvbSilence s = .next (s.after (mvbSilence s.chip)) := rfl
theorem exec_mvbSourceEntry : exec .mvbSourceEntry s = .next (s.after (mvbSourceEntry s.chip)) := rfl
theorem exec_basicPeriod : exec .basicPeriod s = .next (s.after (basicPeriod s.chip)) := rfl
theorem exec_mvbSlotEnd : exec .mvbSlotEnd s = .next (s.after (mvbSlotEnd s.chip)) := rfl
theorem exec_macroCycleBoundary : exec .macroCycleBoundary s = .next (s.after (macroBoundary s.chip)) := rfl
theorem exec_mvbAselWrite (w : Writer) (x : Word) :
    exec (.mvbAselWrite w x) s = .next (s.afterAll (writeCommand s.chip w Reg.mvbAsel.addr x)) := rfl

end

/-- Settles O52: each command by the lemma on its function; a slave frame in time by what its sink asks for. -/
theorem vehicleBusComplete : Obligations.VehicleBusComplete := by
  refine ⟨fun s => ⟨fun hon ht => ⟨?master, fun f c fc addr hf hl => ⟨?late, ?inTime⟩⟩, ?silence, ?source⟩,
    fun s => ⟨?period, ?slot, ?boundary, ?asel⟩⟩
  case master =>
    exact fun fc addr start va vb c hf => (exec_masterFrameReceive fc addr start va vb).trans (next_after (masterFrame_valid hon ht hf))
  case late => exact fun hb => (exec_slaveFrameReceive f).trans (next_after (slaveFrame_late hon ht hf hl hb))
  case inTime =>
    rintro _ _ hb h4 hn rfl rfl
    have hrecv := slaveFrame_inTime hon ht hf hl hb h4 hn
    refine ⟨fun hs => ?_, ?_⟩
    · exact (exec_slaveFrameReceive f).trans (next_after (hrecv.trans (if_neg (ne_true_of_eq_false hs))))
    · intro hs g q hg hq
      exact (exec_slaveFrameReceive f).trans (next_after (hrecv.trans (sinkTaken_appends hs hg hq)))
  case silence => exact fun ht ha => exec_mvbSilence.trans (next_after (mvbSilence_silent ht ha))
  case source => exact fun e c ht => exec_mvbSourceEntry.trans (next_after (mvbSourceEntry_fills ht))
  case period => exact fun ha ht c hc => exec_basicPeriod.trans (next_after (basicPeriod_polls ha ht hc))
  case slot => exact fun ha => exec_mvbSlotEnd.trans (next_after (mvbSlotEnd_polls ha))
  case boundary =>
    intro ht c hc
    exact ⟨fun h => exec_macroCycleBoundary.trans (next_after (macroBoundary_idle ht hc h)), fun hn ha =>
      ⟨fun hs => exec_macroCycleBoundary.trans (next_after (macroBoundary_setChanged ht hc ha hn hs)), fun hs =>
        ⟨fun hq => exec_macroCycleBoundary.trans (next_after (macroBoundary_unannounced ht hc ha hs hn hq)), fun hq =>
          ⟨fun h1 => exec_macroCycleBoundary.trans (next_after (macroBoundary_countsDown ht hc ha hs hq h1)),
            fun p h1 hr => exec_macroCycleBoundary.trans (next_after (macroBoundary_refused ht hc ha hs hq h1 hr)),
            fun h1 hr => exec_macroCycleBoundary.trans (next_after (macroBoundary_switches ht hc ha hs hq h1 hr))⟩⟩⟩⟩
  case asel =>
    intro w x hw ho ha hn hp
    have hbegin := aselWrite_begins (bits_aselWord_op.trans ho) ha hn (bits_aselWord_set.trans_ne hp)
    rw [bits_aselWord_set] at hbegin
    exact (exec_mvbAselWrite w x).trans (next_afterAll (writeCommand_mvbAsel hw hbegin))

end Sys2Proof.Machine
end

section
/-! The CAN controllers: frames received (`canReceive_…`), the monitor (`monRead_…`, `readCommand_canMon`), the transmit store and
what becomes of an offered frame (`storeFill_…`, `txSuccess_offered`, `txError_offered`), reference messages
(`referenceInstant_due`) and CAN_CMD (`writeCommand_canCmd`) (R354 to R370). -/

namespace Sys2Proof.Machine

/-! ### Frames received (R354, R357 to R359) -/

/-- A frame lost to a full queue: the loss is kept to be shown, and raises the queue's source unless one is already kept or was shown
last (R359). -/
def rxLost (c : Chip) (p act : Nat) (f : CanRx) : Chip :=
  let e := onCan c p fun x => if act = 1 then { x with lost0 := true, lostSt := true } else { x with lost1 := true, lostSt := true }
  if (if act = 1 then (canOf c p).lost0 || (canOf c p).shown0 else (canOf c p).lost1 || (canOf c p).shown1) then e
  else raise e (canSrc p (4 + act)) (rxIdw f)

section
variable {c d : Chip} {p : Nat} {f : CanRx} {act ix : Nat}

/-- An enabled controller that is neither in bus-off nor turned back on itself takes what the bus brings. -/
theorem canReceive_takes (hon : canOn c p = true) (hs : (canOf c p).state ≠ 2) (ht : turned c (5 + p) = false) :
    canReceive c p f = canDeliver c p f := by
  simp only [canReceive, hon, hs, ht, Bool.not_true, decide_false, Bool.or_self, Bool.false_eq_true, if_false]

theorem canDeliver_invalid (hv : f.valid = false) : canDeliver c p f = recBad (bump c (Reg.canCnt2.addr p) 31 16) p f.recAdd := by
  simp only [canDeliver, hv, Bool.not_false, if_true]

section
variable (hv : f.valid = true) (hr : route c p f = (act, ix)) (hd : d = recGood (monitorFrame c p ⟨f, ix⟩) p)
include hv hr hd

theorem canDeliver_dropped (ha : act = 0 ∨ act = 3) : canDeliver c p f = d := by
  subst hd
  have hdrop : (decide (act = 0) || decide (act = 3)) = true := by simpa using ha
  simp only [canDeliver, hv, hr, hdrop, Bool.not_true, Bool.false_eq_true, if_false, if_true]

/-- A frame for a queue is appended to it; a queue that is full loses it. -/
theorem canDeliver_queued {e : Chip} {q : Nat} {lost : Bool} (ha : act = 1 ∨ act = 2)
    (hq : queueOfPort d 10 (2 * p + (act - 1)) = some q) (he : appendInbound d q (rxEntry f ix) = (e, lost)) :
    canDeliver c p f = if lost then rxLost e p act f else e := by
  subst hd
  have hkeep : (decide (act = 0) || decide (act = 3)) = false := by rcases ha with rfl | rfl <;> rfl
  simp only [canDeliver, hv, hr, hkeep, hq, he, Bool.not_true, Bool.false_eq_true, if_false]
  cases lost <;> rfl

end
end

/-! ### The monitor (R370) -/

section
variable {c d : Chip} {w : Writer} {p k : Nat}

/-- The first word read of an open window locks it for the reader. -/
theorem monRead_locks (hl : (canOf c p).lock = none) (he : bit (rawReg c (Reg.canMonctl.addr p)) 31 = true) :
    monRead c p 0 w = (onCan c p fun y => { y with lock := some (w, c.core.tick) }, monWord (canOf c p).window 0) := by
  simp only [monRead, hl, he, decide_true, Bool.and_self, if_true]

section
variable {t : Nat} (hl : (canOf c p).lock = some (w, t))
include hl

/-- The owner's read of the last word that the window shows ends the lock. -/
theorem monRead_last (hk : k = shownLast (canOf c p).window) :
    monRead c p k w = (monRelease c p, monWord (canOf c p).window k) := by
  simp only [monRead, hl, ← hk, ne_eq, not_true_eq_false, if_false, if_true]

/-- Any other read of the owner begins the lock's time anew. -/
theorem monRead_before (hk : k ≠ shownLast (canOf c p).window) :
    monRead c p k w = (onCan c p fun y => { y with lock := some (w, c.core.tick) }, monWord (canOf c p).window k) := by
  simp only [monRead, hl, hk, ne_eq, not_true_eq_false, if_false]

end

theorem monRead_other {o : Writer} {t : Nat} (hl : (canOf c p).lock = some (o, t)) (ho : o ≠ w) :
    monRead c p k w = (c, monWord (canOf c p).window k) := by
  simp only [monRead, hl, ho, ne_eq, not_false_eq_true, if_true]

theorem monTimeout_over {o : Writer} {t : Nat} (hl : (canOf c p).lock = some (o, t)) (ht : t + 9000 ≤ c.core.tick) :
    monTimeout c p = monDrop c p := by
  simp only [monTimeout, hl, if_pos ht]

/-- Every word of a controller's window is a word of CAN_MON. -/
theorem canMon_mapped : ∀ (p : Fin 4) (k : Fin 20), regDef (Reg.canMon.addr p.val k.val) = some Reg.canMon ∧
    Reg.canMon.covers (Reg.canMon.addr p.val k.val) = true := by
  decide

theorem canMon_addr_sub (p k : Nat) : Reg.canMon.addr p k - Reg.canMon.base = 1024 * p + k := by
  simp only [RegDef.addr, Reg.canMon]
  omega

/-- A writer that reaches the port reads the window's word, and the read has its effect on the lock (R106, R370). -/
theorem readCommand_canMon {p : Fin 4} {k : Fin 20} {v : Word} (hw : reaches c w = true) (hm : monRead c p.val k.val w = (d, v)) :
    readCommand c w (Reg.canMon.addr p.val k.val) =
      onSys d fun y => { y with answer := [statusWord 0 (Reg.canMon.addr p.val k.val), v] } := by
  obtain ⟨hr, hc⟩ := canMon_mapped p k
  have ha : Reg.canMon.addr p.val k.val < 2 ^ 24 := by
    have := canMon_addr_sub p.val k.val
    have hb : Reg.canMon.base = 0x0A0021 := rfl
    omega
  have hp : (1024 * p.val + k.val) / 1024 = p.val := by omega
  have hk : (1024 * p.val + k.val) % 1024 = k.val := by omega
  simp only [readCommand, portRead, hw, mapped_of_lt ha hr, hc, canMon_addr_sub, hp, hk, hm, Bool.not_true, Bool.false_and,
    Bool.false_eq_true, if_false, if_true]

end

/-! ### The transmit store (R362 to R364) -/

section
variable {c d : Chip} {p : Nat} {e : List Byte} (hon : canOn c p = true) (hn : txPend (canOf c p) < 64)
  (ht : takeDev c (32517 + p) = some (e, d))
include hon hn ht

theorem storeFill_closed (ho : canOpen d p = false) : storeFill c p = bump d (Reg.canCnt1.addr p) 31 16 := by
  simp only [storeFill, hon, Nat.not_le.mpr hn, ht, ho, Bool.not_true, Bool.not_false, Bool.false_eq_true, if_false, if_true]

variable (ho : canOpen d p = true)
include ho

theorem storeFill_bad (hb : badFrame (canCfg d p) (entryFrame e) = true) : storeFill c p = bump d (Reg.canCnt2.addr p) 15 0 := by
  simp only [storeFill, hon, Nat.not_le.mpr hn, ht, ho, hb, Bool.not_true, Bool.false_eq_true, if_false, if_true]

theorem storeFill_enters {g : Chip} (hb : badFrame (canCfg d p) (entryFrame e) = false)
    (hg : g = onCan d p fun y => { y with store := y.store ++ [entryFrame e] }) :
    storeFill c p = if 64 ≤ txPend (canOf g p) then raise g (canSrc p 4) else g := by
  simp only [storeFill, hon, Nat.not_le.mpr hn, ht, ho, hb, ← hg, Bool.not_true, Bool.false_eq_true, if_false]

end

/-! ### The offered frame (R364, R365, R519) -/

/-- The frame that an idle bus is offered: the frozen head, a reference message, or the most urgent of the store (R364). -/
def nextFrame (x : CanCtl) : Option CanFrame :=
  match x.frozen, x.refMsg with
  | some f, _ => some f
  | none, some f => some f
  | none, none => mostUrgent x.store

/-- A frame sent: turned back on itself the controller has received it, it has left, and TEC has gone down (R354, R519). -/
def txDone (c : Chip) (p sof : Nat) (f : CanFrame) : Chip :=
  let b := if turned c (5 + p) then canDeliver c p (ownFrame c p sof f) else c
  canState (onCan b p fun y => { y.leave f with offered := none, tec := y.tec - 1, sentCount := (y.sentCount + 1) % 2 ^ 32 }) p

/-- A reference message sent at `sof`, which the one that waits carries (R369). -/
def refSent (c : Chip) (p sof : Nat) : Chip :=
  raise (bump (onCan c p fun y =>
    { y with refLast := some sof, refMsg := y.refMsg.map fun g => { g with data := bytesBE 8 sof } }) (Reg.canCnt3.addr p) 15 0)
    (canSrc p 7) (sof % 2 ^ 32)

section
variable {c : Chip} {p : Nat}

theorem busIdle_offers (ho : canOpen c p = true) (hs : (canOf c p).state ≠ 2) (hf : (canOf c p).offered = none) :
    busIdle c p = onCan c p fun y => { y with offered := nextFrame (canOf c p) } := by
  simp only [busIdle, ho, hs, hf, Option.isSome_none, Bool.not_true, decide_false, Bool.or_self, Bool.false_eq_true, if_false]
  rfl

section
variable {f : CanFrame} (hf : (canOf c p).offered = some f)
include hf

theorem txSuccess_offered {sof : Nat} :
    txSuccess c p sof = if f.isRef then refSent (txDone c p sof f) p sof else txDone c p sof f := by
  simp only [txSuccess, hf, txDone, refSent]

theorem arbLost_offered : arbLost c p = bump (onCan c p fun y => { y with offered := none }) (Reg.canCnt0.addr p) 31 16 := by
  simp only [arbLost, hf]

/-- A frame sent in error is offered no more; TEC above 255 is bus-off (R365). -/
theorem txError_offered {counts : Bool} {t : Nat} {d : Chip} (ht : t = (canOf c p).tec + (if counts then 8 else 0))
    (hd : d = bump (onCan c p fun y => { y with offered := none, tec := t }) (Reg.canCnt0.addr p) 15 0) :
    txError c p counts = if 255 < t then enterBusOff d p f else canState d p := by
  subst ht hd
  simp only [txError, hf]

end

theorem recoveryDone_recovers (hs : (canOf c p).state = 2) (hr : (canOf c p).recov = true) :
    recoveryDone c p = raise (onCan c p fun y => { y with tec := 0, rcv := 0, state := 0, recov := false }) (canSrc p 3)
      (canOf c p).offIdw.toNat := by
  simp only [recoveryDone, hs, hr, ne_eq, not_true_eq_false, decide_false, Bool.not_true, Bool.or_self, Bool.false_eq_true, if_false]

/-! ### Reference messages (R369) -/

/-- An instant of a time master whose transmission is open makes its message, in place of one that still waits. -/
theorem referenceInstant_due {w : Word} {per ph : Nat} {d : Chip} (hw : w = rawReg c (Reg.canRefctl.addr p))
    (hper : per = (rawReg c (Reg.canRefper.addr p)).toNat) (hph : ph = (rawReg c (Reg.canRefph.addr p)).toNat)
    (hen : bit w 31 = true) (h0 : per ≠ 0) (hat : ((now c / 1000 : Nat) - (ph : Int)) % per = 0)
    (hnew : (canOf c p).refTick ≠ some c.core.tick) (ho : canOpen c p = true)
    (hd : d = if (canOf c p).refMsg.isSome then bump c (Reg.canCnt3.addr p) 31 16 else c) :
    referenceInstant c p = onCan d p fun y =>
      { y with
        refMsg := some ⟨word (b2n (bit w 30) * 2 ^ 31 + bits w 28 0), 8, 0, bytesBE 8 ((canOf c p).refLast.getD 0), true⟩
        refTick := some c.core.tick } := by
  have hcore : d.core = c.core := by
    rw [hd]
    split
    · exact bump_core ..
    · rfl
  subst hw hper hph
  simp only [referenceInstant, hen, h0, hat, ho, hnew, ← hd, hcore, Bool.not_true, ne_eq, not_true_eq_false, decide_false,
    Bool.or_self, Bool.false_eq_true, if_false]

end

/-! ### CAN_CMD (R364, R365) -/

section
variable {c d : Chip} {w : Writer} {x : Word} {p : Fin 4}

/-- The word that a write to CAN_CMD brings to the command: its WO fields. -/
def canCmdWord (x : Word) : Word := x &&& maskWhere Reg.canCmd fun f => f.acc = .wo && !f.rsvd

/-- CAN_CMD of each controller, as the port sees its address. -/
theorem canCmd_mapped : ∀ p : Fin 4, regDef (Reg.canCmd.addr p.val) = some Reg.canCmd ∧
    Reg.canCmd.covers (Reg.canCmd.addr p.val) = true ∧ writable Reg.canCmd (Reg.canCmd.addr p.val) = true ∧
    Reg.tstLbk.covers (Reg.canCmd.addr p.val) = false ∧ blockOf (Reg.canCmd.addr p.val) = 10 := by
  decide

theorem canCmd_addr (p : Nat) : Reg.canCmd.addr p = 0x0A0004 + 1024 * p := rfl

/-- A CAN_CMD that the port admits and the command accepts answers OK (R106). -/
theorem writeCommand_canCmd (hw : Commanded c w (Reg.canCmd.addr p.val)) (hc : canCmdWrite c p.val (canCmdWord x) = (d, true)) :
    writeCommand c w (Reg.canCmd.addr p.val) x = answeredOk d (Reg.canCmd.addr p.val) := by
  obtain ⟨hr, hcov, hwr, hlbk, hblk⟩ := canCmd_mapped p
  have ha := canCmd_addr p.val
  have hbelow (b : Nat) (hb : b < 0x0A0004) : Reg.canCmd.addr p.val ≠ b := by omega
  have hm (o : Word) : modeLocked c w Reg.canCmd (Reg.canCmd.addr p.val) false o x = false := by
    have hofs : (Reg.canCmd.addr p.val - 0x0A0000) % 1024 = 4 := by omega
    simp [modeLocked, hblk, hbelow Reg.sysExpert.addr (by decide), canModeLocked, hofs]
  have hl : loopBusy c (Reg.canCmd.addr p.val) = false := by simp [loopBusy, hlbk]
  have hp : (Reg.canCmd.addr p.val - Reg.canCmd.base) / 1024 = p.val := by
    have : Reg.canCmd.base = 0x0A0004 := rfl
    omega
  rw [canCmdWord] at hc
  exact writeCommand_command hw (mapped_of_lt (by omega) hr) hwr (by decide) (by decide) (by decide) (by decide) hm hl
    (by simp only [commandWrite, if_neg (hbelow Reg.sysCmd.addr (by decide)), if_neg (hbelow Reg.vatCmd.addr (by decide)),
      if_neg (hbelow Reg.ldlCmd.addr (by decide)), if_neg (hbelow Reg.mvbAsel.addr (by decide)), hcov, hp, hc, if_true])

/-- RECOVER in bus-off without AUTOREC starts the recovery (R365). -/
theorem canCmdWrite_recover {p : Nat} (hs : (canOf c p).state = 2) (hr : (canOf c p).recov = false)
    (ha : bit (canCfg c p) 28 = false) :
    canCmdWrite c p (canCmdWord 0x10000000) = (onCan c p fun y => { y with recov := true }, true) := by
  have ho : bits (canCmdWord 0x10000000) 31 28 = 1 := by decide
  simp only [canCmdWrite, ho, hs, hr, ha, decide_true, Bool.not_false, Bool.and_self, if_true]

theorem canCmdWrite_flush {p : Nat} : canCmdWrite c p (canCmdWord 0x20000000) = (flushStore c p false, true) := by
  have ho : bits (canCmdWord 0x20000000) 31 28 = 2 := by decide
  simp only [canCmdWrite, ho]

end

/-! ### The commands -/

section
variable {s : State} (p : Fin 4)

theorem exec_canFrameReceive (f : CanRx) : exec (.canFrameReceive p f) s = .next (s.after (canReceive s.chip p.val f)) := rfl
theorem exec_canMonRead (w : Writer) (k : Fin 20) :
    exec (.canMonRead w p k) s = .next (s.afterAll (readCommand s.chip w (Reg.canMon.addr p.val k.val))) := rfl
theorem exec_monitorLockTimeout : exec (.monitorLockTimeout p) s = .next (s.after (monTimeout s.chip p.val)) := rfl
theorem exec_canStoreFill : exec (.canStoreFill p) s = .next (s.after (storeFill s.chip p.val)) := rfl
theorem exec_canBusIdle : exec (.canBusIdle p) s = .next (s.after (busIdle s.chip p.val)) := rfl
theorem exec_canTxSuccess (sof : Nat) : exec (.canTxSuccess p sof) s = .next (s.after (txSuccess s.chip p.val sof)) := rfl
theorem exec_canArbLost : exec (.canArbLost p) s = .next (s.after (arbLost s.chip p.val)) := rfl
theorem exec_canTxError (counts : Bool) : exec (.canTxError p counts) s = .next (s.after (txError s.chip p.val counts)) := rfl
theorem exec_canRecoveryDone : exec (.canRecoveryDone p) s = .next (s.after (recoveryDone s.chip p.val)) := rfl
theorem exec_referenceInstant : exec (.referenceInstant p) s = .next (s.after (referenceInstant s.chip p.val)) := rfl
theorem exec_canCmdRecover (w : Writer) :
    exec (.canCmdRecover w p) s = .next (s.afterAll (writeCommand s.chip w (Reg.canCmd.addr p.val) 0x10000000)) := rfl
theorem exec_canCmdFlush (w : Writer) :
    exec (.canCmdFlush w p) s = .next (s.afterAll (writeCommand s.chip w (Reg.canCmd.addr p.val) 0x20000000)) := rfl

end

/-- Settles O53: each command by the lemma on its function; a frame received by where its filter sends it. -/
theorem canComplete : Obligations.CanComplete := by
  refine ⟨fun s p => ⟨fun f hon hs ht => ⟨?invalid, fun act ix c hv hr hc => ⟨?dropped, ?queued⟩⟩, ?monitor, ?timeout⟩, ?send⟩
  case invalid =>
    exact fun hv => (exec_canFrameReceive p f).trans (next_after ((canReceive_takes hon hs ht).trans (canDeliver_invalid hv)))
  case dropped =>
    exact fun ha => (exec_canFrameReceive p f).trans (next_after ((canReceive_takes hon hs ht).trans (canDeliver_dropped hv hr hc ha)))
  case queued =>
    intro q d lost ha hq hd
    have hrecv := (canReceive_takes hon hs ht).trans (canDeliver_queued hv hr hc ha hq hd)
    exact ⟨fun h => (exec_canFrameReceive p f).trans (next_after (hrecv.trans (if_neg (ne_true_of_eq_false h)))),
      fun h => (exec_canFrameReceive p f).trans (next_after (hrecv.trans (if_pos h)))⟩
  case monitor =>
    rintro w k _ hw rfl
    refine ⟨fun hl he hk => ?first, fun t hl hk => ?last, fun t hl hk => ?before, fun o t hl ho => ?other⟩
    case first =>
      subst hk
      exact (exec_canMonRead p w 0).trans (next_afterAll (readCommand_canMon hw (monRead_locks hl he)))
    case last => exact (exec_canMonRead p w k).trans (next_afterAll (readCommand_canMon hw (monRead_last hl hk)))
    case before => exact (exec_canMonRead p w k).trans (next_afterAll (readCommand_canMon hw (monRead_before hl hk)))
    case other => exact (exec_canMonRead p w k).trans (next_afterAll (readCommand_canMon hw (monRead_other hl ho)))
  case timeout => exact fun o t hl ht => (exec_monitorLockTimeout p).trans (next_after (monTimeout_over hl ht))
  case send =>
    rintro s p _ rfl
    refine ⟨fun e c hon hn ht => ⟨?closed, ?bad, ?enters⟩, ?idle, fun f hf => ⟨?sent, ?lost, ?error⟩, ?recovered, ?reference,
      fun w hw => ⟨?recover, ?flush⟩⟩
    case closed => exact fun ho => (exec_canStoreFill p).trans (next_after (storeFill_closed hon hn ht ho))
    case bad => exact fun ho hb => (exec_canStoreFill p).trans (next_after (storeFill_bad hon hn ht ho hb))
    case enters => exact fun d ho hb hd => (exec_canStoreFill p).trans (next_after (storeFill_enters hon hn ht ho hb hd))
    case idle => exact fun ho hs hf => (exec_canBusIdle p).trans (next_after (busIdle_offers ho hs hf))
    case sent =>
      rintro sof _ _ rfl rfl
      exact (exec_canTxSuccess p sof).trans (next_after (txSuccess_offered hf))
    case lost => exact (exec_canArbLost p).trans (next_after (arbLost_offered hf))
    case error => exact fun counts t c ht hc => (exec_canTxError p counts).trans (next_after (txError_offered hf ht hc))
    case recovered => exact fun hs hr => (exec_canRecoveryDone p).trans (next_after (recoveryDone_recovers hs hr))
    case reference =>
      exact fun w per ph c hw hper hph hen h0 hat hnew ho hc =>
        (exec_referenceInstant p).trans (next_after (referenceInstant_due hw hper hph hen h0 hat hnew ho hc))
    case recover =>
      exact fun hs hr ha => (exec_canCmdRecover p w).trans (next_afterAll (writeCommand_canCmd hw (canCmdWrite_recover hs hr ha)))
    case flush => exact (exec_canCmdFlush p w).trans (next_afterAll (writeCommand_canCmd hw canCmdWrite_flush))

end Sys2Proof.Machine
end

section
/-! The queue of waiting commands: a step takes its front command, every command leaves it as it was, so `n` steps serve `n`. -/

namespace Sys2Proof.Machine

theorem step_of_pending {s : State} {i : Instr} {rest : List Instr} (h : s.pending = i :: rest) :
    step s = exec i { s with pending := rest } := by
  simp only [step, h]

theorem step_of_empty {s : State} (h : s.pending = []) : step s = .next s := by
  simp only [step, h]

/-- Settles O1: the two cases of `step`. -/
theorem stepRunsFrontCommand : Obligations.StepRunsFrontCommand :=
  ⟨fun _ _ _ => step_of_pending, fun _ => step_of_empty⟩

/-- Settles O2: `exec_settled` without what it says of the module. -/
theorem everyCommandIsCarriedOut : Obligations.EveryCommandIsCarriedOut := fun i s =>
  let ⟨c, _, h⟩ := exec_settled i s
  ⟨c, h⟩

/-- A step takes at most the front command off the queue. -/
theorem step_pending (s : State) : ∃ t, step s = .next t ∧ t.pending = s.pending.tail := by
  cases h : s.pending with
  | nil => exact ⟨s, step_of_empty h, h⟩
  | cons i rest =>
    obtain ⟨c, hc⟩ := everyCommandIsCarriedOut i { s with pending := rest }
    exact ⟨_, (step_of_pending h).trans hc, rfl⟩

/-- Settles O3: by induction on the number of steps, each by `step_pending`. -/
theorem waitingCommandsDrain : Obligations.WaitingCommandsDrain := by
  intro n
  induction n with
  | zero => exact fun s => ⟨s, rfl, rfl⟩
  | succ n ih =>
    intro s
    obtain ⟨t, hstep, ht⟩ := step_pending s
    obtain ⟨u, hrun, hu⟩ := ih t
    have hs : Sys2Proof.core.run (n + 1) s = Sys2Proof.core.run n t := by
      simp only [Host.Core.run, Sys2Proof.core, hstep]
    exact ⟨u, hs.trans hrun, by rw [hu, ht, List.drop_tail]⟩

end Sys2Proof.Machine
end

section
/-! The legacy rack port: what each of its commands does with a transfer, a transaction, a master's words or the sideband lines, where
the bridge's state lets it act (R369 to R387). -/

namespace Sys2Proof.Machine

/-! ### Transfers begun (R381, R385, R519) -/

section
variable {c d : Chip} {e : List Byte} (ht : takeDev c 32521 = some (e, d))
include ht

/-- With the port looped the entry's data come back to the module's own windows. -/
theorem outputWrite_looped (hl : looped c 9 = true) (hon : brgOn c = true) :
    outputWrite c = turnBack d (leAt e 0 2 % 64) ((e.drop 16).take (leAt e 2 2)) := by
  simp only [outputWrite, hl, hon, ht, Bool.and_self, if_true]

/-- A driving bridge that writes nothing puts the entry's write to arbiter 33. -/
theorem outputWrite_starts (hl : looped c 9 = false) (hd : brgDrive c = true)
    (hw : (c.brg.xfers.any fun e => match e.2 with | some x => x.write | none => false) = false) :
    outputWrite c = startTransfer d (leAt e 0 2 % 64) ⟨true, (e.drop 16).take (leAt e 2 2), 0, [], 0, none⟩ := by
  simp only [outputWrite, hl, hd, ht, Bool.false_and, Bool.not_true, Bool.false_or, Bool.false_eq_true, if_false]
  exact if_neg (ne_true_of_eq_false hw)

end

section
variable {c : Chip} {w : Nat} (hd : brgDrive c = true) (he : bit (winCfg c w) 31 = true) (hk : winKind (winCfg c w) = 1)
  (hdue : ∀ k, TaskId.ofCode (ptTask (rawReg c) (winPoint c w)) = .periodic k →
    aligned c k (c.core.tick + bits (winCfg c w) 26 16) = true)
include hd he hk hdue

/-- What a read of an INPUT window does that the bridge drives and that is due. -/
theorem inputRead_due : inputRead c w =
    if (mapGet none c.brg.xfers w).isSome then onBrg c fun b => { b with again := mapPut 0 b.again w (mapGet 0 b.again w + 1) }
    else startTransfer c w BrgXfer.read := by
  cases ht : TaskId.ofCode (ptTask (rawReg c) (winPoint c w)) with
  | periodic k => simp only [inputRead, hd, he, hk, ht, hdue k ht]; rfl
  | event k => simp only [inputRead, hd, he, hk, ht]; rfl
  | setup => simp only [inputRead, hd, he, hk, ht]; rfl

theorem inputRead_starts (hx : mapGet none c.brg.xfers w = none) : inputRead c w = startTransfer c w BrgXfer.read := by
  simp only [inputRead_due hd he hk hdue, hx, Option.isSome_none, Bool.false_eq_true, if_false]

/-- One that falls due while the window's last read runs follows it. -/
theorem inputRead_again (hx : (mapGet none c.brg.xfers w).isSome = true) :
    inputRead c w = onBrg c fun b => { b with again := mapPut 0 b.again w (mapGet 0 b.again w + 1) } := by
  simp only [inputRead_due hd he hk hdue, hx, if_true]

end

/-! ### Rack masters (R379, R382) -/

section
variable {c : Chip} {slot : Nat} {addr : Word} {ts : Nat} {ad : List Word}
  (hown : ((brgDrive c && c.brg.grant = some slot) || brgMon c) = true)
include hown

/-- An outbound request that is ready backs off the master that owns the bus. -/
theorem masterWrite_backsOff (hm : brgMon c = false) (ho : outboundReady c = true) :
    masterWrite c slot addr ts ad = bump (onBrg c fun b => { b with grant := none }) Reg.brgCnt0.addr 31 16 := by
  rw [hm] at hown
  simp only [masterWrite, hm, hown, ho, Bool.not_false, Bool.not_true, Bool.and_self, Bool.false_eq_true, if_false, if_true,
    backOffMaster]

/-- The words of an INBOUND window that a master's transaction brings are gathered, and delivered when the window is complete. -/
theorem masterWrite_gathers {n start : Nat} {words : List Word} {cfg : Word} {d : Chip}
    (hm : brgMon c = true ∨ outboundReady c = false) (hp : inboundPlace c addr = some (n, start)) (hcfg : cfg = inboundCfg c n start)
    (hnext : start = 0 ∧ winCredit c n = true ∨ start ≠ 0 ∧ start = (mapGet [] c.brg.gathered n).length)
    (hlen : start + ad.length ≤ winLen cfg) (h16 : ad.length ≤ 16) (hne : ad ≠ [])
    (hwords : words = (if start = 0 then [] else mapGet [] c.brg.gathered n) ++ ad)
    (hd : d = onBrg c fun b => { b with
      grant := none, gathered := mapPut [] b.gathered n words,
      under := mapPut none b.under n (some (if start = 0 then winWords c n else xferWords c n)) }) :
    masterWrite c slot addr ts ad =
      if words.length = winLen cfg then endTransfer d n 0 ts (words.flatMap (laneBytes (bits cfg 28 27))) else d := by
  have hfree : (!brgMon c && outboundReady c) = false := by
    rcases hm with h | h <;> simp only [h, Bool.not_true, Bool.false_and, Bool.and_false]
  have hcredit : (decide (start = 0) && !winCredit c n) = false := by
    rcases hnext with ⟨-, h⟩ | ⟨h, -⟩
    · simp only [h, Bool.not_true, Bool.and_false]
    · simp only [h, decide_false, Bool.false_and]
  have hfits : (decide (start ≠ 0) && decide (start ≠ (mapGet [] c.brg.gathered n).length) ||
      decide (winLen cfg < start + ad.length) || decide (16 < ad.length) || ad.isEmpty) = false := by
    have hplace : (decide (start ≠ 0) && decide (start ≠ (mapGet [] c.brg.gathered n).length)) = false := by
      rcases hnext with ⟨h, -⟩ | ⟨-, h⟩
      · simp only [h, ne_eq, not_true_eq_false, decide_false, Bool.false_and]
      · simp only [← h, ne_eq, not_true_eq_false, decide_false, Bool.and_false]
    simp only [hplace, Nat.not_lt.mpr hlen, Nat.not_lt.mpr h16, decide_false, Bool.or_self, List.isEmpty_eq_false_iff.mpr hne]
  subst hcfg hwords hd
  simp only [masterWrite, hown, hfree, hp, hcredit, hfits, Bool.not_true, Bool.false_eq_true, if_false]

end

/-- With no request of its own the bridge grants the bus to the next slot that asks, while no master owns it. -/
theorem rackBreq_grants {c : Chip} {lines : BitVec 16} {k : Nat} (hd : brgDrive c = true) (ho : outboundReady c = false)
    (hg : c.brg.grant = none)
    (hk : ((List.range 16).map fun j => (c.brg.lastGrant + 1 + j) % 16).find? (fun j => lines.getLsbD j) = some k) :
    rackBreq c lines = onBrg c fun b => { b with grant := some k, lastGrant := k } := by
  simp only [rackBreq, hd, ho, hg, hk, Option.isSome_none, Bool.not_true, Bool.or_self, Bool.false_eq_true, if_false]

/-! ### Transactions ended (R376 to R379, R383) -/

section
variable {c : Chip} {w : Nat}

theorem rackWaitLimit_reached {clocks ts : Nat} (hb : onBus c w = true) (ht : brgTmo c ≤ clocks) :
    rackWaitLimit c w clocks ts = brgNext 64 (endTransfer c w 1 ts []) := by
  simp only [rackWaitLimit, hb, ht, decide_true, Bool.and_self, if_true]

section
variable {x : BrgXfer} (hx : mapGet none c.brg.xfers w = some x)
include hx

theorem rackBackoff_gives_up {words : List Word} {ts : Nat} (hb : onBus c w = true) (hr : brgRetry c ≤ x.retries) :
    rackBackoff c w words ts = brgNext 64 (endTransfer c w 3 ts []) := by
  simp only [rackBackoff, hx, hb, hr, Bool.not_true, Bool.false_eq_true, if_false, if_true]

/-- A transaction backed off is repeated later, from the first word not transferred. -/
theorem rackBackoff_waits {words ws : List Word} {ts : Nat} (hb : onBus c w = true) (hr : x.retries < brgRetry c)
    (hws : ws = words.take (transStop x.next (xferLen c w x) - x.next - 1)) :
    rackBackoff c w words ts = brgNext 64 (onBrg (brgFree c) fun b =>
      { b with xfers := mapPut none b.xfers w (some { x with
          next := x.next + ws.length, got := if x.write then [] else x.got ++ ws, backed := some c.core.tick }) }) := by
  subst hws
  simp only [rackBackoff, hx, hb, Nat.not_le.mpr hr, Bool.not_true, Bool.false_eq_true, if_false]

theorem backoffRepeat_asks (hb : x.backed.isSome = true) :
    backoffRepeat c w = brgNext 64 (onBrg (bump c Reg.brgCnt0.addr 15 0) fun b =>
      { b with xfers := mapPut none b.xfers w (some { x with retries := x.retries + 1, backed := none }) }) := by
  obtain ⟨t, ht⟩ := Option.isSome_iff_exists.mp hb
  simp only [backoffRepeat, hx, ht, Option.isNone_some, Bool.false_eq_true, if_false]

end

section
variable {res ts stop : Nat} {ad got : List Word} {cfg : Word} {x : BrgXfer} (hcfg : cfg = xferCfg c w)
  (hres : res = 0 ∨ res = 2 ∧ winKind cfg ≠ 0 ∨ res = 5)
  (hbus : onBus c w = true ∧ brgDrive c = true ∨ brgMon c = true ∧ bit cfg 31 = true ∧ winKind cfg = 1)
  (hx : x = (mapGet none c.brg.xfers w).getD BrgXfer.read) (hstop : stop = transStop x.next (xferLen c w x))
  (hgot : got = x.got ++ (List.range (stop - x.next)).map fun k => ad.getD k 0)
include hcfg hres hbus hx hstop hgot

/-- The end of a transaction that the bridge made, or that it saw as the monitor of its partner. -/
theorem transferEnd_counted : transferEnd c w res ts ad =
    if res = 0 ∧ stop < xferLen c w x then
      brgNext 64 (onBrg (if brgDrive c && onBus c w then brgFree c else c) fun b =>
        { b with xfers := mapPut none b.xfers w (some { x with next := stop, got := got, retries := 0 })
                 under := mapPut none b.under w (some (xferWords c w)) })
    else brgNext 64 (endTransfer c w res ts (got.flatMap (laneBytes (bits cfg 28 27)))) := by
  have hseen : (brgDrive c && onBus c w || brgMon c && bit cfg 31 && decide (winKind cfg = 1)) = true := by
    rcases hbus with ⟨hb, hd⟩ | ⟨hm, h31, hk⟩
    · simp only [hb, hd, Bool.and_self, Bool.true_or]
    · simp only [hm, h31, hk, decide_true, Bool.and_self, Bool.or_true]
  have hvalid : (decide (res = 0) || decide (res = 2) && decide (winKind cfg ≠ 0) || decide (res = 5)) = true := by
    rcases hres with h | ⟨h, hk⟩ | h
    · simp only [h, decide_true, Bool.true_or]
    · simp only [h, hk, ne_eq, not_false_eq_true, decide_true, Bool.and_self, Bool.or_true, Bool.true_or]
    · simp only [h, decide_true, Bool.or_true]
  subst hcfg hx hstop hgot
  simp only [transferEnd, hseen, hvalid, Bool.not_true, Bool.or_self, Bool.false_eq_true, if_false, Bool.and_eq_true,
    decide_eq_true_eq]

/-- A result other than OK, or the last word, ends the transfer. -/
theorem transferEnd_last (hl : res ≠ 0 ∨ xferLen c w x ≤ stop) :
    transferEnd c w res ts ad = brgNext 64 (endTransfer c w res ts (got.flatMap (laneBytes (bits cfg 28 27)))) :=
  (transferEnd_counted hcfg hres hbus hx hstop hgot).trans
    (if_neg fun h => hl.elim (fun g => g h.1) fun g => Nat.not_lt.mpr g h.2)

theorem transferEnd_more (h0 : res = 0) (hl : stop < xferLen c w x) :
    transferEnd c w res ts ad = brgNext 64 (onBrg (if brgDrive c && onBus c w then brgFree c else c) fun b =>
      { b with xfers := mapPut none b.xfers w (some { x with next := stop, got := got, retries := 0 })
               under := mapPut none b.under w (some (xferWords c w)) }) :=
  (transferEnd_counted hcfg hres hbus hx hstop hgot).trans (if_pos ⟨h0, hl⟩)

end
end

/-! ### Sideband lines (R387) -/

/-- Each change of an enabled port's lines raises its source: IRQ where it rises, the others at every change. -/
theorem sidebandChange_raises {c d e : Chip} {irq pres : BitVec 16} {sysfail : Bool} (hon : brgOn c = true)
    (hd : d = (List.range 16).foldl (fun d k => if irq.getLsbD k && !c.brg.irq.getLsbD k then raise d (1664 + k) k else d)
      (onBrg c fun b => { b with irq := irq, pres := pres, sysfail := sysfail }))
    (he : e = (List.range 16).foldl (fun d k => if pres.getLsbD k = c.brg.pres.getLsbD k then d
      else raise d (1680 + k) (b2n (pres.getLsbD k))) d) :
    sidebandChange c irq pres sysfail = if sysfail = c.brg.sysfail then e else raise e 1696 (b2n sysfail) := by
  subst hd he
  simp only [sidebandChange, hon, Bool.not_true, Bool.false_eq_true, if_false]

/-! ### The commands -/

section
variable {s : State} (n : Fin 64)

theorem exec_outputWindowWrite : exec .outputWindowWrite s = .next (s.after (outputWrite s.chip)) := rfl
theorem exec_inputWindowRead : exec (.inputWindowRead n) s = .next (s.after (inputRead s.chip n.val)) := rfl
theorem exec_rackMasterWrite (slot : Fin 16) (addr : Word) (ts : Nat) (ad : List Word) :
    exec (.rackMasterWrite slot addr ts ad) s = .next (s.after (masterWrite s.chip slot.val addr ts ad)) := rfl
theorem exec_rackBreq (lines : BitVec 16) : exec (.rackBreq lines) s = .next (s.after (rackBreq s.chip lines)) := rfl
theorem exec_rackWaitLimit (clocks ts : Nat) :
    exec (.rackWaitLimit n ⟨clocks, ts⟩) s = .next (s.after (rackWaitLimit s.chip n.val clocks ts)) := rfl
theorem exec_rackBackoff (words : List Word) (ts : Nat) :
    exec (.rackBackoff n words ts) s = .next (s.after (rackBackoff s.chip n.val words ts)) := rfl
theorem exec_backoffRepeat : exec (.backoffRepeat n) s = .next (s.after (backoffRepeat s.chip n.val)) := rfl
theorem exec_rackTransferEnd (res : Fin 8) (ts : Nat) (ad : List Word) :
    exec (.rackTransferEnd n res ts ad) s = .next (s.after (transferEnd s.chip n.val res.val ts ad)) := rfl
theorem exec_sidebandChange (irq pres : BitVec 16) (sysfail : Bool) :
    exec (.sidebandChange irq pres sysfail) s = .next (s.after (sidebandChange s.chip irq pres sysfail)) := rfl

end

/-- The result codes of a transaction's end as numbers. -/
theorem transferResult_val {res : Fin 8} {p : Prop} (h : res = 0 ∨ res = 2 ∧ p ∨ res = 5) : res.val = 0 ∨ res.val = 2 ∧ p ∨ res.val = 5 := by
  rcases h with rfl | ⟨rfl, hp⟩ | rfl
  · exact .inl rfl
  · exact .inr (.inl ⟨rfl, hp⟩)
  · exact .inr (.inr rfl)

/-- Settles O54: each command by the lemma on its function. -/
theorem rackComplete : Obligations.RackComplete := by
  refine ⟨fun s => ⟨fun e c ht => ⟨?looped, ?starts⟩, fun n hd he hk hdue => ⟨?reads, ?again⟩,
    fun slot addr ts ad hown => ⟨?backsOff, ?gathers⟩, ?grants⟩, fun s => ⟨fun n x hx => ⟨?waitLimit, ?backoff, ?repeats⟩, ?ends, ?lines⟩⟩
  case looped => exact fun hl hon => exec_outputWindowWrite.trans (next_after (outputWrite_looped ht hl hon))
  case starts => exact fun hl hd hw => exec_outputWindowWrite.trans (next_after (outputWrite_starts ht hl hd hw))
  case reads => exact fun hx => (exec_inputWindowRead n).trans (next_after (inputRead_starts hd he hk hdue hx))
  case again => exact fun hx => (exec_inputWindowRead n).trans (next_after (inputRead_again hd he hk hdue hx))
  case backsOff =>
    exact fun hm ho => (exec_rackMasterWrite slot addr ts ad).trans (next_after (masterWrite_backsOff hown hm ho))
  case gathers =>
    exact fun hm n start words cfg hp hcfg hnext hlen h16 hne hwords => (exec_rackMasterWrite slot addr ts ad).trans
      (next_after (masterWrite_gathers hown hm hp hcfg hnext hlen h16 hne hwords rfl))
  case grants => exact fun lines k hd ho hg hk => (exec_rackBreq lines).trans (next_after (rackBreq_grants hd ho hg hk))
  case waitLimit =>
    exact fun clocks ts hb ht => (exec_rackWaitLimit n clocks ts).trans (next_after (rackWaitLimit_reached hb ht))
  case backoff =>
    exact fun words ts ws hb hws =>
      ⟨fun hr => (exec_rackBackoff n words ts).trans (next_after (rackBackoff_gives_up hx hb hr)),
        fun hr => (exec_rackBackoff n words ts).trans (next_after (rackBackoff_waits hx hb hr hws))⟩
  case repeats => exact fun hb => (exec_backoffRepeat n).trans (next_after (backoffRepeat_asks hx hb))
  case ends =>
    intro n res ts ad cfg x stop got hcfg hres hbus hx hstop hgot
    have hval := transferResult_val hres
    exact ⟨fun hl => (exec_rackTransferEnd n res ts ad).trans (next_after
        (transferEnd_last hcfg hval hbus hx hstop hgot (hl.imp_left fun h g => h (Fin.ext g)))),
      fun h0 hl => (exec_rackTransferEnd n res ts ad).trans (next_after
        (transferEnd_more hcfg hval hbus hx hstop hgot (congrArg Fin.val h0) hl))⟩
  case lines =>
    exact fun irq pres sysfail c d hon hc hd => (exec_sidebandChange irq pres sysfail).trans
      (next_after (sidebandChange_raises hon hc hd))

end Sys2Proof.Machine
end

section
/-! The field unit's checks: test pulses, overloads and FAULT latches, readback, open loads, field supplies and stage tests, each with
the source that it raises (R396 to R408, R520). -/

namespace Sys2Proof.Machine

/-! ### Test pulses (R396 to R398) -/

section
variable {c : Chip} {t : Nat}

/-- A supply that is enabled switches off in its phase, at the first tick of a millisecond. -/
theorem testPulse_begins {w : Word} {per ms : Nat} (hw : w = tpCfg c t) (hper : per = bits w 20 11) (hms : ms = now c / 1000000)
    (hon : supplyOn c = true) (hen : bit w 31 = true) (h0 : per ≠ 0) (hph : ((ms : Int) - bits w 10 1) % per = 0)
    (hfirst : now c % 1000000 < 1000) (hp : inPulse c t = false) :
    testPulse c t = onFio c fun x => { x with pulses := mapPut none x.pulses t (some (c.core.tick, bits w 30 21)) } := by
  subst hw hper hms
  simp only [testPulse, hon, hen, h0, hph, hp, Nat.not_le.mpr hfirst, ne_eq, not_true_eq_false, decide_false, Bool.not_true,
    Bool.or_self, Bool.false_eq_true, if_false]

theorem testPulseLimit_fails {run : Nat} (hon : supplyOn c = true) (hr : 1000 < run) :
    testPulseLimit c t run = setTpflt c t true 1 := by
  simp only [testPulseLimit, hon, hr, decide_true, Bool.and_self, if_true]

/-- The sample near the end of a pulse judges the inputs that the supply checks, and the supply by its own readback. -/
theorem testPulseSample_judges {raw : Tri (BitVec 64)} {rbOk : Bool} {e : Nat} {m : BitVec 64} {d : Chip}
    (he : pulseEnd c t = some e) (hin : c.core.tick < e) (hlate : e ≤ c.core.tick + 20) (hm : m = checkedBy c t)
    (hd : d = onFio c fun x =>
      { x with paths := ⟨{ x.paths.a with tpfail := (x.paths.a.tpfail &&& ~~~m) ||| (raw.a &&& m) },
                         { x.paths.b with tpfail := (x.paths.b.tpfail &&& ~~~m) ||| (raw.b &&& m) },
                         { x.paths.c with tpfail := (x.paths.c.tpfail &&& ~~~m) ||| (raw.c &&& m) }⟩ }) :
    testPulseSample c t raw rbOk = setTpflt d t (!rbOk) 2 := by
  have hp : inPulse c t = true := by simp only [inPulse, he, Option.any_some, hin, decide_true]
  have hl : ¬ c.core.tick + 20 < (pulseEnd c t).getD 0 := by simpa only [he, Option.getD_some, Nat.not_lt] using hlate
  subst hm hd
  simp only [testPulseSample, hp, hl, Bool.not_true, decide_false, Bool.or_self, Bool.false_eq_true, if_false]

end

/-! ### Overloads and their latches (R404) -/

section
variable {c : Chip} {n : Nat}

section
variable {run : Nat} {hot : Bool} (hon : fioOn c = true) (hover : hot = true ∨ limitTime c n ≤ run)
include hon hover

theorem overload_judged : (!fioOn c || !(hot || decide (limitTime c n ≤ run))) = false := by
  rcases hover with h | h <;> simp only [hon, h, decide_true, Bool.true_or, Bool.or_true, Bool.not_true, Bool.or_self]

theorem outputOverload_switch (hn : n < 32) (hc : conducts c n = true) : outputOverload c n run hot = latchFault c n := by
  simp only [outputOverload, overload_judged hon hover, hn, hc, Bool.false_eq_true, if_false, if_true]

/-- The overload of a group switch that is closed latches the switch and both members. -/
theorem outputOverload_group (hn : 32 ≤ n) (hg : groupOn c (n - 32) = true) :
    outputOverload c n run hot = latchFault (latchFault
      (onFio c fun x => { x with gfault := x.gfault ||| ((1 : BitVec 4) <<< (n - 32)) }) (24 + 2 * (n - 32))) (25 + 2 * (n - 32)) := by
  simp only [outputOverload, overload_judged hon hover, Nat.not_lt.mpr hn, hg, Bool.false_eq_true, if_false, if_true]

end

/-- Whether the voted command of output k has been off for 1 ms. -/
def commandOff (c : Chip) (k : Nat) : Bool := !c.fio.eff.getLsbD k && decide (mapGet 0 c.fio.changed k + 1000 ≤ c.core.tick)

theorem faultClear_switch (hn : n < 32) (ho : commandOff c n = true) :
    faultClear c n = onFio c fun x => { x with fault := x.fault &&& ~~~((1 : BitVec 32) <<< n) } := by
  simp only [commandOff, Bool.and_eq_true, Bool.not_eq_true', decide_eq_true_eq] at ho
  obtain ⟨he, ht⟩ := ho
  simp only [faultClear, Nat.not_le.mpr hn, he, Nat.not_lt.mpr ht, decide_false, Bool.or_self, Bool.false_eq_true, if_false]

theorem faultClear_group (hn : 32 ≤ n) (h0 : commandOff c (24 + 2 * (n - 32)) = true) (h1 : commandOff c (25 + 2 * (n - 32)) = true) :
    faultClear c n = onFio c fun x => { x with gfault := x.gfault &&& ~~~((1 : BitVec 4) <<< (n - 32)) } := by
  simp only [commandOff] at h0 h1
  simp only [faultClear, hn, h0, h1, Bool.and_self, if_true]

end

/-! ### Readback and open loads (R405) -/

/-- Bit n of a word of output states set to b. -/
def setOutBit (w : BitVec 32) (n : Nat) (b : Bool) : BitVec 32 :=
  if b then w ||| ((1 : BitVec 32) <<< n) else w &&& ~~~((1 : BitVec 32) <<< n)

theorem setOutBit_getLsbD (w : BitVec 32) {n : Nat} (b : Bool) (hn : n < 32) : (setOutBit w n b).getLsbD n = b := by
  cases b <;> simp [setOutBit, hn]

/-- A path with its readback of output n judged against the voted command, once the delay has passed. -/
def judgedPath (c : Chip) (n : Nat) (p : FPath) (b : Bool) : FPath :=
  { p with
    rb := setOutBit p.rb n b
    rberr := if b = c.fio.eff.getLsbD n then setOutBit p.rberr n false
      else if mapGet 0 c.fio.changed n + rbDelay c n ≤ c.core.tick then setOutBit p.rberr n true else p.rberr }

/-- The module with every path's readback of output n judged. -/
def judgedReadback (c : Chip) (n : Nat) (rb : Tri Bool) : Chip :=
  onFio c fun x =>
    { x with paths := ⟨judgedPath c n x.paths.a rb.a, judgedPath c n x.paths.b rb.b, judgedPath c n x.paths.c rb.c⟩ }

/-- Whether the paths' majority finds the readback of output n wrong. -/
def readbackWrong (c : Chip) (n : Nat) : Bool :=
  (maj3 c.fio.paths.a.rberr c.fio.paths.b.rberr c.fio.paths.c.rberr).getLsbD n

section
variable {c : Chip} {n : Nat} {rb : Tri Bool}

theorem judgedPath_rb {p : FPath} {b : Bool} (hn : n < 32) : (judgedPath c n p b).rb.getLsbD n = b :=
  setOutBit_getLsbD p.rb b hn

theorem judgedPath_rberr {p : FPath} {b : Bool} (hn : n < 32) :
    (judgedPath c n p b).rberr.getLsbD n = if b = c.fio.eff.getLsbD n then false
      else if mapGet 0 c.fio.changed n + rbDelay c n ≤ c.core.tick then true else p.rberr.getLsbD n := by
  simp only [judgedPath]
  split
  · exact setOutBit_getLsbD _ _ hn
  split
  · exact setOutBit_getLsbD _ _ hn
  · rfl

theorem judgedReadback_path (v : Vat) :
    (judgedReadback c n rb).fio.paths.get v = judgedPath c n (c.fio.paths.get v) (rb.get v) := by
  cases v <;> rfl

/-- A majority that newly finds the readback wrong is counted and raised. -/
theorem readbackCheck_judges (hon : fioOn c = true) :
    readbackCheck c n rb = if readbackWrong (judgedReadback c n rb) n && !readbackWrong c n then
      raise (bump (judgedReadback c n rb) Reg.dioCnt.addr 21 11) (64 + n) 2 else judgedReadback c n rb := by
  simp only [readbackCheck, hon, Bool.not_true, Bool.false_eq_true, if_false]
  rfl

theorem openDetect_above {run : Nat} :
    openDetect c n false run = onFio c fun x => { x with openD := x.openD &&& ~~~((1 : BitVec 32) <<< n) } := by
  simp only [openDetect, Bool.false_and, Bool.false_eq_true, if_false]

/-- An output that conducts with its current below 10 mA for 10 ms is OPEN, which is raised once. -/
theorem openDetect_open {run : Nat} {d : Chip} (hc : conducts c n = true) (hr : 10000 ≤ run)
    (hd : d = onFio c fun x => { x with openD := x.openD ||| ((1 : BitVec 32) <<< n) }) :
    openDetect c n true run = if c.fio.openD.getLsbD n then d else raise d (64 + n) 3 := by
  subst hd
  cases hw : c.fio.openD.getLsbD n <;>
    simp only [openDetect, hc, hr, hw, decide_true, Bool.and_self, Bool.not_true, Bool.not_false, Bool.and_false,
      Bool.false_eq_true, if_false, if_true]

end

/-! ### Field supplies and stage tests (R399, R408, R520) -/

/-- A field supply that enters or leaves its range raises its source. -/
theorem fieldSupply_measured {c d : Chip} {f volt curr : Nat} (hon : supplyOn c = true)
    (hd : d = onFio c fun x =>
      { x with
        fsVolt := mapPut 0 x.fsVolt f (volt % 65536)
        fsCurr := mapPut 0 x.fsCurr f (curr % 65536)
        fsok := if 1680 ≤ volt && volt ≤ 3600 then x.fsok ||| ((1 : BitVec 4) <<< f) else x.fsok &&& ~~~((1 : BitVec 4) <<< f) }) :
    fieldSupply c f volt curr = if (decide (1680 ≤ volt) && decide (volt ≤ 3600)) = c.fio.fsok.getLsbD f then d
      else raise d (104 + f) (b2n (1680 ≤ volt && volt ≤ 3600)) := by
  subst hd
  simp only [fieldSupply, hon, Bool.not_true, Bool.false_eq_true, if_false]

section
variable {c : Chip} {bad : BitVec 36}

/-- Each voter found wrong raises its source and leaves a record. -/
def reportVoters (c : Chip) (bad : BitVec 36) : Chip :=
  (List.range 36).foldl (fun c n => if bad.getLsbD n then deviceRecord (raise c 108 n) 0x0C 0x01 n else c) c

theorem stageTest_standby (hm : c.sys.mode = .standby) (ho : outEnable c = false) :
    stageTest c bad = reportVoters (countTest (onFio c fun x => { x with stageBad := bad }) (bad = 0)) bad := by
  simp only [stageTest, hm, ho, decide_true, Bool.not_true, Bool.not_false, Bool.and_self, Bool.false_and, Bool.false_eq_true,
    if_false, if_true, reportVoters]

/-- In the test VOTER the outcome is the test's. -/
theorem stageTest_voter (hm : c.sys.mode ≠ .standby) (hv : voterRuns c = true) :
    stageTest c bad = reportVoters
      { onFio c (fun x => { x with stageBad := bad }) with tst := { c.tst with votes := some (decide (bad = 0)) } } bad := by
  simp only [stageTest, hm, hv, decide_false, Bool.not_true, Bool.false_and, Bool.and_false, Bool.false_eq_true, if_false,
    reportVoters]
  rfl

end

/-! ### The commands -/

section
variable {s : State}

theorem exec_testPulse (t : Fin 8) : exec (.testPulse t) s = .next (s.afterAll (testPulse s.chip t.val)) := rfl
theorem exec_testPulseCurrentLimit (t : Fin 8) (run : Nat) :
    exec (.testPulseCurrentLimit ⟨t, run⟩) s = .next (s.afterAll (testPulseLimit s.chip t.val run)) := rfl
theorem exec_testPulseSample (t : Fin 8) (raw : Tri (BitVec 64)) (rbOk : Bool) :
    exec (.testPulseSample t raw rbOk) s = .next (s.afterAll (testPulseSample s.chip t.val raw rbOk)) := rfl
theorem exec_outputOverload (n : Fin 36) (run : Nat) (hot : Bool) :
    exec (.outputOverload ⟨n, run, hot⟩) s = .next (s.afterAll (outputOverload s.chip n.val run hot)) := rfl
theorem exec_faultClear (n : Fin 36) : exec (.faultClear n) s = .next (s.afterAll (faultClear s.chip n.val)) := rfl
theorem exec_readbackCheck (n : Fin 32) (rb : Tri Bool) :
    exec (.readbackCheck n rb) s = .next (s.afterAll (readbackCheck s.chip n.val rb)) := rfl
theorem exec_openDetect (n : Fin 32) (low : Bool) (run : Nat) :
    exec (.openDetect n ⟨low, run⟩) s = .next (s.afterAll (openDetect s.chip n.val low run)) := rfl
theorem exec_fieldSupplyChange (f : Fin 4) (volt curr : Nat) :
    exec (.fieldSupplyChange f volt curr) s = .next (s.afterAll (fieldSupply s.chip f.val volt curr)) := rfl
theorem exec_outputStageTest (bad : BitVec 36) :
    exec (.outputStageTest bad) s = .next (s.afterAll (stageTest s.chip bad)) := rfl

end

/-- Settles O56: each command by the lemma on its function; readback by what `judgedReadback` leaves on every path. -/
theorem fieldChecksComplete : Obligations.FieldChecksComplete := by
  refine fun s => ⟨fun t w per ms hw hper hms hon => ⟨?pulse, ?limit⟩, fun hon => ⟨fun n run hot g hg hover => ⟨?switch, ?group⟩, ?readback⟩,
    ?supply, ?sample, fun n g off hg hoff => ⟨?clearSwitch, ?clearGroup⟩, fun n run => ⟨?above, ?opens⟩, ?standby, ?voter⟩
  case pulse =>
    exact fun hen h0 hph hf hp => (exec_testPulse t).trans
      (next_afterAll (testPulse_begins hw hper hms hon hen h0 hph hf hp))
  case limit => exact fun run hr => (exec_testPulseCurrentLimit t run).trans (next_afterAll (testPulseLimit_fails hon hr))
  case switch =>
    exact fun hn hc => (exec_outputOverload n run hot).trans (next_afterAll (outputOverload_switch hon hover hn hc))
  case group =>
    subst hg
    exact fun hn hc => (exec_outputOverload n run hot).trans (next_afterAll (outputOverload_group hon hover hn hc))
  case readback =>
    exact fun n rb => ⟨judgedReadback s.chip n.val rb, _,
      (exec_readbackCheck n rb).trans (next_afterAll (readbackCheck_judges hon)), rfl, fun v => by
        rw [judgedReadback_path]
        exact ⟨judgedPath_rb n.isLt, judgedPath_rberr n.isLt⟩⟩
  case supply =>
    exact fun hon f volt curr c hc => (exec_fieldSupplyChange f volt curr).trans (next_afterAll (fieldSupply_measured hon hc))
  case sample =>
    exact fun t raw rbOk e m c he hin hl hm hc => (exec_testPulseSample t raw rbOk).trans
      (next_afterAll (testPulseSample_judges he hin hl hm hc))
  case clearSwitch =>
    subst hoff
    exact fun hn ho => (exec_faultClear n).trans (next_afterAll (faultClear_switch hn ho))
  case clearGroup =>
    subst hg hoff
    exact fun hn h0 h1 => (exec_faultClear n).trans (next_afterAll (faultClear_group hn h0 h1))
  case above => exact (exec_openDetect n false run).trans (next_afterAll openDetect_above)
  case opens =>
    exact fun c hc hr hd => (exec_openDetect n true run).trans (next_afterAll (openDetect_open hc hr hd))
  case standby => exact fun bad hm ho => (exec_outputStageTest bad).trans (next_afterAll (stageTest_standby hm ho))
  case voter => exact fun bad hm hv => (exec_outputStageTest bad).trans (next_afterAll (stageTest_voter hm hv))

end Sys2Proof.Machine
end

section
/-! Speed inputs by what each comparator path sees, analog channels by what a conversion leaves, OUTERR and the cold junctions
(R411 to R433). -/

namespace Sys2Proof.Machine

/-- What may follow a change without touching the units. -/
theorem UnitsKept.maybe {c d e : Chip} {p : Prop} [Decidable p] (hd : UnitsKept c d) (he : UnitsKept d e) :
    UnitsKept c (if p then e else d) := by
  split
  · exact hd.trans he
  · exact hd

/-! ### Speed inputs (R409 to R411) -/

section
variable {c d : Chip} {n : Nat}

/-- The three paths changed one after the other, each by its own function, which the module's words alone may shape. -/
theorem foldl_paths {f : Chip → Vat → Chip} {g : Vat → FPath → FPath}
    (hf : ∀ d u, d.regs = c.regs → (f d u).regs = c.regs ∧ (f d u).fio.paths = d.fio.paths.upd u (g u)) (v : Vat) :
    (allVats.foldl f c).fio.paths.get v = g v (c.fio.paths.get v) := by
  obtain ⟨hr, ha⟩ := hf c .a rfl
  obtain ⟨hr, hb⟩ := hf _ .b hr
  obtain ⟨hr, hc⟩ := hf _ .c hr
  have hall : (allVats.foldl f c).fio.paths = ((c.fio.paths.upd .a (g .a)).upd .b (g .b)).upd .c (g .c) := by
    rw [← ha, ← hb, ← hc]
    rfl
  rw [hall]
  cases v <;> rfl

/-- A change of path u that `g` describes, or none. -/
theorem onPath_step {u : Vat} {g : FPath → FPath} (hr : d.regs = c.regs) :
    (onPath d u g).regs = c.regs ∧ (onPath d u g).fio.paths = d.fio.paths.upd u g := ⟨hr, rfl⟩

theorem upd_id (t : Tri FPath) (u : Vat) : t.upd u (fun p => p) = t := by
  cases u <;> rfl

/-- What an edge does to a path is a matter of the module's words. -/
theorem pathEdge_congr (h : d.regs = c.regs) (rising both : Bool) (t : Nat) :
    pathEdge d n rising both t = pathEdge c n rising both t := by
  have hw : pathEdge d n rising both t = pathEdge { c with regs := d.regs } n rising both t := rfl
  rw [hw, h]

/-- A path after an edge that it took at a time, or has not seen. -/
def edgeSeen (c : Chip) (n : Nat) (rising both : Bool) : Option Nat → FPath → FPath
  | some t => pathEdge c n rising both t
  | none => fun p => p

/-- An edge that has stood for the glitch filter advances the paths that see it (R411, R417). -/
theorem speedEdge_paths {rising both : Bool} {t : Tri (Option Nat)} {held : Nat} (hon : fioOn c = true)
    (hen : bit (spdCfg c n) 31 = true) (hh : 100 * spdFilt c n ≤ held) (v : Vat) :
    (speedEdge c n rising both t held).fio.paths.get v = edgeSeen c n rising both (t.get v) (c.fio.paths.get v) := by
  rw [← foldl_paths (c := c) (g := fun u => edgeSeen c n rising both (t.get u))
    (f := fun d u => match t.get u with | some tv => onPath d u (pathEdge d n rising both tv) | none => d)]
  case hf =>
    intro d u hr
    cases t.get u with
    | none => exact ⟨hr, (upd_id _ _).symm⟩
    | some x =>
      simp only [edgeSeen, pathEdge_congr hr]
      exact onPath_step hr
  simp only [speedEdge, hon, hen, Nat.not_lt.mpr hh, Bool.not_true, decide_false, Bool.or_self, Bool.false_eq_true, if_false]
  refine congrArg (fun x : Fio => x.paths.get v) (UnitsKept.fio ?_)
  exact ((((UnitsKept.refl _).maybe (bump_kept _ _ _ _)).maybe (bump_kept _ _ _ _)).maybe (arrive_kept _ _ _ _ _)).maybe
    (arrive_kept _ _ _ _ _)

/-- Whether Vat v's path of input n has had no edge for STILLT, within 1 ms, and does not stand STILL yet. -/
def standsStill (c : Chip) (n : Nat) (v : Vat) : Bool :=
  decide (((c.fio.paths.get v).spdOf n).state ≠ 0) &&
    decide (((c.fio.paths.get v).spdOf n).tl + (bits (spdCfg c n) 15 0 - 1) * 1000000 ≤ (plane c v).time)

/-- A path of input n put into STILL where `b` says so. -/
def stillIf (n : Nat) (b : Bool) (p : FPath) : FPath := if b then p.putSpd n { p.spdOf n with state := 0 } else p

theorem stillTimeout_paths (v : Vat) :
    (stillTimeout c n).fio.paths.get v = stillIf n (standsStill c n v) (c.fio.paths.get v) := by
  have hseen (u : Vat) : (⟨standsStill c n .a, standsStill c n .b, standsStill c n .c⟩ : Tri Bool).get u = standsStill c n u := by
    cases u <;> rfl
  have hfold := foldl_paths (c := c) (g := fun u => stillIf n (standsStill c n u))
    (f := fun d u => if standsStill c n u then onPath d u fun p => p.putSpd n { p.spdOf n with state := 0 } else d)
    (fun d u hr => by
      cases hs : standsStill c n u with
      | true => exact onPath_step hr
      | false => exact ⟨hr, (upd_id _ _).symm⟩) v
  by_cases hany : (standsStill c n .a || standsStill c n .b || standsStill c n .c) = true
  · rw [← hfold]
    simp only [standsStill] at hany hseen ⊢
    simp only [stillTimeout, hany, if_true, hseen]
    exact congrArg (fun x : Fio => x.paths.get v) (arrive_kept _ _ _ _ _).fio
  · have hv : standsStill c n v = false := by
      simp only [Bool.or_eq_true, not_or, Bool.not_eq_true] at hany
      obtain ⟨⟨ha, hb⟩, hc⟩ := hany
      cases v <;> assumption
    rw [hv]
    simp only [standsStill] at hany
    simp only [stillTimeout, hany]
    rfl

/-- A path with BREAK and SHORT of input n as found; a fault holds its input or pair b in STILL. -/
def sensorSeen (c : Chip) (n b : Nat) (brk short : Bool) (p : FPath) : FPath :=
  let m : BitVec 8 := (1 : BitVec 8) <<< n
  let q := { p with spdBrk := if brk then p.spdBrk ||| m else p.spdBrk &&& ~~~m
                    spdShort := if short then p.spdShort ||| m else p.spdShort &&& ~~~m }
  if q.faulty c b then q.putSpd b { q.spdOf b with state := 0 } else q

theorem sensorSeen_congr (h : d.regs = c.regs) (b : Nat) (brk short : Bool) :
    sensorSeen d n b brk short = sensorSeen c n b brk short := by
  have hw : sensorSeen d n b brk short = sensorSeen { c with regs := d.regs } n b brk short := rfl
  rw [hw, h]

/-- A sensor's faults are reported to every path once they have held for 1 ms, or are gone (R409). -/
theorem sensorFault_paths {brk short : Tri Bool} {run : Nat} (hon : fioOn c = true) (hen : bit (spdCfg c n) 31 = true)
    (hty : bit (spdCfg c n) 30 = false) (hrun : 1000 ≤ run ∨ ∀ v, brk.get v = false ∧ short.get v = false) (v : Vat) :
    (sensorFault c n brk short run).fio.paths.get v =
      sensorSeen c n (spdBase c n) (brk.get v) (short.get v) (c.fio.paths.get v) := by
  have hheld : ((brk.a || brk.b || brk.c || short.a || short.b || short.c) && decide (run < 1000)) = false := by
    rcases hrun with h | h
    · simp only [Nat.not_lt.mpr h, decide_false, Bool.and_false]
    · obtain ⟨ha, ha'⟩ := h .a
      obtain ⟨hb, hb'⟩ := h .b
      obtain ⟨hc, hc'⟩ := h .c
      simp only [Tri.get] at ha ha' hb hb' hc hc'
      simp only [ha, ha', hb, hb', hc, hc', Bool.or_self, Bool.false_and]
  rw [← foldl_paths (c := c) (g := fun u => sensorSeen c n (spdBase c n) (brk.get u) (short.get u))
    (f := fun d u => onPath d u (sensorSeen d n (spdBase c n) (brk.get u) (short.get u)))]
  case hf =>
    intro d u hr
    simp only [sensorSeen_congr hr]
    exact onPath_step hr
  simp only [sensorFault, hon, hen, hty, hheld, Bool.not_true, Bool.or_self, Bool.false_eq_true, if_false]
  refine congrArg (fun x : Fio => x.paths.get v) (UnitsKept.fio ?_)
  exact ((UnitsKept.refl _).maybe (arrive_kept _ _ _ _ _)).maybe (arrive_kept _ _ _ _ _)

end

/-! ### Conversions (R424 to R426, R431 to R433) -/

/-- A channel changed that does not end as one that is off. -/
theorem alpOf_onAlp {c : Chip} {n : Nat} {f : AlpCh → AlpCh} (h : f (alpOf c n) ≠ AlpCh.zero) : alpOf (onAlp c n f) n = f (alpOf c n) := by
  simp only [alpOf] at h
  simp only [alpOf, onAlp, onFio, mapMod, mapPut, h, if_false]
  exact mapGet_insert_self

theorem alpOf_of_kept {c d : Chip} {n : Nat} (h : UnitsKept c d) : alpOf d n = alpOf c n := by
  simp only [alpOf, h.fio]

/-- Whether a change of the channel is still settling. -/
def settling (x : AlpCh) : Bool := x.settle.any fun e => 0 < e.1

/-- BREAK's condition on a conversion: below 0.5 mA on an input loop that is not the channel's own, or what the front end found. -/
def breakSeen (w : Word) (own : Bool) (x : Int) (opened : Bool) : Bool :=
  if isLoop w then isLoop w && !own && 2 ≤ alpKind w && x < 500000 else opened && 4 ≤ alpKind w

/-- What a conversion leaves of channel n: alarms are judged of loops alone, BREAK of every kind, and neither while a change settles nor
while the channel measures its own loop. -/
structure Converted (c : Chip) (n : Nat) (x : Int) (opened : Bool) (z : AlpCh) : Prop where
  damped : z.y = some (damped (alpCfg c n) (bit (alpXctl c) 0) (alpOf c n).y x)
  low : (z.lo, z.loRun) = if !settling (alpOf c n) && !decide ((alpOf c n).row = 2) && isLoop (alpCfg c n) then
    alarmStep (alpOf c n).lo (x ≤ 3600000) (alpOf c n).loRun else ((alpOf c n).lo && isLoop (alpCfg c n), 0)
  high : (z.hi, z.hiRun) = if !settling (alpOf c n) && !decide ((alpOf c n).row = 2) && isLoop (alpCfg c n) then
    alarmStep (alpOf c n).hi (21000000 ≤ x) (alpOf c n).hiRun else ((alpOf c n).hi && isLoop (alpCfg c n), 0)
  broken : (z.brk, z.brkRun) = if !settling (alpOf c n) && !decide ((alpOf c n).row = 2) then
    alarmStep (alpOf c n).brk (breakSeen (alpCfg c n) ((alpOf c n).row = 2) x opened) (alpOf c n).brkRun else ((alpOf c n).brk, 0)
  last : settling (alpOf c n) = true ∨ z.brk = true → z.last = (alpOf c n).last
  settle : z.settle = if settling (alpOf c n) then (alpOf c n).settle.map fun e => (e.1 - 1, e.2) else []

/-- A result that settles or is broken is not valid. -/
theorem not_valid {a b : Bool} (h : a = true ∨ b = true) : ¬ (!a && !b) = true := by
  rcases h with rfl | rfl
  · exact Bool.false_ne_true
  · rw [Bool.not_true, Bool.and_false]
    exact Bool.false_ne_true

theorem conversionEnd_converted {c : Chip} {n : Nat} {x : Int} {opened : Bool} (hrow : (alpOf c n).row ≠ 0) :
    Converted c n x opened (alpOf (conversionEnd c n x opened) n) := by
  simp only [conversionEnd, hrow, if_false]
  rw [alpOf_of_kept (((UnitsKept.refl _).maybe (raise_kept _ _ _)).maybe (raise_kept _ _ _)),
    alpOf_onAlp (fun h => Option.some_ne_none _ (congrArg AlpCh.y h))]
  exact ⟨rfl, rfl, rfl, rfl, fun h => if_neg (not_valid h), rfl⟩

theorem settling_iff (x : AlpCh) : settling x = true ↔ ∃ e ∈ x.settle, 0 < e.1 := by
  simp only [settling, List.any_eq_true, decide_eq_true_eq]

namespace Converted

variable {c : Chip} {n : Nat} {x : Int} {opened : Bool} {z : AlpCh} (h : Converted c n x opened z)
include h

/-- While a change settles no alarm is judged, and no result is valid. -/
theorem of_settling (hs : settling (alpOf c n) = true) :
    z.lo = ((alpOf c n).lo && isLoop (alpCfg c n)) ∧ z.hi = ((alpOf c n).hi && isLoop (alpCfg c n)) ∧ z.brk = (alpOf c n).brk ∧
      z.last = (alpOf c n).last ∧ z.settle = (alpOf c n).settle.map fun e => (e.1 - 1, e.2) := by
  obtain ⟨-, hlo, hhi, hbrk, hlast, hset⟩ := h
  simp only [hs, Bool.not_true, Bool.false_and, Bool.false_eq_true, if_false, if_true, Prod.mk.injEq] at hlo hhi hbrk hset
  exact ⟨hlo.1, hhi.1, hbrk.1, hlast (.inl hs), hset⟩

variable (hs : settling (alpOf c n) = false)
include hs

theorem settle_nil : z.settle = [] := by
  rw [h.settle, hs]
  rfl

variable (hrow : (alpOf c n).row ≠ 2)
include hrow

theorem of_loop (hl : isLoop (alpCfg c n) = true) :
    (z.lo, z.loRun) = alarmStep (alpOf c n).lo (x ≤ 3600000) (alpOf c n).loRun ∧
      (z.hi, z.hiRun) = alarmStep (alpOf c n).hi (21000000 ≤ x) (alpOf c n).hiRun ∧
      (z.brk, z.brkRun) = alarmStep (alpOf c n).brk (2 ≤ alpKind (alpCfg c n) && x < 500000) (alpOf c n).brkRun := by
  obtain ⟨-, hlo, hhi, hbrk, -, -⟩ := h
  simp only [hs, hrow, hl, breakSeen, decide_false, Bool.not_false, Bool.and_self, Bool.true_and, if_true] at hlo hhi hbrk
  exact ⟨hlo, hhi, hbrk⟩

theorem of_universal (hl : isLoop (alpCfg c n) = false) :
    (z.brk, z.brkRun) = alarmStep (alpOf c n).brk (opened && 4 ≤ alpKind (alpCfg c n)) (alpOf c n).brkRun := by
  have hbrk := h.broken
  simp only [hs, hrow, hl, breakSeen, decide_false, Bool.not_false, Bool.and_self, Bool.false_eq_true, if_false, if_true] at hbrk
  exact hbrk

end Converted

/-! ### OUTERR and the cold junctions (R432, R436) -/

section
variable {c : Chip} {n t : Nat}

theorem outerrTimer_ends (ho : (alpOf c n).outerr = true) (hf : (alpOf c n).okFrom = some t)
    (ht : t + bits (alpXctl c) 15 8 * 1000 ≤ c.core.tick) :
    outerrTimer c n = onAlp c n fun x => { x with outerr := false } := by
  simp only [outerrTimer, ho, hf, ht, decide_true, if_true]

/-- A readback outside its threshold for the time is counted and raised, with the setpoint driven. -/
theorem outerrTimer_begins (ho : (alpOf c n).outerr = false) (hf : (alpOf c n).errFrom = some t)
    (ht : t + bits (alpXctl c) 15 8 * 1000 ≤ c.core.tick) :
    outerrTimer c n = raise (bump (onAlp c n fun x => { x with outerr := true }) Reg.alpCnt.addr 15 0) (416 + n)
      (unsigned 32 ((alpOf c n).setpoint.getD 0)) := by
  simp only [outerrTimer, ho, hf, ht, decide_true, Bool.false_eq_true, if_false, if_true]

end

theorem coldJunction_changes {c d : Chip} {j : Nat} {sound : Bool} {temp : Int} (hd : d = onFio c fun x =>
      { x with
        cjok := if sound then x.cjok ||| ((1 : BitVec 4) <<< j) else x.cjok &&& ~~~((1 : BitVec 4) <<< j)
        cjTemp := mapPut 0 x.cjTemp j temp }) :
    coldJunction c j sound temp = if c.fio.cjok.getLsbD j = sound then d else raise d (480 + j) (b2n sound) := by
  subst hd
  rfl

/-! ### The commands -/

section
variable {s : State}

theorem exec_speedEdge (n : Fin 8) (rising both : Bool) (t : Tri (Option Nat)) (held : Nat) :
    exec (.speedEdge n rising both ⟨t, held⟩) s = .next (s.afterAll (speedEdge s.chip n.val rising both t held)) := rfl
theorem exec_stillTimeout (n : Fin 8) : exec (.stillTimeout n) s = .next (s.afterAll (stillTimeout s.chip n.val)) := rfl
theorem exec_speedSensorFault (n : Fin 8) (brk short : Tri Bool) (run : Nat) :
    exec (.speedSensorFault n brk ⟨short, run⟩) s = .next (s.afterAll (sensorFault s.chip n.val brk short run)) := rfl
theorem exec_conversionEnd (n : Fin 32) (x : BitVec 32) (opened : Bool) :
    exec (.conversionEnd n x opened) s = .next (s.afterAll (conversionEnd s.chip n.val x.toInt opened)) := rfl
theorem exec_outerrTimer (n : Fin 32) : exec (.outerrTimer n) s = .next (s.afterAll (outerrTimer s.chip n.val)) := rfl
theorem exec_coldJunctionChange (j : Fin 4) (sound : Bool) (temp : Int) :
    exec (.coldJunctionChange j sound temp) s = .next (s.afterAll (coldJunction s.chip j.val sound temp)) := rfl

end

/-- Settles O57: speed inputs by what each path is left with, a conversion by `conversionEnd_converted`. -/
theorem speedAndAnalogComplete : Obligations.SpeedAndAnalogComplete := by
  refine fun s => ⟨?edge, ?still, ?sensor, ?conversion, fun n t => ⟨?ends, ?begins⟩, ?junction⟩
  case edge =>
    exact fun n rising both t held hon hen hh => ⟨_, exec_speedEdge n rising both t held, fun v => by
      rw [speedEdge_paths hon hen hh]
      cases t.get v <;> rfl⟩
  case still =>
    exact fun n => ⟨_, exec_stillTimeout n, fun v => by
      rw [stillTimeout_paths]
      simp only [stillIf, standsStill, Bool.and_eq_true, decide_eq_true_eq]⟩
  case sensor =>
    intro n brk short run hon hen hty hrun
    refine ⟨_, exec_speedSensorFault n brk short run, fun v p b m hb hm hp => ?_⟩
    subst hb hm hp
    exact sensorFault_paths hon hen hty hrun v
  case conversion =>
    intro n x opened ch w notch hch hrow hw hnotch
    subst hch hw hnotch
    have hz := conversionEnd_converted (x := x.toInt) (opened := opened) hrow
    refine ⟨_, exec_conversionEnd n x opened, hz.damped, fun hs => hz.of_settling ((settling_iff _).mpr hs), fun hs => ?_⟩
    have hs' : settling (alpOf s.chip n.val) = false := Bool.eq_false_iff.mpr fun h => by
      obtain ⟨e, he, hpos⟩ := (settling_iff _).mp h
      exact absurd (hs e he) hpos.ne'
    exact ⟨hz.settle_nil hs', hz.of_loop hs', hz.of_universal hs', fun hb => hz.last (.inr hb)⟩
  case ends => exact fun ho hf ht => (exec_outerrTimer n).trans (next_afterAll (outerrTimer_ends ho hf ht))
  case begins => exact fun ho hf ht => (exec_outerrTimer n).trans (next_afterAll (outerrTimer_begins ho hf ht))
  case junction =>
    exact fun j sound temp c hc => (exec_coldJunctionChange j sound temp).trans (next_afterAll (coldJunction_changes hc))

end Sys2Proof.Machine
end

section
/-! Rind's judgements: its cycle, the evaluation of its inputs, its tests and diagnostics, the end of START, and its status frame
(R439 to R462, R470, R471). -/

namespace Sys2Proof.Machine

/-! ### The comparison of the speeds (R443, R447) -/

/-- The clock value from which the enabled speeds have differed too much. -/
def diffSince (c : Chip) (t : Nat) : Option Nat := if speedsDiffer c t then some (c.rind.diffAt.getD t) else none

/-- Whether they have for the time that the accepted set allows. -/
def diffHeld (c : Chip) (t : Nat) : Option Nat → Bool
  | some x => decide (bits (rindPar c 9) 23 16 * 10000000 ≤ t - x)
  | none => false

theorem diffHeld_eq_any (c : Chip) (t : Nat) (o : Option Nat) :
    diffHeld c t o = o.any fun x => decide (bits (rindPar c 9) 23 16 * 10000000 ≤ t - x) := by
  cases o with
  | none => rfl
  | some x => rw [diffHeld, Option.any_some]

/-- Rind after its cycle has compared the speeds. -/
def speedsCompared (c : Chip) (t : Nat) : Chip :=
  onRind c fun r => { r with diffAt := diffSince c t, diff := diffHeld c t (diffSince c t) }

/-- Rind after its cycle has sampled the speed channels and FS1. -/
def cycleSampled (c : Chip) (t : Nat) (bad : BitVec 2) (fsLow : Bool) : Chip :=
  onRind c fun r =>
    { r with
      clk := t, fsLow := fsLow
      spd0 := { r.spd0 with bad := bad.getLsbD 0 }, spd1 := { r.spd1 with bad := bad.getLsbD 1 } }

/-- What the cycle of a running Rind judges. -/
theorem rindCycle_on {c e : Chip} {t : Nat} {bad : BitVec 2} {fsLow : Bool} (hon : c.rind.on = true)
    (he : e = speedsCompared (cycleSampled c t bad fsLow) t) :
    rindCycle c t bad fsLow = rindJudge (decelCheck e (rindV e t)).1 (lockedPresent c)
      (rindDemands (decelCheck e (rindV e t)).1) (decelCheck e (rindV e t)).2 := by
  subst he
  exact if_neg (by rw [hon]; exact Bool.false_ne_true)

section
variable {c : Chip} (hon : c.rind.on = true)
include hon

/-! ### The cycle and the inputs (R441 to R450) -/

/-- The cycle's judgement: the difference of the speeds and how long it has stood, the deceleration check, then the demands. -/
theorem rindCycle_judges {t : Nat} {bad : BitVec 2} {fsLow : Bool} {d e g : Chip} {at_ : Option Nat} {more : List Cand}
    (hd : d = onRind c fun r =>
      { r with
        clk := t, fsLow := fsLow
        spd0 := { r.spd0 with bad := bad.getLsbD 0 }, spd1 := { r.spd1 with bad := bad.getLsbD 1 } })
    (hat : at_ = if speedsDiffer d t then some (d.rind.diffAt.getD t) else none)
    (he : e = onRind d fun r =>
      { r with diffAt := at_, diff := at_.any fun x => decide (bits (rindPar d 9) 23 16 * 10000000 ≤ t - x) })
    (hg : decelCheck e (rindV e t) = (g, more)) :
    rindCycle c t bad fsLow = rindJudge g (lockedPresent c) (rindDemands g) more := by
  have hcompared : e = speedsCompared (cycleSampled c t bad fsLow) t := by
    subst hd hat
    simp only [speedsCompared, diffHeld_eq_any]
    exact he
  rw [rindCycle_on hon hcompared, hg]

theorem safetyEval_judges {t : Nat} {si low : BitVec 8} {d : Chip} (hd : d = [0, 2, 4, 6].foldl (fun d i => judgePair d i t)
      ((List.range 8).foldl (fun d i => if low.getLsbD (bits (rindPsi d i) 26 24) then d else filterIn d i t (si.getLsbD i))
        (onRind c fun r => { r with clk := t }))) :
    safetyEval c t si low = rindJudge d (lockedPresent c) ((rindDemands d).filter fun x => x.1 = 2) := by
  subst hd
  simp only [safetyEval, hon, Bool.not_true, Bool.false_eq_true, if_false]

/-- A test pulse's sample judges the inputs of its line: two in a row that read 1 are a fault. -/
theorem tpSample_judges {k : Nat} {si : BitVec 8} {d : Chip} (hd : d = onRind c fun r => { r with tpSeen := mapPut 0 r.tpSeen k r.clk }) :
    tpSample c k si = rindJudge
      (((List.range 8).filter fun i => siEn d i && bits (rindPsi d i) 26 24 = k).foldl (fun d i => onIn d i fun x =>
        if si.getLsbD i then { x with badTp := x.badTp + 1, tpFail := decide (1 ≤ x.badTp) }
        else { x with badTp := 0, tpFail := false }) d) (lockedPresent c) [] := by
  subst hd
  simp only [tpSample, hon, Bool.not_true, Bool.false_eq_true, if_false]

/-- An edge after another gives the period between them. -/
theorem rindSpeedEdge_period {n : Fin 2} {t tl : Nat} (ht : (rindSpd c n.val).tl = some tl) :
    rindSpeedEdge c n.val t = onRind c fun r =>
      if n.val = 0 then { r with spd0 := { r.spd0 with p := t - tl, tl := some t } }
      else { r with spd1 := { r.spd1 with p := t - tl, tl := some t } } := by
  simp only [rindSpeedEdge, hon, ht, Bool.not_true, Bool.false_eq_true, if_false]
  match n with
  | 0 => rfl
  | 1 => rfl

/-! ### Tests and diagnostics (R444, R458, R459) -/

section
variable {diff : BitVec 2} {d : Chip} (hd : d = onRind c fun r => { r with teDiff := diff })
include hd

theorem teTest_passed (h : diff = 0) : teTest c diff = d := by
  subst hd
  simp only [teTest, hon, h, Bool.not_true, Bool.false_eq_true, if_false, if_true]

theorem teTest_failed (h : diff ≠ 0) : teTest c diff = rindFail d 12 := by
  subst hd
  simp only [teTest, hon, h, Bool.not_true, Bool.false_eq_true, if_false]

end

section
variable (hs : 7 ≤ c.sys.step)
include hs

/-- The reference is watched from step 7 on. -/
theorem reference_watched : (!c.rind.on || decide (c.sys.step < 7)) = false := by
  simp only [hon, Nat.not_lt.mpr hs, Bool.not_true, decide_false, Bool.or_self]

theorem oscWindow_good {count : Nat} (hlo : 15680 ≤ count) (hhi : count ≤ 16320) :
    oscWindow c count = onRind c fun r =>
      { r with oscGood := r.oscGood + 1, oscBad := 0, oscPassed := r.oscPassed || decide (2 ≤ r.oscGood),
               clockref := r.clockref && decide (r.oscGood < 9) } := by
  simp only [oscWindow, reference_watched hon hs, hlo, hhi, decide_true, Bool.and_self, Bool.false_eq_true, if_false, if_true]

theorem oscWindow_bad {count : Nat} {d : Chip} (hc : count < 15680 ∨ 16320 < count)
    (hd : d = onRind c fun r => { r with oscGood := 0, oscBad := r.oscBad + 1 }) :
    oscWindow c count = if 3 ≤ d.rind.oscBad then rindFail d 13 else d := by
  have hout : (decide (15680 ≤ count) && decide (count ≤ 16320)) = false := by
    rcases hc with h | h
    · simp only [Nat.not_le.mpr h, decide_false, Bool.false_and]
    · simp only [Nat.not_le.mpr h, decide_false, Bool.and_false]
  subst hd
  simp only [oscWindow, reference_watched hon hs, hout, Bool.false_eq_true, if_false]

theorem clockrefTimeout_judges : clockrefTimeout c =
    rindJudge (onRind c fun r => { r with clockref := true, oscGood := 0 }) (lockedPresent c) [] := by
  simp only [clockrefTimeout, reference_watched hon hs, Bool.false_eq_true, if_false]

end

section
variable {d : Nat}

theorem rindDiagnostic_internal (hd : d ≤ 4) : rindDiagnostic c d false = rindFail c 13 := by
  simp only [rindDiagnostic, hon, hd, Bool.not_true, Bool.or_self, Bool.false_eq_true, if_false, if_true]

theorem rindDiagnostic_te (hd : d = 8) : rindDiagnostic c d false = rindFail c 12 := by
  subst hd
  simp only [rindDiagnostic, hon, Bool.not_true, Bool.or_self, Bool.false_eq_true, if_false, if_true, Nat.reduceLeDiff]

theorem rindDiagnostic_supply (hd : d = 9) : rindDiagnostic c d false = rindFail c 14 := by
  subst hd
  simp only [rindDiagnostic, hon, Bool.not_true, Bool.or_self, Bool.false_eq_true, if_false, if_true, Nat.reduceLeDiff,
    Nat.reduceEqDiff]

end

/-! ### The end of START (R446, R454) -/

section
variable (h0 : c.rind.state = 0)
include h0

/-- START takes place while Rind is on and in state 0. -/
theorem start_runs : (!c.rind.on || decide (c.rind.state ≠ 0)) = false := by
  simp only [hon, h0, ne_eq, not_true_eq_false, Bool.not_true, decide_false, Bool.or_self]

/-- Checks that fail lead to FAILED with the least of the causes found in START. -/
theorem rindStartEnd_failed :
    rindStartEnd c false = rindEnter (rindFail c 13) (5, min 13 (c.rind.startCause.getD 13), 0xFF) := by
  have hk : (rindFail c 13).rind.startCause = some (min 13 (c.rind.startCause.getD 13)) := by
    simp only [rindFail, h0, if_true, onRind]
  simp only [rindStartEnd, start_runs hon h0, Bool.false_eq_true, if_false, hk]

theorem rindStartEnd_cause {k : Nat} (hk : c.rind.startCause = some k) : rindStartEnd c true = rindEnter c (5, k, 0xFF) := by
  simp only [rindStartEnd, start_runs hon h0, Bool.false_eq_true, if_false, if_true, hk]

section
variable (hk : c.rind.startCause = none) (hdem : rindDemands c = []) (hlock : lockedPresent c = [])
include hk hdem hlock

/-- With nothing found Rind enters RUN, where the set lets it start by itself. -/
theorem rindStartEnd_runs (hb : bit (rindPar c 0) 31 = false) :
    rindStartEnd c true = raise (onRind c fun r => { r with state := 2 }) 512 (2 + c.rind.cause * 256) := by
  simp only [rindStartEnd, start_runs hon h0, hk, hdem, hlock, hb, List.append_nil, List.isEmpty_nil, Bool.not_false, Bool.and_self,
    Bool.false_eq_true, if_false, if_true]

theorem rindStartEnd_waits (hb : bit (rindPar c 0) 31 = true) : rindStartEnd c true = rindEnter c (1, 16, 0xFF) := by
  simp only [rindStartEnd, start_runs hon h0, hk, hdem, hlock, hb, List.append_nil, List.map_nil, Bool.not_true, Bool.false_and,
    Bool.false_eq_true, if_false, if_true]
  rfl

end
end

/-! ### The status frame and RST (R470, R471) -/

theorem rindSend_sends : rindSend c = onRind c fun r => { r with sent := some (rindBytes c), sentAt := c.core.tick } := if_pos hon

theorem rstHigh_raises : rstHigh c = raise c 523 := if_pos hon

end

theorem rindSilent_late {c : Chip} (ht : c.rind.sentAt + 5000 ≤ c.core.tick) :
    rindSilent c = onRind c fun r => { r with sent := none } := if_neg (Nat.not_lt.mpr ht)

/-! ### The commands -/

section
variable {s : State}

theorem exec_rindCycle (t : Nat) (bad : BitVec 2) (fsLow : Bool) :
    exec (.rindCycle t bad fsLow) s = .next (s.afterAll (rindCycle s.chip t bad fsLow)) := rfl
theorem exec_safetyInputEval (t : Nat) (si low : BitVec 8) :
    exec (.safetyInputEval t si low) s = .next (s.afterAll (safetyEval s.chip t si low)) := rfl
theorem exec_rindTpSample (k : Fin 8) (si : BitVec 8) :
    exec (.rindTpSample k si) s = .next (s.afterAll (tpSample s.chip k.val si)) := rfl
theorem exec_rindSpeedEdge (n : Fin 2) (t : Nat) :
    exec (.rindSpeedEdge n t) s = .next (s.afterAll (rindSpeedEdge s.chip n.val t)) := rfl
theorem exec_teTest (diff : BitVec 2) : exec (.teTest diff) s = .next (s.afterAll (teTest s.chip diff)) := rfl
theorem exec_oscillatorWindow (count : Nat) :
    exec (.oscillatorWindow count) s = .next (s.afterAll (oscWindow s.chip count)) := rfl
theorem exec_clockrefTimeout : exec .clockrefTimeout s = .next (s.afterAll (clockrefTimeout s.chip)) := rfl
theorem exec_rindDiagnostic (d : Fin 10) (ok : Bool) :
    exec (.rindDiagnostic d ok) s = .next (s.afterAll (rindDiagnostic s.chip d.val ok)) := rfl
theorem exec_rindStartEnd (ok : Bool) : exec (.rindStartEnd ok) s = .next (s.afterAll (rindStartEnd s.chip ok)) := rfl
theorem exec_rindStatusSend : exec .rindStatusSend s = .next (s.afterAll (rindSend s.chip)) := rfl
theorem exec_rindStatusTimeout : exec .rindStatusTimeout s = .next (s.afterAll (rindSilent s.chip)) := rfl
theorem exec_rstHigh10s : exec .rstHigh10s s = .next (s.afterAll (rstHigh s.chip)) := rfl

end

/-- Settles O58: each command by the lemma on its function. -/
theorem rindJudgesComplete : Obligations.RindJudgesComplete := by
  refine fun s hon => ⟨?cycle, ?eval, ?sample, ?edge, fun diff c hc => ⟨?tePassed, ?teFailed⟩, fun hs => ⟨?oscGood, ?oscBad, ?absent⟩,
    fun d => ⟨?internal, ?te, ?supply⟩, fun h0 => ⟨?startFailed, ?startCause, ?runs, ?waits⟩, ?sends, ?silent, ?rst⟩
  case cycle =>
    exact fun t bad fsLow c d e g more hc hd he hg =>
      (exec_rindCycle t bad fsLow).trans (next_afterAll (rindCycle_judges hon hc hd he hg))
  case eval => exact fun t si low c hc => (exec_safetyInputEval t si low).trans (next_afterAll (safetyEval_judges hon hc))
  case sample => exact fun k si c hc => (exec_rindTpSample k si).trans (next_afterAll (tpSample_judges hon hc))
  case edge => exact fun n t tl ht => (exec_rindSpeedEdge n t).trans (next_afterAll (rindSpeedEdge_period hon ht))
  case tePassed => exact fun h => (exec_teTest diff).trans (next_afterAll (teTest_passed hon hc h))
  case teFailed => exact fun h => (exec_teTest diff).trans (next_afterAll (teTest_failed hon hc h))
  case oscGood =>
    exact fun count hlo hhi => (exec_oscillatorWindow count).trans (next_afterAll (oscWindow_good hon hs hlo hhi))
  case oscBad => exact fun count c h hc => (exec_oscillatorWindow count).trans (next_afterAll (oscWindow_bad hon hs h hc))
  case absent => exact exec_clockrefTimeout.trans (next_afterAll (clockrefTimeout_judges hon hs))
  case internal => exact fun hd => (exec_rindDiagnostic d false).trans (next_afterAll (rindDiagnostic_internal hon hd))
  case te => exact fun hd => (exec_rindDiagnostic d false).trans (next_afterAll (rindDiagnostic_te hon hd))
  case supply => exact fun hd => (exec_rindDiagnostic d false).trans (next_afterAll (rindDiagnostic_supply hon hd))
  case startFailed => exact (exec_rindStartEnd false).trans (next_afterAll (rindStartEnd_failed hon h0))
  case startCause => exact fun k hk => (exec_rindStartEnd true).trans (next_afterAll (rindStartEnd_cause hon h0 hk))
  case runs =>
    exact fun hk hb hdem hlock => (exec_rindStartEnd true).trans (next_afterAll (rindStartEnd_runs hon h0 hk hdem hlock hb))
  case waits =>
    exact fun hk hb hdem hlock => (exec_rindStartEnd true).trans (next_afterAll (rindStartEnd_waits hon h0 hk hdem hlock hb))
  case sends => exact exec_rindStatusSend.trans (next_afterAll (rindSend_sends hon))
  case silent => exact fun ht => exec_rindStatusTimeout.trans (next_afterAll (rindSilent_late ht))
  case rst => exact exec_rstHigh10s.trans (next_afterAll (rstHigh_raises hon))

end Sys2Proof.Machine
end

section
/-! Rind's reset pulses (`resetPulse_…`), RIND_CMD (`rindUnlock_…`, `rindAccept_…`, `rindSetpw_salts`, `rindLock_locks`, answered OK by
`writeCommand_rindCmd`), and the ends of an ACCEPT, an unlock and a block (R451 to R453, R463 to R469). -/

namespace Sys2Proof.Machine

/-! ### Reset pulses (R451 to R453, R465) -/

section
variable {c : Chip} {h : Nat}

/-- A pulse of a valid length is what RINDPROOF observes (R520). -/
theorem resetWithProof_valid (hlo : 100000 ≤ h) (hhi : h ≤ 3000000) : resetWithProof c (some h) = proofReset c (resetPulse c (some h)) := by
  simp only [resetWithProof, hlo, hhi, and_self, decide_true, if_true]

theorem resetWithProof_invalid (hh : h < 100000 ∨ 3000000 < h) : resetWithProof c (some h) = resetPulse c (some h) := by
  have hn : ¬ (100000 ≤ h ∧ h ≤ 3000000) := by omega
  simp only [resetWithProof, hn, decide_false, Bool.false_eq_true, if_false]

variable (hon : c.rind.on = true)
include hon

theorem resetPulse_wrongLength (hh : h < 100000 ∨ 3000000 < h) : resetPulse c (some h) = refuseReset c 3 := by
  have ho : (decide (h < 100000) || decide (3000000 < h)) = true := by simpa using hh
  simp only [resetPulse, hon, ho, if_true]

section
variable (hlo : 100000 ≤ h) (hhi : h ≤ 3000000)
include hlo hhi

/-- A pulse in time confirms the ACCEPT that waits for it. -/
theorem resetPulse_accepts {t n : Nat} (ha : c.rind.acceptAt = some (t, n)) (ht : c.core.tick ≤ t + 61000000) :
    resetPulse c (some h) = acceptSet c n := by
  simp only [resetPulse, hon, Nat.not_lt.mpr hlo, Nat.not_lt.mpr hhi, ha, Nat.not_lt.mpr ht, decide_false, Bool.or_self,
    Bool.false_eq_true, if_false]

section
variable (ha : c.rind.acceptAt = none) (hs : c.rind.state = 1 ∨ c.rind.state = 4)
include ha hs

/-- With no ACCEPT waiting a pulse asks STOPPED or LOCKED to run again. -/
theorem resetPulse_asks : resetPulse c (some h) =
    if !(rindDemands c).isEmpty then refuseReset c 1
    else if !(lockedPresent c).isEmpty || (c.rind.state = 4 && c.rind.clk < c.rind.faultAt + 1000000000) then refuseReset c 2
    else raise (raise (bump (onRind c fun r => { r with state := 2 }) Reg.rindCnt0.addr 15 0) 512 (2 + c.rind.cause * 256)) 521 2 := by
  have hst : (decide (c.rind.state ≠ 1) && decide (c.rind.state ≠ 4)) = false := by
    rcases hs with h1 | h4
    · simp only [h1, ne_eq, not_true_eq_false, decide_false, Bool.false_and]
    · simp only [h4, ne_eq, not_true_eq_false, decide_false, Bool.and_false]
  simp only [resetPulse, hon, Nat.not_lt.mpr hlo, Nat.not_lt.mpr hhi, ha, hst, decide_false, Bool.or_self, Bool.false_eq_true, if_false]
  rfl

theorem resetPulse_demanded (hd : rindDemands c ≠ []) : resetPulse c (some h) = refuseReset c 1 := by
  simp only [resetPulse_asks hon hlo hhi ha hs, List.isEmpty_eq_false_iff.mpr hd, Bool.not_false, if_true]

/-- With nothing demanded and nothing that locks, in LOCKED for 1 s, Rind runs. -/
theorem resetPulse_runs (hd : rindDemands c = []) (hl : lockedPresent c = [])
    (hf : c.rind.state = 4 → c.rind.faultAt + 1000000000 ≤ c.rind.clk) :
    resetPulse c (some h) =
      raise (raise (bump (onRind c fun r => { r with state := 2 }) Reg.rindCnt0.addr 15 0) 512 (2 + c.rind.cause * 256)) 521 2 := by
  have hlate : (decide (c.rind.state = 4) && decide (c.rind.clk < c.rind.faultAt + 1000000000)) = false := by
    rcases hs with h1 | h4
    · simp only [h1, OfNat.one_ne_ofNat, decide_false, Bool.false_and]
    · simp only [Nat.not_lt.mpr (hf h4), decide_false, Bool.and_false]
  simp only [resetPulse_asks hon hlo hhi ha hs, hd, hl, hlate, List.isEmpty_nil, Bool.not_true, Bool.or_self, Bool.false_eq_true,
    if_false]

end
end
end

/-! ### RIND_CMD (R463 to R465) -/

/-- A write of RIND_CMD is the unlocking session's last one (R464). -/
def unlockHeard (c : Chip) (n : Fin 4) : Chip :=
  match c.rind.unlock with
  | some (k, _) => if k = n then onRind c fun r => { r with unlock := some (k, c.core.tick) } else c
  | none => c

/-- What the command of code `op` does under the scheme in force. -/
def rindOp (c : Chip) (n : Fin 4) (op : Nat) : Chip :=
  if op = 1 then rindUnlock c n else if op = 2 then rindAccept c n else if op = 3 then rindSetpw c n
  else if op = 4 then rindLock c else c

theorem rindCmdWrite_acts {c : Chip} {n : Fin 4} {op : Nat} (hw : rindWritable c (.session n) = true) (ho : op < 5) :
    rindCmdWrite c (.session n) op = (clearPw (rindOp (unlockHeard c n) n op), true) := by
  simp only [rindCmdWrite, hw, Nat.not_le.mpr ho, Bool.not_true, decide_false, Bool.or_self, Bool.false_eq_true, if_false]
  rfl

/-- The word that a write to RIND_CMD brings to the command: its WO fields. -/
def rindCmdWord (x : Word) : Word := x &&& maskWhere Reg.rindCmd fun f => f.acc = .wo && !f.rsvd

/-- RIND_CMD from a session that may write it answers OK (R106, R464). -/
theorem writeCommand_rindCmd {c : Chip} {n : Fin 4} {x : Word} {op : Nat} (hr : rindWritable c (.session n) = true)
    (hw : Commanded c (.session n) Reg.rindCmd.addr) (hop : bits (rindCmdWord x) 31 28 = op) (ho : op < 5) :
    writeCommand c (.session n) Reg.rindCmd.addr x = answeredOk (clearPw (rindOp (unlockHeard c n) n op)) Reg.rindCmd.addr := by
  have hm (o : Word) : modeLocked c (.session n) Reg.rindCmd Reg.rindCmd.addr false o x = false := by
    have hb : blockOf Reg.rindCmd.addr = 15 := by decide
    have hx : Reg.rindCmd.addr ≠ Reg.sysExpert.addr := by decide
    have hp : ¬ 0x0F0100 ≤ Reg.rindCmd.addr := by decide
    simp [modeLocked, hb, hx, rindModeLocked, hp, hr]
  have hl : loopBusy c Reg.rindCmd.addr = false := by
    have hb : Reg.tstLbk.covers Reg.rindCmd.addr = false := by decide
    simp [loopBusy, hb]
  have hs : Reg.rindCmd.addr ≠ Reg.sysCmd.addr := by decide
  have hv : Reg.rindCmd.addr ≠ Reg.vatCmd.addr := by decide
  have hld : Reg.rindCmd.addr ≠ Reg.ldlCmd.addr := by decide
  have ha : Reg.rindCmd.addr ≠ Reg.mvbAsel.addr := by decide
  have hc : ¬ Reg.canCmd.covers Reg.rindCmd.addr = true := by decide
  subst hop
  rw [rindCmdWord] at ho ⊢
  exact writeCommand_command hw rfl (by decide) (by decide) (by decide) (by decide) (by decide) hm hl
    (by simp only [commandWrite, if_neg hs, if_neg hv, if_neg hld, if_neg ha, if_neg hc, rindCmdWrite_acts hr ho, if_true])

section
variable {c : Chip} {n : Fin 4}

section
variable (hp : rindCheckval c = false)
include hp

section
variable {salt d : Nat} (hb : c.rind.blockAt = none) (hd : c.rind.digest = some (salt, d))
include hb hd

theorem rindUnlock_opens (hv : pwValid (pwBytes c) = true) (hm : pwDigest salt (pwBytes c) = d) :
    rindUnlock c n = onRind c fun r => { r with unlock := some (n, c.core.tick), wrong := 0, cmdres := 1 } := by
  simp only [rindUnlock, hp, hb, hd, hv, hm, Option.isSome_none, decide_true, Bool.and_self, Bool.false_eq_true, if_false, if_true]

/-- One of the first four wrong passwords is counted and raised with the attempts left. -/
theorem rindUnlock_wrong (hv : pwValid (pwBytes c) = false ∨ pwDigest salt (pwBytes c) ≠ d) (hw : c.rind.wrong < 4) :
    rindUnlock c n = raise (bump (onRind c fun r =>
      { r with wrong := c.rind.wrong + 1, cmdres := 2 }) Reg.rindCnt1.addr 15 0) 525 (4 - c.rind.wrong) := by
  have hno : (pwValid (pwBytes c) && decide (pwDigest salt (pwBytes c) = d)) = false := by
    rcases hv with h | h
    · simp only [h, Bool.false_and]
    · simp only [h, decide_false, Bool.and_false]
  have hk : c.rind.wrong + 1 < 5 := by omega
  have hleft : 5 - (c.rind.wrong + 1) = 4 - c.rind.wrong := by omega
  simp only [rindUnlock, hp, hb, hd, hno, hk, hleft, Option.isSome_none, Bool.false_eq_true, if_false, if_true]

end

theorem rindAccept_password (hu : c.rind.unlock.isSome = true) (ha : (rawReg c Reg.rindArg.addr).toNat = rindCrc (rindProposal c)) :
    rindAccept c n = acceptSet c (fingerprintOf c n) := by
  obtain ⟨u, hu⟩ := Option.isSome_iff_exists.mp hu
  simp only [rindAccept, hp, hu, ha, Option.isNone_some, Bool.false_eq_true, if_false, if_true]

/-- A password set by the unlocking session, or the first one, is kept under a free salt. -/
theorem rindSetpw_salts {k : Nat} {d : Chip} (hu : c.rind.unlock.isSome = true ∨ c.rind.digest = none)
    (hv : pwValid (pwBytes c) = true) (hk : drawStamp c = (k, d)) :
    rindSetpw c n = rindLogEntry (onRind d fun r =>
      { r with digest := some ((Config.freeWord k).toNat, pwDigest (Config.freeWord k).toNat (pwBytes d)), cmdres := 1 })
      2 false (fingerprintOf d n) := by
  have hmay : (c.rind.unlock.isNone && c.rind.digest.isSome) = false := by
    rcases hu with h | h
    · obtain ⟨u, hu⟩ := Option.isSome_iff_exists.mp h
      simp only [hu, Option.isNone_some, Bool.false_and]
    · simp only [h, Option.isSome_none, Bool.and_false]
  simp only [rindSetpw, hp, hmay, hv, hk, Bool.not_true, Bool.false_eq_true, if_false]
  rfl

theorem rindLock_locks : rindLock c = onRind c fun r => { r with unlock := none, cmdres := 1 } := by
  simp only [rindLock, hp, Bool.false_eq_true, if_false]

end

/-- Under CHECKVAL an ACCEPT waits for its reset pulse. -/
theorem rindAccept_checkval (hp : rindCheckval c = true) (ha : (rawReg c Reg.rindArg.addr).toNat = akval (rindProposal c)) :
    rindAccept c n = onRind c fun r => { r with acceptAt := some (c.core.tick, fingerprintOf c n), cmdres := 8 } := by
  simp only [rindAccept, hp, ha, if_true]

end

/-! ### Times that end by themselves (R464, R465) -/

section
variable {c : Chip}

theorem acceptTimeout_over {t n : Nat} (ha : c.rind.acceptAt = some (t, n)) (ht : t + 59000000 ≤ c.core.tick) :
    acceptTimeout c = onRind c fun r => { r with acceptAt := none, cmdres := 9 } := by
  simp only [acceptTimeout, ha, ht, if_true, acceptEnds]

theorem unlockTimeout_locks {n : Fin 4} {t : Nat} (hu : c.rind.unlock = some (n, t)) (ht : t + 840000000 ≤ c.core.tick)
    (hb : c.rind.blockAt = none) : unlockTimeout c = onRind c fun r => { r with unlock := none } := by
  have hb' : (onRind c fun r => { r with unlock := none }).rind.blockAt = none := hb
  simp only [unlockTimeout, hu, ht, if_true, hb']

theorem unlockTimeout_unblocks {t : Nat} (hu : c.rind.unlock = none) (hb : c.rind.blockAt = some t) (ht : t + 840 ≤ c.cel.opsec) :
    unlockTimeout c = onRind c fun r => { r with blockAt := none } := by
  simp only [unlockTimeout, hu, hb, ht, if_true]

end

/-! ### The commands -/

section
variable {s : State}

theorem exec_resetPulse (high : Option Nat) : exec (.resetPulse high) s = .next (s.afterAll (resetWithProof s.chip high)) := rfl
theorem exec_acceptTimeout : exec .acceptTimeout s = .next (s.afterAll (acceptTimeout s.chip)) := rfl
theorem exec_unlockTimeout : exec .unlockTimeout s = .next (s.afterAll (unlockTimeout s.chip)) := rfl

section
variable {n : Fin 4} (hr : rindWritable s.chip (.session n) = true) (hw : Commanded s.chip (.session n) Reg.rindCmd.addr)
include hr hw

/-- RIND_CMD by a session that may write it: what its code does, with the password words cleared and OK answered. -/
theorem exec_rindUnlock {d : Chip} (hd : rindUnlock (unlockHeard s.chip n) n = d) :
    exec (.rindUnlock n) s = .next (s.afterAll (answeredOk (clearPw d) Reg.rindCmd.addr)) := by
  subst hd
  exact next_afterAll (writeCommand_rindCmd hr hw (op := 1) (by decide) (by decide))

theorem exec_rindAccept {d : Chip} (hd : rindAccept (unlockHeard s.chip n) n = d) :
    exec (.rindAccept n) s = .next (s.afterAll (answeredOk (clearPw d) Reg.rindCmd.addr)) := by
  subst hd
  exact next_afterAll (writeCommand_rindCmd hr hw (op := 2) (by decide) (by decide))

theorem exec_rindSetpw {d : Chip} (hd : rindSetpw (unlockHeard s.chip n) n = d) :
    exec (.rindSetpw n) s = .next (s.afterAll (answeredOk (clearPw d) Reg.rindCmd.addr)) := by
  subst hd
  exact next_afterAll (writeCommand_rindCmd hr hw (op := 3) (by decide) (by decide))

theorem exec_rindLock {d : Chip} (hd : rindLock (unlockHeard s.chip n) = d) :
    exec (.rindLock n) s = .next (s.afterAll (answeredOk (clearPw d) Reg.rindCmd.addr)) := by
  subst hd
  exact next_afterAll (writeCommand_rindCmd hr hw (op := 4) (by decide) (by decide))

end
end

/-- Settles O59: reset pulses by their length and what waits, RIND_CMD by the lemma on each operation. -/
theorem rindCommandsComplete : Obligations.RindCommandsComplete := by
  refine ⟨fun s hon => ⟨fun h hlo hhi => ⟨?accepts, fun ha hs => ⟨?demanded, ?runs⟩⟩, ?wrongLength⟩,
    fun s => ⟨fun n c hr hw hc => ⟨fun hp hb => ⟨?opens, ?wrong⟩, ?checkval, ?password, ?setpw, ?lock⟩, ?timeout, ?locks, ?unblocks⟩⟩
  case accepts =>
    exact fun t n ha ht => (exec_resetPulse _).trans (next_afterAll ((resetWithProof_valid hlo hhi).trans
      (congrArg (proofReset s.chip) (resetPulse_accepts hon hlo hhi ha ht))))
  case demanded =>
    exact fun hd => (exec_resetPulse _).trans (next_afterAll ((resetWithProof_valid hlo hhi).trans
      (congrArg (proofReset s.chip) (resetPulse_demanded hon hlo hhi ha hs hd))))
  case runs =>
    exact fun hd hl hf => (exec_resetPulse _).trans (next_afterAll ((resetWithProof_valid hlo hhi).trans
      (congrArg (proofReset s.chip) (resetPulse_runs hon hlo hhi ha hs hd hl hf))))
  case wrongLength =>
    exact fun h hh => (exec_resetPulse _).trans (next_afterAll ((resetWithProof_invalid hh).trans (resetPulse_wrongLength hon hh)))
  case opens => subst hc; exact fun salt d hd hv hm => exec_rindUnlock hr hw (rindUnlock_opens hp hb hd hv hm)
  case wrong => subst hc; exact fun salt d hd hv hl => exec_rindUnlock hr hw (rindUnlock_wrong hp hb hd hv hl)
  case checkval => subst hc; exact fun hp ha => exec_rindAccept hr hw (rindAccept_checkval hp ha)
  case password => subst hc; exact fun hp hu ha => exec_rindAccept hr hw (rindAccept_password hp hu ha)
  case setpw => subst hc; exact fun k d hp hu hv hk => exec_rindSetpw hr hw (rindSetpw_salts hp hu hv hk)
  case lock => subst hc; exact fun hp => exec_rindLock hr hw (rindLock_locks hp)
  case timeout => exact fun t n ha ht => exec_acceptTimeout.trans (next_afterAll (acceptTimeout_over ha ht))
  case locks => exact fun n t hu ht hb => exec_unlockTimeout.trans (next_afterAll (unlockTimeout_locks hu ht hb))
  case unblocks => exact fun t hu hb ht => exec_unlockTimeout.trans (next_afterAll (unlockTimeout_unblocks hu hb ht))

end Sys2Proof.Machine
end

section
/-! Power: interruptions and the orderly power-down, the input switch, and the measurements that warn (R154, R529 to R547). -/

namespace Sys2Proof.Machine

section
variable {c d : Chip}

/-! ### Interruptions (R529, R532, R533) -/

theorem interruptionDetect_begins {mv run : Nat} (hp : powered c = true) (hd : c.pwr.downAt = none) (hi : c.pwr.intrAt = none)
    (hmv : mv ≤ 560) (hr : intrFilter c ≤ run) :
    interruptionDetect c mv run = raise (setPwrFlag (onPwr c fun p => { p with intrAt := some c.core.tick, lowest := mv }) 31 false)
      2112 mv := by
  simp only [interruptionDetect, interruption, hp, hd, hi, Nat.not_lt.mpr hmv, Nat.not_lt.mpr hr, Option.isSome_none, Bool.not_true,
    decide_false, Bool.or_self, Bool.false_eq_true, if_false]

section
variable {t : Nat} (hi : c.pwr.intrAt = some t) (hd : c.pwr.downAt = none)
include hi hd

/-- An interruption that ends within 20 ms is counted and recorded with its length and the lowest voltage. -/
theorem interruptionEnd_records {lowest : Nat} (h1 : t + 1000 ≤ c.core.tick) (h20 : c.core.tick < t + 20000) (ho : c.pwr.openAt = none) :
    interruptionEnd c lowest = deviceRecord (raise (setReg (bump
      (setPwrFlag (onPwr c fun p => { p with intrAt := none }) 31 true) Reg.pwrCnt.addr 31 16) Reg.pwrLastint.addr
      (word (c.core.tick - t))) 2113 (c.core.tick - t)) 0x1B 1 (c.core.tick - t) (min lowest c.pwr.lowest) := by
  simp only [interruptionEnd, hi, hd, ho, Nat.not_lt.mpr h1, Nat.not_le.mpr h20, Option.isSome_none, decide_false, Bool.or_self,
    Bool.false_eq_true, if_false]

/-- One that lasts 20 ms begins the orderly power-down, in which a module in charge relinquishes. -/
theorem interruptionTimeout_powersDown (h20 : t + 20000 ≤ c.core.tick) (hp : powered c = true)
    (hc : d = onPwr { deviceRecord c 0x00 6 c.pwr.lowest with
        ptp := { (deviceRecord c 0x00 6 c.pwr.lowest).ptp with stored := now (deviceRecord c 0x00 6 c.pwr.lowest) }
        cel := { (deviceRecord c 0x00 6 c.pwr.lowest).cel with accept := false } }
      (fun p => { p with downAt := some (deviceRecord c 0x00 6 c.pwr.lowest).core.tick })) :
    interruptionTimeout c = if mustRelinquish c then beginLeaving d ⟨d.core.tick, 0, true, false, .inert, 0⟩
      else onLdl (setChg d false) fun l => { l with handover := none } := by
  have hbegin : (c.pwr.downAt.isSome || !powered c) = false := by simp only [hd, hp, Option.isSome_none, Bool.not_true, Bool.or_self]
  subst hc
  simp only [interruptionTimeout, hi, h20, if_true, powerDownBegin, hbegin, Bool.false_eq_true, if_false]

end

/-- The power-down ends with its record, the records that wait written where the Cellar is ready, and a reset. -/
theorem powerDownEnd_resets (hd : c.pwr.downAt.isSome = true)
    (hc : d = deviceRecord (abortTest c) 0x00 0x01 (c.sys.mode.code * 256)) :
    powerDownEnd c = resetChip (if d.cel.ready then flushRecords d else d) := by
  obtain ⟨t, ht⟩ := Option.isSome_iff_exists.mp hd
  subst hc
  simp only [powerDownEnd, ht, Option.isNone_some, Bool.false_eq_true, if_false]

/-! ### The input switch (R530) -/

theorem inputOvervoltage_opens {mv run : Nat} (hp : powered c = true) (ho : c.pwr.openAt = none) (hv : overvoltage mv run = true) :
    inputOvervoltage c mv run = interruption (raise (bump (setPwrFlag (onPwr c fun p =>
      { p with openAt := some c.core.tick, highest := mv }) 31 false) Reg.pwrCnt.addr 15 0) 2114 mv) mv := by
  simp only [inputOvervoltage, hp, ho, hv, Option.isSome_none, Bool.not_true, Bool.or_self, Bool.false_eq_true, if_false]

theorem inputSwitchClose_records {t highest : Nat} (ho : c.pwr.openAt = some t) (ht : t + 10000 ≤ c.core.tick) :
    inputSwitchClose c highest = deviceRecord (onPwr c fun p => { p with openAt := none }) 0x1B 2
      (max highest c.pwr.highest) (c.core.tick - t) := by
  simp only [inputSwitchClose, ho, Nat.not_lt.mpr ht, if_false]
  rfl

/-! ### Measurements (R154, R535, R547) -/

section
variable (hp : powered c = true)
include hp

theorem storeMeasure_judges {cap hup w : Nat} (hi : c.pwr.intrAt = none) (hw : w = min 65535 hup * 65536 + min 65535 cap)
    (hd : d = setReg c Reg.pwrHup.addr (word w)) :
    storeMeasure c cap hup = if decide (hup < 280) = pwrFlag d 28 then d
      else if hup < 280 then deviceRecord (raise (setPwrFlag d 28 true) 2117 1) 0x1B 4 w
      else raise (setPwrFlag d 28 false) 2117 0 := by
  subst hw hd
  simp only [storeMeasure, hp, hi, Option.isSome_none, Bool.not_true, Bool.or_self, Bool.false_eq_true, if_false]
  by_cases h : hup < 280 <;> simp only [h, b2n, decide_true, decide_false, Bool.false_eq_true, if_true, if_false]

/-- The warning of the baseplate ends 3 K below the limit from which it began. -/
theorem baseplate_judges {t : Int} {warn : Bool} (hd : d = setReg c (Reg.pwrTemp.addr 5) (word (signed16 t)))
    (hw : warn = if pwrFlag d 27 then decide (bpWarn d - 30 ≤ t) else decide (bpWarn d < t)) :
    baseplate c t = if warn = pwrFlag d 27 then d
      else if warn then deviceRecord (raise (setPwrFlag d 27 true) 2115 1) 0x1B 3 (unsigned 32 t)
      else raise (setPwrFlag d 27 false) 2115 0 := by
  subst hd
  simp only [baseplate, hp, ← hw, Bool.not_true, Bool.false_eq_true, if_false]
  cases warn <;> simp only [b2n, Bool.false_eq_true, if_true, if_false]

theorem regionTemps_judges {t : Tri Int} {x : Int}
    (hd : d = allVats.foldl (fun d v => setReg d (Reg.pwrTemp.addr v.num) (word (signed16 (t.get v)))) c)
    (hx : x = max t.a (max t.b t.c) - min t.a (min t.b t.c)) :
    regionTemps c t = if decide (150 < x) = pwrFlag d 26 then d
      else if 150 < x then deviceRecord (raise (setPwrFlag d 26 true) 2116 1) 0x01 4 x.toNat
      else raise (setPwrFlag d 26 false) 2116 0 := by
  subst hd hx
  simp only [regionTemps, hp, Bool.not_true, Bool.false_eq_true, if_false]
  by_cases h : 150 < max t.a (max t.b t.c) - min t.a (min t.b t.c) <;>
    simp only [h, b2n, decide_true, decide_false, Bool.false_eq_true, if_true, if_false]

end
end

/-! ### The commands -/

section
variable {s : State}

theorem exec_interruptionDetect (mv run : Nat) :
    exec (.interruptionDetect ⟨mv, run⟩) s = .next (s.afterAll (interruptionDetect s.chip mv run)) := rfl
theorem exec_interruptionEnd (lowest : Nat) :
    exec (.interruptionEnd lowest) s = .next (s.afterAll (interruptionEnd s.chip lowest)) := rfl
theorem exec_interruptionTimeout : exec .interruptionTimeout s = .next (s.afterAll (interruptionTimeout s.chip)) := rfl
theorem exec_powerDownEnd : exec .powerDownEnd s = .next (s.afterAll (powerDownEnd s.chip)) := rfl
theorem exec_inputOvervoltage (mv run : Nat) :
    exec (.inputOvervoltage ⟨mv, run⟩) s = .next (s.afterAll (inputOvervoltage s.chip mv run)) := rfl
theorem exec_inputSwitchClose (highest : Nat) :
    exec (.inputSwitchClose highest) s = .next (s.afterAll (inputSwitchClose s.chip highest)) := rfl
theorem exec_storeMeasure (cap hup : Nat) :
    exec (.storeMeasure cap hup) s = .next (s.afterAll (storeMeasure s.chip cap hup)) := rfl
theorem exec_baseplateWarning (t : Int) : exec (.baseplateWarning t) s = .next (s.afterAll (baseplate s.chip t)) := rfl
theorem exec_regionTempDiff (t : Tri Int) : exec (.regionTempDiff t) s = .next (s.afterAll (regionTemps s.chip t)) := rfl

end

/-- Settles O60: each command by the lemma on its function. -/
theorem powerComplete : Obligations.PowerComplete := by
  refine fun s => ⟨?begins, ?ends, ?powersDown, ?resets, ?opens, ?closes, fun hp => ⟨?store, ?plate, ?regions⟩⟩
  case begins =>
    exact fun mv run hp hd hi hmv hr => (exec_interruptionDetect mv run).trans
      (next_afterAll (interruptionDetect_begins hp hd hi hmv hr))
  case ends =>
    exact fun t lowest hi hd h1 h20 ho => (exec_interruptionEnd lowest).trans
      (next_afterAll (interruptionEnd_records hi hd h1 h20 ho))
  case powersDown =>
    exact fun t c hi h20 hd hp hc => exec_interruptionTimeout.trans (next_afterAll (interruptionTimeout_powersDown hi hd h20 hp hc))
  case resets => exact fun c hd hc => exec_powerDownEnd.trans (next_afterAll (powerDownEnd_resets hd hc))
  case opens =>
    exact fun mv run hp ho hv => (exec_inputOvervoltage mv run).trans (next_afterAll (inputOvervoltage_opens hp ho hv))
  case closes =>
    exact fun t highest ho ht => (exec_inputSwitchClose highest).trans (next_afterAll (inputSwitchClose_records ho ht))
  case store =>
    exact fun cap hup w c hi hw hc => (exec_storeMeasure cap hup).trans (next_afterAll (storeMeasure_judges hp hi hw hc))
  case plate => exact fun t c warn hc hw => (exec_baseplateWarning t).trans (next_afterAll (baseplate_judges hp hc hw))
  case regions => exact fun t c d hc hd => (exec_regionTempDiff t).trans (next_afterAll (regionTemps_judges hp hc hd))

end Sys2Proof.Machine
end

section
/-! The commands of the Cellar: its state, snapshots and what is read of one, and the clear (R485 to R488). -/

namespace Sys2Proof.Machine

/-- An admitted request whose command answers a status word alone. -/
theorem tspRequest_code {c d : Chip} {h : TspHead} {need : Priv} {p : List Byte} {x : Session} {cmd st : Nat} {lenOk : Nat → Bool}
    {f : Chip → Chip × Nat} (ha : Admitted c h cmd need p x) (hl : lenOk p.length = true) (hf : f (acceptMsg c h) = (d, st)) :
    tspRequest c h cmd need lenOk p (fun c => codeAnswer (f c)) = repliedCode d h cmd st :=
  tspRequest_admitted ha hl (by rw [hf]; rfl)

section
variable {c : Chip} {n : Fin 4}

theorem celClose_open {sn : Snapshot} (hs : snapOf c n = some sn) :
    celClose n c = (onSession c n fun y => { y with snap := none }, 0, []) := by
  simp only [celClose, hs]

theorem celReadCmd_ok {sn : Snapshot} {p bs : List Byte} (hs : snapOf c n = some sn)
    (hr : celRead c sn (leAt p 0 8) (leAt p 8 4) = (0, bs)) : celReadCmd n p c = (c, 0, bs) := by
  simp only [celReadCmd, hs, hr]

/-- CEL.CLEAR in MAINTENANCE with no clear asked for and room in the device buffer offers the clear record (R488). -/
theorem celClear_offers {fingerprint : Nat} (hm : c.sys.mode = .maintenance) (hc : c.cel.clearing = none)
    (ha : c.cel.clearAsked = false) (hb : c.cel.devBuf.length < 1024) :
    celClear c fingerprint = ({ c with cel := { c.cel with
      clearAsked := true
      devBuf := c.cel.devBuf ++ [{ seq := 0, kind := 1, block := 0x18, rep := 0, opsec := 0, pwrcyc := 0, code := 2, task := 0,
                                   data := bytesLE 8 0 ++ bytesLE 8 fingerprint }] } }, 0) := by
  simp only [celClear, hm, hc, ha, Nat.not_le.mpr hb, ne_eq, not_true_eq_false, Option.isSome_none, Bool.false_eq_true, or_self,
    if_false]

end

/-! ### The commands -/

section
variable {s : State} (h : TspHead) (p : List Byte)

theorem exec_celInfo : exec (.celInfo h p) s =
    .next (s.afterAll (tspRequest s.chip h 0x30 .read (· = 0) p fun c => (c, 0, celInfo c))) := rfl
theorem exec_celSnap : exec (.celSnap h p) s =
    .next (s.afterAll (tspRequest s.chip h 0x31 .read (· = 0) p (celSnap h.session))) := rfl
theorem exec_celClose : exec (.celClose h p) s =
    .next (s.afterAll (tspRequest s.chip h 0x33 .read (· = 0) p (celClose h.session))) := rfl
theorem exec_celClear : exec (.celClear h p) s = .next (s.afterAll
    (tspRequest s.chip h 0x34 .maintain (· = 0) p fun c => codeAnswer (celClear c (fingerprintOf c h.session)))) := rfl

/-- CEL.READ, once the arbiter of the slots grants (R184). -/
theorem exec_celRead (hf : arbFrozen s.chip (arbKey 34 .a) = false) : exec (.celRead h p) s =
    .next (s.afterAll (tspRequest s.chip h 0x32 .read (· = 12) p (celReadCmd h.session p))) :=
  next_afterAll (if_neg (ne_true_of_eq_false hf))

end

/-- Settles O42: each request by `tspRequest_admitted`, with what its command answers. -/
theorem cellarCommandsComplete : Obligations.CellarCommandsComplete := by
  rintro s h x _ rfl
  refine ⟨?info, ?snap, ?close, ?read, ?clear⟩
  case info => exact fun ha => (exec_celInfo h []).trans (next_afterAll (tspRequest_admitted ha rfl rfl))
  case snap => exact fun ha => (exec_celSnap h []).trans (next_afterAll (tspRequest_admitted ha rfl rfl))
  case close =>
    exact fun sn ha hs => (exec_celClose h []).trans (next_afterAll (tspRequest_admitted ha rfl (celClose_open hs)))
  case read =>
    exact fun p sn bs hf ha h12 hs _ _ _ hr => (exec_celRead h p hf).trans
      (next_afterAll (tspRequest_admitted ha (by simp [h12]) (celReadCmd_ok hs hr)))
  case clear =>
    exact fun ha hm hc hk hb => (exec_celClear h []).trans
      (next_afterAll (tspRequest_code ha rfl (celClear_offers hm hc hk hb)))

end Sys2Proof.Machine
end

section
/-! Tests: TST.START, TST.STATUS and TST.STOP, the ends of tests, trials and transfers to the partner, and the writes of TST_CTL and
TST_LBKn (R507, R508, R511, R515 to R527). -/

namespace Sys2Proof.Machine

/-! ### TST.START and TST.STOP (R515, R516, R520, R527) -/

section
variable {c : Chip} {n : Fin 4}

theorem tstStart_begins {p : List Byte} (h8 : p.length = 8) (harg : testArgs (leAt p 0 1) (leAt p 1 1) (leAt p 2 1) = true)
    (h1 : 1 ≤ leAt p 4 4) (h3600 : leAt p 4 4 ≤ 3600) (hs : c.tst.state ≠ 1)
    (hm : c.sys.mode = .maintenance ∨ c.sys.mode = .service ∧ leAt p 0 1 = 6)
    (hd : leAt p 0 1 = 1 → depthOk c (leAt p 1 1) (leAt p 2 1) = true) :
    tstStart c n p = (beginTest c n (leAt p 0 1) (leAt p 1 1) (leAt p 2 1) (leAt p 4 4), 0) := by
  have hform : (decide (p.length ≠ 8) || !testArgs (leAt p 0 1) (leAt p 1 1) (leAt p 2 1) || decide (leAt p 4 4 = 0) ||
      decide (3600 < leAt p 4 4)) = false := by
    have h0 : leAt p 4 4 ≠ 0 := by omega
    simp only [h8, harg, h0, Nat.not_lt.mpr h3600, ne_eq, not_true_eq_false, decide_false, Bool.not_true, Bool.or_self]
  have hmode : (decide (c.sys.mode = .maintenance) || decide (c.sys.mode = .service) && decide (leAt p 0 1 = 6)) = true := by
    rcases hm with h | ⟨h, h6⟩
    · simp only [h, decide_true, Bool.true_or]
    · simp only [h, h6, decide_true, Bool.and_self, Bool.or_true]
  have hdepth : (decide (leAt p 0 1 = 1) && !depthOk c (leAt p 1 1) (leAt p 2 1)) = false := by
    by_cases hi : leAt p 0 1 = 1
    · simp only [hd hi, Bool.not_true, Bool.and_false]
    · simp only [hi, decide_false, Bool.false_and]
  simp only [tstStart, hform, hs, hmode, hdepth, Bool.not_true, Bool.false_eq_true, if_false]

/-- TST.STOP is refused to another session than the one that runs the test. -/
theorem tstStop_aborts (ho : c.tst.state ≠ 1 ∨ c.tst.session = n.val) : tstStop c n = (abortTest c, 0) := by
  have hown : (decide (c.tst.state = 1) && decide (c.tst.session ≠ n.val)) = false := by
    rcases ho with h | h
    · simp only [h, decide_false, Bool.false_and]
    · simp only [h, ne_eq, not_true_eq_false, decide_false, Bool.and_false]
  simp only [tstStop, hown, Bool.false_eq_true, if_false]

end

/-! ### What ends by itself (R508, R511, R520 to R526) -/

section
variable {c : Chip} {b : Tri Nat} {errs : Nat} {samples : List LoopSample}

/-- A LOOP with the counts of the patterns checked so far (R528). -/
def loopCounted (c : Chip) (b : Tri Nat) (errs : Nat) : Chip := onTst c fun t => { t with bits := b.a + b.b + b.c, errs := errs }

section
variable (hs : c.tst.state = 1)
include hs

theorem testEnd_loopRuns (hi : c.tst.testid = 1) (ht : testRan c < c.tst.dur * 1000000) :
    testEnd c b errs samples = loopCounted c b errs := by
  simp only [testEnd, hs, hi, Nat.not_le.mpr ht, ne_eq, not_true_eq_false, decide_true, decide_false, Bool.not_false, Bool.true_or,
    Bool.and_self, if_false, if_true]
  rfl

section
variable (ht : c.tst.dur * 1000000 ≤ testRan c)
include ht

theorem testEnd_loop (hi : c.tst.testid = 1) :
    testEnd c b errs samples = testResult (loopCounted c b errs) (loopResult c c.tst.target b errs samples) := by
  simp only [testEnd, hs, hi, ht, ne_eq, not_true_eq_false, decide_true, Bool.not_true, Bool.false_and, Bool.false_eq_true, if_false,
    if_true]
  rfl

theorem testEnd_vatout (hi : c.tst.testid = 2) : testEnd c b errs samples = vatoutEnd c := by
  simp only [testEnd, hs, hi, ht, ne_eq, not_true_eq_false, OfNat.ofNat_ne_one, decide_true, Bool.not_true, Bool.false_and,
    Bool.false_eq_true, if_false]

theorem testEnd_rindproof (hi : c.tst.testid = 6) :
    testEnd c b errs samples = testResult c (if rindProved c then 1 else 2) := by
  simp only [testEnd, hs, hi, ht, ne_eq, not_true_eq_false, OfNat.ofNat_ne_one, decide_true, Bool.not_true, Bool.false_and,
    Bool.false_eq_true, if_false]

end

/-- The tests that run once end with their outcome, whatever their time. -/
theorem testEnd_voter {ok : Bool} (hi : c.tst.testid = 3) (hv : c.tst.votes = some ok) :
    testEnd c b errs samples = testResult c (if ok then 1 else 2) := by
  simp [testEnd, hs, hi, hv]

theorem testEnd_loopproof (hi : c.tst.testid = 4) (hl : c.tst.loopDone = true) :
    testEnd c b errs samples = testResult c (if c.fio.lpFail = 0 then 1 else 2) := by
  simp [testEnd, hs, hi, hl]

theorem testEnd_pages (hi : c.tst.testid = 5) : testEnd c b errs samples = testResult c (if pagesAgree c then 1 else 2) := by
  simp [testEnd, hs, hi]

end

theorem peerTimeout_repeats {p : PeerTx} (hp : c.upd.peer = some p) (ht : p.sentAt + 10000 ≤ c.core.tick) :
    peerTimeout c = sendPieces c p p.acked := by
  simp only [peerTimeout, hp, ht, if_true]

theorem selfConfirm_held {k : Fin 4} (hf : flashOpen c = true) (hk : trialSlot c = some k) (hc : c.upd.confok = true)
    (hh : fieldOf c Reg.updCtl.addr 15 0 ≤ c.upd.held) : selfConfirm c = confirmSlot c k 0 := by
  simp only [selfConfirm, hk, hf, hc, hh, decide_true, Bool.and_self, if_true]

end

/-! ### TST_CTL and TST_LBKn (R515, R518, R519) -/

section
variable {c : Chip} {n : Fin 4} {x : Word}

/-- TST_LBK of each interface, as the port sees its address. -/
theorem tstLbk_mapped : ∀ i : Fin 15, regDef (0x1A0010 + i.val) = some Reg.tstLbk ∧ Reg.tstLbk.covers (0x1A0010 + i.val) = true ∧
    writable Reg.tstLbk (0x1A0010 + i.val) = true ∧ blockOf (0x1A0010 + i.val) = 26 := by
  decide

theorem tstLbk_addr (i : Nat) : Reg.tstLbk.addr i = 0x1A0010 + i := by
  simp only [RegDef.addr, Reg.tstLbk]
  omega

theorem commanded_of_maintain {a : Nat} (hr : reaches c (.session n) = true) (hm : isMaintain c (.session n) = true) :
    Commanded c (.session n) a := by
  have hp : privOf c (.session n) = some .maintain := by simpa only [isMaintain, decide_eq_true_eq] using hm
  exact ⟨hr, by simp [hp], fun ho => by simp [hp] at ho⟩

/-- A register of RW fields alone, those of mask `m`, takes them from the word written, and what the change brings about follows. -/
theorem writeCommand_rw {w : Writer} {a : Nat} {r : RegDef} {m : Word} (hw : Commanded c w a) (ha : a < 2 ^ 24)
    (hr : regDef a = some r) (hwr : writable r a = true) (hst : stMask r = 0) (hs : (r.fields.any fun f => f.acc = .st) = false)
    (he : (r.fields.any fun f => f.expert) = false) (hwo : (r.fields.any fun f => f.acc = .wo && !f.rsvd) = false)
    (hw1c : (r.fields.any fun f => f.acc = .w1c && !f.rsvd) = false) (hm : maskWhere r (fun f => f.acc = .rw && !f.rsvd) = m)
    (h6 : a ≠ Reg.ptpFreql.addr) (h7 : a ≠ Reg.ptpFreqh.addr) (h8 : a ≠ Reg.ptpSlew.addr)
    (hmode : ∀ o, modeLocked c w r a false o x = false) (hl : loopBusy c a = false) :
    writeCommand c w a x = answeredOk (writeHook (setReg c a ((rawReg c a &&& ~~~m) ||| (x &&& m))) a (rawReg c a)) a := by
  refine writeCommand_of_portWrite hw.reach ((portWrite_live hw (mapped_of_lt ha hr) hwr hst he hmode hl).trans
    ((writeWord_live hs hwo h6 h7 h8).trans ?_))
  have hall : ~~~(x &&& 0) = BitVec.allOnes 32 := by simp
  rw [hm, maskWhere_eq_zero hw1c, hall, BitVec.and_allOnes]

section
variable (hr : reaches c (.session n) = true) (hm : isMaintain c (.session n) = true) (hmode : c.sys.mode = .maintenance)
include hr hm hmode

/-- CRUN is admitted in MAINTENANCE from a session with MAINTAIN, and set only with a culture. -/
theorem writeCommand_tstCtl (hx : bit x 31 = false ∨ c.culture.loaded = true) :
    writeCommand c (.session n) Reg.tstCtl.addr x = answeredOk (writeHook
      (setReg c 0x1A0001 ((rawReg c 0x1A0001 &&& 0x7FFFFFFF) ||| (x &&& 0x80000000))) 0x1A0001 (rawReg c 0x1A0001)) 0x1A0001 := by
  have hlock (o : Word) : modeLocked c (.session n) Reg.tstCtl Reg.tstCtl.addr false o x = false := by
    have hb : blockOf Reg.tstCtl.addr = 26 := by decide
    have hse : Reg.tstCtl.addr ≠ Reg.sysExpert.addr := by decide
    have hlbk : Reg.tstLbk.covers Reg.tstCtl.addr = false := by decide
    have hrun : (bit x 31 && !c.culture.loaded) = false := by
      rcases hx with h | h <;> simp only [h, Bool.false_and, Bool.not_true, Bool.and_false]
    simp [modeLocked, hb, hse, tstLocked, hmode, hm, hlbk, hrun]
  have hbusy : loopBusy c Reg.tstCtl.addr = false := by
    have hlbk : Reg.tstLbk.covers Reg.tstCtl.addr = false := by decide
    simp [loopBusy, hlbk]
  exact writeCommand_rw (commanded_of_maintain hr hm) (by decide) rfl (by decide) (by decide) (by decide) (by decide) (by decide)
    (by decide) (m := 0x80000000) (by decide) (by decide) (by decide) (by decide) hlock hbusy

/-- A depth that the interface has, while no LOOP runs on it. -/
theorem writeCommand_tstLbk {i : Fin 15} (hd : depthOk c i.val (bits x 2 0) = true) (hb : loopBusy c (0x1A0010 + i.val) = false) :
    writeCommand c (.session n) (Reg.tstLbk.addr i.val) x = answeredOk (writeHook
      (setReg c (0x1A0010 + i.val) ((rawReg c (0x1A0010 + i.val) &&& 0xFFFFFFF8) ||| (x &&& 7))) (0x1A0010 + i.val)
      (rawReg c (0x1A0010 + i.val))) (0x1A0010 + i.val) := by
  obtain ⟨hreg, hcov, hwr, hblk⟩ := tstLbk_mapped i
  have hother (b : Nat) (hlt : b < 0x1A0010) : 0x1A0010 + i.val ≠ b := by omega
  have hsub : 0x1A0010 + i.val - Reg.tstLbk.base = i.val := Nat.add_sub_cancel_left ..
  have hlock (o : Word) : modeLocked c (.session n) Reg.tstLbk (0x1A0010 + i.val) false o x = false := by
    simp [modeLocked, hblk, hother Reg.sysExpert.addr (by decide), hother Reg.tstCtl.addr (by decide), tstLocked, hmode, hm, hcov, hsub, hd]
  rw [tstLbk_addr]
  exact writeCommand_rw (commanded_of_maintain hr hm) (by omega) hreg hwr (by decide) (by decide) (by decide) (by decide)
    (by decide) (m := 7) (by decide) (hother _ (by decide)) (hother _ (by decide)) (hother _ (by decide)) hlock hb

end
end

/-! ### The commands -/

section
variable {s : State}

theorem exec_tstStart (h : TspHead) (p : List Byte) : exec (.tstStart h p) s = .next (s.afterAll
    (tspRequest s.chip h 0x50 .maintain (· = 8) p fun c => codeAnswer (tstStart c h.session p))) := rfl
theorem exec_tstStatus (h : TspHead) (p : List Byte) : exec (.tstStatus h p) s = .next (s.afterAll
    (tspRequest s.chip h 0x51 .maintain (· = 0) p fun c => (c, 0, tstStatus c))) := rfl
theorem exec_tstStop (h : TspHead) (p : List Byte) : exec (.tstStop h p) s = .next (s.afterAll
    (tspRequest s.chip h 0x52 .maintain (· = 0) p fun c => codeAnswer (tstStop c h.session))) := rfl
theorem exec_testEnd (b : Tri Nat) (errs : Nat) (samples : List LoopSample) :
    exec (.testEnd b errs samples) s = .next (s.afterAll (testEnd s.chip b errs samples)) := rfl
theorem exec_pieceAckTimeout : exec .pieceAckTimeout s = .next (s.afterAll (peerTimeout s.chip)) := rfl
theorem exec_selfConfirm : exec .selfConfirm s = .next (s.afterAll (selfConfirm s.chip)) := rfl
theorem exec_tstCtlWrite (w : Writer) (x : Word) :
    exec (.tstCtlWrite w x) s = .next (s.afterAll (writeCommand s.chip w Reg.tstCtl.addr x)) := rfl
theorem exec_tstLbkWrite (w : Writer) (i : Fin 15) (x : Word) :
    exec (.tstLbkWrite w i x) s = .next (s.afterAll (writeCommand s.chip w (Reg.tstLbk.addr i.val) x)) := rfl

end

/-- Settles O44: requests by `tspRequest_admitted` or `tspRequest_code`, ends by the lemma on each test, writes by `writeCommand_rw`. -/
theorem testsComplete : Obligations.TestsComplete := by
  refine ⟨?requests, fun s => ⟨fun b errs smp hs => ⟨?runs, fun ht => ⟨?loop, ?vatout, ?rindproof⟩, ?voter, ?loopproof, ?pages⟩, ?pieces,
    ?confirms⟩, fun s n x hr hm hmode => ⟨?ctl, ?lbk⟩⟩
  case requests =>
    rintro s h x _ rfl
    refine ⟨fun p ha h8 harg h1 h3600 hs hm hd => ?start, fun ha => ?status, fun ha ho => ?stop⟩
    case start =>
      exact (exec_tstStart h p).trans (next_afterAll (tspRequest_code ha (by simp [h8]) (tstStart_begins h8 harg h1 h3600 hs hm hd)))
    case status => exact (exec_tstStatus h []).trans (next_afterAll (tspRequest_admitted ha rfl rfl))
    case stop => exact (exec_tstStop h []).trans (next_afterAll (tspRequest_code ha rfl (tstStop_aborts ho)))
  case runs => exact fun hi ht => (exec_testEnd b errs smp).trans (next_afterAll (testEnd_loopRuns hs hi ht))
  case loop => exact fun hi => (exec_testEnd b errs smp).trans (next_afterAll (testEnd_loop hs ht hi))
  case vatout => exact fun hi => (exec_testEnd b errs smp).trans (next_afterAll (testEnd_vatout hs ht hi))
  case rindproof => exact fun hi => (exec_testEnd b errs smp).trans (next_afterAll (testEnd_rindproof hs ht hi))
  case voter => exact fun ok hi hv => (exec_testEnd b errs smp).trans (next_afterAll (testEnd_voter hs hi hv))
  case loopproof => exact fun hi hl => (exec_testEnd b errs smp).trans (next_afterAll (testEnd_loopproof hs hi hl))
  case pages => exact fun hi => (exec_testEnd b errs smp).trans (next_afterAll (testEnd_pages hs hi))
  case pieces => exact fun p hp ht => exec_pieceAckTimeout.trans (next_afterAll (peerTimeout_repeats hp ht))
  case confirms => exact fun k hf hk hc hh => exec_selfConfirm.trans (next_afterAll (selfConfirm_held hf hk hc hh))
  case ctl => exact fun hx => (exec_tstCtlWrite _ x).trans (next_afterAll (writeCommand_tstCtl hr hm hmode hx))
  case lbk => exact fun i hd hb => (exec_tstLbkWrite _ i x).trans (next_afterAll (writeCommand_tstLbk hr hm hmode hd hb))

end Sys2Proof.Machine
end

section
/-! What the test commands, a test's end, a repeated piece and a self-confirmation leave behind (R507, R508, R511, R515 to R527). -/

namespace Sys2Proof.Machine

/-! ### What hearing a session leaves -/

section
variable {c : Chip} {h : TspHead} {n : Fin 4} {f : Session → Session}

/-- A change of a session is a change of SYS alone. -/
theorem onSession_eq (c : Chip) (n : Fin 4) (f : Session → Session) :
    onSession c n f = { c with sys := (onSession c n f).sys } := by
  unfold onSession
  split <;> rfl

theorem acceptMsg_eq (c : Chip) (h : TspHead) : acceptMsg c h = { c with sys := (acceptMsg c h).sys } := by
  rw [acceptMsg, onSession_eq, onSession_eq c]

theorem acceptMsg_tst : (acceptMsg c h).tst = c.tst := by rw [acceptMsg_eq]
theorem acceptMsg_core : (acceptMsg c h).core = c.core := by rw [acceptMsg_eq]
theorem acceptMsg_vats : (acceptMsg c h).vats = c.vats := by rw [acceptMsg_eq]
theorem acceptMsg_regs : (acceptMsg c h).regs = c.regs := by rw [acceptMsg_eq]

end

/-! ### TST.START, TST.STOP and the ends of tests (R515, R516, R520 to R522) -/

/-- A test RUNNING from now with what TST.START names, before what its test alone begins. -/
def testBegun (c : Chip) (n : Fin 4) (id target depth dur : Nat) : Chip :=
  onTst c fun t => { t with
    state := 1, session := n.val, testid := id, target := target, depth := depth, dur := dur, result := 0, from_ := c.core.tick,
    bits := 0, errs := 0, vatBad := false, vatBack := none, vatOk := false, loopDone := false, votes := none,
    proof := { Proof.zero with lastState := c.rind.state } }

section
variable {c : Chip} {n : Fin 4} {id target depth dur : Nat}

theorem beginTest_loop : beginTest c n 1 target depth dur =
    setReg (testBegun c n 1 target depth dur) (Reg.tstLbk.addr target) (word depth) := rfl

theorem beginTest_refused (hr : vatoutRefused c (targetVat target) = true) :
    beginTest c n 2 target depth dur = testResult (testBegun c n 2 target depth dur) 5 :=
  if_pos hr

/-- A VATOUT that R522 does not refuse finds all three Vats SERVING. -/
theorem beginTest_takesOut (hm : c.sys.mode = .maintenance) (hr : vatoutRefused c (targetVat target) = false) :
    beginTest c n 2 target depth dur = todoSour (testBegun c n 2 target depth dur) (targetVat target) 10 7 none 0 := by
  have h3 : (servingVats (testBegun c n 2 target depth dur)).length = 3 := by
    simp only [vatoutRefused, Bool.or_eq_false_iff, decide_eq_false_iff_not, not_not] at hr
    exact hr.2
  have hmode : vatCmdMode (testBegun c n 2 target depth dur) = true := by
    have hm' : (testBegun c n 2 target depth dur).sys.mode = .maintenance := hm
    simp [vatCmdMode, hm']
  have hout : vatTakeOut (testBegun c n 2 target depth dur) (targetVat target) =
      (todoSour (testBegun c n 2 target depth dur) (targetVat target) 10 7 none 0, true) := by
    simp only [vatTakeOut, hmode, h3, Bool.not_true, Bool.false_eq_true, if_false, if_true]
  exact (if_neg (ne_true_of_eq_false hr)).trans (congrArg Prod.fst hout)

/-- Every test but VATOUT begins RUNNING, and neither the Vats nor the core see its begin. -/
theorem beginTest_runs (h2 : id ≠ 2) : (beginTest c n id target depth dur).tst = (testBegun c n id target depth dur).tst ∧
    (beginTest c n id target depth dur).vats = c.vats ∧ (beginTest c n id target depth dur).core = c.core := by
  unfold beginTest
  split
  · exact ⟨rfl, rfl, rfl⟩
  · exact absurd rfl h2
  · exact ⟨rfl, rfl, rfl⟩
  · exact ⟨rfl, rfl, rfl⟩

/-- What a begun test holds, RUNNING or refused: its arguments, its session and its tick. -/
theorem beginTest_held (hm : id = 2 → c.sys.mode = .maintenance) : ∃ st r, (beginTest c n id target depth dur).tst =
    { (testBegun c n id target depth dur).tst with state := st, result := r } := by
  by_cases h2 : id = 2
  · subst h2
    cases hr : vatoutRefused c (targetVat target)
    · exact ⟨1, 0, congrArg Chip.tst (beginTest_takesOut (hm rfl) hr)⟩
    · exact ⟨2, 5, (congrArg Chip.tst (beginTest_refused hr)).trans (testResult_tst _ 5)⟩
  · exact ⟨1, 0, (beginTest_runs h2).1⟩

theorem abortTest_running (hs : c.tst.state = 1) : (abortTest c).tst = { c.tst with state := 2, result := 4 } :=
  (congrArg Chip.tst (if_pos hs)).trans (testResult_tst c 4)

theorem abortTest_idle (hs : c.tst.state ≠ 1) : abortTest c = c := if_neg hs

end

section
variable {c d : Chip} {n errs : Nat} {b : Tri Nat} {samples : List LoopSample}

theorem loopResult_errors (hn : n < 12) (he : errs ≠ 0) : loopResult c n b errs samples = 2 := by
  simp only [loopResult, Nat.not_le.mpr hn, if_false, if_pos he]

theorem loopResult_short (hn : n < 12) (he : errs = 0) (hb : enoughBits n b = false) : loopResult c n b errs samples = 3 := by
  simp [loopResult, Nat.not_le.mpr hn, he, hb]

theorem loopResult_passes (hn : n < 12) (he : errs = 0) (hb : enoughBits n b = true) : loopResult c n b errs samples = 1 := by
  simp [loopResult, Nat.not_le.mpr hn, he, hb]

/-- An interface without a pattern passes on its samples. -/
theorem loopResult_samples (hn : 12 ≤ n) : loopResult c n b errs samples =
    if samples ≠ [] ∧ (∀ x ∈ samples, sampleAgrees c n x = true) ∧ errs = 0 then 1 else 2 := by
  simp [loopResult, hn, and_assoc]

theorem vatoutEnd_served {t : Nat} (hb : c.tst.vatBack = some t) (hok : c.tst.vatOk = true) : vatoutEnd c = testResult c 1 := by
  simp only [vatoutEnd, hb, hok, if_true]

theorem vatoutEnd_late {t : Nat} (hb : c.tst.vatBack = some t) (hok : c.tst.vatOk = false) (ht : t + 100000 < c.core.tick) :
    vatoutEnd c = testResult c 2 := by
  simp only [vatoutEnd, hb, hok, ht, Bool.false_eq_true, if_false, if_true]

end

/-! ### Pieces for the partner sent again (R511) -/

section
variable {c : Chip}

/-- A frame queued changes the Ladle alone. -/
theorem queueFrame_eq (c : Chip) (f : TxFrame) : queueFrame c f = { c with ldl := (queueFrame c f).ldl } := by
  unfold queueFrame
  split <;> rfl

theorem queueFrames_eq {α : Type} (g : α → TxFrame) (l : List α) (c : Chip) :
    l.foldl (fun c a => queueFrame c (g a)) c = { c with ldl := (l.foldl (fun c a => queueFrame c (g a)) c).ldl } := by
  induction l generalizing c with
  | nil => rfl
  | cons a l ih => rw [List.foldl_cons, ih, queueFrame_eq c]

/-- A frame sent or none: the Ladle alone changes. -/
theorem queueFrame_maybe_eq (p : Prop) [Decidable p] (c : Chip) (f : TxFrame) :
    (if p then queueFrame c f else c) = { c with ldl := (if p then queueFrame c f else c).ldl } := by
  split
  · exact queueFrame_eq c f
  · rfl

/-- Pieces sent change the Ladle's queue and what is noted of the transfer. -/
theorem sendPieces_eq (c : Chip) (p : PeerTx) (from_ : Nat) : ∃ l, sendPieces c p from_ =
    let n := imagePieces (slotAt c p.slot).held.content
    { c with ldl := l
             upd := { c.upd with peer := some { p with sent := min n (p.acked + 64), sentAt := c.core.tick,
                                                       ended := decide (min n (p.acked + 64) = n) } } } := by
  refine ⟨(sendPieces c p from_).ldl, ?_⟩
  simp only [sendPieces]
  rw [queueFrame_maybe_eq, queueFrames_eq, queueFrame_maybe_eq]
  rfl

end

/-! ### A trial confirmed (R507, R508, R510) -/

section
variable {c d : Chip} {k j : Fin 4} {f : Slot → Slot}

/-- The directory written leaves all else of UPD. -/
theorem writeDirectory_eq (u : Upd) : ∃ a b, writeDirectory u = { u with dir0 := a, dir1 := b } := by
  dsimp only [writeDirectory]
  split
  · exact ⟨_, _, rfl⟩
  · split <;> exact ⟨_, _, rfl⟩

theorem slotAt_of_upd (h : d.upd = c.upd) : slotAt d k = slotAt c k := by simp only [slotAt, h]

theorem settings_of_upd (h : d.upd = c.upd) : settings d = settings c := by simp only [settings, h]

theorem slotAt_writeDirectory (g : Upd → Upd) : slotAt (onUpd c fun u => writeDirectory (g u)) k = slotAt (onUpd c g) k := by
  obtain ⟨a, b, hw⟩ := writeDirectory_eq (g c.upd)
  simp only [slotAt, onUpd, hw]

theorem slotAt_onSlot_self : slotAt (onSlot c k f) k = f (slotAt c k) := by
  refine (slotAt_writeDirectory _).trans ?_
  fin_cases k <;> rfl

theorem slotAt_onSlot_ne (hj : j ≠ k) : slotAt (onSlot c k f) j = slotAt c j := by
  refine (slotAt_writeDirectory _).trans ?_
  fin_cases k <;> fin_cases j <;> simp_all [slotAt, onUpd]

theorem settings_onSlot : settings (onSlot c k f) = settings c := by
  obtain ⟨a, b, hw⟩ := writeDirectory_eq (match k.val with
    | 0 => { c.upd with slot0 := f c.upd.slot0 }
    | 1 => { c.upd with slot1 := f c.upd.slot1 }
    | 2 => { c.upd with slot2 := f c.upd.slot2 }
    | _ => { c.upd with slot3 := f c.upd.slot3 })
  refine (congrArg (fun u => settings { c with upd := u }) hw).trans ?_
  fin_cases k <;> rfl

theorem slotAt_putSettings (s : Settings) : slotAt (putSettings c s) k = slotAt c k := by
  cases h : usesB c.upd <;> simp [putSettings, onUpd, slotAt, h]

/-- Area B is in use where it is valid and a valid area A yields to it (R510). -/
theorem usesB_iff {u : Upd} : usesB u = true ↔ ∃ b, u.areaB = some b ∧ b.whole = true ∧
    ∀ a, u.areaA = some a → a.whole = true → b.sfmt = u.sfmt ∧ (a.sfmt ≠ u.sfmt ∨ a.seq < b.seq) := by
  cases hB : u.areaB with
  | none => simp [usesB, hB]
  | some b => cases hA : u.areaA with
    | none => simp [usesB, hA, hB]
    | some a => cases hw : a.whole <;> simp [usesB, hA, hB, hw]

theorem settings_areaB {b : Settings} (hu : usesB c.upd = true) (hb : c.upd.areaB = some b) (hw : b.whole = true) : settings c = b := by
  simp only [settings, hu, hb, hw, if_true]

theorem settings_areaA {a : Settings} (hu : usesB c.upd = false) (ha : c.upd.areaA = some a) (hw : a.whole = true) : settings c = a := by
  simp only [settings, hu, ha, hw, Bool.false_eq_true, if_false, if_true]

/-- Settings written in the format in force are read back, with the next sequence number: the area in use stays in use. -/
theorem settings_putSettings (s : Settings) (hs : s.sfmt = (settings c).sfmt) (hq : s.seq = (settings c).seq) :
    settings (putSettings c s) = { s with seq := s.seq + 1, whole := true } := by
  cases hu : usesB c.upd with
  | true =>
    have hput : putSettings c s = onUpd c fun u => { u with areaB := some { s with seq := s.seq + 1, whole := true } } := by
      simp only [putSettings, onUpd, hu, if_true]
    obtain ⟨b, hb, hw, hyield⟩ := usesB_iff.mp hu
    rw [settings_areaB hu hb hw] at hs hq
    rw [hput]
    refine settings_areaB (usesB_iff.mpr ⟨_, rfl, rfl, fun a ha hwa => ?_⟩) rfl rfl
    obtain ⟨hsf, hor⟩ := hyield a ha hwa
    exact ⟨hs.trans hsf, hor.imp_right fun hlt => Nat.lt_succ_of_lt (hq ▸ hlt)⟩
  | false =>
    have hput : putSettings c s = onUpd c fun u => { u with areaA := some { s with seq := s.seq + 1, whole := true } } := by
      simp only [putSettings, onUpd, hu, Bool.false_eq_true, if_false]
    rw [hput]
    refine settings_areaA (Bool.eq_false_iff.mpr fun hd => Bool.eq_false_iff.mp hu ?_) rfl rfl
    obtain ⟨b, hb, hw, hyield⟩ := usesB_iff.mp hd
    refine usesB_iff.mpr ⟨b, hb, hw, fun a ha hwa => ?_⟩
    rw [settings_areaA hu ha hwa] at hs hq
    obtain ⟨hsf, hor⟩ := hyield _ rfl rfl
    exact ⟨hsf, hor.imp (fun hne => hs ▸ hne) fun hlt => hq ▸ Nat.lt_of_succ_lt hlt⟩

theorem trialSlot_state (h : trialSlot c = some k) : (slotAt c k).state = 4 := by
  simpa using List.find?_some h

theorem slotIn_state {kind n : Nat} (h : slotIn c kind [n] = some j) : (slotAt c j).state = n := by
  simpa using List.find?_some h

/-- The ACTIVE slot of a kind made OLD, where there is one. -/
def formerOld (c : Chip) (kind : Nat) : Chip :=
  match slotIn c kind [7] with | some j => onSlot c j fun s => { s with state := 6 } | none => c

/-- A slot ACTIVE in place of the former one of its kind. -/
def slotActive (c : Chip) (k : Fin 4) : Chip := onSlot (formerOld c (slotKind k)) k fun s => { s with state := 7, tries := 0 }

/-- ROLLMIN raised to a confirmed firmware's ROLLBACK. -/
def rollminRaised (c : Chip) (kind rb : Nat) : Chip :=
  if kind = 1 && (settings c).rollmin < rb then putSettings c { settings c with rollmin := rb } else c

theorem confirmSlot_upd (c : Chip) (k : Fin 4) (how : Nat) : (confirmSlot c k how).upd =
    (noInterval (rollminRaised (slotActive c k) (slotKind k) (fwHead (slotAt (slotActive c k) k).held).2.2)).upd :=
  (((bump_kept _ _ _ _).trans (deviceRecord_kept _ _ _ _ _ _ _)).trans (raise_kept _ _ _)).upd

theorem slotAt_rollminRaised (kind rb : Nat) : slotAt (rollminRaised c kind rb) k = slotAt c k := by
  unfold rollminRaised
  split
  · exact slotAt_putSettings _
  · rfl

theorem rollmin_rollminRaised (rb : Nat) : (settings (rollminRaised c 1 rb)).rollmin = max (settings c).rollmin rb := by
  by_cases h : (settings c).rollmin < rb
  · simp [rollminRaised, h, settings_putSettings, Nat.max_eq_right (Nat.le_of_lt h)]
  · simp [rollminRaised, h, Nat.max_eq_left (Nat.le_of_not_lt h)]

theorem settings_formerOld (kind : Nat) : settings (formerOld c kind) = settings c := by
  unfold formerOld
  split
  · exact settings_onSlot
  · rfl

theorem slotAt_formerOld (hk : (slotAt c k).state ≠ 7) (kind : Nat) : slotAt (formerOld c kind) k = slotAt c k := by
  unfold formerOld
  split
  next j hj => exact slotAt_onSlot_ne fun he => hk (he ▸ slotIn_state hj)
  · rfl

theorem slotAt_slotActive_self (hk : (slotAt c k).state ≠ 7) :
    slotAt (slotActive c k) k = { slotAt c k with state := 7, tries := 0 } := by
  rw [slotActive, slotAt_onSlot_self, slotAt_formerOld hk]

theorem slotAt_slotActive_former (hk : (slotAt c k).state ≠ 7) (hj : slotIn c (slotKind k) [7] = some j) :
    (slotAt (slotActive c k) j).state = 6 := by
  have hne : j ≠ k := fun he => hk (he ▸ slotIn_state hj)
  rw [slotActive, slotAt_onSlot_ne hne, formerOld, hj, slotAt_onSlot_self]

theorem settings_slotActive : settings (slotActive c k) = settings c := settings_onSlot.trans (settings_formerOld _)

theorem slotAt_confirmSlot (how : Nat) : slotAt (confirmSlot c k how) j = slotAt (slotActive c k) j :=
  (slotAt_of_upd (confirmSlot_upd c k how)).trans (slotAt_rollminRaised _ _)

theorem settings_noInterval : settings (noInterval c) = settings c := rfl

theorem settings_confirmSlot (how : Nat) : settings (confirmSlot c k how) =
    settings (rollminRaised (slotActive c k) (slotKind k) (fwHead (slotAt (slotActive c k) k).held).2.2) :=
  (settings_of_upd (confirmSlot_upd c k how)).trans settings_noInterval

theorem held_confirmSlot (how : Nat) : (confirmSlot c k how).upd.held = 0 := congrArg Upd.held (confirmSlot_upd c k how)

end

/-! ### TST_CTL and TST_LBKn (R515, R518, R519) -/

section
variable {c : Chip}

/-- The starts of the tasks are set without a register. -/
theorem setTasks_regs (g : Chip → TaskId → TaskSt) (l : List TaskId) (c : Chip) :
    (l.foldl (fun c t => setTask c t (g c t)) c).regs = c.regs := by
  induction l generalizing c with
  | nil => rfl
  | cons t l ih => exact ih _

/-- A changed CRUN stops or starts the test culture, and writes no register. -/
theorem writeHook_tstCtl_regs (old : Word) : (writeHook c 0x1A0001 old).regs = c.regs := by
  have hcmp : ¬ (0x080100 ≤ 0x1A0001 ∧ 0x1A0001 < 0x080140) := by decide
  have haddr : 0x1A0001 = Reg.tstCtl.addr := by decide
  simp only [writeHook, decide_eq_true_eq, Bool.and_eq_true, if_neg hcmp, if_pos haddr]
  split
  · rfl
  · split
    · rfl
    · exact setTasks_regs _ _ _

/-- A changed depth brings nothing about beside its value. -/
theorem writeHook_tstLbk (i : Fin 15) (old : Word) : writeHook c (0x1A0010 + i.val) old = c := by
  have hcmp : ¬ (0x080100 ≤ 0x1A0010 + i.val ∧ 0x1A0010 + i.val < 0x080140) := by omega
  have haddr : 0x1A0010 + i.val ≠ Reg.tstCtl.addr := by
    have : Reg.tstCtl.addr = 0x1A0001 := by decide
    omega
  simp only [writeHook, decide_eq_true_eq, Bool.and_eq_true, if_neg hcmp, if_neg haddr]

end

/-- Settles O45: what each command leaves, from the lemmas on the test's begin, its end, the pieces, the confirmed slot and the words. -/
theorem testEffectsComplete : Obligations.TestEffectsComplete := by
  refine fun s => ⟨?start, ?status, fun h x ha => ⟨?stopRunning, ?stopIdle⟩, fun b errs smp hs => ⟨?loop, ?vatout, ?once⟩, ?pieces,
    ?confirms, fun n x hr hm hmode => ⟨?ctl, ?lbk⟩⟩
  case start =>
    rintro h x _ p rfl ha h8 harg h1 h3600 hs hm hd
    have hmode (h2 : leAt p 0 1 = 2) : (acceptMsg s.chip h).sys.mode = .maintenance :=
      hm.resolve_right fun h => by omega
    obtain ⟨st, r, htst⟩ := beginTest_held (n := h.session) (target := leAt p 1 1) (depth := leAt p 2 1) (dur := leAt p 4 4) hmode
    refine ⟨beginTest (acceptMsg s.chip h) h.session (leAt p 0 1) (leAt p 1 1) (leAt p 2 1) (leAt p 4 4),
      (exec_tstStart h p).trans (next_afterAll (tspRequest_code ha (by simp [h8]) (tstStart_begins h8 harg h1 h3600 hs hm hd))),
      congrArg Tst.testid htst, congrArg Tst.target htst, congrArg Tst.depth htst, congrArg Tst.dur htst, congrArg Tst.session htst,
      (congrArg Tst.from_ htst).trans (congrArg Core.tick acceptMsg_core), ?runs, ?depth, ?takesOut, ?refused⟩
    case runs =>
      intro h2
      obtain ⟨ht, hv, hc⟩ := beginTest_runs (c := acceptMsg s.chip h) (n := h.session) (target := leAt p 1 1) (depth := leAt p 2 1)
        (dur := leAt p 4 4) h2
      exact ⟨congrArg Tst.state ht, congrArg Tst.result ht, hv.trans acceptMsg_vats, hc.trans acceptMsg_core⟩
    case depth =>
      intro hi
      rw [hi, beginTest_loop, tstLbk_addr]
      exact congrArg (fun r => mapPut 0 r _ _) acceptMsg_regs
    case takesOut =>
      intro hi hr
      rw [hi, beginTest_takesOut (hmode hi) hr]
      exact ⟨rfl, congrArg (fun k => Core.todo k ++ _) acceptMsg_core⟩
    case refused =>
      intro hi hr
      rw [hi, beginTest_refused hr, testResult_tst]
      exact ⟨rfl, rfl⟩
  case status =>
    exact fun h x ha => ⟨_, (exec_tstStatus h []).trans (next_afterAll (tspRequest_admitted ha rfl rfl)), acceptMsg_tst, acceptMsg_core,
      acceptMsg_vats, acceptMsg_regs⟩
  case stopRunning =>
    intro hs hown
    have ht : (acceptMsg s.chip h).tst = s.chip.tst := acceptMsg_tst
    refine ⟨_, (exec_tstStop h []).trans (next_afterAll (tspRequest_code ha rfl (tstStop_aborts (.inr (by rw [ht, hown]))))), ?_⟩
    rw [abortTest_running (by rw [ht, hs]), ht]
  case stopIdle =>
    intro hs
    have hidle : (acceptMsg s.chip h).tst.state ≠ 1 := by rwa [acceptMsg_tst]
    refine ⟨_, (exec_tstStop h []).trans (next_afterAll (tspRequest_code ha rfl (tstStop_aborts (.inl hidle)))), ?_⟩
    rw [abortTest_idle hidle]
    exact ⟨acceptMsg_tst, acceptMsg_regs⟩
  case loop =>
    intro hi ht
    have htst := testResult_tst (loopCounted s.chip b errs) (loopResult s.chip s.chip.tst.target b errs smp)
    have hres := congrArg Tst.result htst
    exact ⟨_, (exec_testEnd b errs smp).trans (next_afterAll (testEnd_loop hs ht hi)), congrArg Tst.state htst, congrArg Tst.bits htst,
      congrArg Tst.errs htst, fun hn he => hres.trans (loopResult_errors hn he), fun hn he hb => hres.trans (loopResult_short hn he hb),
      fun hn he hb => hres.trans (loopResult_passes hn he hb), fun hn => hres.trans (loopResult_samples hn)⟩
  case vatout =>
    refine fun hi ht t hb => ⟨fun hok => ⟨testResult s.chip 1, ?_, testResult_tst _ 1⟩,
      fun hok hl => ⟨testResult s.chip 2, ?_, testResult_tst _ 2⟩⟩
    · exact (exec_testEnd b errs smp).trans (next_afterAll ((testEnd_vatout hs ht hi).trans (vatoutEnd_served hb hok)))
    · exact (exec_testEnd b errs smp).trans (next_afterAll ((testEnd_vatout hs ht hi).trans (vatoutEnd_late hb hok hl)))
  case once =>
    rintro (⟨hi, hv⟩ | ⟨hi, hl⟩ | hi | ⟨hi, ht⟩)
    · obtain ⟨ok, hok⟩ := Option.isSome_iff_exists.mp hv
      exact ⟨_, ok, (exec_testEnd b errs smp).trans (next_afterAll (testEnd_voter hs hi hok)), testResult_tst _ _,
        by simp [hi, hok]⟩
    · exact ⟨_, decide (s.chip.fio.lpFail = 0), (exec_testEnd b errs smp).trans (next_afterAll (testEnd_loopproof hs hi hl)),
        by simp [testResult_tst], by simp [hi]⟩
    · exact ⟨_, pagesAgree s.chip, (exec_testEnd b errs smp).trans (next_afterAll (testEnd_pages hs hi)), testResult_tst _ _,
        by simp [hi, pagesAgree]⟩
    · exact ⟨_, rindProved s.chip, (exec_testEnd b errs smp).trans (next_afterAll (testEnd_rindproof hs ht hi)), testResult_tst _ _,
        by simp [hi]⟩
  case pieces =>
    intro p hp ht
    obtain ⟨l, hl⟩ := sendPieces_eq s.chip p p.acked
    exact ⟨_, exec_pieceAckTimeout.trans (next_afterAll ((peerTimeout_repeats hp ht).trans hl)), rfl, rfl, rfl⟩
  case confirms =>
    intro k hf hk hc hh
    have h7 : (slotAt s.chip k).state ≠ 7 := by rw [trialSlot_state hk]; decide
    have hslot : slotAt (confirmSlot s.chip k 0) k = { slotAt s.chip k with state := 7, tries := 0 } :=
      (slotAt_confirmSlot 0).trans (slotAt_slotActive_self h7)
    refine ⟨_, exec_selfConfirm.trans (next_afterAll (selfConfirm_held hf hk hc hh)), by rw [hslot], by rw [hslot], by rw [hslot],
      held_confirmSlot 0, fun j hj => ?_, fun hkind => ?_⟩
    · rw [slotAt_confirmSlot, slotAt_slotActive_former h7 hj]
    · rw [settings_confirmSlot, hkind, rollmin_rollminRaised, settings_slotActive, slotAt_slotActive_self h7]
  case ctl =>
    exact fun hx => ⟨_, (exec_tstCtlWrite _ x).trans (next_afterAll (writeCommand_tstCtl hr hm hmode hx)), rfl,
      writeHook_tstCtl_regs _⟩
  case lbk =>
    intro i hd hb
    have hw := writeCommand_tstLbk hr hm hmode hd hb
    rw [writeHook_tstLbk] at hw
    exact ⟨_, (exec_tstLbkWrite _ i x).trans (next_afterAll hw), rfl, rfl, fun b hne => rawReg_set_ne _ _ _ _ hne⟩

end Sys2Proof.Machine
end
